-- ==== Sys2Proof/Word.lean ====
section
/-!
DEFINITION. Word types and the plainest arithmetic over them: the 32-bit register, the 64-bit pair, the 128-bit capability, a
byte, and reading a bit pattern as a signed number.
-/
namespace Sys2Proof

abbrev Byte := BitVec 8
abbrev Word := BitVec 32
abbrev DWord := BitVec 64
abbrev CapWord := BitVec 128

/-- The 64-bit value of a pair, low word first (R88). -/
def pairOf (lo hi : Word) : DWord := hi ++ lo

/-- Low word of a 64-bit value. -/
def loWord (x : DWord) : Word := x.extractLsb' 0 32

/-- High word of a 64-bit value. -/
def hiWord (x : DWord) : Word := x.extractLsb' 32 32

/-- The natural number of an integer that is known not to be negative. -/
def natOf (x : Int) : Nat := x.toNat

end Sys2Proof
end

