-- ==== Sys2Proof/Syntax.lean ====
section
/-!
DEFINITION. The instruction set as data: one record of fields for each encoding of spec/12 to 16 and 25, the 56 inner
operations of R187, and `Instr`, one constructor for each row of the opcode table. The rows that are no instruction words are
the machine's own events; they carry the numbers of the units they act on and are never decoded.
-/
namespace Sys2Proof

/-- The inner operations OP6 of R187, in the order of their codes 0x00 to 0x37. -/
inductive Op6 where
  | add
  | sub
  | mul
  | mulhS
  | mulhZ
  | mad
  | minS
  | minZ
  | maxS
  | maxZ
  | and
  | or
  | xor
  | andn
  | shl
  | shr
  | sar
  | rotl
  | clz
  | popc
  | brev
  | bfx
  | bfi
  | sel
  | mov
  | divS
  | divZ
  | remS
  | remZ
  | abs
  | neg
  | addsatS
  | fadd
  | fsub
  | fmul
  | ffma
  | fmin
  | fmax
  | fabs
  | fneg
  | fcpsgn
  | hadd2
  | hsub2
  | hmul2
  | hfma2
  | hmin2
  | hmax2
  | idot4
  | qdot4
  | f2i
  | i2f
  | ffloor
  | fceil
  | ftrunc
  | frint
  | fscale
deriving DecidableEq, Repr

/-- Form H fields, R184. -/
structure FormH where
  a : BitVec 4
  d : BitVec 5
  stall : BitVec 2
deriving DecidableEq, Repr

/-- Form A fields, R186. -/
structure FormA where
  g : BitVec 3
  b : BitVec 6
  a : BitVec 6
  d : BitVec 6
  stall : BitVec 3
deriving DecidableEq, Repr

/-- The head of a 64-bit instruction without its OP8, R189. -/
structure Head where
  gn : Bool
  g : BitVec 7
  y : Bool
  stall : BitVec 3
deriving DecidableEq, Repr

/-- Comparison payload, R205. -/
structure CmpP where
  h : Bool
  fmt : BitVec 2
  cc : BitVec 4
  bop : BitVec 2
  qn : Bool
  q : BitVec 7
  pd : BitVec 7
  bu : Bool
  b : BitVec 8
  a : BitVec 6
deriving DecidableEq, Repr

/-- PCOMB payload, R208. -/
structure PcombP where
  nm1 : BitVec 5
  f1 : BitVec 4
  f0 : BitVec 4
  pz : BitVec 7
  py : BitVec 7
  px : BitVec 7
  pd : BitVec 7
deriving DecidableEq, Repr

/-- PTOV and VTOP payload, R209. -/
structure PredVecP where
  sm : BitVec 8
  pb : BitVec 7
  v : BitVec 6
deriving DecidableEq, Repr

/-- PSURV payload, R210. -/
structure PsurvP where
  k : BitVec 6
  pd : BitVec 7
  d : BitVec 6
  mode : BitVec 3
  psn : Bool
  ps : BitVec 7
deriving DecidableEq, Repr

/-- SHFL payload, R211. -/
structure ShflP where
  gv : Bool
  gm : BitVec 6
  xf : Bool
  xk : BitVec 5
  xm : BitVec 3
  a : BitVec 6
  d : BitVec 6
deriving DecidableEq, Repr

/-- MATCH payload, R212. -/
structure MatchP where
  k64 : Bool
  a : BitVec 6
  d : BitVec 6
deriving DecidableEq, Repr

/-- REDUX and SCAN payload, R213. -/
structure ReduxP where
  xf : Bool
  gv : Bool
  gm : BitVec 6
  sat : Bool
  ftz : Bool
  rm : BitVec 3
  fmt : BitVec 2
  op : BitVec 4
  a : BitVec 6
  d : BitVec 6
deriving DecidableEq, Repr

/-- UMOV payload, R215. -/
structure UmovP where
  imm : BitVec 24
  dir : BitVec 2
  s : BitVec 8
  v : BitVec 6
deriving DecidableEq, Repr

/-- BRA payload, R216. -/
structure BraP where
  disp : BitVec 42
deriving DecidableEq, Repr

/-- BRX payload, R216. -/
structure BrxP where
  toff : BitVec 24
  nm1 : BitVec 12
  a : BitVec 6
deriving DecidableEq, Repr

/-- CALL payload, R216. -/
structure CallP where
  disp : BitVec 36
  d : BitVec 6
deriving DecidableEq, Repr

/-- A payload that names one register: RET, JMP (R216), CPY and its kind (R257), MXOP (R293). -/
structure RegP where
  a : BitVec 6
deriving DecidableEq, Repr

/-- SPAWN payload, R220. -/
structure SpawnP where
  disp : BitVec 29
  pd : BitVec 7
  a : BitVec 6
deriving DecidableEq, Repr

/-- WAITC payload, R222. -/
structure WaitcP where
  n : BitVec 6
  cls : BitVec 3
deriving DecidableEq, Repr

/-- BAR payload, R223. -/
structure BarP where
  s : BitVec 8
  cnt : Bool
  id : BitVec 4
deriving DecidableEq, Repr

/-- UTRAP, BKPT and MARK payload, R224. -/
structure CodeP where
  code : BitVec 16
deriving DecidableEq, Repr

/-- GETSR and SETSR payload, R225. -/
structure SrP where
  us : Bool
  s : BitVec 8
  sr : BitVec 8
  v : BitVec 6
deriving DecidableEq, Repr

/-- Form M payload, R194. -/
structure MemP where
  off : BitVec 12
  o64 : Bool
  qc : BitVec 3
  sc : BitVec 3
  t : BitVec 4
  w : BitVec 3
  c : BitVec 4
  a : BitVec 6
  d : BitVec 6
deriving DecidableEq, Repr

/-- LDA payload, R235. -/
structure LdaP where
  b : BitVec 6
  sc : BitVec 3
  o64 : Bool
  w : BitVec 3
  c : BitVec 4
  a : BitVec 6
  d : BitVec 6
deriving DecidableEq, Repr

/-- ATOM payload, R236. -/
structure AtomP where
  e : BitVec 6
  aop : BitVec 4
  ord : BitVec 2
  sc : BitVec 3
  w64 : Bool
  o64 : Bool
  sp : Bool
  c : BitVec 4
  b : BitVec 6
  a : BitVec 6
  d : BitVec 6
deriving DecidableEq, Repr

/-- RED payload, R239. -/
structure RedP where
  rfmt : BitVec 3
  rop : BitVec 3
  rel : Bool
  sc : BitVec 3
  o64 : Bool
  q : Bool
  c : BitVec 4
  b : BitVec 6
  a : BitVec 6
  d : BitVec 6
deriving DecidableEq, Repr

/-- FENCE payload, R242. -/
structure FenceP where
  sc : BitVec 3
deriving DecidableEq, Repr

/-- CNARROW payload, R244. -/
structure CnarrowP where
  sl : BitVec 8
  sb : BitVec 8
  cs : BitVec 4
  cd : BitVec 4
deriving DecidableEq, Repr

/-- CRIGHTS payload, R244. -/
structure CrightsP where
  mask : BitVec 8
  cs : BitVec 4
  cd : BitVec 4
deriving DecidableEq, Repr

/-- CINFO payload, R244. -/
structure CinfoP where
  sd : BitVec 8
  cs : BitVec 4
deriving DecidableEq, Repr

/-- Granule payload, R246. -/
structure GranP where
  pd : BitVec 7
  off : BitVec 16
  v : BitVec 6
  a : BitVec 6
deriving DecidableEq, Repr

/-- SEND payload, R253. -/
structure SendP where
  mask : BitVec 8
  s : BitVec 8
  nw : BitVec 2
  a : BitVec 6
deriving DecidableEq, Repr

/-- RECV payload, R254. -/
structure RecvP where
  pd : BitVec 7
  wait : Bool
  nw : BitVec 2
  hv : Bool
  h : BitVec 6
  d : BitVec 6
deriving DecidableEq, Repr

/-- QPOLL payload, R255. -/
structure QpollP where
  sel : BitVec 2
  d : BitVec 6
deriving DecidableEq, Repr

/-- RADD payload, R266. -/
structure RaddP where
  off : BitVec 8
  gl : Bool
  fmt : BitVec 2
  c : BitVec 4
  o64 : Bool
  g : BitVec 8
  gu : Bool
  a : BitVec 6
  b : BitVec 6
deriving DecidableEq, Repr

/-- MIGR payload, R268. -/
structure MigrP where
  fb : Bool
  live : BitVec 6
  o64 : Bool
  c : BitVec 4
  a : BitVec 6
deriving DecidableEq, Repr

/-- MIGRH payload, R268. -/
structure MigrhP where
  live : BitVec 6
deriving DecidableEq, Repr

/-- Lathe payload, R270. -/
structure LatheP where
  slot : BitVec 4
  bf : BitVec 2
  dm : Bool
  o64 : Bool
  a : BitVec 6
  s : BitVec 8
  c : BitVec 4
  d : BitVec 6
deriving DecidableEq, Repr

/-- Directory payload, R278. -/
structure DirP where
  imm : BitVec 5
  wait : Bool
  tv : Bool
  stg : BitVec 8
  st : BitVec 8
  sn : BitVec 8
  c : BitVec 4
deriving DecidableEq, Repr

/-- MXRD and MXWR payload, R301. -/
structure MxElemP where
  w4 : Bool
  m : BitVec 4
  a : BitVec 6
  d : BitVec 6
deriving DecidableEq, Repr

/-- MXCLR payload, R302. -/
structure MxclrP where
  m : BitVec 4
deriving DecidableEq, Repr

/-- MXSTAT payload, R303. -/
structure MxstatP where
  sel : BitVec 2
  d : BitVec 6
deriving DecidableEq, Repr

/-- GSYNC payload, R306. -/
structure GsyncP where
  pd : BitVec 7
deriving DecidableEq, Repr

/-- NFVOTE payload, R307. -/
structure VoteP where
  dom : Bool
  psn : Bool
  ps : BitVec 7
  pd : BitVec 7
deriving DecidableEq, Repr

/-- LSCALE payload, R308. -/
structure LscaleP where
  imm : BitVec 8
  s : BitVec 8
  iv : Bool
  acc : Bool
deriving DecidableEq, Repr

/-- Transcendental and division payload, R285. -/
structure TransP where
  sat : Bool
  ftz : Bool
  rm : BitVec 3
  fmt : BitVec 2
  b : BitVec 6
  a : BitVec 6
  d : BitVec 6
deriving DecidableEq, Repr

/-- FCVT payload, R287. -/
structure FcvtP where
  sat : Bool
  ftz : Bool
  rm : BitVec 3
  dsel : BitVec 2
  ssel : BitVec 2
  df : BitVec 4
  sf : BitVec 4
  a : BitVec 6
  d : BitVec 6
deriving DecidableEq, Repr

/-- FPACK and FUNPK payload, R288. -/
structure BlkP where
  spx : Bool
  hr : BitVec 2
  h : BitVec 6
  a : BitVec 6
  d : BitVec 6
deriving DecidableEq, Repr

/-- FCLASS payload, R291. -/
structure FclassP where
  pd : BitVec 7
  pv : Bool
  fmt : BitVec 3
  a : BitVec 6
  d : BitVec 6
deriving DecidableEq, Repr

/-- TAGSET payload, R292. -/
structure TagsetP where
  tag : BitVec 4
  d : BitVec 6
deriving DecidableEq, Repr

/-- TAGGET payload, R292. -/
structure TaggetP where
  tm : Bool
  a : BitVec 6
  d : BitVec 6
deriving DecidableEq, Repr

/-- SYSRD and SYSWR payload, R363. -/
structure SysregP where
  srn : BitVec 16
  us : Bool
  s : BitVec 8
  v : BitVec 6
deriving DecidableEq, Repr

/-- TRET and HALTB payload, R363. -/
structure FrP where
  s : BitVec 8
  fr : Bool
deriving DecidableEq, Repr

/-- TMASK payload, R363. -/
structure TmaskP where
  m : Bool
deriving DecidableEq, Repr

/-- FQPOP and PRACK payload, R363. -/
structure PopP where
  pd : BitVec 7
  s : BitVec 8
deriving DecidableEq, Repr

/-- FQRES payload, R363. -/
structure FqresP where
  bad : Bool
  pd : BitVec 7
  s : BitVec 8
deriving DecidableEq, Repr

/-- TLBINV payload, R363. -/
structure TlbinvP where
  s : BitVec 8
  mode : BitVec 2
deriving DecidableEq, Repr

/-- OBJSET payload, R363. -/
structure ObjsetP where
  st : BitVec 8
  s : BitVec 8
  op : BitVec 4
deriving DecidableEq, Repr

/-- CTXSV, CTXRS, LSQRST and LSQSAVE payload, R363. -/
structure CtxP where
  st : BitVec 8
  s : BitVec 8
  c : BitVec 4
deriving DecidableEq, Repr

/-- TRIAL payload, R363. -/
structure TrialP where
  st : BitVec 8
  s : BitVec 8
deriving DecidableEq, Repr

/-- Form X fields beside the head and OP6, R191. -/
structure OpX where
  sat : Bool
  ftz : Bool
  rm : BitVec 3
  xf : Bool
  xk : BitVec 5
  xm : BitVec 3
  bu : Bool
  b : BitVec 8
  a : BitVec 6
  d : BitVec 6
deriving DecidableEq, Repr

/-- Form I fields beside the head and OP6, R193. -/
structure OpI where
  imm : BitVec 24
  a : BitVec 6
  d : BitVec 6
deriving DecidableEq, Repr

/-- One constructor for each row of the opcode table. -/
inductive Instr where
  /-- R207. Compares integers and writes a predicate, optionally combined with another. -/
  | icmp (h : Head) (p : CmpP)
  /-- R207. Compares floats and writes a predicate. -/
  | fcmp (h : Head) (p : CmpP)
  /-- R208. Combines ranges of predicates by two-input tables under a select. -/
  | pcomb (h : Head) (p : PcombP)
  /-- R209. Packs 32 predicates into a vector register. -/
  | ptov (h : Head) (p : PredVecP)
  /-- R209. Writes masked bits of a register into predicates. -/
  | vtop (h : Head) (p : PredVecP)
  /-- R210. Surveys a predicate over the participants of the batch. -/
  | psurv (h : Head) (p : PsurvP)
  /-- R211. Delivers a value from a source lane. -/
  | shfl (h : Head) (p : ShflP)
  /-- R212. Gives each lane the mask of lanes with an equal key. -/
  | matchOp (h : Head) (p : MatchP)
  /-- R214. Reduces values over each lane's participant set. -/
  | redux (h : Head) (p : ReduxP)
  /-- R214. Computes a running reduction over each lane's set. -/
  | scan (h : Head) (p : ReduxP)
  /-- R215. Moves values between vector and uniform registers. -/
  | umov (h : Head) (p : UmovP)
  /-- R217. Branches by displacement, splitting the batch on divergence. -/
  | bra (h : Head) (p : BraP)
  /-- R218. Branches through a jump table indexed per lane. -/
  | brx (h : Head) (p : BrxP)
  /-- R217. Branches and writes the return address pair. -/
  | call (h : Head) (p : CallP)
  /-- R217. Returns to the address in a register pair. -/
  | ret (h : Head) (p : RegP)
  /-- R217. Jumps to the address in a register pair. -/
  | jmp (h : Head) (p : RegP)
  /-- R220. Creates one fibre per lane into a spawn bin. -/
  | spawn (h : Head) (p : SpawnP)
  /-- R28. Ends each active, guard-true lane's fibre. -/
  | exit (h : Head)
  /-- R32. Makes a fragment joining on its top join entry. -/
  | join (h : Head)
  /-- R221. Renews the batch's age stamp. -/
  | yieldOp (h : Head)
  /-- R225. Writes a user special register. -/
  | setsr (h : Head) (p : SrP)
  /-- R222. Waits until an async counter is at most n. -/
  | waitc (h : Head) (p : WaitcP)
  /-- R223. Arrives at a named block barrier and waits for its phase. -/
  | bar (h : Head) (p : BarP)
  /-- R224. Traps USER_TRAP with a code. -/
  | utrap (h : Head) (p : CodeP)
  /-- R224. Traps BREAKPOINT with a code. -/
  | bkpt (h : Head) (p : CodeP)
  /-- R224. Writes a trace record carrying a code. -/
  | mark (h : Head) (p : CodeP)
  /-- R225. Reads a user special register. -/
  | getsr (h : Head) (p : SrP)
  /-- R230. Loads global data through a capability, or migrates with .mig. -/
  | ld (h : Head) (p : MemP)
  /-- R231. Places global stores in the port's store FIFO. -/
  | st (h : Head) (p : MemP)
  /-- R230. Loads from the block's scratchpad, with optional full/empty wait. -/
  | ldl (h : Head) (p : MemP)
  /-- R231. Stores to the scratchpad through the store FIFO. -/
  | stl (h : Head) (p : MemP)
  /-- R234. Loads from the die's weight store. -/
  | ldw (h : Head) (p : MemP)
  /-- R235. Starts a global-to-scratchpad transaction counted through a barrier object. -/
  | lda (h : Head) (p : LdaP)
  /-- R238. Issues an atomic read-modify-write per lane. -/
  | atom (h : Head) (p : AtomP)
  /-- R240. Issues a reduce-on-write, or queries a word's reduction tag. -/
  | red (h : Head) (p : RedP)
  /-- R242. Waits until earlier accesses have performed at the scope. -/
  | fence (h : Head) (p : FenceP)
  /-- R243. Loads a tagged capability granule into a capability register. -/
  | capld (h : Head) (p : MemP)
  /-- R243. Stores a capability and sets the granule's tag. -/
  | capst (h : Head) (p : MemP)
  /-- R245. Narrows a capability's range. -/
  | cnarrow (h : Head) (p : CnarrowP)
  /-- R245. Reduces a capability's rights. -/
  | crights (h : Head) (p : CrightsP)
  /-- R245. Copies capability fields into uniform registers. -/
  | cinfo (h : Head) (p : CinfoP)
  /-- R247. Sets a granule's full/empty bit full through the FIFO. -/
  | feset (h : Head) (p : GranP)
  /-- R247. Clears a granule's full/empty bit through the FIFO. -/
  | feclr (h : Head) (p : GranP)
  /-- R247. Reads a granule's full/empty bit into a predicate. -/
  | fetest (h : Head) (p : GranP)
  /-- R248. Initialises, reinitialises or ends a barrier object. -/
  | binit (h : Head) (p : GranP)
  /-- R249. Adds an arrival to a barrier object and returns its phase. -/
  | barv (h : Head) (p : GranP)
  /-- R250. Adds expected transactions to PENDING. -/
  | bexpt (h : Head) (p : GranP)
  /-- R251. Waits until a barrier object's phase changes. -/
  | bwait (h : Head) (p : GranP)
  /-- R253. Sends lane messages to queues, the engine, the streamer, the fabric or trace. -/
  | send (h : Head) (p : SendP)
  /-- R254. Takes entries from the block part's inbound queue. -/
  | recv (h : Head) (p : RecvP)
  /-- R255. Snapshots a queue's fill level. -/
  | qpoll (h : Head) (p : QpollP)
  /-- R262. Queues a streamer copy command. -/
  | cpy (h : Head) (p : RegP)
  /-- R263. Queues a copy into gang members' scratchpads. -/
  | cpym (h : Head) (p : RegP)
  /-- R264. Queues a 2-D layout-converting copy. -/
  | cpyt (h : Head) (p : RegP)
  /-- R265. Queues a copy to or from another device. -/
  | cpyx (h : Head) (p : RegP)
  /-- R267. Sends a remote add to a gang member's scratchpad or global word. -/
  | radd (h : Head) (p : RaddP)
  /-- R268. Moves each lane to the owner of its address. -/
  | migr (h : Head) (p : MigrP)
  /-- R268. Returns each away lane home with a live set. -/
  | migrh (h : Head) (p : MigrhP)
  /-- R271. Registers a once or standing cut on a region. -/
  | cutreg (h : Head) (p : LatheP)
  /-- R272. Drops a cut and frees its region entry. -/
  | cutdrop (h : Head) (p : LatheP)
  /-- R274. Reads a bank's sweep position. -/
  | swpos (h : Head) (p : LatheP)
  /-- R273. Requests a refresh boost for a region's bank. -/
  | cutboost (h : Head) (p : LatheP)
  /-- R276. Runs a loaded row program on bound rows. -/
  | rowop (h : Head) (p : LatheP)
  /-- R275. Loads a row program into a stack's slot. -/
  | rowprog (h : Head) (p : LatheP)
  /-- R277. Reads region status and done map, freeing finished entries. -/
  | rowstat (h : Head) (p : LatheP)
  /-- R125. Opens a named tensor slot into a capability register. -/
  | nopen (h : Head) (p : DirP)
  /-- R126. Releases an open and nulls the register. -/
  | nclose (h : Head) (p : DirP)
  /-- R129. Binds or unbinds an object to a name slot. -/
  | nbind (h : Head) (p : DirP)
  /-- R129. Applies a list of bindings all or none. -/
  | nbindm (h : Head) (p : DirP)
  /-- R133. Reports a name slot's binding and open count. -/
  | ninfo (h : Head) (p : DirP)
  /-- R130. Sets the ring depth K of a name. -/
  | nring (h : Head) (p : DirP)
  /-- R281. Sets the block part's default micro-batch tag. -/
  | ntag (h : Head) (p : DirP)
  /-- R293. Reserves a matrix tile operation from a parameter block. -/
  | mxop (h : Head) (p : RegP)
  /-- R301. Reads tile register elements. -/
  | mxrd (h : Head) (p : MxElemP)
  /-- R301. Writes tile register elements. -/
  | mxwr (h : Head) (p : MxElemP)
  /-- R302. Clears a tile register to +0, tagged RAW. -/
  | mxclr (h : Head) (p : MxclrP)
  /-- R303. Reads replay counters of block, kernel or package. -/
  | mxstat (h : Head) (p : MxstatP)
  /-- R306. Contributes to the gang's sync round and waits. -/
  | gsync (h : Head) (p : GsyncP)
  /-- R152. Contributes a non-finite flag to the gang's vote round and waits. -/
  | nfvote (h : Head) (p : VoteP)
  /-- R308. Writes the gang's ESEND or the member's EACC. -/
  | lscale (h : Head) (p : LscaleP)
  /-- R286. Correctly rounded reciprocal. -/
  | frcp (h : Head) (p : TransP)
  /-- R286. Correctly rounded reciprocal square root. -/
  | frsq (h : Head) (p : TransP)
  /-- R286. Correctly rounded square root. -/
  | fsqrt (h : Head) (p : TransP)
  /-- R286. Correctly rounded base-2 exponential. -/
  | fex2 (h : Head) (p : TransP)
  /-- R286. Correctly rounded base-2 logarithm. -/
  | flg2 (h : Head) (p : TransP)
  /-- R286. Correctly rounded sin(πa). -/
  | fsin (h : Head) (p : TransP)
  /-- R286. Correctly rounded cos(πa). -/
  | fcos (h : Head) (p : TransP)
  /-- R286. Correctly rounded hyperbolic tangent. -/
  | ftanh (h : Head) (p : TransP)
  /-- R287. Converts one element between formats. -/
  | fcvt (h : Head) (p : FcvtP)
  /-- R289. Packs 32 lane values into one E2M1X block. -/
  | fpack (h : Head) (p : BlkP)
  /-- R290. Decodes an E2M1X block into the lanes. -/
  | funpk (h : Head) (p : BlkP)
  /-- R291. Classifies each element and flags non-finite ones. -/
  | fclass (h : Head) (p : FclassP)
  /-- R286. Correctly rounded division. -/
  | fdiv (h : Head) (p : TransP)
  /-- R292. Sets a register's format tag. -/
  | tagset (h : Head) (p : TagsetP)
  /-- R292. Reads a vector or tile register's tag. -/
  | tagget (h : Head) (p : TaggetP)
  /-- R364. Reads a system register. -/
  | sysrd (h : Head) (p : SysregP)
  /-- R364. Writes a system register that has no behaviour of its own. -/
  | syswr (h : Head) (p : SysregP)
  /-- R366. Leaves a handler, or resumes a logged fragment. -/
  | tret (h : Head) (p : FrP)
  /-- R366. Sets the fibre's trap mask. -/
  | tmask (h : Head) (p : TmaskP)
  /-- R367. Takes the oldest fault queue entry. -/
  | fqpop (h : Head) (p : PopP)
  /-- R368. Resolves a fault entry or declares it unresolvable. -/
  | fqres (h : Head) (p : FqresP)
  /-- R369. Invalidates port TLB entries. -/
  | tlbinv (h : Head) (p : TlbinvP)
  /-- R370. Moves, compresses or expands a page. -/
  | objset (h : Head) (p : ObjsetP)
  /-- R367. Takes the oldest reclamation record. -/
  | prack (h : Head) (p : PopP)
  /-- R371. Saves a stopped block's image and frees it. -/
  | ctxsv (h : Head) (p : CtxP)
  /-- R371. Restores a block from an image, stopped. -/
  | ctxrs (h : Head) (p : CtxP)
  /-- R371. Reinserts saved stores and lets the block issue. -/
  | lsqrst (h : Head) (p : CtxP)
  /-- R371. Removes and saves a block's unperformed stores. -/
  | lsqsave (h : Head) (p : CtxP)
  /-- R372. Kills a block, a gang or a logged fragment. -/
  | haltb (h : Head) (p : FrP)
  /-- R373. Starts or ends a causal trial delay on a kernel. -/
  | trial (h : Head) (p : TrialP)
  /-- R23. The batcher fills a free slot from loose ready fibres. -/
  | batcherFill (core : Nat) (port : Nat)
  /-- R35. A batch not issued for 4096 cycles issues next. -/
  | ageStarvationIssue (core : Nat) (port : Nat)
  /-- R42. A batch waiting 64 cycles releases its slot. -/
  | slotRelease (core : Nat) (port : Nat) (slot : Nat)
  /-- R29. A spawn bin's timer expires and it launches as a batch. -/
  | binLaunch (core : Nat) (port : Nat) (bin : Nat)
  /-- R32. A join set completes and its members pop and merge. -/
  | joinComplete (blk : Nat) (part : Nat) (id : Nat)
  /-- R28. A block with no work left retires and frees its resources. -/
  | blockRetire (blk : Nat)
  /-- R39. All members done, the gang's blocks retire together. -/
  | gangRetire (gang : Nat)
  /-- R335. All blocks retired, DONEVAL is written to the completion word. -/
  | kernelComplete (kid : Nat)
  /-- R325. The host's tail-line write is seen by the command processor. -/
  | tailLineSnoop (part : Nat) (queue : Nat) (value : Nat)
  /-- R326. A LAUNCH packet is decoded and its blocks handed to admission. -/
  | launchPacket (part : Nat) (queue : Nat)
  /-- R326. A NOP packet is checked and decoded without effect. -/
  | nopPacket (part : Nat) (queue : Nat)
  /-- R324. Writing RESUME clears HALT and resumes at HEAD. -/
  | queueResume (part : Nat) (queue : Nat) (value : Nat)
  /-- R329. A waiting queue's effective priority rises each T_age. -/
  | ageingStep (part : Nat) (queue : Nat)
  /-- R330. The admitter places a block on a cluster that fits. -/
  | admitBlock (part : Nat) (queue : Nat)
  /-- R331. The admitter places all members of a gang at once. -/
  | admitGang (part : Nat) (queue : Nat)
  /-- R382. A write of a monitor queue's TAIL signals its command processor. -/
  | monitorQueueTail (queue : Nat) (value : Nat)
  /-- R231. The head of a store FIFO performs at its destination. -/
  | storePerform (core : Nat) (port : Nat)
  /-- R230. A load's data returns and is written with its tag. -/
  | loadComplete (core : Nat) (port : Nat) (ctx : Nat)
  /-- R62. A scratchpad read completes and decrements the completion count. -/
  | ldlLaneComplete (core : Nat) (port : Nat) (ctx : Nat) (op : Nat)
  /-- R238. An atomic RMW performs at its location and returns the old value. -/
  | atomRmwPerform (core : Nat) (port : Nat) (ctx : Nat) (op : Nat)
  /-- R341. A port's translation walk ends, resolved or unresolved. -/
  | tableWalkComplete (walk : Nat)
  /-- R344. A port posts a fault queue entry once room and an identifier are free. -/
  | faultEntryPost (held : Nat)
  /-- R313. The owner lookup's result decides load, move or park. -/
  | ownerLookup (core : Nat) (port : Nat) (ctx : Nat)
  /-- R167. A destination gathers all markers and acknowledges. -/
  | flushMarkerGather (core : Nat) (port : Nat) (op : Nat)
  /-- R235. An LDA transaction writes its granule and decrements PENDING. -/
  | ldaTransaction (core : Nat) (port : Nat) (ctx : Nat) (op : Nat)
  /-- R259. The streamer writes one destination granule of a command. -/
  | copyGranuleWrite (cluster : Nat) (op : Nat)
  /-- R252. A message enters an inbound queue or operand port. -/
  | queueEntryArrival (op : Nat)
  /-- R68. A fabric operation's completion decrements fab in issue order. -/
  | fabCompletion (core : Nat) (port : Nat) (ctx : Nat)
  /-- R147. A gang RADD arrival is rescaled and added at the target bank. -/
  | raddArrival (op : Nat)
  /-- R267. A global RADD is applied at its memory port. -/
  | raddGlobalApply (core : Nat) (port : Nat)
  /-- R149. An lscale.send update reaches a member's copy. -/
  | esendUpdate (op : Nat)
  /-- R152. A vote round completes and returns its OR. -/
  | voteRoundComplete (gang : Nat)
  /-- R306. A gang sync round completes. -/
  | syncRoundComplete (gang : Nat)
  /-- R117. A billet takes a guest slot and becomes loose ready. -/
  | billetArrival (core : Nat) (port : Nat) (ctx : Nat)
  /-- R114. A move waiting T_guest for a guest slot is refused NO_GUEST. -/
  | guestWaitTimeout (core : Nat) (port : Nat) (ctx : Nat)
  /-- R119. A returning fibre writes its live set home. -/
  | billetReturn (core : Nat) (port : Nat) (ctx : Nat)
  /-- R118. An away fibre's BAR or JOIN arrival reaches home. -/
  | arrivalMessage (core : Nat) (port : Nat) (ctx : Nat)
  /-- R118. A BAR release reaches the guest core. -/
  | releaseMessage (core : Nat) (port : Nat) (ctx : Nat)
  /-- R94. The sequencer restores the next row of a bank each t_row. -/
  | rowRestore (stack : Nat) (bank : Nat)
  /-- R99. A held wait reaches T_pf and the row is applied early. -/
  | pullForward (stack : Nat) (entry : Nat) (row : Nat)
  /-- R95. A stack crosses 85 °C and W changes. -/
  | temperatureChange (stack : Nat) (hot : Nat)
  /-- R108. A row program executes one step. -/
  | rowProgramStep (stack : Nat) (bank : Nat)
  /-- R104. A hung sequencer is reset and its cuts aborted. -/
  | sequencerWatchdogReset (stack : Nat)
  /-- R109. The sequencer writes its state to reserved rows. -/
  | saveModeEnter (stack : Nat)
  /-- R109. The rows are written back and save mode ends. -/
  | saveModeRestore (stack : Nat)
  /-- R138. Rows are gathered and the entry becomes active with a shadow. -/
  | gatherComplete (cluster : Nat) (entry : Nat)
  /-- R14. A pass slot adds throttle credit and grants or idles. -/
  | passSlot (cluster : Nat)
  /-- R135. An entry without a pass for 16 384 cycles goes first. -/
  | passStarvation (cluster : Nat)
  /-- R143. A pass ends and the monitors' counts are judged. -/
  | passEnd (cluster : Nat)
  /-- R305. A hung engine is reset, its tiles invalidated and fibres marked. -/
  | engineWatchdogReset (cluster : Nat)
  /-- R378. The 1 ms power average raises or lowers throttle steps. -/
  | powerLimitStep (average : Nat)
  /-- R377. A unit idle for 1 µs enters a deeper power state. -/
  | powerStateEntry (unit : Nat)
  /-- R377. A request wakes a unit after its exit latency. -/
  | powerStateExit (unit : Nat)
  /-- R67. The weight store's refresh window moves to the next bank. -/
  | weightRefreshWindow (die : Nat)
  /-- R356. Writing PREQ with GO starts pre-emption of a block. -/
  | preq (part : Nat) (value : Nat)
  /-- R356. A masked handler reaches H cycles and stops. -/
  | handlerBudgetExpiry (core : Nat) (port : Nat) (ctx : Nat)
  /-- R365. Writing TCODE1 checks the handler code capability. -/
  | tcode1 (part : Nat) (value : Nat)
  /-- R365. Reading TLOG0 moves the oldest log record into the latch. -/
  | tlog0 (part : Nat)
  /-- R347. Writing ACK empties a block's fault record. -/
  | bfstatAck (part : Nat) (value : Nat)
  /-- R374. Writing OWNAPPLY reads and applies the ownership map. -/
  | ownapply (value : Nat)
  /-- R383. Writing FEATACCEPT sets accepted features before queues run. -/
  | feataccept (value : Nat)
  /-- R389. Writing DSTOP GO stops a block's fibres. -/
  | debugStop (part : Nat) (value : Nat)
  /-- R389. Writing DSTOP RESUME releases a stopped block. -/
  | debugResume (part : Nat) (value : Nat)
  /-- R391. Writing TRCTL EN starts tracing and clears DROPS and TAIL. -/
  | traceEnable (part : Nat) (value : Nat)
  /-- R393. Writing MODE 1 starts recording grant orders. -/
  | recordMode (part : Nat) (value : Nat)
  /-- R394. Writing MODE 2 starts replay through order gates. -/
  | replayMode (part : Nat) (value : Nat)
  /-- R388. Writing MODE 0 closes chunks and opens every gate. -/
  | modeOff (part : Nat) (value : Nat)
  /-- R317. The supervisor makes a window object over a block's scratchpad. -/
  | scratchpadWindow (blk : Nat) (obj : Nat) (wb : Nat) (wl : Nat)
  /-- R385. A failing unit is fenced and replacement requested. -/
  | unitFence (unit : Nat)
  /-- R386. Reset starts bring-up through its ordered steps. -/
  | deviceReset (what : Nat) (a : Nat) (b : Nat)
  /-- R98. A host read or write over the CXL host port reaches device memory and is performed at its port. -/
  | hostAccess (write : Nat) (addr : Nat) (n : Nat) (value : Nat)
  /-- R57. An access, window store or CPYX granule from another device of the domain arrives and is performed at this device's port. -/
  | remoteDeviceRequest (kind : Nat) (part : Nat) (obj : Nat) (off : Nat) (w : Nat) (value : Nat)
  /-- R12. A Dwefy or fabric path goes down or comes back up, changing the set of paths that spraying uses. -/
  | pathStateChange (path : Nat) (up : Nat)
  /-- R66. A supervisor streamer command writes a die's weight store, faulting if a resident kernel holds a capability for it. -/
  | weightStoreWrite (die : Nat) (off : Nat) (value : Nat)
  /-- R17. A granule of memory, scratchpad or a table comes to hold an uncorrectable data error. -/
  | uncorrectableError (addr : Nat)
  | addFormA (f : FormA)
  | subFormA (f : FormA)
  | mulFormA (f : FormA)
  | mulhSFormA (f : FormA)
  | mulhZFormA (f : FormA)
  | madFormA (f : FormA)
  | minSFormA (f : FormA)
  | minZFormA (f : FormA)
  | maxSFormA (f : FormA)
  | maxZFormA (f : FormA)
  | andFormA (f : FormA)
  | orFormA (f : FormA)
  | xorFormA (f : FormA)
  | andnFormA (f : FormA)
  | shlFormA (f : FormA)
  | shrFormA (f : FormA)
  | sarFormA (f : FormA)
  | rotlFormA (f : FormA)
  | clzFormA (f : FormA)
  | popcFormA (f : FormA)
  | brevFormA (f : FormA)
  | bfxFormA (f : FormA)
  | bfiFormA (f : FormA)
  | selFormA (f : FormA)
  | movFormA (f : FormA)
  | divSFormA (f : FormA)
  | divZFormA (f : FormA)
  | remSFormA (f : FormA)
  | remZFormA (f : FormA)
  | absFormA (f : FormA)
  | negFormA (f : FormA)
  | addsatSFormA (f : FormA)
  | faddFormA (f : FormA)
  | fsubFormA (f : FormA)
  | fmulFormA (f : FormA)
  | ffmaFormA (f : FormA)
  | fminFormA (f : FormA)
  | fmaxFormA (f : FormA)
  | fabsFormA (f : FormA)
  | fnegFormA (f : FormA)
  | fcpsgnFormA (f : FormA)
  | hadd2FormA (f : FormA)
  | hsub2FormA (f : FormA)
  | hmul2FormA (f : FormA)
  | hfma2FormA (f : FormA)
  | hmin2FormA (f : FormA)
  | hmax2FormA (f : FormA)
  | idot4FormA (f : FormA)
  | qdot4FormA (f : FormA)
  | f2iFormA (f : FormA)
  | i2fFormA (f : FormA)
  | ffloorFormA (f : FormA)
  | fceilFormA (f : FormA)
  | ftruncFormA (f : FormA)
  | frintFormA (f : FormA)
  | fscaleFormA (f : FormA)
  | movFormH (f : FormH)
  | addFormH (f : FormH)
  | subFormH (f : FormH)
  | mulFormH (f : FormH)
  | andFormH (f : FormH)
  | orFormH (f : FormH)
  | xorFormH (f : FormH)
  | shlFormH (f : FormH)
  | shrFormH (f : FormH)
  | sarFormH (f : FormH)
  | minSFormH (f : FormH)
  | maxSFormH (f : FormH)
  | faddFormH (f : FormH)
  | fmulFormH (f : FormH)
  | fminFormH (f : FormH)
  | fmaxFormH (f : FormH)
  | addFormX (h : Head) (f : OpX)
  | subFormX (h : Head) (f : OpX)
  | mulFormX (h : Head) (f : OpX)
  | mulhSFormX (h : Head) (f : OpX)
  | mulhZFormX (h : Head) (f : OpX)
  | madFormX (h : Head) (f : OpX)
  | minSFormX (h : Head) (f : OpX)
  | minZFormX (h : Head) (f : OpX)
  | maxSFormX (h : Head) (f : OpX)
  | maxZFormX (h : Head) (f : OpX)
  | andFormX (h : Head) (f : OpX)
  | orFormX (h : Head) (f : OpX)
  | xorFormX (h : Head) (f : OpX)
  | andnFormX (h : Head) (f : OpX)
  | shlFormX (h : Head) (f : OpX)
  | shrFormX (h : Head) (f : OpX)
  | sarFormX (h : Head) (f : OpX)
  | rotlFormX (h : Head) (f : OpX)
  | clzFormX (h : Head) (f : OpX)
  | popcFormX (h : Head) (f : OpX)
  | brevFormX (h : Head) (f : OpX)
  | bfxFormX (h : Head) (f : OpX)
  | bfiFormX (h : Head) (f : OpX)
  | selFormX (h : Head) (f : OpX)
  | movFormX (h : Head) (f : OpX)
  | divSFormX (h : Head) (f : OpX)
  | divZFormX (h : Head) (f : OpX)
  | remSFormX (h : Head) (f : OpX)
  | remZFormX (h : Head) (f : OpX)
  | absFormX (h : Head) (f : OpX)
  | negFormX (h : Head) (f : OpX)
  | addsatSFormX (h : Head) (f : OpX)
  | faddFormX (h : Head) (f : OpX)
  | fsubFormX (h : Head) (f : OpX)
  | fmulFormX (h : Head) (f : OpX)
  | ffmaFormX (h : Head) (f : OpX)
  | fminFormX (h : Head) (f : OpX)
  | fmaxFormX (h : Head) (f : OpX)
  | fabsFormX (h : Head) (f : OpX)
  | fnegFormX (h : Head) (f : OpX)
  | fcpsgnFormX (h : Head) (f : OpX)
  | hadd2FormX (h : Head) (f : OpX)
  | hsub2FormX (h : Head) (f : OpX)
  | hmul2FormX (h : Head) (f : OpX)
  | hfma2FormX (h : Head) (f : OpX)
  | hmin2FormX (h : Head) (f : OpX)
  | hmax2FormX (h : Head) (f : OpX)
  | idot4FormX (h : Head) (f : OpX)
  | qdot4FormX (h : Head) (f : OpX)
  | f2iFormX (h : Head) (f : OpX)
  | i2fFormX (h : Head) (f : OpX)
  | ffloorFormX (h : Head) (f : OpX)
  | fceilFormX (h : Head) (f : OpX)
  | ftruncFormX (h : Head) (f : OpX)
  | frintFormX (h : Head) (f : OpX)
  | fscaleFormX (h : Head) (f : OpX)
  | addFormI (h : Head) (f : OpI)
  | subFormI (h : Head) (f : OpI)
  | mulFormI (h : Head) (f : OpI)
  | mulhSFormI (h : Head) (f : OpI)
  | mulhZFormI (h : Head) (f : OpI)
  | madFormI (h : Head) (f : OpI)
  | minSFormI (h : Head) (f : OpI)
  | minZFormI (h : Head) (f : OpI)
  | maxSFormI (h : Head) (f : OpI)
  | maxZFormI (h : Head) (f : OpI)
  | andFormI (h : Head) (f : OpI)
  | orFormI (h : Head) (f : OpI)
  | xorFormI (h : Head) (f : OpI)
  | andnFormI (h : Head) (f : OpI)
  | shlFormI (h : Head) (f : OpI)
  | shrFormI (h : Head) (f : OpI)
  | sarFormI (h : Head) (f : OpI)
  | rotlFormI (h : Head) (f : OpI)
  | bfxFormI (h : Head) (f : OpI)
  | bfiFormI (h : Head) (f : OpI)
  | selFormI (h : Head) (f : OpI)
  | movFormI (h : Head) (f : OpI)
  | divSFormI (h : Head) (f : OpI)
  | divZFormI (h : Head) (f : OpI)
  | remSFormI (h : Head) (f : OpI)
  | remZFormI (h : Head) (f : OpI)
  | addsatSFormI (h : Head) (f : OpI)
  | fscaleFormI (h : Head) (f : OpI)
deriving DecidableEq, Repr

/-- How an instruction is encoded: its form, and its OP6 or its OP8 and payload as a number. Events have no encoding. -/
inductive View where
  | formH (o : Op6) (f : FormH)
  | formA (o : Op6) (f : FormA)
  | formX (o : Op6) (h : Head) (f : OpX)
  | formI (o : Op6) (h : Head) (f : OpI)
  | wide (op8 : Nat) (h : Head) (payload : Nat)
  | event

end Sys2Proof
end

