-- ==== Sys2Proof/Machine/Legal.lean ====
section
/-!
DEFINITION. `Instr.legal`: the conditions on an instruction's own fields that spec/12 to 16 and 25 call illegal encodings
(R197), which Sys2Proof.WellFormed names `wellFormed`. What depends on the machine's state (feature bits, levels, windows) is checked where the instruction runs.
-/
namespace Sys2Proof

/-- An even register number (R88). -/
def evenN {w : Nat} (x : BitVec w) : Bool := x.toNat % 2 == 0

/-- A register number that is a multiple of four (R194). -/
def quadN {w : Nat} (x : BitVec w) : Bool := x.toNat % 4 == 0

/-- A predicate selector that names p0 to p95 (R197). -/
def predN {w : Nat} (x : BitVec w) : Bool := decide (x.toNat < 96)

/-- `a` implies `b`, on booleans. -/
def implies (a b : Bool) : Bool := !a || b

/-- A tag value of R85; 12 to 14 are illegal. -/
def tagN (t : BitVec 4) : Bool := !(12 ≤ t.toNat && t.toNat ≤ 14)

def Head.wf (h : Head) : Bool := predN h.g

/-- The inner operation reads no B (R187, R188). -/
def Op6.noB : Op6 → Bool
  | .clz | .popc | .brev | .mov | .abs | .neg | .fabs | .fneg | .f2i | .i2f | .ffloor | .fceil | .ftrunc | .frint => true
  | _ => false

/-- The inner operation reads D as a third source (R187). -/
def Op6.readsD : Op6 → Bool
  | .mad | .bfi | .sel | .ffma | .hfma2 | .idot4 | .qdot4 => true
  | _ => false

def FormA.wf (f : FormA) (o : Op6) : Bool := implies o.noB (f.b == 0)

def OpX.wf (f : OpX) (o : Op6) : Bool :=
  decide (f.rm.toNat < 4) && decide (f.xm.toNat < 6) && implies (f.xm != 0) (!f.bu)
  && implies (f.xm == 0) (f.xk == 0 && !f.xf) && implies (!f.bu) (decide (f.b.toNat < 64))
  && implies o.noB (f.b == 0 && !f.bu && f.xm == 0)

def OpI.wf (f : OpI) (o : Op6) : Bool := implies (o == .mov) (f.a == 0)

def CmpP.wf (p : CmpP) : Bool :=
  predN p.q && predN p.pd && implies (p.bop == 0) (p.q == 0 && !p.qn) && implies (!p.bu) (decide (p.b.toNat < 64))

def CmpP.wfI (p : CmpP) : Bool :=
  p.wf && !p.h && decide (p.cc.toNat < 6) && implies (decide (2 ≤ p.fmt.toNat)) (evenN p.a && evenN p.b)

def CmpP.wfF (p : CmpP) : Bool :=
  p.wf && decide (p.cc.toNat < 14) && p.fmt != 3 && implies (p.fmt == 0) (!p.h)

def PcombP.wf (p : PcombP) : Bool :=
  decide (p.pd.toNat + p.nm1.toNat < 96) && decide (p.px.toNat + p.nm1.toNat < 96)
  && decide (p.py.toNat + p.nm1.toNat < 96) && decide (p.pz.toNat + p.nm1.toNat < 96)

def PsurvP.wf (p : PsurvP) : Bool :=
  predN p.ps && predN p.pd &&
  match p.mode.toNat with
  | 0 | 1 | 2 => p.d == 0 && (decide (p.k.toNat ≤ 32) || decide (62 ≤ p.k.toNat))
  | 3 | 4 => p.pd == 0 && p.k == 0
  | _ => false

def ShflP.wf (p : ShflP) : Bool :=
  implies (!p.gv) (p.gm == 0) && decide (1 ≤ p.xm.toNat) && decide (p.xm.toNat ≤ 5)

def ReduxP.wf (p : ReduxP) : Bool :=
  implies (!p.gv) (p.gm == 0 && !p.xf) && decide (p.rm.toNat < 4) && p.fmt != 3 && decide (p.op.toNat ≤ 10)
  && implies (decide (p.op.toNat < 8)) (p.fmt == 0)

def UmovP.wf (p : UmovP) : Bool :=
  match p.dir.toNat with
  | 0 | 1 => p.imm == 0
  | 2 => p.v == 0
  | _ => false

/-- The user special registers of R226 that are 64 bits wide. -/
def srWide (n : Nat) : Bool := n == 0x08 || n == 0x09 || n == 0x0C || n == 0x0E || n == 0x0F

def SrP.wf (p : SrP) : Bool :=
  implies (!p.us) (p.s == 0) && implies p.us (p.v == 0) && decide (p.sr.toNat ≤ 0x12)
  && implies (srWide p.sr.toNat) (evenN p.v && evenN p.s)

/-- The registers that SETSR writes (R226). -/
def srWritable (n : Nat) : Bool := n == 0x09 || n == 0x0A || n == 0x0F

/-- What R194 asks of every form M instruction whose D names vector registers. -/
def MemP.wfRegs (p : MemP) : Bool :=
  implies (p.w == 3) (evenN p.d) && implies (p.w == 4) (quadN p.d)

def MemP.wfAll (p : MemP) : Bool :=
  decide (p.sc.toNat < 6) && tagN p.t && decide (p.w.toNat < 5) && implies p.o64 (evenN p.a)

def MemP.wfSpad (p : MemP) : Bool := p.c == 0 && !p.o64 && decide (p.sc.toNat < 2)

def MemP.wfLd (p : MemP) : Bool := p.wfAll && p.wfRegs && (p.qc == 0 || p.qc == 4 || p.qc == 5 || p.qc == 6)
def MemP.wfSt (p : MemP) : Bool := p.wfAll && p.wfRegs && p.t == 0 && (p.qc == 0 || p.qc == 7)
def MemP.wfLdl (p : MemP) : Bool :=
  p.wfAll && p.wfRegs && p.wfSpad && (p.qc == 0 || p.qc == 1 || p.qc == 2 || p.qc == 6)
def MemP.wfStl (p : MemP) : Bool :=
  p.wfAll && p.wfRegs && p.wfSpad && p.t == 0 && (p.qc == 0 || p.qc == 1 || p.qc == 3 || p.qc == 7)
def MemP.wfLdw (p : MemP) : Bool := p.wfAll && p.wfRegs && p.qc == 0 && p.sc == 0
def MemP.wfCap (p : MemP) : Bool := p.wfAll && p.w == 4 && p.t == 0 && p.qc == 0 && decide (p.d.toNat < 16)

def LdaP.wf (p : LdaP) : Bool :=
  decide (p.sc.toNat < 6) && decide (2 ≤ p.w.toNat) && decide (p.w.toNat ≤ 4) && implies p.o64 (evenN p.a)

def AtomP.wf (p : AtomP) : Bool :=
  implies (p.aop != 1) (p.e == 0) && decide (p.aop.toNat ≤ 10) && !(p.aop == 10 && p.w64)
  && decide (p.sc.toNat < 6) && implies p.sp (decide (p.sc.toNat < 2) && !p.o64 && p.c == 0)
  && implies p.w64 (evenN p.d && evenN p.b && evenN p.e) && implies p.o64 (evenN p.a)

def RedP.wf (p : RedP) : Bool :=
  decide (p.rfmt.toNat < 5) && implies (decide (3 ≤ p.rop.toNat)) (p.rfmt == 0 || p.rfmt == 4)
  && implies p.q (p.rfmt == 0 && p.rop == 0 && !p.rel && p.b == 0) && implies (!p.q) (p.d == 0)
  && decide (p.sc.toNat < 6) && implies (p.rfmt == 4) (evenN p.b) && implies p.o64 (evenN p.a)

def GranP.wfPlain (p : GranP) : Bool := p.pd == 0 && p.v == 0
def GranP.wfTest (p : GranP) : Bool := predN p.pd && p.v == 0
def GranP.wfV (p : GranP) : Bool := p.pd == 0

/-- The register group of a message of NW (R253, R254). -/
def wfGroup (nw : BitVec 2) (r : BitVec 6) : Bool := nw != 3 && implies (nw == 1) (evenN r) && implies (nw == 2) (quadN r)

def SendP.wf (p : SendP) : Bool :=
  p.mask != 0 && implies (!p.mask.getLsbD 6) (p.s == 0) && wfGroup p.nw p.a

def RecvP.wf (p : RecvP) : Bool := predN p.pd && wfGroup p.nw p.d && implies (!p.hv) (p.h == 0)

def RaddP.wf (p : RaddP) : Bool :=
  p.fmt != 3 && implies p.gl (p.g == 0 && !p.gu) && implies (!p.gl) (p.c == 0 && !p.o64)
  && implies (!p.gu) (decide (p.g.toNat < 64)) && implies p.o64 (evenN p.a)

/-- The fields a lathe instruction does not use are zero (spec/15, R270). -/
def LatheP.only (p : LatheP) (slot bf dm o64 a s : Bool) : Bool :=
  implies (!slot) (p.slot == 0) && implies (!bf) (p.bf == 0) && implies (!dm) (!p.dm) && implies (!o64) (!p.o64)
  && implies (!a) (p.a == 0) && implies (!s) (p.s == 0)

/-- The fields a directory instruction does not use are zero (R278). -/
def DirP.only (p : DirP) (imm wait tv st sn c : Bool) : Bool :=
  implies (!imm) (p.imm == 0) && implies (!wait) (!p.wait) && implies (!tv) (!p.tv) && implies (!p.tv) (p.stg == 0)
  && implies (!st) (p.st == 0) && implies (!sn) (p.sn == 0) && implies (!c) (p.c == 0)

def TransP.wf (p : TransP) : Bool := decide (p.rm.toNat < 4) && p.fmt != 3 && p.b == 0
def TransP.wfDiv (p : TransP) : Bool := decide (p.rm.toNat < 4) && p.fmt != 3

/-- Elements in a container of the format code (R287). -/
def cvtElems (f : Nat) : Nat :=
  match f with
  | 0 | 5 => 1
  | 1 | 2 => 2
  | 3 | 4 | 6 => 4
  | _ => 0

def FcvtP.wf (p : FcvtP) : Bool :=
  decide (p.rm.toNat < 4) && decide (p.ssel.toNat < cvtElems p.sf.toNat) && decide (p.dsel.toNat < cvtElems p.df.toNat)

def FclassP.wf (p : FclassP) : Bool := predN p.pd && implies (!p.pv) (p.pd == 0) && decide (p.fmt.toNat < 5)

def SysregP.wf (p : SysregP) : Bool :=
  evenN p.v && evenN p.s && implies p.us (p.v == 0) && implies (!p.us) (p.s == 0)

/-- Every condition R197 puts on an instruction's own fields. Events have no fields to check. -/
def Instr.legal (i : Instr) : Bool :=
  match i with
  | .movFormH _ => true
  | .addFormH _ => true
  | .subFormH _ => true
  | .mulFormH _ => true
  | .andFormH _ => true
  | .orFormH _ => true
  | .xorFormH _ => true
  | .shlFormH _ => true
  | .shrFormH _ => true
  | .sarFormH _ => true
  | .minSFormH _ => true
  | .maxSFormH _ => true
  | .faddFormH _ => true
  | .fmulFormH _ => true
  | .fminFormH _ => true
  | .fmaxFormH _ => true
  | .addFormA f => f.wf .add
  | .subFormA f => f.wf .sub
  | .mulFormA f => f.wf .mul
  | .mulhSFormA f => f.wf .mulhS
  | .mulhZFormA f => f.wf .mulhZ
  | .madFormA f => f.wf .mad
  | .minSFormA f => f.wf .minS
  | .minZFormA f => f.wf .minZ
  | .maxSFormA f => f.wf .maxS
  | .maxZFormA f => f.wf .maxZ
  | .andFormA f => f.wf .and
  | .orFormA f => f.wf .or
  | .xorFormA f => f.wf .xor
  | .andnFormA f => f.wf .andn
  | .shlFormA f => f.wf .shl
  | .shrFormA f => f.wf .shr
  | .sarFormA f => f.wf .sar
  | .rotlFormA f => f.wf .rotl
  | .clzFormA f => f.wf .clz
  | .popcFormA f => f.wf .popc
  | .brevFormA f => f.wf .brev
  | .bfxFormA f => f.wf .bfx
  | .bfiFormA f => f.wf .bfi
  | .selFormA f => f.wf .sel
  | .movFormA f => f.wf .mov
  | .divSFormA f => f.wf .divS
  | .divZFormA f => f.wf .divZ
  | .remSFormA f => f.wf .remS
  | .remZFormA f => f.wf .remZ
  | .absFormA f => f.wf .abs
  | .negFormA f => f.wf .neg
  | .addsatSFormA f => f.wf .addsatS
  | .faddFormA f => f.wf .fadd
  | .fsubFormA f => f.wf .fsub
  | .fmulFormA f => f.wf .fmul
  | .ffmaFormA f => f.wf .ffma
  | .fminFormA f => f.wf .fmin
  | .fmaxFormA f => f.wf .fmax
  | .fabsFormA f => f.wf .fabs
  | .fnegFormA f => f.wf .fneg
  | .fcpsgnFormA f => f.wf .fcpsgn
  | .hadd2FormA f => f.wf .hadd2
  | .hsub2FormA f => f.wf .hsub2
  | .hmul2FormA f => f.wf .hmul2
  | .hfma2FormA f => f.wf .hfma2
  | .hmin2FormA f => f.wf .hmin2
  | .hmax2FormA f => f.wf .hmax2
  | .idot4FormA f => f.wf .idot4
  | .qdot4FormA f => f.wf .qdot4
  | .f2iFormA f => f.wf .f2i
  | .i2fFormA f => f.wf .i2f
  | .ffloorFormA f => f.wf .ffloor
  | .fceilFormA f => f.wf .fceil
  | .ftruncFormA f => f.wf .ftrunc
  | .frintFormA f => f.wf .frint
  | .fscaleFormA f => f.wf .fscale
  | .addFormX h f => h.wf && f.wf .add
  | .subFormX h f => h.wf && f.wf .sub
  | .mulFormX h f => h.wf && f.wf .mul
  | .mulhSFormX h f => h.wf && f.wf .mulhS
  | .mulhZFormX h f => h.wf && f.wf .mulhZ
  | .madFormX h f => h.wf && f.wf .mad
  | .minSFormX h f => h.wf && f.wf .minS
  | .minZFormX h f => h.wf && f.wf .minZ
  | .maxSFormX h f => h.wf && f.wf .maxS
  | .maxZFormX h f => h.wf && f.wf .maxZ
  | .andFormX h f => h.wf && f.wf .and
  | .orFormX h f => h.wf && f.wf .or
  | .xorFormX h f => h.wf && f.wf .xor
  | .andnFormX h f => h.wf && f.wf .andn
  | .shlFormX h f => h.wf && f.wf .shl
  | .shrFormX h f => h.wf && f.wf .shr
  | .sarFormX h f => h.wf && f.wf .sar
  | .rotlFormX h f => h.wf && f.wf .rotl
  | .clzFormX h f => h.wf && f.wf .clz
  | .popcFormX h f => h.wf && f.wf .popc
  | .brevFormX h f => h.wf && f.wf .brev
  | .bfxFormX h f => h.wf && f.wf .bfx
  | .bfiFormX h f => h.wf && f.wf .bfi
  | .selFormX h f => h.wf && f.wf .sel
  | .movFormX h f => h.wf && f.wf .mov
  | .divSFormX h f => h.wf && f.wf .divS
  | .divZFormX h f => h.wf && f.wf .divZ
  | .remSFormX h f => h.wf && f.wf .remS
  | .remZFormX h f => h.wf && f.wf .remZ
  | .absFormX h f => h.wf && f.wf .abs
  | .negFormX h f => h.wf && f.wf .neg
  | .addsatSFormX h f => h.wf && f.wf .addsatS
  | .faddFormX h f => h.wf && f.wf .fadd
  | .fsubFormX h f => h.wf && f.wf .fsub
  | .fmulFormX h f => h.wf && f.wf .fmul
  | .ffmaFormX h f => h.wf && f.wf .ffma
  | .fminFormX h f => h.wf && f.wf .fmin
  | .fmaxFormX h f => h.wf && f.wf .fmax
  | .fabsFormX h f => h.wf && f.wf .fabs
  | .fnegFormX h f => h.wf && f.wf .fneg
  | .fcpsgnFormX h f => h.wf && f.wf .fcpsgn
  | .hadd2FormX h f => h.wf && f.wf .hadd2
  | .hsub2FormX h f => h.wf && f.wf .hsub2
  | .hmul2FormX h f => h.wf && f.wf .hmul2
  | .hfma2FormX h f => h.wf && f.wf .hfma2
  | .hmin2FormX h f => h.wf && f.wf .hmin2
  | .hmax2FormX h f => h.wf && f.wf .hmax2
  | .idot4FormX h f => h.wf && f.wf .idot4
  | .qdot4FormX h f => h.wf && f.wf .qdot4
  | .f2iFormX h f => h.wf && f.wf .f2i
  | .i2fFormX h f => h.wf && f.wf .i2f
  | .ffloorFormX h f => h.wf && f.wf .ffloor
  | .fceilFormX h f => h.wf && f.wf .fceil
  | .ftruncFormX h f => h.wf && f.wf .ftrunc
  | .frintFormX h f => h.wf && f.wf .frint
  | .fscaleFormX h f => h.wf && f.wf .fscale
  | .addFormI h f => h.wf && f.wf .add
  | .subFormI h f => h.wf && f.wf .sub
  | .mulFormI h f => h.wf && f.wf .mul
  | .mulhSFormI h f => h.wf && f.wf .mulhS
  | .mulhZFormI h f => h.wf && f.wf .mulhZ
  | .madFormI h f => h.wf && f.wf .mad
  | .minSFormI h f => h.wf && f.wf .minS
  | .minZFormI h f => h.wf && f.wf .minZ
  | .maxSFormI h f => h.wf && f.wf .maxS
  | .maxZFormI h f => h.wf && f.wf .maxZ
  | .andFormI h f => h.wf && f.wf .and
  | .orFormI h f => h.wf && f.wf .or
  | .xorFormI h f => h.wf && f.wf .xor
  | .andnFormI h f => h.wf && f.wf .andn
  | .shlFormI h f => h.wf && f.wf .shl
  | .shrFormI h f => h.wf && f.wf .shr
  | .sarFormI h f => h.wf && f.wf .sar
  | .rotlFormI h f => h.wf && f.wf .rotl
  | .bfxFormI h f => h.wf && f.wf .bfx
  | .bfiFormI h f => h.wf && f.wf .bfi
  | .selFormI h f => h.wf && f.wf .sel
  | .movFormI h f => h.wf && f.wf .mov
  | .divSFormI h f => h.wf && f.wf .divS
  | .divZFormI h f => h.wf && f.wf .divZ
  | .remSFormI h f => h.wf && f.wf .remS
  | .remZFormI h f => h.wf && f.wf .remZ
  | .addsatSFormI h f => h.wf && f.wf .addsatS
  | .fscaleFormI h f => h.wf && f.wf .fscale
  | .batcherFill _ _ => true
  | .ageStarvationIssue _ _ => true
  | .slotRelease _ _ _ => true
  | .binLaunch _ _ _ => true
  | .joinComplete _ _ _ => true
  | .blockRetire _ => true
  | .gangRetire _ => true
  | .kernelComplete _ => true
  | .tailLineSnoop _ _ _ => true
  | .launchPacket _ _ => true
  | .nopPacket _ _ => true
  | .queueResume _ _ _ => true
  | .ageingStep _ _ => true
  | .admitBlock _ _ => true
  | .admitGang _ _ => true
  | .monitorQueueTail _ _ => true
  | .storePerform _ _ => true
  | .loadComplete _ _ _ => true
  | .ldlLaneComplete _ _ _ _ => true
  | .atomRmwPerform _ _ _ _ => true
  | .tableWalkComplete _ => true
  | .faultEntryPost _ => true
  | .ownerLookup _ _ _ => true
  | .flushMarkerGather _ _ _ => true
  | .ldaTransaction _ _ _ _ => true
  | .copyGranuleWrite _ _ => true
  | .queueEntryArrival _ => true
  | .fabCompletion _ _ _ => true
  | .raddArrival _ => true
  | .raddGlobalApply _ _ => true
  | .esendUpdate _ => true
  | .voteRoundComplete _ => true
  | .syncRoundComplete _ => true
  | .billetArrival _ _ _ => true
  | .guestWaitTimeout _ _ _ => true
  | .billetReturn _ _ _ => true
  | .arrivalMessage _ _ _ => true
  | .releaseMessage _ _ _ => true
  | .rowRestore _ _ => true
  | .pullForward _ _ _ => true
  | .temperatureChange _ _ => true
  | .rowProgramStep _ _ => true
  | .sequencerWatchdogReset _ => true
  | .saveModeEnter _ => true
  | .saveModeRestore _ => true
  | .gatherComplete _ _ => true
  | .passSlot _ => true
  | .passStarvation _ => true
  | .passEnd _ => true
  | .engineWatchdogReset _ => true
  | .powerLimitStep _ => true
  | .powerStateEntry _ => true
  | .powerStateExit _ => true
  | .weightRefreshWindow _ => true
  | .preq _ _ => true
  | .handlerBudgetExpiry _ _ _ => true
  | .tcode1 _ _ => true
  | .tlog0 _ => true
  | .bfstatAck _ _ => true
  | .ownapply _ => true
  | .feataccept _ => true
  | .debugStop _ _ => true
  | .debugResume _ _ => true
  | .traceEnable _ _ => true
  | .recordMode _ _ => true
  | .replayMode _ _ => true
  | .modeOff _ _ => true
  | .scratchpadWindow _ _ _ _ => true
  | .unitFence _ => true
  | .deviceReset _ _ _ => true
  | .hostAccess _ _ _ _ => true
  | .remoteDeviceRequest _ _ _ _ _ _ => true
  | .pathStateChange _ _ => true
  | .weightStoreWrite _ _ _ => true
  | .uncorrectableError _ => true
  | .icmp h p => h.wf && p.wfI
  | .fcmp h p => h.wf && p.wfF
  | .pcomb h p => h.wf && p.wf
  | .ptov h p => h.wf && p.sm == 0 && decide (p.pb.toNat ≤ 64)
  | .vtop h p => h.wf && decide (p.pb.toNat ≤ 64)
  | .psurv h p => h.wf && p.wf
  | .shfl h p => h.wf && p.wf
  | .matchOp h p => h.wf && implies p.k64 (evenN p.a)
  | .redux h p => h.wf && p.wf
  | .scan h p => h.wf && p.wf
  | .umov h p => h.wf && p.wf
  | .call h p => h.wf && evenN p.d
  | .ret h p => h.wf && evenN p.a
  | .jmp h p => h.wf && evenN p.a
  | .spawn h p => h.wf && predN p.pd
  | .join h => h.wf && h.g == 0 && !h.gn
  | .waitc h p => h.wf && decide (p.cls.toNat < 5)
  | .bar h p => h.wf && implies (!p.cnt) (p.s == 0)
  | .getsr h p => h.wf && p.wf
  | .setsr h p => h.wf && p.wf && srWritable p.sr.toNat
  | .ld h p => h.wf && p.wfLd
  | .st h p => h.wf && p.wfSt
  | .ldl h p => h.wf && p.wfLdl
  | .stl h p => h.wf && p.wfStl
  | .ldw h p => h.wf && p.wfLdw
  | .capld h p => h.wf && p.wfCap
  | .capst h p => h.wf && p.wfCap
  | .lda h p => h.wf && p.wf
  | .atom h p => h.wf && p.wf
  | .red h p => h.wf && p.wf
  | .fence h p => h.wf && decide (p.sc.toNat < 6)
  | .cnarrow h p => h.wf && evenN p.sl && evenN p.sb
  | .cinfo h p => h.wf && quadN p.sd
  | .feset h p => h.wf && p.wfPlain
  | .feclr h p => h.wf && p.wfPlain
  | .fetest h p => h.wf && p.wfTest
  | .binit h p => h.wf && p.wfV
  | .barv h p => h.wf && p.wfV
  | .bexpt h p => h.wf && p.wfV
  | .bwait h p => h.wf && p.wfV
  | .send h p => h.wf && p.wf
  | .recv h p => h.wf && p.wf
  | .radd h p => h.wf && p.wf
  | .migr h p => h.wf && implies p.o64 (evenN p.a)
  | .cutreg h p => h.wf && p.only false false false false false true && quadN p.s
  | .cutdrop h p => h.wf && p.only false false false false false false
  | .swpos h p => h.wf && p.only false false false true true false && implies p.o64 (evenN p.a)
  | .cutboost h p => h.wf && p.only false true false false false false && p.bf != 3
  | .rowop h p => h.wf && p.only false false false false false true && quadN p.s
  | .rowprog h p => h.wf && p.only true false false false true false
  | .rowstat h p => h.wf && p.only false false true false p.dm false && quadN p.d
  | .nopen h p => h.wf && p.only false true true true true true && evenN p.sn
  | .nclose h p => h.wf && p.only false false false false false true
  | .nbind h p => h.wf && p.only true false false true true true && decide (p.imm.toNat ≤ 7) && evenN p.sn
  | .nbindm h p => h.wf && p.only true false false true true true && decide (1 ≤ p.imm.toNat) && decide (p.imm.toNat ≤ 16) && evenN p.sn
  | .ninfo h p => h.wf && p.only false false true true true false && evenN p.sn && decide (p.st.toNat ≤ 253)
  | .nring h p => h.wf && p.only true false false true true false && decide (1 ≤ p.imm.toNat) && decide (p.imm.toNat ≤ 8) && evenN p.sn
  | .ntag h p => h.wf && p.only false false false false true false
  | .mxrd h p => h.wf && implies p.w4 (quadN p.d)
  | .mxwr h p => h.wf && implies p.w4 (quadN p.d)
  | .mxstat h p => h.wf && p.sel != 3 && evenN p.d
  | .gsync h p => h.wf && predN p.pd
  | .nfvote h p => h.wf && predN p.ps && predN p.pd
  | .lscale h p => h.wf && implies p.iv (p.s == 0) && implies (!p.iv) (p.imm == 0)
  | .frcp h p => h.wf && p.wf
  | .frsq h p => h.wf && p.wf
  | .fsqrt h p => h.wf && p.wf
  | .fex2 h p => h.wf && p.wf
  | .flg2 h p => h.wf && p.wf
  | .fsin h p => h.wf && p.wf
  | .fcos h p => h.wf && p.wf
  | .ftanh h p => h.wf && p.wf
  | .fdiv h p => h.wf && p.wfDiv
  | .fcvt h p => h.wf && p.wf
  | .fpack h p => h.wf && quadN p.d
  | .funpk h p => h.wf && quadN p.a && !p.spx && p.hr == 0
  | .fclass h p => h.wf && p.wf
  | .tagset h p => h.wf && tagN p.tag
  | .tagget h p => h.wf && implies p.tm (decide (p.a.toNat < 16))
  | .sysrd h p => h.wf && p.wf
  | .syswr h p => h.wf && p.wf
  | .tret h p => h.wf && evenN p.s && implies (!p.fr) (p.s == 0)
  | .haltb h p => h.wf && evenN p.s
  | .fqpop h p => h.wf && predN p.pd && p.s.toNat % 8 == 0
  | .fqres h p => h.wf && predN p.pd
  | .prack h p => h.wf && predN p.pd && quadN p.s
  | .tlbinv h p => h.wf && evenN p.s && p.mode != 3 && implies (p.mode == 0) (p.s == 0)
  | .objset h p => h.wf && quadN p.s && decide (p.op.toNat < 3)
  | .ctxsv h p => h.wf && quadN p.s
  | .ctxrs h p => h.wf && quadN p.s
  | .lsqrst h p => h.wf && quadN p.s
  | .lsqsave h p => h.wf && quadN p.s
  | .trial h p => h.wf && quadN p.s
  | .bra h _ => h.wf
  | .brx h _ => h.wf
  | .exit h => h.wf
  | .yieldOp h => h.wf
  | .utrap h _ => h.wf
  | .bkpt h _ => h.wf
  | .mark h _ => h.wf
  | .crights h _ => h.wf
  | .qpoll h _ => h.wf
  | .cpy h _ => h.wf
  | .cpym h _ => h.wf
  | .cpyt h _ => h.wf
  | .cpyx h _ => h.wf
  | .migrh h _ => h.wf
  | .mxop h _ => h.wf
  | .mxclr h _ => h.wf
  | .tmask h _ => h.wf

end Sys2Proof
end

