-- ==== Sys2Proof/WellFormed.lean ====
section
/-!
DEFINITION. Which terms of `Instr` are instructions: those whose fields pass every check of R197 that looks at the encoding
alone. `Instr.legal` lists the checks; the decoder answers well-formed instructions only.
-/
namespace Sys2Proof

/-- An instruction the decoder may answer (R197). -/
abbrev Instr.wellFormed (i : Instr) : Bool := i.legal

end Sys2Proof
end

