-- ==== Sys2Proof/Decode.lean ====
section
/-!
DEFINITION. Bits to instructions and back: the little-endian halfwords of R183, the forms of R184 to R195, the OP8 map of R196
and every payload of spec/13 to 16 and 25. `decode` is total: it answers an instruction that is well formed and whose encoding
is the very bits it read, or the name of the reason it refuses them. The definitions that build an `Instr` are marked
noncomputable because Lean's compiled code cannot build the constructors of a type past its 245th that carry fields; the
kernel evaluates them all.
-/
namespace Sys2Proof

/-- Field of `w` bits at bit `lo` of the number `n`. -/
def fld (w lo n : Nat) : BitVec w := BitVec.ofNat w (n / 2 ^ lo)

/-- The one bit at position `lo` of `n`. -/
def bitAt (lo n : Nat) : Bool := n / 2 ^ lo % 2 == 1

def CmpP.ofBits (n : Nat) : CmpP :=
  { h := bitAt 38 n, fmt := fld 2 36 n, cc := fld 4 32 n, bop := fld 2 30 n, qn := bitAt 29 n, q := fld 7 22 n, pd := fld 7 15 n, bu := bitAt 14 n, b := fld 8 6 n, a := fld 6 0 n }

def CmpP.toBits (x : CmpP) : Nat :=
  x.a.toNat + x.b.toNat * 64 + x.bu.toNat * 16384 + x.pd.toNat * 32768 + x.q.toNat * 4194304 + x.qn.toNat * 536870912 + x.bop.toNat * 1073741824 + x.cc.toNat * 4294967296 + x.fmt.toNat * 68719476736 + x.h.toNat * 274877906944

def PcombP.ofBits (n : Nat) : PcombP :=
  { nm1 := fld 5 36 n, f1 := fld 4 32 n, f0 := fld 4 28 n, pz := fld 7 21 n, py := fld 7 14 n, px := fld 7 7 n, pd := fld 7 0 n }

def PcombP.toBits (x : PcombP) : Nat :=
  x.pd.toNat + x.px.toNat * 128 + x.py.toNat * 16384 + x.pz.toNat * 2097152 + x.f0.toNat * 268435456 + x.f1.toNat * 4294967296 + x.nm1.toNat * 68719476736

def PredVecP.ofBits (n : Nat) : PredVecP :=
  { sm := fld 8 13 n, pb := fld 7 6 n, v := fld 6 0 n }

def PredVecP.toBits (x : PredVecP) : Nat :=
  x.v.toNat + x.pb.toNat * 64 + x.sm.toNat * 8192

def PsurvP.ofBits (n : Nat) : PsurvP :=
  { k := fld 6 24 n, pd := fld 7 17 n, d := fld 6 11 n, mode := fld 3 8 n, psn := bitAt 7 n, ps := fld 7 0 n }

def PsurvP.toBits (x : PsurvP) : Nat :=
  x.ps.toNat + x.psn.toNat * 128 + x.mode.toNat * 256 + x.d.toNat * 2048 + x.pd.toNat * 131072 + x.k.toNat * 16777216

def ShflP.ofBits (n : Nat) : ShflP :=
  { gv := bitAt 27 n, gm := fld 6 21 n, xf := bitAt 20 n, xk := fld 5 15 n, xm := fld 3 12 n, a := fld 6 6 n, d := fld 6 0 n }

def ShflP.toBits (x : ShflP) : Nat :=
  x.d.toNat + x.a.toNat * 64 + x.xm.toNat * 4096 + x.xk.toNat * 32768 + x.xf.toNat * 1048576 + x.gm.toNat * 2097152 + x.gv.toNat * 134217728

def MatchP.ofBits (n : Nat) : MatchP :=
  { k64 := bitAt 12 n, a := fld 6 6 n, d := fld 6 0 n }

def MatchP.toBits (x : MatchP) : Nat :=
  x.d.toNat + x.a.toNat * 64 + x.k64.toNat * 4096

def ReduxP.ofBits (n : Nat) : ReduxP :=
  { xf := bitAt 30 n, gv := bitAt 29 n, gm := fld 6 23 n, sat := bitAt 22 n, ftz := bitAt 21 n, rm := fld 3 18 n, fmt := fld 2 16 n, op := fld 4 12 n, a := fld 6 6 n, d := fld 6 0 n }

def ReduxP.toBits (x : ReduxP) : Nat :=
  x.d.toNat + x.a.toNat * 64 + x.op.toNat * 4096 + x.fmt.toNat * 65536 + x.rm.toNat * 262144 + x.ftz.toNat * 2097152 + x.sat.toNat * 4194304 + x.gm.toNat * 8388608 + x.gv.toNat * 536870912 + x.xf.toNat * 1073741824

def UmovP.ofBits (n : Nat) : UmovP :=
  { imm := fld 24 18 n, dir := fld 2 14 n, s := fld 8 6 n, v := fld 6 0 n }

def UmovP.toBits (x : UmovP) : Nat :=
  x.v.toNat + x.s.toNat * 64 + x.dir.toNat * 16384 + x.imm.toNat * 262144

def BraP.ofBits (n : Nat) : BraP :=
  { disp := fld 42 0 n }

def BraP.toBits (x : BraP) : Nat :=
  x.disp.toNat

def BrxP.ofBits (n : Nat) : BrxP :=
  { toff := fld 24 18 n, nm1 := fld 12 6 n, a := fld 6 0 n }

def BrxP.toBits (x : BrxP) : Nat :=
  x.a.toNat + x.nm1.toNat * 64 + x.toff.toNat * 262144

def CallP.ofBits (n : Nat) : CallP :=
  { disp := fld 36 6 n, d := fld 6 0 n }

def CallP.toBits (x : CallP) : Nat :=
  x.d.toNat + x.disp.toNat * 64

def RegP.ofBits (n : Nat) : RegP :=
  { a := fld 6 0 n }

def RegP.toBits (x : RegP) : Nat :=
  x.a.toNat

def SpawnP.ofBits (n : Nat) : SpawnP :=
  { disp := fld 29 13 n, pd := fld 7 6 n, a := fld 6 0 n }

def SpawnP.toBits (x : SpawnP) : Nat :=
  x.a.toNat + x.pd.toNat * 64 + x.disp.toNat * 8192

def WaitcP.ofBits (n : Nat) : WaitcP :=
  { n := fld 6 3 n, cls := fld 3 0 n }

def WaitcP.toBits (x : WaitcP) : Nat :=
  x.cls.toNat + x.n.toNat * 8

def BarP.ofBits (n : Nat) : BarP :=
  { s := fld 8 5 n, cnt := bitAt 4 n, id := fld 4 0 n }

def BarP.toBits (x : BarP) : Nat :=
  x.id.toNat + x.cnt.toNat * 16 + x.s.toNat * 32

def CodeP.ofBits (n : Nat) : CodeP :=
  { code := fld 16 0 n }

def CodeP.toBits (x : CodeP) : Nat :=
  x.code.toNat

def SrP.ofBits (n : Nat) : SrP :=
  { us := bitAt 22 n, s := fld 8 14 n, sr := fld 8 6 n, v := fld 6 0 n }

def SrP.toBits (x : SrP) : Nat :=
  x.v.toNat + x.sr.toNat * 64 + x.s.toNat * 16384 + x.us.toNat * 4194304

def MemP.ofBits (n : Nat) : MemP :=
  { off := fld 12 30 n, o64 := bitAt 29 n, qc := fld 3 26 n, sc := fld 3 23 n, t := fld 4 19 n, w := fld 3 16 n, c := fld 4 12 n, a := fld 6 6 n, d := fld 6 0 n }

def MemP.toBits (x : MemP) : Nat :=
  x.d.toNat + x.a.toNat * 64 + x.c.toNat * 4096 + x.w.toNat * 65536 + x.t.toNat * 524288 + x.sc.toNat * 8388608 + x.qc.toNat * 67108864 + x.o64.toNat * 536870912 + x.off.toNat * 1073741824

def LdaP.ofBits (n : Nat) : LdaP :=
  { b := fld 6 23 n, sc := fld 3 20 n, o64 := bitAt 19 n, w := fld 3 16 n, c := fld 4 12 n, a := fld 6 6 n, d := fld 6 0 n }

def LdaP.toBits (x : LdaP) : Nat :=
  x.d.toNat + x.a.toNat * 64 + x.c.toNat * 4096 + x.w.toNat * 65536 + x.o64.toNat * 524288 + x.sc.toNat * 1048576 + x.b.toNat * 8388608

def AtomP.ofBits (n : Nat) : AtomP :=
  { e := fld 6 34 n, aop := fld 4 30 n, ord := fld 2 28 n, sc := fld 3 25 n, w64 := bitAt 24 n, o64 := bitAt 23 n, sp := bitAt 22 n, c := fld 4 18 n, b := fld 6 12 n, a := fld 6 6 n, d := fld 6 0 n }

def AtomP.toBits (x : AtomP) : Nat :=
  x.d.toNat + x.a.toNat * 64 + x.b.toNat * 4096 + x.c.toNat * 262144 + x.sp.toNat * 4194304 + x.o64.toNat * 8388608 + x.w64.toNat * 16777216 + x.sc.toNat * 33554432 + x.ord.toNat * 268435456 + x.aop.toNat * 1073741824 + x.e.toNat * 17179869184

def RedP.ofBits (n : Nat) : RedP :=
  { rfmt := fld 3 31 n, rop := fld 3 28 n, rel := bitAt 27 n, sc := fld 3 24 n, o64 := bitAt 23 n, q := bitAt 22 n, c := fld 4 18 n, b := fld 6 12 n, a := fld 6 6 n, d := fld 6 0 n }

def RedP.toBits (x : RedP) : Nat :=
  x.d.toNat + x.a.toNat * 64 + x.b.toNat * 4096 + x.c.toNat * 262144 + x.q.toNat * 4194304 + x.o64.toNat * 8388608 + x.sc.toNat * 16777216 + x.rel.toNat * 134217728 + x.rop.toNat * 268435456 + x.rfmt.toNat * 2147483648

def FenceP.ofBits (n : Nat) : FenceP :=
  { sc := fld 3 0 n }

def FenceP.toBits (x : FenceP) : Nat :=
  x.sc.toNat

def CnarrowP.ofBits (n : Nat) : CnarrowP :=
  { sl := fld 8 16 n, sb := fld 8 8 n, cs := fld 4 4 n, cd := fld 4 0 n }

def CnarrowP.toBits (x : CnarrowP) : Nat :=
  x.cd.toNat + x.cs.toNat * 16 + x.sb.toNat * 256 + x.sl.toNat * 65536

def CrightsP.ofBits (n : Nat) : CrightsP :=
  { mask := fld 8 8 n, cs := fld 4 4 n, cd := fld 4 0 n }

def CrightsP.toBits (x : CrightsP) : Nat :=
  x.cd.toNat + x.cs.toNat * 16 + x.mask.toNat * 256

def CinfoP.ofBits (n : Nat) : CinfoP :=
  { sd := fld 8 4 n, cs := fld 4 0 n }

def CinfoP.toBits (x : CinfoP) : Nat :=
  x.cs.toNat + x.sd.toNat * 16

def GranP.ofBits (n : Nat) : GranP :=
  { pd := fld 7 28 n, off := fld 16 12 n, v := fld 6 6 n, a := fld 6 0 n }

def GranP.toBits (x : GranP) : Nat :=
  x.a.toNat + x.v.toNat * 64 + x.off.toNat * 4096 + x.pd.toNat * 268435456

def SendP.ofBits (n : Nat) : SendP :=
  { mask := fld 8 16 n, s := fld 8 8 n, nw := fld 2 6 n, a := fld 6 0 n }

def SendP.toBits (x : SendP) : Nat :=
  x.a.toNat + x.nw.toNat * 64 + x.s.toNat * 256 + x.mask.toNat * 65536

def RecvP.ofBits (n : Nat) : RecvP :=
  { pd := fld 7 16 n, wait := bitAt 15 n, nw := fld 2 13 n, hv := bitAt 12 n, h := fld 6 6 n, d := fld 6 0 n }

def RecvP.toBits (x : RecvP) : Nat :=
  x.d.toNat + x.h.toNat * 64 + x.hv.toNat * 4096 + x.nw.toNat * 8192 + x.wait.toNat * 32768 + x.pd.toNat * 65536

def QpollP.ofBits (n : Nat) : QpollP :=
  { sel := fld 2 6 n, d := fld 6 0 n }

def QpollP.toBits (x : QpollP) : Nat :=
  x.d.toNat + x.sel.toNat * 64

def RaddP.ofBits (n : Nat) : RaddP :=
  { off := fld 8 34 n, gl := bitAt 33 n, fmt := fld 2 31 n, c := fld 4 27 n, o64 := bitAt 26 n, g := fld 8 18 n, gu := bitAt 17 n, a := fld 6 6 n, b := fld 6 0 n }

def RaddP.toBits (x : RaddP) : Nat :=
  x.b.toNat + x.a.toNat * 64 + x.gu.toNat * 131072 + x.g.toNat * 262144 + x.o64.toNat * 67108864 + x.c.toNat * 134217728 + x.fmt.toNat * 2147483648 + x.gl.toNat * 8589934592 + x.off.toNat * 17179869184

def MigrP.ofBits (n : Nat) : MigrP :=
  { fb := bitAt 17 n, live := fld 6 11 n, o64 := bitAt 10 n, c := fld 4 6 n, a := fld 6 0 n }

def MigrP.toBits (x : MigrP) : Nat :=
  x.a.toNat + x.c.toNat * 64 + x.o64.toNat * 1024 + x.live.toNat * 2048 + x.fb.toNat * 131072

def MigrhP.ofBits (n : Nat) : MigrhP :=
  { live := fld 6 0 n }

def MigrhP.toBits (x : MigrhP) : Nat :=
  x.live.toNat

def LatheP.ofBits (n : Nat) : LatheP :=
  { slot := fld 4 28 n, bf := fld 2 26 n, dm := bitAt 25 n, o64 := bitAt 24 n, a := fld 6 18 n, s := fld 8 10 n, c := fld 4 6 n, d := fld 6 0 n }

def LatheP.toBits (x : LatheP) : Nat :=
  x.d.toNat + x.c.toNat * 64 + x.s.toNat * 1024 + x.a.toNat * 262144 + x.o64.toNat * 16777216 + x.dm.toNat * 33554432 + x.bf.toNat * 67108864 + x.slot.toNat * 268435456

def DirP.ofBits (n : Nat) : DirP :=
  { imm := fld 5 30 n, wait := bitAt 29 n, tv := bitAt 28 n, stg := fld 8 20 n, st := fld 8 12 n, sn := fld 8 4 n, c := fld 4 0 n }

def DirP.toBits (x : DirP) : Nat :=
  x.c.toNat + x.sn.toNat * 16 + x.st.toNat * 4096 + x.stg.toNat * 1048576 + x.tv.toNat * 268435456 + x.wait.toNat * 536870912 + x.imm.toNat * 1073741824

def MxElemP.ofBits (n : Nat) : MxElemP :=
  { w4 := bitAt 16 n, m := fld 4 12 n, a := fld 6 6 n, d := fld 6 0 n }

def MxElemP.toBits (x : MxElemP) : Nat :=
  x.d.toNat + x.a.toNat * 64 + x.m.toNat * 4096 + x.w4.toNat * 65536

def MxclrP.ofBits (n : Nat) : MxclrP :=
  { m := fld 4 0 n }

def MxclrP.toBits (x : MxclrP) : Nat :=
  x.m.toNat

def MxstatP.ofBits (n : Nat) : MxstatP :=
  { sel := fld 2 6 n, d := fld 6 0 n }

def MxstatP.toBits (x : MxstatP) : Nat :=
  x.d.toNat + x.sel.toNat * 64

def GsyncP.ofBits (n : Nat) : GsyncP :=
  { pd := fld 7 0 n }

def GsyncP.toBits (x : GsyncP) : Nat :=
  x.pd.toNat

def VoteP.ofBits (n : Nat) : VoteP :=
  { dom := bitAt 15 n, psn := bitAt 14 n, ps := fld 7 7 n, pd := fld 7 0 n }

def VoteP.toBits (x : VoteP) : Nat :=
  x.pd.toNat + x.ps.toNat * 128 + x.psn.toNat * 16384 + x.dom.toNat * 32768

def LscaleP.ofBits (n : Nat) : LscaleP :=
  { imm := fld 8 10 n, s := fld 8 2 n, iv := bitAt 1 n, acc := bitAt 0 n }

def LscaleP.toBits (x : LscaleP) : Nat :=
  x.acc.toNat + x.iv.toNat * 2 + x.s.toNat * 4 + x.imm.toNat * 1024

def TransP.ofBits (n : Nat) : TransP :=
  { sat := bitAt 26 n, ftz := bitAt 25 n, rm := fld 3 22 n, fmt := fld 2 20 n, b := fld 6 12 n, a := fld 6 6 n, d := fld 6 0 n }

def TransP.toBits (x : TransP) : Nat :=
  x.d.toNat + x.a.toNat * 64 + x.b.toNat * 4096 + x.fmt.toNat * 1048576 + x.rm.toNat * 4194304 + x.ftz.toNat * 33554432 + x.sat.toNat * 67108864

def FcvtP.ofBits (n : Nat) : FcvtP :=
  { sat := bitAt 29 n, ftz := bitAt 28 n, rm := fld 3 25 n, dsel := fld 2 23 n, ssel := fld 2 21 n, df := fld 4 17 n, sf := fld 4 13 n, a := fld 6 6 n, d := fld 6 0 n }

def FcvtP.toBits (x : FcvtP) : Nat :=
  x.d.toNat + x.a.toNat * 64 + x.sf.toNat * 8192 + x.df.toNat * 131072 + x.ssel.toNat * 2097152 + x.dsel.toNat * 8388608 + x.rm.toNat * 33554432 + x.ftz.toNat * 268435456 + x.sat.toNat * 536870912

def BlkP.ofBits (n : Nat) : BlkP :=
  { spx := bitAt 20 n, hr := fld 2 18 n, h := fld 6 12 n, a := fld 6 6 n, d := fld 6 0 n }

def BlkP.toBits (x : BlkP) : Nat :=
  x.d.toNat + x.a.toNat * 64 + x.h.toNat * 4096 + x.hr.toNat * 262144 + x.spx.toNat * 1048576

def FclassP.ofBits (n : Nat) : FclassP :=
  { pd := fld 7 16 n, pv := bitAt 15 n, fmt := fld 3 12 n, a := fld 6 6 n, d := fld 6 0 n }

def FclassP.toBits (x : FclassP) : Nat :=
  x.d.toNat + x.a.toNat * 64 + x.fmt.toNat * 4096 + x.pv.toNat * 32768 + x.pd.toNat * 65536

def TagsetP.ofBits (n : Nat) : TagsetP :=
  { tag := fld 4 6 n, d := fld 6 0 n }

def TagsetP.toBits (x : TagsetP) : Nat :=
  x.d.toNat + x.tag.toNat * 64

def TaggetP.ofBits (n : Nat) : TaggetP :=
  { tm := bitAt 12 n, a := fld 6 6 n, d := fld 6 0 n }

def TaggetP.toBits (x : TaggetP) : Nat :=
  x.d.toNat + x.a.toNat * 64 + x.tm.toNat * 4096

def SysregP.ofBits (n : Nat) : SysregP :=
  { srn := fld 16 15 n, us := bitAt 14 n, s := fld 8 6 n, v := fld 6 0 n }

def SysregP.toBits (x : SysregP) : Nat :=
  x.v.toNat + x.s.toNat * 64 + x.us.toNat * 16384 + x.srn.toNat * 32768

def FrP.ofBits (n : Nat) : FrP :=
  { s := fld 8 1 n, fr := bitAt 0 n }

def FrP.toBits (x : FrP) : Nat :=
  x.fr.toNat + x.s.toNat * 2

def TmaskP.ofBits (n : Nat) : TmaskP :=
  { m := bitAt 0 n }

def TmaskP.toBits (x : TmaskP) : Nat :=
  x.m.toNat

def PopP.ofBits (n : Nat) : PopP :=
  { pd := fld 7 14 n, s := fld 8 6 n }

def PopP.toBits (x : PopP) : Nat :=
  x.s.toNat * 64 + x.pd.toNat * 16384

def FqresP.ofBits (n : Nat) : FqresP :=
  { bad := bitAt 21 n, pd := fld 7 14 n, s := fld 8 6 n }

def FqresP.toBits (x : FqresP) : Nat :=
  x.s.toNat * 64 + x.pd.toNat * 16384 + x.bad.toNat * 2097152

def TlbinvP.ofBits (n : Nat) : TlbinvP :=
  { s := fld 8 2 n, mode := fld 2 0 n }

def TlbinvP.toBits (x : TlbinvP) : Nat :=
  x.mode.toNat + x.s.toNat * 4

def ObjsetP.ofBits (n : Nat) : ObjsetP :=
  { st := fld 8 12 n, s := fld 8 4 n, op := fld 4 0 n }

def ObjsetP.toBits (x : ObjsetP) : Nat :=
  x.op.toNat + x.s.toNat * 16 + x.st.toNat * 4096

def CtxP.ofBits (n : Nat) : CtxP :=
  { st := fld 8 12 n, s := fld 8 4 n, c := fld 4 0 n }

def CtxP.toBits (x : CtxP) : Nat :=
  x.c.toNat + x.s.toNat * 16 + x.st.toNat * 4096

def TrialP.ofBits (n : Nat) : TrialP :=
  { st := fld 8 12 n, s := fld 8 4 n }

def TrialP.toBits (x : TrialP) : Nat :=
  x.s.toNat * 16 + x.st.toNat * 4096

def OpX.ofBits (n : Nat) : OpX :=
  { sat := bitAt 40 n, ftz := bitAt 39 n, rm := fld 3 36 n, xf := bitAt 35 n, xk := fld 5 30 n, xm := fld 3 27 n, bu := bitAt 26 n, b := fld 8 18 n, a := fld 6 12 n, d := fld 6 6 n }

def OpX.toBits (x : OpX) : Nat :=
  x.d.toNat * 64 + x.a.toNat * 4096 + x.b.toNat * 262144 + x.bu.toNat * 67108864 + x.xm.toNat * 134217728 + x.xk.toNat * 1073741824 + x.xf.toNat * 34359738368 + x.rm.toNat * 68719476736 + x.ftz.toNat * 549755813888 + x.sat.toNat * 1099511627776

def OpI.ofBits (n : Nat) : OpI :=
  { imm := fld 24 18 n, a := fld 6 12 n, d := fld 6 6 n }

def OpI.toBits (x : OpI) : Nat :=
  x.d.toNat * 64 + x.a.toNat * 4096 + x.imm.toNat * 262144

/-- OP6 code of an inner operation, R187. -/
def Op6.code : Op6 → Nat
  | .add => 0x00
  | .sub => 0x01
  | .mul => 0x02
  | .mulhS => 0x03
  | .mulhZ => 0x04
  | .mad => 0x05
  | .minS => 0x06
  | .minZ => 0x07
  | .maxS => 0x08
  | .maxZ => 0x09
  | .and => 0x0A
  | .or => 0x0B
  | .xor => 0x0C
  | .andn => 0x0D
  | .shl => 0x0E
  | .shr => 0x0F
  | .sar => 0x10
  | .rotl => 0x11
  | .clz => 0x12
  | .popc => 0x13
  | .brev => 0x14
  | .bfx => 0x15
  | .bfi => 0x16
  | .sel => 0x17
  | .mov => 0x18
  | .divS => 0x19
  | .divZ => 0x1A
  | .remS => 0x1B
  | .remZ => 0x1C
  | .abs => 0x1D
  | .neg => 0x1E
  | .addsatS => 0x1F
  | .fadd => 0x20
  | .fsub => 0x21
  | .fmul => 0x22
  | .ffma => 0x23
  | .fmin => 0x24
  | .fmax => 0x25
  | .fabs => 0x26
  | .fneg => 0x27
  | .fcpsgn => 0x28
  | .hadd2 => 0x29
  | .hsub2 => 0x2A
  | .hmul2 => 0x2B
  | .hfma2 => 0x2C
  | .hmin2 => 0x2D
  | .hmax2 => 0x2E
  | .idot4 => 0x2F
  | .qdot4 => 0x30
  | .f2i => 0x31
  | .i2f => 0x32
  | .ffloor => 0x33
  | .fceil => 0x34
  | .ftrunc => 0x35
  | .frint => 0x36
  | .fscale => 0x37

/-- The inner operation of an OP6 code; 0x38 to 0x3F name none. -/
def Op6.ofCode (n : Nat) : Option Op6 :=
  match n with
  | 0x00 => some .add
  | 0x01 => some .sub
  | 0x02 => some .mul
  | 0x03 => some .mulhS
  | 0x04 => some .mulhZ
  | 0x05 => some .mad
  | 0x06 => some .minS
  | 0x07 => some .minZ
  | 0x08 => some .maxS
  | 0x09 => some .maxZ
  | 0x0A => some .and
  | 0x0B => some .or
  | 0x0C => some .xor
  | 0x0D => some .andn
  | 0x0E => some .shl
  | 0x0F => some .shr
  | 0x10 => some .sar
  | 0x11 => some .rotl
  | 0x12 => some .clz
  | 0x13 => some .popc
  | 0x14 => some .brev
  | 0x15 => some .bfx
  | 0x16 => some .bfi
  | 0x17 => some .sel
  | 0x18 => some .mov
  | 0x19 => some .divS
  | 0x1A => some .divZ
  | 0x1B => some .remS
  | 0x1C => some .remZ
  | 0x1D => some .abs
  | 0x1E => some .neg
  | 0x1F => some .addsatS
  | 0x20 => some .fadd
  | 0x21 => some .fsub
  | 0x22 => some .fmul
  | 0x23 => some .ffma
  | 0x24 => some .fmin
  | 0x25 => some .fmax
  | 0x26 => some .fabs
  | 0x27 => some .fneg
  | 0x28 => some .fcpsgn
  | 0x29 => some .hadd2
  | 0x2A => some .hsub2
  | 0x2B => some .hmul2
  | 0x2C => some .hfma2
  | 0x2D => some .hmin2
  | 0x2E => some .hmax2
  | 0x2F => some .idot4
  | 0x30 => some .qdot4
  | 0x31 => some .f2i
  | 0x32 => some .i2f
  | 0x33 => some .ffloor
  | 0x34 => some .fceil
  | 0x35 => some .ftrunc
  | 0x36 => some .frint
  | 0x37 => some .fscale
  | _ => none

/-- Form H instruction of an OP4 code, R185. -/
noncomputable def instrH (op4 : Nat) (f : FormH) : Option Instr :=
  match op4 with
  | 0 => some (.movFormH f)
  | 1 => some (.addFormH f)
  | 2 => some (.subFormH f)
  | 3 => some (.mulFormH f)
  | 4 => some (.andFormH f)
  | 5 => some (.orFormH f)
  | 6 => some (.xorFormH f)
  | 7 => some (.shlFormH f)
  | 8 => some (.shrFormH f)
  | 9 => some (.sarFormH f)
  | 10 => some (.minSFormH f)
  | 11 => some (.maxSFormH f)
  | 12 => some (.faddFormH f)
  | 13 => some (.fmulFormH f)
  | 14 => some (.fminFormH f)
  | 15 => some (.fmaxFormH f)
  | _ => none

/-- OP4 code of an operation that has a 16-bit alias, R185. -/
def op4Of : Op6 → Nat
  | .mov => 0
  | .add => 1
  | .sub => 2
  | .mul => 3
  | .and => 4
  | .or => 5
  | .xor => 6
  | .shl => 7
  | .shr => 8
  | .sar => 9
  | .minS => 10
  | .maxS => 11
  | .fadd => 12
  | .fmul => 13
  | .fmin => 14
  | .fmax => 15
  | _ => 0

/-- Form A instruction of an inner operation, R186. -/
def instrA (o : Op6) (f : FormA) : Instr :=
  match o with
  | .add => .addFormA f
  | .sub => .subFormA f
  | .mul => .mulFormA f
  | .mulhS => .mulhSFormA f
  | .mulhZ => .mulhZFormA f
  | .mad => .madFormA f
  | .minS => .minSFormA f
  | .minZ => .minZFormA f
  | .maxS => .maxSFormA f
  | .maxZ => .maxZFormA f
  | .and => .andFormA f
  | .or => .orFormA f
  | .xor => .xorFormA f
  | .andn => .andnFormA f
  | .shl => .shlFormA f
  | .shr => .shrFormA f
  | .sar => .sarFormA f
  | .rotl => .rotlFormA f
  | .clz => .clzFormA f
  | .popc => .popcFormA f
  | .brev => .brevFormA f
  | .bfx => .bfxFormA f
  | .bfi => .bfiFormA f
  | .sel => .selFormA f
  | .mov => .movFormA f
  | .divS => .divSFormA f
  | .divZ => .divZFormA f
  | .remS => .remSFormA f
  | .remZ => .remZFormA f
  | .abs => .absFormA f
  | .neg => .negFormA f
  | .addsatS => .addsatSFormA f
  | .fadd => .faddFormA f
  | .fsub => .fsubFormA f
  | .fmul => .fmulFormA f
  | .ffma => .ffmaFormA f
  | .fmin => .fminFormA f
  | .fmax => .fmaxFormA f
  | .fabs => .fabsFormA f
  | .fneg => .fnegFormA f
  | .fcpsgn => .fcpsgnFormA f
  | .hadd2 => .hadd2FormA f
  | .hsub2 => .hsub2FormA f
  | .hmul2 => .hmul2FormA f
  | .hfma2 => .hfma2FormA f
  | .hmin2 => .hmin2FormA f
  | .hmax2 => .hmax2FormA f
  | .idot4 => .idot4FormA f
  | .qdot4 => .qdot4FormA f
  | .f2i => .f2iFormA f
  | .i2f => .i2fFormA f
  | .ffloor => .ffloorFormA f
  | .fceil => .fceilFormA f
  | .ftrunc => .ftruncFormA f
  | .frint => .frintFormA f
  | .fscale => .fscaleFormA f

/-- Form X instruction of an inner operation, R191. -/
noncomputable def instrX (o : Op6) (h : Head) (f : OpX) : Instr :=
  match o with
  | .add => .addFormX h f
  | .sub => .subFormX h f
  | .mul => .mulFormX h f
  | .mulhS => .mulhSFormX h f
  | .mulhZ => .mulhZFormX h f
  | .mad => .madFormX h f
  | .minS => .minSFormX h f
  | .minZ => .minZFormX h f
  | .maxS => .maxSFormX h f
  | .maxZ => .maxZFormX h f
  | .and => .andFormX h f
  | .or => .orFormX h f
  | .xor => .xorFormX h f
  | .andn => .andnFormX h f
  | .shl => .shlFormX h f
  | .shr => .shrFormX h f
  | .sar => .sarFormX h f
  | .rotl => .rotlFormX h f
  | .clz => .clzFormX h f
  | .popc => .popcFormX h f
  | .brev => .brevFormX h f
  | .bfx => .bfxFormX h f
  | .bfi => .bfiFormX h f
  | .sel => .selFormX h f
  | .mov => .movFormX h f
  | .divS => .divSFormX h f
  | .divZ => .divZFormX h f
  | .remS => .remSFormX h f
  | .remZ => .remZFormX h f
  | .abs => .absFormX h f
  | .neg => .negFormX h f
  | .addsatS => .addsatSFormX h f
  | .fadd => .faddFormX h f
  | .fsub => .fsubFormX h f
  | .fmul => .fmulFormX h f
  | .ffma => .ffmaFormX h f
  | .fmin => .fminFormX h f
  | .fmax => .fmaxFormX h f
  | .fabs => .fabsFormX h f
  | .fneg => .fnegFormX h f
  | .fcpsgn => .fcpsgnFormX h f
  | .hadd2 => .hadd2FormX h f
  | .hsub2 => .hsub2FormX h f
  | .hmul2 => .hmul2FormX h f
  | .hfma2 => .hfma2FormX h f
  | .hmin2 => .hmin2FormX h f
  | .hmax2 => .hmax2FormX h f
  | .idot4 => .idot4FormX h f
  | .qdot4 => .qdot4FormX h f
  | .f2i => .f2iFormX h f
  | .i2f => .i2fFormX h f
  | .ffloor => .ffloorFormX h f
  | .fceil => .fceilFormX h f
  | .ftrunc => .ftruncFormX h f
  | .frint => .frintFormX h f
  | .fscale => .fscaleFormX h f

/-- Form I instruction of an inner operation, R193; only those that R187 marks "yes", and MOV. -/
noncomputable def instrI (o : Op6) (h : Head) (f : OpI) : Option Instr :=
  match o with
  | .add => some (.addFormI h f)
  | .sub => some (.subFormI h f)
  | .mul => some (.mulFormI h f)
  | .mulhS => some (.mulhSFormI h f)
  | .mulhZ => some (.mulhZFormI h f)
  | .mad => some (.madFormI h f)
  | .minS => some (.minSFormI h f)
  | .minZ => some (.minZFormI h f)
  | .maxS => some (.maxSFormI h f)
  | .maxZ => some (.maxZFormI h f)
  | .and => some (.andFormI h f)
  | .or => some (.orFormI h f)
  | .xor => some (.xorFormI h f)
  | .andn => some (.andnFormI h f)
  | .shl => some (.shlFormI h f)
  | .shr => some (.shrFormI h f)
  | .sar => some (.sarFormI h f)
  | .rotl => some (.rotlFormI h f)
  | .bfx => some (.bfxFormI h f)
  | .bfi => some (.bfiFormI h f)
  | .sel => some (.selFormI h f)
  | .mov => some (.movFormI h f)
  | .divS => some (.divSFormI h f)
  | .divZ => some (.divZFormI h f)
  | .remS => some (.remSFormI h f)
  | .remZ => some (.remZFormI h f)
  | .addsatS => some (.addsatSFormI h f)
  | .fscale => some (.fscaleFormI h f)
  | _ => none

/-- Instruction of an OP8 code and a payload, by the map of R196; 0x00 and 0x01 carry forms X and I. -/
def instrWide (op8 : Nat) (h : Head) (n : Nat) : Option Instr :=
  match op8 with
  | 0x02 => some (.icmp h (.ofBits n))
  | 0x03 => some (.fcmp h (.ofBits n))
  | 0x04 => some (.pcomb h (.ofBits n))
  | 0x05 => some (.ptov h (.ofBits n))
  | 0x06 => some (.vtop h (.ofBits n))
  | 0x07 => some (.psurv h (.ofBits n))
  | 0x08 => some (.shfl h (.ofBits n))
  | 0x09 => some (.matchOp h (.ofBits n))
  | 0x0A => some (.redux h (.ofBits n))
  | 0x0B => some (.scan h (.ofBits n))
  | 0x0C => some (.umov h (.ofBits n))
  | 0x10 => some (.bra h (.ofBits n))
  | 0x11 => some (.brx h (.ofBits n))
  | 0x12 => some (.call h (.ofBits n))
  | 0x13 => some (.ret h (.ofBits n))
  | 0x14 => some (.jmp h (.ofBits n))
  | 0x15 => some (.spawn h (.ofBits n))
  | 0x16 => some (.exit h)
  | 0x17 => some (.join h)
  | 0x18 => some (.yieldOp h)
  | 0x19 => some (.setsr h (.ofBits n))
  | 0x1A => some (.waitc h (.ofBits n))
  | 0x1B => some (.bar h (.ofBits n))
  | 0x1C => some (.utrap h (.ofBits n))
  | 0x1D => some (.bkpt h (.ofBits n))
  | 0x1E => some (.mark h (.ofBits n))
  | 0x1F => some (.getsr h (.ofBits n))
  | 0x20 => some (.ld h (.ofBits n))
  | 0x21 => some (.st h (.ofBits n))
  | 0x22 => some (.ldl h (.ofBits n))
  | 0x23 => some (.stl h (.ofBits n))
  | 0x24 => some (.ldw h (.ofBits n))
  | 0x25 => some (.lda h (.ofBits n))
  | 0x26 => some (.atom h (.ofBits n))
  | 0x27 => some (.red h (.ofBits n))
  | 0x28 => some (.fence h (.ofBits n))
  | 0x29 => some (.capld h (.ofBits n))
  | 0x2A => some (.capst h (.ofBits n))
  | 0x2B => some (.cnarrow h (.ofBits n))
  | 0x2C => some (.crights h (.ofBits n))
  | 0x2D => some (.cinfo h (.ofBits n))
  | 0x2E => some (.feset h (.ofBits n))
  | 0x2F => some (.feclr h (.ofBits n))
  | 0x30 => some (.fetest h (.ofBits n))
  | 0x31 => some (.binit h (.ofBits n))
  | 0x32 => some (.barv h (.ofBits n))
  | 0x33 => some (.bexpt h (.ofBits n))
  | 0x34 => some (.bwait h (.ofBits n))
  | 0x40 => some (.send h (.ofBits n))
  | 0x41 => some (.recv h (.ofBits n))
  | 0x42 => some (.qpoll h (.ofBits n))
  | 0x43 => some (.cpy h (.ofBits n))
  | 0x44 => some (.cpym h (.ofBits n))
  | 0x45 => some (.cpyt h (.ofBits n))
  | 0x46 => some (.cpyx h (.ofBits n))
  | 0x47 => some (.radd h (.ofBits n))
  | 0x48 => some (.migr h (.ofBits n))
  | 0x49 => some (.migrh h (.ofBits n))
  | 0x50 => some (.cutreg h (.ofBits n))
  | 0x51 => some (.cutdrop h (.ofBits n))
  | 0x52 => some (.swpos h (.ofBits n))
  | 0x53 => some (.cutboost h (.ofBits n))
  | 0x54 => some (.rowop h (.ofBits n))
  | 0x55 => some (.rowprog h (.ofBits n))
  | 0x56 => some (.rowstat h (.ofBits n))
  | 0x58 => some (.nopen h (.ofBits n))
  | 0x59 => some (.nclose h (.ofBits n))
  | 0x5A => some (.nbind h (.ofBits n))
  | 0x5B => some (.nbindm h (.ofBits n))
  | 0x5C => some (.ninfo h (.ofBits n))
  | 0x5D => some (.nring h (.ofBits n))
  | 0x5E => some (.ntag h (.ofBits n))
  | 0x60 => some (.mxop h (.ofBits n))
  | 0x61 => some (.mxrd h (.ofBits n))
  | 0x62 => some (.mxwr h (.ofBits n))
  | 0x63 => some (.mxclr h (.ofBits n))
  | 0x64 => some (.mxstat h (.ofBits n))
  | 0x65 => some (.gsync h (.ofBits n))
  | 0x66 => some (.nfvote h (.ofBits n))
  | 0x67 => some (.lscale h (.ofBits n))
  | 0x70 => some (.frcp h (.ofBits n))
  | 0x71 => some (.frsq h (.ofBits n))
  | 0x72 => some (.fsqrt h (.ofBits n))
  | 0x73 => some (.fex2 h (.ofBits n))
  | 0x74 => some (.flg2 h (.ofBits n))
  | 0x75 => some (.fsin h (.ofBits n))
  | 0x76 => some (.fcos h (.ofBits n))
  | 0x77 => some (.ftanh h (.ofBits n))
  | 0x78 => some (.fcvt h (.ofBits n))
  | 0x79 => some (.fpack h (.ofBits n))
  | 0x7A => some (.funpk h (.ofBits n))
  | 0x7B => some (.fclass h (.ofBits n))
  | 0x7C => some (.fdiv h (.ofBits n))
  | 0x7D => some (.tagset h (.ofBits n))
  | 0x7E => some (.tagget h (.ofBits n))
  | 0xF0 => some (.sysrd h (.ofBits n))
  | 0xF1 => some (.syswr h (.ofBits n))
  | 0xF2 => some (.tret h (.ofBits n))
  | 0xF3 => some (.tmask h (.ofBits n))
  | 0xF4 => some (.fqpop h (.ofBits n))
  | 0xF5 => some (.fqres h (.ofBits n))
  | 0xF6 => some (.tlbinv h (.ofBits n))
  | 0xF7 => some (.objset h (.ofBits n))
  | 0xF8 => some (.prack h (.ofBits n))
  | 0xF9 => some (.ctxsv h (.ofBits n))
  | 0xFA => some (.ctxrs h (.ofBits n))
  | 0xFB => some (.lsqrst h (.ofBits n))
  | 0xFC => some (.lsqsave h (.ofBits n))
  | 0xFD => some (.haltb h (.ofBits n))
  | 0xFE => some (.trial h (.ofBits n))
  | _ => none

/-- The encoding of an instruction as form, operation and payload. -/
def Instr.view : Instr → View
  | .movFormH f => .formH .mov f
  | .addFormH f => .formH .add f
  | .subFormH f => .formH .sub f
  | .mulFormH f => .formH .mul f
  | .andFormH f => .formH .and f
  | .orFormH f => .formH .or f
  | .xorFormH f => .formH .xor f
  | .shlFormH f => .formH .shl f
  | .shrFormH f => .formH .shr f
  | .sarFormH f => .formH .sar f
  | .minSFormH f => .formH .minS f
  | .maxSFormH f => .formH .maxS f
  | .faddFormH f => .formH .fadd f
  | .fmulFormH f => .formH .fmul f
  | .fminFormH f => .formH .fmin f
  | .fmaxFormH f => .formH .fmax f
  | .addFormA f => .formA .add f
  | .subFormA f => .formA .sub f
  | .mulFormA f => .formA .mul f
  | .mulhSFormA f => .formA .mulhS f
  | .mulhZFormA f => .formA .mulhZ f
  | .madFormA f => .formA .mad f
  | .minSFormA f => .formA .minS f
  | .minZFormA f => .formA .minZ f
  | .maxSFormA f => .formA .maxS f
  | .maxZFormA f => .formA .maxZ f
  | .andFormA f => .formA .and f
  | .orFormA f => .formA .or f
  | .xorFormA f => .formA .xor f
  | .andnFormA f => .formA .andn f
  | .shlFormA f => .formA .shl f
  | .shrFormA f => .formA .shr f
  | .sarFormA f => .formA .sar f
  | .rotlFormA f => .formA .rotl f
  | .clzFormA f => .formA .clz f
  | .popcFormA f => .formA .popc f
  | .brevFormA f => .formA .brev f
  | .bfxFormA f => .formA .bfx f
  | .bfiFormA f => .formA .bfi f
  | .selFormA f => .formA .sel f
  | .movFormA f => .formA .mov f
  | .divSFormA f => .formA .divS f
  | .divZFormA f => .formA .divZ f
  | .remSFormA f => .formA .remS f
  | .remZFormA f => .formA .remZ f
  | .absFormA f => .formA .abs f
  | .negFormA f => .formA .neg f
  | .addsatSFormA f => .formA .addsatS f
  | .faddFormA f => .formA .fadd f
  | .fsubFormA f => .formA .fsub f
  | .fmulFormA f => .formA .fmul f
  | .ffmaFormA f => .formA .ffma f
  | .fminFormA f => .formA .fmin f
  | .fmaxFormA f => .formA .fmax f
  | .fabsFormA f => .formA .fabs f
  | .fnegFormA f => .formA .fneg f
  | .fcpsgnFormA f => .formA .fcpsgn f
  | .hadd2FormA f => .formA .hadd2 f
  | .hsub2FormA f => .formA .hsub2 f
  | .hmul2FormA f => .formA .hmul2 f
  | .hfma2FormA f => .formA .hfma2 f
  | .hmin2FormA f => .formA .hmin2 f
  | .hmax2FormA f => .formA .hmax2 f
  | .idot4FormA f => .formA .idot4 f
  | .qdot4FormA f => .formA .qdot4 f
  | .f2iFormA f => .formA .f2i f
  | .i2fFormA f => .formA .i2f f
  | .ffloorFormA f => .formA .ffloor f
  | .fceilFormA f => .formA .fceil f
  | .ftruncFormA f => .formA .ftrunc f
  | .frintFormA f => .formA .frint f
  | .fscaleFormA f => .formA .fscale f
  | .addFormX h f => .formX .add h f
  | .subFormX h f => .formX .sub h f
  | .mulFormX h f => .formX .mul h f
  | .mulhSFormX h f => .formX .mulhS h f
  | .mulhZFormX h f => .formX .mulhZ h f
  | .madFormX h f => .formX .mad h f
  | .minSFormX h f => .formX .minS h f
  | .minZFormX h f => .formX .minZ h f
  | .maxSFormX h f => .formX .maxS h f
  | .maxZFormX h f => .formX .maxZ h f
  | .andFormX h f => .formX .and h f
  | .orFormX h f => .formX .or h f
  | .xorFormX h f => .formX .xor h f
  | .andnFormX h f => .formX .andn h f
  | .shlFormX h f => .formX .shl h f
  | .shrFormX h f => .formX .shr h f
  | .sarFormX h f => .formX .sar h f
  | .rotlFormX h f => .formX .rotl h f
  | .clzFormX h f => .formX .clz h f
  | .popcFormX h f => .formX .popc h f
  | .brevFormX h f => .formX .brev h f
  | .bfxFormX h f => .formX .bfx h f
  | .bfiFormX h f => .formX .bfi h f
  | .selFormX h f => .formX .sel h f
  | .movFormX h f => .formX .mov h f
  | .divSFormX h f => .formX .divS h f
  | .divZFormX h f => .formX .divZ h f
  | .remSFormX h f => .formX .remS h f
  | .remZFormX h f => .formX .remZ h f
  | .absFormX h f => .formX .abs h f
  | .negFormX h f => .formX .neg h f
  | .addsatSFormX h f => .formX .addsatS h f
  | .faddFormX h f => .formX .fadd h f
  | .fsubFormX h f => .formX .fsub h f
  | .fmulFormX h f => .formX .fmul h f
  | .ffmaFormX h f => .formX .ffma h f
  | .fminFormX h f => .formX .fmin h f
  | .fmaxFormX h f => .formX .fmax h f
  | .fabsFormX h f => .formX .fabs h f
  | .fnegFormX h f => .formX .fneg h f
  | .fcpsgnFormX h f => .formX .fcpsgn h f
  | .hadd2FormX h f => .formX .hadd2 h f
  | .hsub2FormX h f => .formX .hsub2 h f
  | .hmul2FormX h f => .formX .hmul2 h f
  | .hfma2FormX h f => .formX .hfma2 h f
  | .hmin2FormX h f => .formX .hmin2 h f
  | .hmax2FormX h f => .formX .hmax2 h f
  | .idot4FormX h f => .formX .idot4 h f
  | .qdot4FormX h f => .formX .qdot4 h f
  | .f2iFormX h f => .formX .f2i h f
  | .i2fFormX h f => .formX .i2f h f
  | .ffloorFormX h f => .formX .ffloor h f
  | .fceilFormX h f => .formX .fceil h f
  | .ftruncFormX h f => .formX .ftrunc h f
  | .frintFormX h f => .formX .frint h f
  | .fscaleFormX h f => .formX .fscale h f
  | .addFormI h f => .formI .add h f
  | .subFormI h f => .formI .sub h f
  | .mulFormI h f => .formI .mul h f
  | .mulhSFormI h f => .formI .mulhS h f
  | .mulhZFormI h f => .formI .mulhZ h f
  | .madFormI h f => .formI .mad h f
  | .minSFormI h f => .formI .minS h f
  | .minZFormI h f => .formI .minZ h f
  | .maxSFormI h f => .formI .maxS h f
  | .maxZFormI h f => .formI .maxZ h f
  | .andFormI h f => .formI .and h f
  | .orFormI h f => .formI .or h f
  | .xorFormI h f => .formI .xor h f
  | .andnFormI h f => .formI .andn h f
  | .shlFormI h f => .formI .shl h f
  | .shrFormI h f => .formI .shr h f
  | .sarFormI h f => .formI .sar h f
  | .rotlFormI h f => .formI .rotl h f
  | .bfxFormI h f => .formI .bfx h f
  | .bfiFormI h f => .formI .bfi h f
  | .selFormI h f => .formI .sel h f
  | .movFormI h f => .formI .mov h f
  | .divSFormI h f => .formI .divS h f
  | .divZFormI h f => .formI .divZ h f
  | .remSFormI h f => .formI .remS h f
  | .remZFormI h f => .formI .remZ h f
  | .addsatSFormI h f => .formI .addsatS h f
  | .fscaleFormI h f => .formI .fscale h f
  | .icmp h p => .wide 0x02 h p.toBits
  | .fcmp h p => .wide 0x03 h p.toBits
  | .pcomb h p => .wide 0x04 h p.toBits
  | .ptov h p => .wide 0x05 h p.toBits
  | .vtop h p => .wide 0x06 h p.toBits
  | .psurv h p => .wide 0x07 h p.toBits
  | .shfl h p => .wide 0x08 h p.toBits
  | .matchOp h p => .wide 0x09 h p.toBits
  | .redux h p => .wide 0x0A h p.toBits
  | .scan h p => .wide 0x0B h p.toBits
  | .umov h p => .wide 0x0C h p.toBits
  | .bra h p => .wide 0x10 h p.toBits
  | .brx h p => .wide 0x11 h p.toBits
  | .call h p => .wide 0x12 h p.toBits
  | .ret h p => .wide 0x13 h p.toBits
  | .jmp h p => .wide 0x14 h p.toBits
  | .spawn h p => .wide 0x15 h p.toBits
  | .exit h => .wide 0x16 h 0
  | .join h => .wide 0x17 h 0
  | .yieldOp h => .wide 0x18 h 0
  | .setsr h p => .wide 0x19 h p.toBits
  | .waitc h p => .wide 0x1A h p.toBits
  | .bar h p => .wide 0x1B h p.toBits
  | .utrap h p => .wide 0x1C h p.toBits
  | .bkpt h p => .wide 0x1D h p.toBits
  | .mark h p => .wide 0x1E h p.toBits
  | .getsr h p => .wide 0x1F h p.toBits
  | .ld h p => .wide 0x20 h p.toBits
  | .st h p => .wide 0x21 h p.toBits
  | .ldl h p => .wide 0x22 h p.toBits
  | .stl h p => .wide 0x23 h p.toBits
  | .ldw h p => .wide 0x24 h p.toBits
  | .lda h p => .wide 0x25 h p.toBits
  | .atom h p => .wide 0x26 h p.toBits
  | .red h p => .wide 0x27 h p.toBits
  | .fence h p => .wide 0x28 h p.toBits
  | .capld h p => .wide 0x29 h p.toBits
  | .capst h p => .wide 0x2A h p.toBits
  | .cnarrow h p => .wide 0x2B h p.toBits
  | .crights h p => .wide 0x2C h p.toBits
  | .cinfo h p => .wide 0x2D h p.toBits
  | .feset h p => .wide 0x2E h p.toBits
  | .feclr h p => .wide 0x2F h p.toBits
  | .fetest h p => .wide 0x30 h p.toBits
  | .binit h p => .wide 0x31 h p.toBits
  | .barv h p => .wide 0x32 h p.toBits
  | .bexpt h p => .wide 0x33 h p.toBits
  | .bwait h p => .wide 0x34 h p.toBits
  | .send h p => .wide 0x40 h p.toBits
  | .recv h p => .wide 0x41 h p.toBits
  | .qpoll h p => .wide 0x42 h p.toBits
  | .cpy h p => .wide 0x43 h p.toBits
  | .cpym h p => .wide 0x44 h p.toBits
  | .cpyt h p => .wide 0x45 h p.toBits
  | .cpyx h p => .wide 0x46 h p.toBits
  | .radd h p => .wide 0x47 h p.toBits
  | .migr h p => .wide 0x48 h p.toBits
  | .migrh h p => .wide 0x49 h p.toBits
  | .cutreg h p => .wide 0x50 h p.toBits
  | .cutdrop h p => .wide 0x51 h p.toBits
  | .swpos h p => .wide 0x52 h p.toBits
  | .cutboost h p => .wide 0x53 h p.toBits
  | .rowop h p => .wide 0x54 h p.toBits
  | .rowprog h p => .wide 0x55 h p.toBits
  | .rowstat h p => .wide 0x56 h p.toBits
  | .nopen h p => .wide 0x58 h p.toBits
  | .nclose h p => .wide 0x59 h p.toBits
  | .nbind h p => .wide 0x5A h p.toBits
  | .nbindm h p => .wide 0x5B h p.toBits
  | .ninfo h p => .wide 0x5C h p.toBits
  | .nring h p => .wide 0x5D h p.toBits
  | .ntag h p => .wide 0x5E h p.toBits
  | .mxop h p => .wide 0x60 h p.toBits
  | .mxrd h p => .wide 0x61 h p.toBits
  | .mxwr h p => .wide 0x62 h p.toBits
  | .mxclr h p => .wide 0x63 h p.toBits
  | .mxstat h p => .wide 0x64 h p.toBits
  | .gsync h p => .wide 0x65 h p.toBits
  | .nfvote h p => .wide 0x66 h p.toBits
  | .lscale h p => .wide 0x67 h p.toBits
  | .frcp h p => .wide 0x70 h p.toBits
  | .frsq h p => .wide 0x71 h p.toBits
  | .fsqrt h p => .wide 0x72 h p.toBits
  | .fex2 h p => .wide 0x73 h p.toBits
  | .flg2 h p => .wide 0x74 h p.toBits
  | .fsin h p => .wide 0x75 h p.toBits
  | .fcos h p => .wide 0x76 h p.toBits
  | .ftanh h p => .wide 0x77 h p.toBits
  | .fcvt h p => .wide 0x78 h p.toBits
  | .fpack h p => .wide 0x79 h p.toBits
  | .funpk h p => .wide 0x7A h p.toBits
  | .fclass h p => .wide 0x7B h p.toBits
  | .fdiv h p => .wide 0x7C h p.toBits
  | .tagset h p => .wide 0x7D h p.toBits
  | .tagget h p => .wide 0x7E h p.toBits
  | .sysrd h p => .wide 0xF0 h p.toBits
  | .syswr h p => .wide 0xF1 h p.toBits
  | .tret h p => .wide 0xF2 h p.toBits
  | .tmask h p => .wide 0xF3 h p.toBits
  | .fqpop h p => .wide 0xF4 h p.toBits
  | .fqres h p => .wide 0xF5 h p.toBits
  | .tlbinv h p => .wide 0xF6 h p.toBits
  | .objset h p => .wide 0xF7 h p.toBits
  | .prack h p => .wide 0xF8 h p.toBits
  | .ctxsv h p => .wide 0xF9 h p.toBits
  | .ctxrs h p => .wide 0xFA h p.toBits
  | .lsqrst h p => .wide 0xFB h p.toBits
  | .lsqsave h p => .wide 0xFC h p.toBits
  | .haltb h p => .wide 0xFD h p.toBits
  | .trial h p => .wide 0xFE h p.toBits
  | .batcherFill _ _ => .event
  | .ageStarvationIssue _ _ => .event
  | .slotRelease _ _ _ => .event
  | .binLaunch _ _ _ => .event
  | .joinComplete _ _ _ => .event
  | .blockRetire _ => .event
  | .gangRetire _ => .event
  | .kernelComplete _ => .event
  | .tailLineSnoop _ _ _ => .event
  | .launchPacket _ _ => .event
  | .nopPacket _ _ => .event
  | .queueResume _ _ _ => .event
  | .ageingStep _ _ => .event
  | .admitBlock _ _ => .event
  | .admitGang _ _ => .event
  | .monitorQueueTail _ _ => .event
  | .storePerform _ _ => .event
  | .loadComplete _ _ _ => .event
  | .ldlLaneComplete _ _ _ _ => .event
  | .atomRmwPerform _ _ _ _ => .event
  | .tableWalkComplete _ => .event
  | .faultEntryPost _ => .event
  | .ownerLookup _ _ _ => .event
  | .flushMarkerGather _ _ _ => .event
  | .ldaTransaction _ _ _ _ => .event
  | .copyGranuleWrite _ _ => .event
  | .queueEntryArrival _ => .event
  | .fabCompletion _ _ _ => .event
  | .raddArrival _ => .event
  | .raddGlobalApply _ _ => .event
  | .esendUpdate _ => .event
  | .voteRoundComplete _ => .event
  | .syncRoundComplete _ => .event
  | .billetArrival _ _ _ => .event
  | .guestWaitTimeout _ _ _ => .event
  | .billetReturn _ _ _ => .event
  | .arrivalMessage _ _ _ => .event
  | .releaseMessage _ _ _ => .event
  | .rowRestore _ _ => .event
  | .pullForward _ _ _ => .event
  | .temperatureChange _ _ => .event
  | .rowProgramStep _ _ => .event
  | .sequencerWatchdogReset _ => .event
  | .saveModeEnter _ => .event
  | .saveModeRestore _ => .event
  | .gatherComplete _ _ => .event
  | .passSlot _ => .event
  | .passStarvation _ => .event
  | .passEnd _ => .event
  | .engineWatchdogReset _ => .event
  | .powerLimitStep _ => .event
  | .powerStateEntry _ => .event
  | .powerStateExit _ => .event
  | .weightRefreshWindow _ => .event
  | .preq _ _ => .event
  | .handlerBudgetExpiry _ _ _ => .event
  | .tcode1 _ _ => .event
  | .tlog0 _ => .event
  | .bfstatAck _ _ => .event
  | .ownapply _ => .event
  | .feataccept _ => .event
  | .debugStop _ _ => .event
  | .debugResume _ _ => .event
  | .traceEnable _ _ => .event
  | .recordMode _ _ => .event
  | .replayMode _ _ => .event
  | .modeOff _ _ => .event
  | .scratchpadWindow _ _ _ _ => .event
  | .unitFence _ => .event
  | .deviceReset _ _ _ => .event
  | .hostAccess _ _ _ _ => .event
  | .remoteDeviceRequest _ _ _ _ _ _ => .event
  | .pathStateChange _ _ => .event
  | .weightStoreWrite _ _ _ => .event
  | .uncorrectableError _ => .event

/-- Bits of the head with its OP8, R189. -/
def Head.toBits (h : Head) (op8 : Nat) : Nat :=
  3 + h.stall.toNat * 4 + op8 * 32 + h.y.toNat * 8192 + h.g.toNat * 16384 + h.gn.toNat * 2097152

/-- The head read from a 64-bit word, R189. -/
def Head.ofBits (n : Nat) : Head :=
  { gn := bitAt 21 n, g := fld 7 14 n, y := bitAt 13 n, stall := fld 3 2 n }

/-- The bits of an instruction and their number, 16, 32 or 64; an event has none. -/
def encodeBits (i : Instr) : Nat × Nat :=
  match i.view with
  | .formH o f => (16, f.stall.toNat * 2 + op4Of o * 8 + f.d.toNat * 128 + f.a.toNat * 4096)
  | .formA o f =>
    (32, 1 + f.stall.toNat * 4 + o.code * 32 + f.d.toNat * 2048 + f.a.toNat * 131072 + f.b.toNat * 8388608
      + f.g.toNat * 536870912)
  | .formX o h f => (64, h.toBits 0 + 4194304 * (o.code + f.toBits))
  | .formI o h f => (64, h.toBits 1 + 4194304 * (o.code + f.toBits))
  | .wide op8 h p => (64, h.toBits op8 + 4194304 * p)
  | .event => (0, 0)

/-- The lowest `n` bytes of a number, least significant first (R4). -/
def bytesLE : Nat → Nat → List (BitVec 8)
  | 0, _ => []
  | n + 1, x => BitVec.ofNat 8 x :: bytesLE n (x / 256)

/-- The number whose bytes, least significant first, these are (R4). -/
def ofBytesLE : List (BitVec 8) → Nat
  | [] => 0
  | b :: bs => b.toNat + 256 * ofBytesLE bs

/-- The bytes of an instruction, in address order. -/
def encode (i : Instr) : List (BitVec 8) :=
  bytesLE ((encodeBits i).1 / 8) (encodeBits i).2

/-- Why bytes are no instruction. -/
inductive DecodeError where
  | truncated
  | illegalOp6
  | illegalOp8
  | illegalField
  | reservedBits
deriving DecidableEq, Repr

/-- Number of bits of the instruction that a first byte begins, R183. -/
def lengthOf (first : BitVec 8) : Nat :=
  if first.toNat % 2 == 0 then 16 else if first.toNat % 4 == 1 then 32 else 64

/-- The fields of `n`, a whole instruction of `bits` bits, before their legality is judged. -/
noncomputable def readFields (bits n : Nat) : Except DecodeError Instr :=
  match bits with
  | 16 =>
    match instrH (n / 8 % 16) { a := fld 4 12 n, d := fld 5 7 n, stall := fld 2 1 n } with
    | some i => .ok i
    | none => .error .illegalOp6
  | 32 =>
    match Op6.ofCode (n / 32 % 64) with
    | some o => .ok (instrA o { g := fld 3 29 n, b := fld 6 23 n, a := fld 6 17 n, d := fld 6 11 n, stall := fld 3 2 n })
    | none => .error .illegalOp6
  | _ =>
    let h := Head.ofBits n
    let p := n / 4194304
    match n / 32 % 256 with
    | 0 =>
      match Op6.ofCode (p % 64) with
      | some o => .ok (instrX o h (.ofBits p))
      | none => .error .illegalOp6
    | 1 =>
      match (Op6.ofCode (p % 64)).bind (fun o => instrI o h (.ofBits p)) with
      | some i => .ok i
      | none => .error .illegalOp6
    | c =>
      match instrWide c h p with
      | some i => .ok i
      | none => .error .illegalOp8

/-- The instruction whose `bits` bits are `n`, if every field is legal and every reserved bit zero (R197). -/
noncomputable def decodeBits (bits n : Nat) : Except DecodeError Instr :=
  match readFields bits n with
  | .error e => .error e
  | .ok i =>
    if i.wellFormed then
      if encodeBits i = (bits, n) then .ok i else .error .reservedBits
    else .error .illegalField

/-- The first instruction of a list of bytes, with the bytes after it. -/
noncomputable def decode (bs : List (BitVec 8)) : Except DecodeError (Instr × List (BitVec 8)) :=
  match bs with
  | [] => .error .truncated
  | first :: _ =>
    let k := lengthOf first / 8
    if bs.length < k then .error .truncated
    else
      match decodeBits (lengthOf first) (ofBytesLE (bs.take k)) with
      | .ok i => .ok (i, bs.drop k)
      | .error e => .error e

/-- The instruction our decoder reads from an instruction of the opcode table whose low `nbits` bits are `w`; bits above are 0. -/
noncomputable def decodeTableWord (nbits w : Nat) : Option Instr :=
  match decode (bytesLE 8 (w % 2 ^ nbits)) with
  | .ok (i, _) => some i
  | .error _ => none

end Sys2Proof
end

