-- ==== Sys2Proof/Config.lean ====
section
/-!
DEFINITION. What the implementation fixes or the spec leaves open: counts and sizes of R9 and the chapters, the device-address
map (log 1), and the opaque free values (log 13), of which nothing can be proved.
-/
namespace Sys2Proof.Config

/-- A value the spec does not state, of any width; applied to a counter of the state, so that each use is a fresh one (log 13). -/
opaque freeValue (w : Nat) : Nat → BitVec w

/-- Offset of a core's cycle counter; counters of different cores are not comparable (R18, log 6). -/
opaque cycleOffset : Nat → BitVec 64

/-- LATFETCH and LATADMIT, by implementation (R323, log 13). -/
opaque latFetch : BitVec 32
opaque latAdmit : BitVec 32

/-- A port still holds the page entry that it cached for page `page` with P clear or MOV set, in cycle `now`: such entries may remain until
TLBINV removes them, and may make room for others before (R343, log 14). -/
opaque keepsMiss (now page : Nat) : Bool

/-- Implementation number and format version of a context image (R371, log 11). -/
opaque imageImpl : BitVec 16
opaque imageVersion : BitVec 16

/-- The vendor's PCI-SIG number, and what the host port's configuration space holds beside it in the headers of the boot status capability: the
extended capability header and the DVSEC revision (R387, log 22). -/
opaque vendorId : BitVec 16
opaque extCapHeader : BitVec 32
opaque dvsecRevision : BitVec 4

/-- The supervisor has assigned a domain vote group to a partition's kernels (R152, R328): nothing in the spec says how (log 15). -/
opaque voteGroup (part group : Nat) : Bool

def coreCount : Nat := 1536
def clusterCount : Nat := 384
def stackCount : Nat := 16
def dieCount : Nat := 8
def slotsPerPort : Nat := 64
def ctxPerPort : Nat := 2048
def fifoSize : Nat := 64
def binsPerPort : Nat := 16
def maxFibres : Nat := 8192
def tilesPerEngine : Nat := 64
def spadBytes : Nat := 1048576
def cycles1us : Nat := 4000

/-- Bytes of one near-memory stack, of the second tier behind a die, of a weight store, of host memory (R9, R66). -/
def nearBytes : Nat := 72 * 1024 * 1024 * 1024
def tierBytes : Nat := 1536000000000
def weightBytes : Nat := 1024 * 1024 * 1024
def hostBytes : Nat := 2 ^ 64

/-- Device number of this device in its domain (R53); a fixed number of the machine. -/
opaque deviceNumber : BitVec 10

/-- Memory cells are keyed by device addresses (log 1): unit number times 2^44 plus the physical byte, units 0 to 15 the near
stacks and 16 to 23 the second tier by die. -/
def unitStride : Nat := 2 ^ 44
def hostBase : Nat := 2 ^ 64
def weightBase : Nat := 2 ^ 65
def spadBase : Nat := 2 ^ 66
def rowBase : Nat := 2 ^ 68
def remoteBase : Nat := 2 ^ 72

/-- Banks of a stack, rows of a bank, bytes of a row (R90). -/
def banksPerStack : Nat := 1152
def rowsPerBank : Nat := 65536
def rowBytes : Nat := 1024

end Sys2Proof.Config
end

