-- ==== Sys2Proof/Machine/Num.lean ====
section
/-!
DEFINITION. Numbers: the formats of R71, decoding and encoding, one rounding to a format (R77 to R79), exact arithmetic on
decoded values, integral rounding, comparison, and the functions of R286 to a precision far beyond one rounding.
-/
namespace Sys2Proof.Machine

/-- Rounding modes of R77. -/
inductive Rm where
  | rne | rz | rd | ru
deriving DecidableEq, Repr

/-- Mode of an RM field (R77, R191). -/
def rmOf (n : Nat) : Rm :=
  match n with
  | 1 => .rz
  | 2 => .rd
  | 3 => .ru
  | _ => .rne

/-- The floating formats of R71 that have their own encodings. -/
inductive FloatFmt where
  | f32 | f16 | bf16 | e5m2 | e4m3
deriving DecidableEq, Repr

/-- Exponent and mantissa bits of a format (R71). -/
def fmtExp : FloatFmt → Nat
  | .f32 | .bf16 => 8
  | .f16 | .e5m2 => 5
  | .e4m3 => 4

def fmtMan : FloatFmt → Nat
  | .f32 => 23
  | .f16 => 10
  | .bf16 => 7
  | .e5m2 => 2
  | .e4m3 => 3

def fmtBits (f : FloatFmt) : Nat := 1 + fmtExp f + fmtMan f

def fmtBias (f : FloatFmt) : Int := 2 ^ (fmtExp f - 1) - 1

/-- Exponent of the spacing of subnormals. -/
def fmtQmin (f : FloatFmt) : Int := 1 - fmtBias f - fmtMan f

/-- The largest finite value is `fmtMaxN f * 2 ^ fmtQmax f`; E4M3 has no infinity and one NaN code (R73). -/
def fmtMaxN (f : FloatFmt) : Nat :=
  match f with
  | .e4m3 => 14
  | _ => 2 ^ (fmtMan f + 1) - 1

def fmtQmax (f : FloatFmt) : Int :=
  match f with
  | .e4m3 => 5
  | _ => fmtBias f - fmtMan f

/-- Canonical NaN of a format (R72). -/
def canonNaN : FloatFmt → Nat
  | .f32 => 0x7FC00000
  | .f16 => 0x7E00
  | .bf16 => 0x7FC0
  | .e5m2 => 0x7E
  | .e4m3 => 0x7F

/-- FTZ acts on these formats only (R79). -/
def ftzActs : FloatFmt → Bool
  | .f32 | .f16 | .bf16 => true
  | _ => false

/-- A decoded value: NaN, an infinity, or `(-1)^neg * m * 2^e`; zero keeps its sign. -/
inductive FVal where
  | nan
  | inf (neg : Bool)
  | fin (neg : Bool) (m : Nat) (e : Int)
deriving DecidableEq, Repr

/-- The value of code `x` in format `f` (Dec of R182, R71, R73); with `ftz` a subnormal reads as zero of its sign (R79). -/
def decF (ftz : Bool) (f : FloatFmt) (x : Nat) : FVal :=
  let man := fmtMan f
  let neg := x / 2 ^ (fmtBits f - 1) % 2 == 1
  let e := x / 2 ^ man % 2 ^ fmtExp f
  let m := x % 2 ^ man
  if f = .e4m3 && e == 15 && m == 7 then .nan
  else if f != .e4m3 && e == 2 ^ fmtExp f - 1 then if m == 0 then .inf neg else .nan
  else if e == 0 then if ftz && ftzActs f then .fin neg 0 0 else .fin neg m (fmtQmin f)
  else .fin neg (2 ^ man + m) (fmtQmin f + (e - 1 : Int))

/-- Sign bit of a code. -/
def signBits (f : FloatFmt) (neg : Bool) : Nat := if neg then 2 ^ (fmtBits f - 1) else 0

/-- Code of an infinity; E4M3 has none and answers its NaN (R73). -/
def infCode (f : FloatFmt) (neg : Bool) : Nat :=
  match f with
  | .e4m3 => canonNaN .e4m3
  | _ => signBits f neg + (2 ^ fmtExp f - 1) * 2 ^ fmtMan f

/-- Code of the largest finite value. -/
def maxCode (f : FloatFmt) (neg : Bool) : Nat :=
  match f with
  | .e4m3 => signBits f neg + 0x7E
  | _ => infCode f neg - 1

/-- A result too large for the format (R78). -/
def overflowCode (sat : Bool) (r : Rm) (f : FloatFmt) (neg : Bool) : Nat :=
  if sat then maxCode f neg
  else
    match f with
    | .e4m3 => canonNaN .e4m3
    | _ =>
      match r, neg with
      | .rne, _ => infCode f neg
      | .rz, _ => maxCode f neg
      | .rd, true | .ru, false => infCode f neg
      | .rd, false | .ru, true => maxCode f neg

/-- Round half and rest: does magnitude `n + r / 2^k` of the given sign round up? -/
def roundsUp (mode : Rm) (neg : Bool) (n r k : Nat) : Bool :=
  match mode with
  | .rne => decide (2 ^ k < 2 * r) || (2 * r == 2 ^ k && n % 2 == 1)
  | .rz => false
  | .rd => neg && r != 0
  | .ru => !neg && r != 0

/-- `m * 2^e` rounded to a multiple of `2^q`: the multiple. -/
def quantize (mode : Rm) (neg : Bool) (m : Nat) (e q : Int) : Nat :=
  if q ≤ e then m * 2 ^ (e - q).toNat
  else
    let k := (q - e).toNat
    let n := m / 2 ^ k
    let r := m % 2 ^ k
    if roundsUp mode neg n r k then n + 1 else n

/-- Round of R182: the value rounded once to format `f` under the mode, with overflow by R78, FTZ by R79, NaN by R72. The
answer is the code. A result below the format's normals that FTZ keeps has been rounded up to the smallest normal. -/
def roundF (mode : Rm) (sat ftz : Bool) (f : FloatFmt) (v : FVal) : Nat :=
  match v with
  | .nan => canonNaN f
  | .inf neg => if sat then maxCode f neg else infCode f neg
  | .fin neg 0 _ => signBits f neg
  | .fin neg m e =>
    let top := e + (Nat.log2 m : Int)
    let man : Int := fmtMan f
    if fmtQmax f + man + 1 < top then overflowCode sat mode f neg
    else
      let tiny := top < fmtQmin f - 2
      let m' := if tiny then 1 else m
      let e' := if tiny then fmtQmin f - 3 else e
      let top' := if tiny then fmtQmin f - 3 else top
      let flush := ftz && ftzActs f
      let q := if flush then top' - man else max (top' - man) (fmtQmin f)
      let n := quantize mode neg m' e' q
      if flush && (q + (Nat.log2 n : Int) < fmtQmin f + man) then signBits f neg
      else if q < fmtQmin f then signBits f neg + 2 ^ fmtMan f
      else if fmtQmax f < q || (q = fmtQmax f && fmtMaxN f < n) then overflowCode sat mode f neg
      else signBits f neg + (q - fmtQmin f).toNat * 2 ^ fmtMan f + n

/-- A sign. -/
def signedInt (neg : Bool) (n : Nat) : Int := if neg then -(n : Int) else n

/-- Exact zero sum of values that are not both zeros of one sign (R283): +0, but −0 under RD. -/
def zeroSum (mode : Rm) : FVal := .fin (mode == .rd) 0 0

/-- Exact sum (R72, R283). -/
def addV (mode : Rm) (a b : FVal) : FVal :=
  match a, b with
  | .nan, _ | _, .nan => .nan
  | .inf s, .inf t => if s == t then .inf s else .nan
  | .inf s, _ => .inf s
  | _, .inf t => .inf t
  | .fin s m e, .fin t n d =>
    if m == 0 && n == 0 then (if s == t then .fin s 0 0 else zeroSum mode)
    else if m == 0 then b
    else if n == 0 then a
    else
      let q := min e d
      let x := signedInt s (m * 2 ^ (e - q).toNat) + signedInt t (n * 2 ^ (d - q).toNat)
      if x == 0 then zeroSum mode else .fin (x < 0) x.natAbs q

/-- The value with its sign inverted. -/
def negV : FVal → FVal
  | .nan => .nan
  | .inf s => .inf (!s)
  | .fin s m e => .fin (!s) m e

/-- The value with its sign cleared. -/
def absV : FVal → FVal
  | .nan => .nan
  | .inf _ => .inf false
  | .fin _ m e => .fin false m e

/-- The sign of a value; NaN counts as positive. -/
def isNeg : FVal → Bool
  | .nan => false
  | .inf s => s
  | .fin s _ _ => s

def isNaNV : FVal → Bool
  | .nan => true
  | _ => false

def isZeroV : FVal → Bool
  | .fin _ 0 _ => true
  | _ => false

/-- The value is a NaN or an infinity. -/
def nonFinite : FVal → Bool
  | .fin _ _ _ => false
  | _ => true

/-- Exact product (R72). -/
def mulV (a b : FVal) : FVal :=
  match a, b with
  | .nan, _ | _, .nan => .nan
  | .inf s, .inf t => .inf (s != t)
  | .inf s, .fin t n _ => if n == 0 then .nan else .inf (s != t)
  | .fin s m _, .inf t => if m == 0 then .nan else .inf (s != t)
  | .fin s m e, .fin t n d => .fin (s != t) (m * n) (e + d)

/-- The value times `2^k`. -/
def scaleV (k : Int) : FVal → FVal
  | .fin s m e => .fin s m (e + k)
  | v => v

/-- A value strictly between `m * 2^e` and `(m + 1) * 2^e` when `inexact`, else `m * 2^e`: an interior point that every
rounding to fewer bits treats as the true value. -/
def stickyV (neg : Bool) (m : Nat) (e : Int) (inexact : Bool) : FVal :=
  if inexact then .fin neg (4 * m + 1) (e - 2) else .fin neg m e

/-- Quotient, with enough bits and a sticky bit that one rounding is exact (R286, R72). -/
def divV (a b : FVal) : FVal :=
  match a, b with
  | .nan, _ | _, .nan => .nan
  | .inf _, .inf _ => .nan
  | .inf s, .fin t _ _ => .inf (s != t)
  | .fin s _ _, .inf t => .fin (s != t) 0 0
  | .fin s m e, .fin t n d =>
    if n == 0 then (if m == 0 then .nan else .inf (s != t))
    else if m == 0 then .fin (s != t) 0 0
    else stickyV (s != t) (m * 2 ^ 128 / n) (e - d - 128) (m * 2 ^ 128 % n != 0)

/-- Bits of an integer square root, from bit `k - 1` down. -/
def isqrtAux (n : Nat) : Nat → Nat → Nat
  | 0, r => r
  | k + 1, r => isqrtAux n k (if (r + 2 ^ k) * (r + 2 ^ k) ≤ n then r + 2 ^ k else r)

/-- Integer square root, rounded down. -/
def isqrt (n : Nat) : Nat := isqrtAux n (Nat.log2 n / 2 + 1) 0

/-- Square root of a finite or infinite value that is not negative (R286). -/
def sqrtV (a : FVal) : FVal :=
  match a with
  | .nan => .nan
  | .inf s => if s then .nan else .inf false
  | .fin s m e =>
    if m == 0 then .fin s 0 0
    else if s then .nan
    else
      let k : Int := 256 + (e % 2)
      let x := m * 2 ^ k.toNat
      let r := isqrt x
      stickyV false r ((e - k) / 2) (r * r != x)

/-- One over the square root (R286). -/
def rsqrtV (a : FVal) : FVal :=
  match a with
  | .nan => .nan
  | .inf s => if s then .nan else .fin false 0 0
  | .fin s m e =>
    if m == 0 then .inf s
    else if s then .nan
    else
      let k : Int := 512 + (e % 2)
      let x := 2 ^ k.toNat / m
      let r := isqrt x
      stickyV false r (-(k + e) / 2) (r * r * m != 2 ^ k.toNat)

/-- Bits of the fixed-point numbers below. -/
def fixBits : Nat := 400

/-- ⌊π · 2^400⌋. -/
def piFix : Nat :=
  0x3243f6a8885a308d313198a2e03707344a4093822299f31d0082efa98ec4e6c89452821e638d01377be5466cf34e90c6cc0ac

/-- ⌊ln 2 · 2^400⌋. -/
def ln2Fix : Nat :=
  0xb17217f7d1cf79abc9e3b39803f2f6af40f343267298b62d8a0d175b8baafa2be7b876206debac98559552fb4afa1b10ed2e

/-- The term after `t` of a power series of ratio `x`, divided by `d`. -/
def fixTerm (t x d : Nat) : Nat := t * x / 2 ^ fixBits / d

/-- Σ of the exponential series of `x` (fixed point), `fuel` terms from term `t` of index `n`. -/
def expSum (x : Nat) : Nat → Nat → Nat → Nat
  | 0, _, _ => 0
  | fuel + 1, n, t => t + expSum x fuel (n + 1) (fixTerm t x (n + 1))

/-- e^x for fixed-point x below 1. -/
def expFix (x : Nat) : Nat := expSum x 100 0 (2 ^ fixBits)

/-- Alternating series t − t·y/((n+1)(n+2)) + …, for sine and cosine, `y` being x². -/
def altSum (y : Nat) : Nat → Nat → Nat → Int
  | 0, _, _ => 0
  | fuel + 1, n, t => (t : Int) - altSum y fuel (n + 2) (fixTerm t y ((n + 1) * (n + 2)))

/-- Σ z^(2k+1)/(2k+1), for the logarithm; `w` is z². -/
def atanhSum (w : Nat) : Nat → Nat → Nat → Nat
  | 0, _, _ => 0
  | fuel + 1, n, t => t / n + atanhSum w fuel (n + 2) (fixTerm t w 1)

/-- A fixed-point approximation as a value whose last 64 bits are not trusted. -/
def ofFix (neg : Bool) (x : Nat) : FVal := stickyV neg (x / 2 ^ 64) (64 - (fixBits : Int)) true

/-- Just above or just below 1, nearer than any format's spacing. -/
def nearOne (neg above : Bool) : FVal :=
  if above then .fin neg (2 ^ 200 + 1) (-200) else .fin neg (2 ^ 200 - 1) (-200)

/-- 2^a (R286). -/
def exp2V (a : FVal) : FVal :=
  match a with
  | .nan => .nan
  | .inf s => if s then .fin false 0 0 else .inf false
  | .fin s m e =>
    if m == 0 then .fin false 1 0
    else
      let top := e + (Nat.log2 m : Int)
      if 20 ≤ top then .fin false 1 (if s then -1048576 else 1048576)
      else if top < -100 then nearOne false (!s)
      else
        let x : Int := if 0 ≤ e then signedInt s (m * 2 ^ e.toNat) * 2 ^ fixBits
          else signedInt s (m * 2 ^ fixBits / 2 ^ (-e).toNat)
        let i := x / 2 ^ fixBits
        let f := (x % 2 ^ fixBits).toNat
        if f == 0 then .fin false 1 i
        else scaleV i (ofFix false (expFix (f * ln2Fix / 2 ^ fixBits)))

/-- log2 a (R286). -/
def log2V (a : FVal) : FVal :=
  match a with
  | .nan => .nan
  | .inf s => if s then .nan else .inf false
  | .fin s m e =>
    if m == 0 then .inf true
    else if s then .nan
    else
      let k := Nat.log2 m
      let i := e + (k : Int)
      if m == 2 ^ k then (if i == 0 then .fin false 0 0 else .fin (i < 0) i.natAbs 0)
      else
        let z := (m - 2 ^ k) * 2 ^ fixBits / (m + 2 ^ k)
        let ln := 2 * atanhSum (z * z / 2 ^ fixBits) 140 1 z
        let y : Int := i * 2 ^ fixBits + (ln * 2 ^ fixBits / ln2Fix : Nat)
        ofFix (y < 0) y.natAbs

/-- sin(π · x / 2^400) for x from 0 to 2^399, that is, angles up to π/2. -/
def sinFix (x : Nat) : Nat :=
  let t := x * piFix / 2 ^ fixBits
  (altSum (t * t / 2 ^ fixBits) 60 1 t).toNat

/-- cos(π · x / 2^400) for the same x. -/
def cosFix (x : Nat) : Nat :=
  let t := x * piFix / 2 ^ fixBits
  (altSum (t * t / 2 ^ fixBits) 60 0 (2 ^ fixBits)).toNat

/-- The fraction of `m * 2^e` modulo 2, in units of 2^-400; exact, because no format here reaches below 2^-400. -/
def modTwo (m : Nat) (e : Int) : Nat :=
  if 0 ≤ e then m * 2 ^ e.toNat % 2 * 2 ^ fixBits
  else m * 2 ^ fixBits / 2 ^ (-e).toNat % (2 * 2 ^ fixBits)

/-- sin(π·a) (R286). -/
def sinPiV (a : FVal) : FVal :=
  match a with
  | .nan => .nan
  | .inf _ => .nan
  | .fin s m e =>
    let x := modTwo m e
    let one := 2 ^ fixBits
    let y := x % one
    if m == 0 || y == 0 then .fin s 0 0
    else
      let neg := s != decide (one ≤ x)
      let z := if 2 * y ≤ one then y else one - y
      if 2 * z == one then .fin neg 1 0
      else if 4 * z ≤ one then ofFix neg (sinFix z)
      else ofFix neg (cosFix (one / 2 - z))

/-- cos(π·a) (R286). -/
def cosPiV (a : FVal) : FVal :=
  match a with
  | .nan => .nan
  | .inf _ => .nan
  | .fin _ m e =>
    let x := modTwo m e
    let one := 2 ^ fixBits
    let u := if x ≤ one then x else 2 * one - x
    if m == 0 || u == 0 then .fin false 1 0
    else if 2 * u == one then .fin false 0 0
    else if u == one then .fin true 1 0
    else
      let neg := decide (one < 2 * u)
      let z := if neg then one - u else u
      if 4 * z ≤ one then ofFix neg (cosFix z)
      else ofFix neg (sinFix (one / 2 - z))

/-- tanh a (R286). -/
def tanhV (a : FVal) : FVal :=
  match a with
  | .nan => .nan
  | .inf s => .fin s 1 0
  | .fin s m e =>
    if m == 0 then .fin s 0 0
    else
      let top := e + (Nat.log2 m : Int)
      if top < -60 then .fin s (m * 2 ^ 90 - 1) (e - 90)
      else if 7 ≤ top then nearOne s false
      else
        let one := 2 ^ fixBits
        let x := if 0 ≤ e then 2 * m * 2 ^ e.toNat * one else 2 * m * one / 2 ^ (-e).toNat
        let k := x / ln2Fix
        let t := one * one / expFix (x - k * ln2Fix) / 2 ^ k
        ofFix s ((one - t) * one / (one + t))

/-- The integer a finite value rounds to under the mode. -/
def roundInt (mode : Rm) (neg : Bool) (m : Nat) (e : Int) : Int :=
  if m == 0 then 0
  else if e + (Nat.log2 m : Int) < -2 then signedInt neg (quantize mode neg 1 (-3) 0)
  else signedInt neg (quantize mode neg m e 0)

/-- A float rounded to an integer and clamped to `lo` to `hi`; NaN gives 0 (R78). -/
def toIntSat (mode : Rm) (lo hi : Int) (v : FVal) : Int :=
  match v with
  | .nan => 0
  | .inf s => if s then lo else hi
  | .fin s m e =>
    if 80 < e + (Nat.log2 m : Int) then (if s then lo else hi) else max lo (min hi (roundInt mode s m e))

/-- A float rounded to an integral value, the sign of a zero kept (R283). -/
def toIntegral (mode : Rm) (v : FVal) : FVal :=
  match v with
  | .fin s m e => if 0 ≤ e then v else .fin s (roundInt mode s m e).natAbs 0
  | _ => v

/-- An integer as an exact value. -/
def ofIntV (x : Int) : FVal := .fin (x < 0) x.natAbs 0

/-- A finite value as an integer multiple of `2^q`, for `q` at most its exponent. -/
def scaledInt (v : FVal) (q : Int) : Int :=
  match v with
  | .fin s m e => signedInt s (m * 2 ^ (e - q).toNat)
  | _ => 0

/-- Order of two values that are not NaN; −0 equals +0 (R206). -/
def ltV (a b : FVal) : Bool :=
  match a, b with
  | .nan, _ | _, .nan => false
  | .inf s, .inf t => s && !t
  | .inf s, _ => s
  | _, .inf t => !t
  | .fin _ _ e, .fin _ _ d => let q := min e d; decide (scaledInt a q < scaledInt b q)

/-- Equality of two values as numbers (R206). -/
def eqV (a b : FVal) : Bool := !isNaNV a && !isNaNV b && !ltV a b && !ltV b a

/-- FMIN and FMAX (R283, R214): one NaN gives the other operand, two give NaN, −0 is below +0. -/
def minMaxV (isMax : Bool) (a b : FVal) : FVal :=
  if isNaNV a then b
  else if isNaNV b then a
  else
    let aLess := ltV a b || (eqV a b && isNeg a && !isNeg b)
    if aLess != isMax then a else b

/-- Floor of the base-2 logarithm of the magnitude of a finite value that is not zero. -/
def log2Mag (v : FVal) : Int :=
  match v with
  | .fin _ m e => e + (Nat.log2 m : Int)
  | _ => 0

/-- Element code of the E2M1X grid nearest to the value, ties to even, clamped to 6; a zero is coded 0 (R74, R289). -/
def e2m1Code (v : FVal) : Nat :=
  match v with
  | .nan => 0
  | .inf s => if s then 15 else 7
  | .fin s m e =>
    if m == 0 then 0
    else
      let top := e + (Nat.log2 m : Int)
      if 2 < top then (if s then 15 else 7)
      else if top < -3 then 0
      else
        let q := max (top - 1) (-1)
        let n := quantize .rne s m e q
        let c := min 7 ((q + 1).toNat * 2 + n)
        if c == 0 then 0 else (if s then 8 + c else c)

/-- Value of an E2M1X element code; code 8 is the special of the header when it is enabled, else +0 (R74). -/
def e2m1Val (special : Option FVal) (c : Nat) : FVal :=
  let mag : Nat → FVal := fun k =>
    match k with
    | 0 => .fin false 0 0
    | 1 => .fin false 1 (-1)
    | 2 => .fin false 1 0
    | 3 => .fin false 3 (-1)
    | 4 => .fin false 1 1
    | 5 => .fin false 3 0
    | 6 => .fin false 1 2
    | _ => .fin false 3 1
  if c < 8 then mag c
  else if c == 8 then special.getD (.fin false 0 0)
  else negV (mag (c - 8))

/-- An E2M1X header is malformed: a reserved flag is set, or its special is a NaN code (R76). -/
def blkMalformed (h : Nat) : Bool :=
  h / 2 ^ 25 != 0 || (h / 2 ^ 24 % 2 == 1 && h / 2 ^ 16 % 128 == 127)

/-- Special of a header, when enabled. -/
def blkSpecial (h : Nat) : Option FVal :=
  if h / 2 ^ 24 % 2 == 1 then some (decF false .e4m3 (h / 2 ^ 16 % 256)) else none

/-- Scale of a header. -/
def blkScale (h : Nat) : FVal := decF false .bf16 (h % 2 ^ 16)

end Sys2Proof.Machine
end

