-- ==== Sys2Proof/Machine/Flags.lean ====
section
/-!
DEFINITION. What this machine has in place of flags: the predicate results of comparisons (R206, R207), predicate tables
(R208), surveys (R210) and classification (R291).
-/
namespace Sys2Proof.Machine

/-- Relation of an integer comparison, CC 0 to 5 (R206). -/
def icmpRel (cc : Nat) (a b : Int) : Bool :=
  match cc with
  | 0 => a == b
  | 1 => a != b
  | 2 => decide (a < b)
  | 3 => decide (a ≤ b)
  | 4 => decide (b < a)
  | _ => decide (b ≤ a)

/-- Relation of an ordered float comparison, CC 0 to 5 (R206). -/
def fcmpOrd (cc : Nat) (a b : FVal) : Bool :=
  match cc with
  | 0 => eqV a b
  | 1 => !eqV a b
  | 2 => ltV a b
  | 3 => ltV a b || eqV a b
  | 4 => ltV b a
  | _ => ltV b a || eqV a b

/-- Condition of FCMP (R206): 0 to 5 ordered and the relation, 6 to 11 unordered or the relation, 12 ordered, 13 unordered. -/
def fcmpCond (cc : Nat) (a b : FVal) : Bool :=
  let un := isNaNV a || isNaNV b
  if cc < 6 then !un && fcmpOrd cc a b
  else if cc < 12 then un || fcmpOrd (cc - 6) a b
  else if cc == 12 then !un
  else un

/-- Combination of a comparison with the second predicate (R207). -/
def boolOp (bop : Nat) (c q : Bool) : Bool :=
  match bop with
  | 0 => c
  | 1 => c && q
  | 2 => c || q
  | _ => c != q

/-- One result of PCOMB: bit 2x + y of the selected table (R208). -/
def pcombBit (f1 f0 : BitVec 4) (x y z : Bool) : Bool :=
  (if z then f1 else f0).getLsbD (2 * x.toNat + y.toNat)

/-- Threshold of PSURV for N participants (R210). -/
def psurvK (k n : Nat) : Nat := if k == 62 then n / 2 + 1 else if k == 63 then n else k

/-- Result of PSURV modes 0 to 2 (R210). -/
def psurvTest (mode c k : Nat) : Bool :=
  match mode with
  | 0 => decide (k ≤ c)
  | 1 => decide (c ≤ k)
  | _ => c == k

/-- Class code of an element as it is encoded (R291). -/
def fclassOf (f : FloatFmt) (x : Nat) : Nat :=
  let sub := x / 2 ^ fmtMan f % 2 ^ fmtExp f == 0
  match decF false f x with
  | .nan => 8
  | .inf s => if s then 0 else 7
  | .fin s m _ =>
    if m == 0 then (if s then 3 else 4)
    else if sub then (if s then 2 else 5)
    else (if s then 1 else 6)

/-- A class is non-finite (R291). -/
def classNonFinite (c : Nat) : Bool := c == 0 || c == 7 || c == 8

end Sys2Proof.Machine
end

