-- ==== Sys2Proof/Machine/Alu.lean ====
section
/-!
DEFINITION. The 56 inner operations of R187 on the operands of one lane: expected tags and the check of R86, results and result
tags of R204, R283 and R284, latencies of R187; and the same for the conversions and transcendentals of spec/16.
-/
namespace Sys2Proof.Machine

/-- A vector register: its bits and its format tag (R47, R85). -/
structure VReg where
  val : Word
  tag : BitVec 4
deriving DecidableEq, Repr

/-- Tag values of R85. -/
def tRaw : BitVec 4 := 0
def tI32 : BitVec 4 := 1
def tF32 : BitVec 4 := 2
def tF16x2 : BitVec 4 := 3
def tBf16x2 : BitVec 4 := 4
def tE4m3x4 : BitVec 4 := 5
def tE5m2x4 : BitVec 4 := 6
def tE2m1x8 : BitVec 4 := 7
def tBlkhdr : BitVec 4 := 8
def tI8x4 : BitVec 4 := 9
def tI64lo : BitVec 4 := 10
def tI64hi : BitVec 4 := 11
def tInvalid : BitVec 4 := 15

/-- Trap codes of R7. -/
def cIllegalOp : Nat := 0x01
def cPriv : Nat := 0x02
def cStallShort : Nat := 0x03
def cWindowRange : Nat := 0x04
def cTagMismatch : Nat := 0x05
def cTagInvalid : Nat := 0x06
def cCapBounds : Nat := 0x07
def cCapRights : Nat := 0x08
def cCapTag : Nat := 0x09
def cSpadBounds : Nat := 0x0A
def cMisaligned : Nat := 0x0B
def cBarrierClobber : Nat := 0x0C
def cDataUe : Nat := 0x0D
def cCopyRights : Nat := 0x0E
def cMigRefused : Nat := 0x0F
def cEngineLost : Nat := 0x10
def cUserTrap : Nat := 0x11
def cBreakpoint : Nat := 0x12
def cReplayDiverge : Nat := 0x13

/-- The smaller of two codes, where there is one (R8). -/
def minCode (a b : Option Nat) : Option Nat :=
  match a, b with
  | none, y => y
  | x, none => x
  | some x, some y => some (min x y)

/-- The smallest code of a list (R8). -/
def minCodes (l : List (Option Nat)) : Option Nat := l.foldl minCode none

/-- CheckTag of R182 and R86; `none` as the expected tag is an untyped operand. -/
def checkTag (expected : Option (BitVec 4)) (r : VReg) : Option Nat :=
  if r.tag == tInvalid then some cTagInvalid
  else
    match expected with
    | none => none
    | some t => if r.tag == tRaw || r.tag == t then none else some cTagMismatch

/-- An expected tag. -/
def tagIs (t : BitVec 4) : Option (BitVec 4) := some t

/-- The packed half operations whose format comes from their operands' tags (R284). -/
def isHalf : Op6 → Bool
  | .hadd2 | .hsub2 | .hmul2 | .hfma2 | .hmin2 | .hmax2 => true
  | _ => false

/-- Some operand that the operation reads is tagged BF16X2 (R284). -/
def halfBf (o : Op6) (a b d : VReg) : Bool :=
  a.tag == tBf16x2 || (!o.noB && b.tag == tBf16x2) || (o.readsD && d.tag == tBf16x2)

/-- Expected tags of A, B and D (R204, R283). -/
def op6Tags (o : Op6) : Option (BitVec 4) × Option (BitVec 4) × Option (BitVec 4) :=
  match o with
  | .add | .sub | .mul | .mulhS | .mulhZ | .minS | .minZ | .maxS | .maxZ | .divS | .divZ | .remS | .remZ | .addsatS
  | .abs | .neg | .i2f | .mad => (tagIs tI32, tagIs tI32, tagIs tI32)
  | .and | .or | .xor | .andn | .shl | .shr | .sar | .rotl | .clz | .popc | .brev | .bfx | .bfi | .sel | .mov =>
    (none, none, none)
  | .fadd | .fsub | .fmul | .ffma | .fmin | .fmax | .fabs | .fneg | .fcpsgn | .f2i | .ffloor | .fceil | .ftrunc | .frint =>
    (tagIs tF32, tagIs tF32, tagIs tF32)
  | .hadd2 | .hsub2 | .hmul2 | .hfma2 | .hmin2 | .hmax2 => (tagIs tF16x2, tagIs tF16x2, tagIs tF16x2)
  | .idot4 => (tagIs tI8x4, tagIs tI8x4, tagIs tI32)
  | .qdot4 => (tagIs tE4m3x4, tagIs tE4m3x4, tagIs tF32)
  | .fscale => (tagIs tF32, tagIs tI32, none)

/-- Tag checks of an inner operation on one lane's operands, the smallest code (R86, R8). -/
def op6Check (o : Op6) (a b d : VReg) : Option Nat :=
  let t := op6Tags o
  let h := if isHalf o && halfBf o a b d then tagIs tBf16x2 else none
  let want := fun (e : Option (BitVec 4)) => if h.isSome then h else e
  minCodes
    [checkTag (want t.1) a,
     if o.noB then none else checkTag (want t.2.1) b,
     if o.readsD then checkTag (want t.2.2) d else none]

/-- A 32-bit word of an integer, wrapped. -/
def ofI (x : Int) : Word := BitVec.ofInt 32 x

/-- Clamp to the signed range of `w` bits. -/
def clampS (w : Nat) (x : Int) : Int := max (-(2 ^ (w - 1))) (min (2 ^ (w - 1) - 1) x)

/-- The exact result wrapped, or clamped with SAT (R203). -/
def wrapSat (sat : Bool) (x : Int) : Word := ofI (if sat then clampS 32 x else x)

/-- Number of one bits among the lowest `n` bits. -/
def popcN (x : Nat) : Nat → Nat
  | 0 => 0
  | n + 1 => x / 2 ^ n % 2 + popcN x n

/-- Leading zero bits of 32 (R204). -/
def clz32 (x : Word) : Nat := if x == 0 then 32 else 31 - Nat.log2 x.toNat

/-- Bit `n - 1 - j` of the result is bit `j` of `x` (R204). -/
def brevN (x : Nat) : Nat → Nat
  | 0 => 0
  | n + 1 => brevN x n * 2 + x / 2 ^ n % 2

/-- Position and length of a bit field (R204, BFX). -/
def bfPos (b : Word) : Nat := b.toNat % 32
def bfLen (b : Word) : Nat := min (b.toNat / 256 % 64) 32

def bfx (a b : Word) : Word := BitVec.ofNat 32 (a.toNat / 2 ^ bfPos b % 2 ^ bfLen b)

def bfi (a b d : Word) : Word :=
  let mask : Word := BitVec.ofNat 32 ((2 ^ bfLen b - 1) * 2 ^ bfPos b)
  (d &&& ~~~mask) ||| (BitVec.ofNat 32 (a.toNat * 2 ^ bfPos b) &&& mask)

/-- Byte `k` of a word, signed. -/
def sByte (x : Word) (k : Nat) : Int := (x.extractLsb' (8 * k) 8).toInt

/-- Byte and half `k` of a word as codes. -/
def byteOf (x : Word) (k : Nat) : Nat := (x.extractLsb' (8 * k) 8).toNat
def halfOf (x : Word) (k : Nat) : Nat := (x.extractLsb' (16 * k) 16).toNat

/-- Two half codes packed, element 0 low. -/
def packHalves (h0 h1 : Nat) : Word := BitVec.ofNat 32 (h0 + 65536 * h1)

/-- Sum over k = 0 to 3. -/
def dot4I (a b : Word) : Int := sByte a 0 * sByte b 0 + sByte a 1 * sByte b 1 + sByte a 2 * sByte b 2 + sByte a 3 * sByte b 3

/-- Exact Σ of four E4M3 products and an FP32 addend (R80, R283). -/
def qdot4V (rm : Rm) (ftz : Bool) (a b d : Word) : FVal :=
  let p := fun k => mulV (decF false .e4m3 (byteOf a k)) (decF false .e4m3 (byteOf b k))
  addV rm (addV rm (addV rm (addV rm (p 0) (p 1)) (p 2)) (p 3)) (decF ftz .f32 d.toNat)

/-- Quotient of DIV.S and DIV.Z before wrapping (R204). -/
def divS (a b : Word) : Int := if b == 0 then -1 else Int.tdiv a.toInt b.toInt
def remS (a b : Word) : Int := if b == 0 then a.toInt else Int.tmod a.toInt b.toInt

/-- Integer, logic and bit operations, OP6 0x00 to 0x1F, and IDOT4 (R203, R204, R283). -/
def intResult (o : Op6) (sat : Bool) (a b d : Word) : Word :=
  match o with
  | .add => wrapSat sat (a.toInt + b.toInt)
  | .sub => wrapSat sat (a.toInt - b.toInt)
  | .mul => wrapSat sat (a.toInt * b.toInt)
  | .mulhS => ofI (a.toInt * b.toInt / 2 ^ 32)
  | .mulhZ => BitVec.ofNat 32 (a.toNat * b.toNat / 2 ^ 32)
  | .mad => wrapSat sat (a.toInt * b.toInt + d.toInt)
  | .minS => if a.toInt ≤ b.toInt then a else b
  | .minZ => if a.toNat ≤ b.toNat then a else b
  | .maxS => if a.toInt ≤ b.toInt then b else a
  | .maxZ => if a.toNat ≤ b.toNat then b else a
  | .and => a &&& b
  | .or => a ||| b
  | .xor => a ^^^ b
  | .andn => a &&& ~~~b
  | .shl => if 32 ≤ b.toNat then 0 else BitVec.ofNat 32 (a.toNat * 2 ^ b.toNat)
  | .shr => if 32 ≤ b.toNat then 0 else BitVec.ofNat 32 (a.toNat / 2 ^ b.toNat)
  | .sar => ofI (a.toInt / 2 ^ min b.toNat 32)
  | .rotl => a.rotateLeft (b.toNat % 32)
  | .clz => BitVec.ofNat 32 (clz32 a)
  | .popc => BitVec.ofNat 32 (popcN a.toNat 32)
  | .brev => BitVec.ofNat 32 (brevN a.toNat 32)
  | .bfx => bfx a b
  | .bfi => bfi a b d
  | .sel => (a &&& d) ||| (b &&& ~~~d)
  | .divS => wrapSat sat (divS a b)
  | .divZ => if b == 0 then 0xFFFFFFFF else BitVec.ofNat 32 (a.toNat / b.toNat)
  | .remS => ofI (remS a b)
  | .remZ => if b == 0 then a else BitVec.ofNat 32 (a.toNat % b.toNat)
  | .abs => wrapSat sat a.toInt.natAbs
  | .neg => wrapSat sat (-a.toInt)
  | .addsatS => ofI (clampS 32 (a.toInt + b.toInt))
  | .idot4 => wrapSat sat (dot4I a b + d.toInt)
  | _ => a

/-- Whether the operation's result passes through Round (R283). -/
def rounds : Op6 → Bool
  | .fadd | .fsub | .fmul | .ffma | .qdot4 | .i2f | .fscale | .hadd2 | .hsub2 | .hmul2 | .hfma2 => true
  | _ => false

/-- The sign of the second operand of FCPSGN, read from its sign bit even for a NaN. -/
def signOfCode (f : FloatFmt) (x : Nat) : Bool := x / 2 ^ (fmtBits f - 1) % 2 == 1

/-- Exact result of a floating operation on decoded elements (R283). -/
def floatExact (o : Op6) (rm : Rm) (bNeg : Bool) (a b d : FVal) : FVal :=
  match o with
  | .fadd | .hadd2 => addV rm a b
  | .fsub | .hsub2 => addV rm a (negV b)
  | .fmul | .hmul2 => mulV a b
  | .ffma | .hfma2 => addV rm (mulV a b) d
  | .fmin | .hmin2 => minMaxV false a b
  | .fmax | .hmax2 => minMaxV true a b
  | .fabs => absV a
  | .fneg => negV a
  | .fcpsgn => if isNaNV a then .nan else if bNeg then negV (absV a) else absV a
  | .ffloor => toIntegral .rd a
  | .fceil => toIntegral .ru a
  | .ftrunc => toIntegral .rz a
  | .frint => toIntegral rm a
  | _ => a

/-- One element of a floating operation as a code: decoded, computed, rounded once if the operation rounds (R282). -/
def floatElem (o : Op6) (f : FloatFmt) (rm : Rm) (sat ftz : Bool) (a b d : Nat) : Nat :=
  let x := floatExact o rm (signOfCode f b) (decF ftz f a) (decF ftz f b) (decF ftz f d)
  if rounds o then roundF rm sat ftz f x else roundF .rne false false f x

/-- A scalar operation with operands of its own kinds, or an FP32 operation (R283). -/
def floatResult (o : Op6) (rm : Rm) (sat ftz : Bool) (a b d : Word) : Word :=
  match o with
  | .qdot4 => BitVec.ofNat 32 (roundF rm sat ftz .f32 (qdot4V rm ftz a b d))
  | .f2i => ofI (toIntSat rm (-(2 ^ 31)) (2 ^ 31 - 1) (decF ftz .f32 a.toNat))
  | .i2f => BitVec.ofNat 32 (roundF rm sat ftz .f32 (ofIntV a.toInt))
  | .fscale => BitVec.ofNat 32 (roundF rm sat ftz .f32 (scaleV b.toInt (decF ftz .f32 a.toNat)))
  | _ => BitVec.ofNat 32 (floatElem o .f32 rm sat ftz a.toNat b.toNat d.toNat)

/-- A packed operation, each half on its own (R284). -/
def halfResult (o : Op6) (f : FloatFmt) (rm : Rm) (sat ftz : Bool) (a b d : Word) : Word :=
  let e := fun k => floatElem o f rm sat ftz (halfOf a k) (halfOf b k) (halfOf d k)
  packHalves (e 0) (e 1)

/-- Result tag of the tag-neutral operations AND, OR, XOR, ANDN and SEL (R87). -/
def neutralTag (a b : VReg) : BitVec 4 :=
  if a.tag != tRaw && b.tag != tRaw && a.tag != b.tag then tRaw else a.tag

/-- Result register of an inner operation on one lane (R203, R282). -/
def op6Result (o : Op6) (rm : Rm) (sat ftz : Bool) (a b d : VReg) : VReg :=
  match o with
  | .mov => a
  | .and | .or | .xor | .andn | .sel => { val := intResult o sat a.val b.val d.val, tag := neutralTag a b }
  | .add | .sub | .mul | .mulhS | .mulhZ | .mad | .minS | .minZ | .maxS | .maxZ | .shl | .shr | .sar | .rotl | .clz
  | .popc | .brev | .bfx | .bfi | .divS | .divZ | .remS | .remZ | .abs | .neg | .addsatS | .idot4 =>
    { val := intResult o sat a.val b.val d.val, tag := tI32 }
  | .hadd2 | .hsub2 | .hmul2 | .hfma2 | .hmin2 | .hmax2 =>
    let bf := halfBf o a b d
    { val := halfResult o (if bf then .bf16 else .f16) rm sat ftz a.val b.val d.val
      tag := if bf then tBf16x2 else tF16x2 }
  | .f2i => { val := floatResult o rm sat ftz a.val b.val d.val, tag := tI32 }
  | .fadd | .fsub | .fmul | .ffma | .fmin | .fmax | .fabs | .fneg | .fcpsgn | .qdot4 | .i2f | .ffloor | .fceil | .ftrunc
  | .frint | .fscale =>
    { val := floatResult o rm sat ftz a.val b.val d.val, tag := tF32 }

/-- Fixed latency of an inner operation; the four divisions are interlocked (R187). -/
def op6Latency : Op6 → Option Nat
  | .divS | .divZ | .remS | .remZ => none
  | .mul | .mulhS | .mulhZ | .mad | .fadd | .fsub | .fmul | .ffma | .hadd2 | .hsub2 | .hmul2 | .hfma2 | .f2i | .i2f | .ffloor
  | .fceil | .ftrunc | .frint | .fscale => some 4
  | .idot4 | .qdot4 => some 6
  | _ => some 2

/-- Formats of a FMT field of two bits: F32, F16X2, BF16X2. -/
def fmt3 (n : Nat) : FloatFmt := match n with | 0 => .f32 | 1 => .f16 | _ => .bf16
def fmt3Tag (n : Nat) : BitVec 4 := match n with | 0 => tF32 | 1 => tF16x2 | _ => tBf16x2

/-- Elements of a 32-bit register in a format. -/
def mapElems (n : Nat) (g : Nat → Nat) (x : Word) : Word :=
  if n == 0 then BitVec.ofNat 32 (g x.toNat) else packHalves (g (halfOf x 0)) (g (halfOf x 1))

/-- The functions of R286 that take one operand, and division. -/
inductive TransFn where
  | rcp | rsq | sqrt | ex2 | lg2 | sin | cos | tanh | div
deriving DecidableEq, Repr

/-- Value of a function of R286, ready for its one rounding. -/
def transV (fn : TransFn) (a b : FVal) : FVal :=
  match fn with
  | .rcp => divV (.fin false 1 0) a
  | .rsq => rsqrtV a
  | .sqrt => sqrtV a
  | .ex2 => exp2V a
  | .lg2 => log2V a
  | .sin => sinPiV a
  | .cos => cosPiV a
  | .tanh => tanhV a
  | .div => divV a b

/-- One register of a function of R286, element by element. -/
def transResult (fn : TransFn) (fmt : Nat) (rm : Rm) (sat ftz : Bool) (a b : Word) : Word :=
  let f := fmt3 fmt
  let one := fun x y => roundF rm sat ftz f (transV fn (decF ftz f x) (decF ftz f y))
  if fmt == 0 then BitVec.ofNat 32 (one a.toNat b.toNat)
  else packHalves (one (halfOf a 0) (halfOf b 0)) (one (halfOf a 1) (halfOf b 1))

/-- Container tag of a conversion format (R287). -/
def cvtTag (f : Nat) : BitVec 4 :=
  match f with
  | 0 => tF32
  | 1 => tF16x2
  | 2 => tBf16x2
  | 3 => tE4m3x4
  | 4 => tE5m2x4
  | 5 => tI32
  | _ => tI8x4

/-- Bits of an element of a conversion format. -/
def cvtBits (f : Nat) : Nat := 32 / cvtElems f

def cvtFloat (f : Nat) : Option FloatFmt :=
  match f with
  | 0 => some .f32
  | 1 => some .f16
  | 2 => some .bf16
  | 3 => some .e4m3
  | 4 => some .e5m2
  | _ => none

/-- FCVT of one element code from format `sf` to format `df` (R287). -/
def cvtElem (rm : Rm) (sat ftz : Bool) (sf df : Nat) (x : Nat) : Nat :=
  let wd := cvtBits df
  match cvtFloat sf, cvtFloat df with
  | some f, some g => roundF rm sat ftz g (decF ftz f x)
  | none, some g => roundF rm sat ftz g (ofIntV (BitVec.ofNat (cvtBits sf) x).toInt)
  | some f, none => (BitVec.ofInt wd (toIntSat rm (-(2 ^ (wd - 1))) (2 ^ (wd - 1) - 1) (decF ftz f x))).toNat
  | none, none =>
    let v := (BitVec.ofNat (cvtBits sf) x).toInt
    (BitVec.ofInt wd (if sat then clampS wd v else v)).toNat

/-- `x` with `w` bits at position `k * w` replaced by `y`. -/
def putElem (x : Word) (w k y : Nat) : Word :=
  let old := x.toNat / 2 ^ (k * w) % 2 ^ w
  BitVec.ofNat 32 (x.toNat - old * 2 ^ (k * w) + y % 2 ^ w * 2 ^ (k * w))

/-- Destination register of FCVT (R287). -/
def cvtResult (p : FcvtP) (a d : Word) : Word :=
  let sf := p.sf.toNat
  let df := p.df.toNat
  let x := a.toNat / 2 ^ (p.ssel.toNat * cvtBits sf) % 2 ^ cvtBits sf
  putElem d (cvtBits df) p.dsel.toNat (cvtElem (rmOf p.rm.toNat) p.sat p.ftz sf df x)

/-- Class codes of a register (R291): 0 F32, 1 F16X2, 2 BF16X2, 3 E4M3X4, 4 E5M2X4. -/
def fclassCodes (fmt : Nat) (x : Word) : List Nat :=
  match fmt with
  | 0 => [fclassOf .f32 x.toNat]
  | 1 => [fclassOf .f16 (halfOf x 0), fclassOf .f16 (halfOf x 1)]
  | 2 => [fclassOf .bf16 (halfOf x 0), fclassOf .bf16 (halfOf x 1)]
  | 3 => (List.range 4).map (fun k => fclassOf .e4m3 (byteOf x k))
  | _ => (List.range 4).map (fun k => fclassOf .e5m2 (byteOf x k))

/-- Codes packed four bits each, element 0 low. -/
def packNibbles : List Nat → Nat
  | [] => 0
  | c :: cs => c + 16 * packNibbles cs

/-- Expected tag of FCLASS by its format. -/
def fclassTag (fmt : Nat) : BitVec 4 :=
  match fmt with
  | 0 => tF32
  | 1 => tF16x2
  | 2 => tBf16x2
  | 3 => tE4m3x4
  | _ => tE5m2x4

/-- Block header and codes that FPACK forms from its 32 values (R289). -/
def fpackBlock (spx : Bool) (hr : Nat) (xs : List FVal) : Nat × List Nat :=
  if xs.any nonFinite then (0x7FC0, xs.map (fun _ => 0))
  else if xs.all isZeroV then (0x3F80, xs.map (fun _ => 0))
  else
    let big := xs.foldl (fun (acc : FVal) x => if ltV (absV acc) (absV x) then x else acc) (.fin false 0 0)
    let sExp := max (-126) (min 127 (log2Mag big - 2 + (hr : Int)))
    let to8 := fun v => roundF .rne true false .e4m3 (scaleV (-sExp) v)
    let x := to8 big
    let code := fun v =>
      if spx && eqV (decF false .e4m3 (to8 v)) (decF false .e4m3 x) then 8 else e2m1Code (scaleV (-sExp) v)
    (((if spx then 2 ^ 24 + x * 2 ^ 16 else 0) + (sExp + 127).toNat * 128), xs.map code)

/-- Element `j` of the block held in four registers and a header, rounded to FP32 (R290, R76). -/
def funpkElem (e : Word) (h : Word) (j : Nat) : Word :=
  let hd := h.toNat
  if blkMalformed hd then BitVec.ofNat 32 (canonNaN .f32)
  else
    let c := e.toNat / 2 ^ (4 * (j % 8)) % 16
    BitVec.ofNat 32 (roundF .rne false false .f32 (mulV (e2m1Val (blkSpecial hd) c) (blkScale hd)))

end Sys2Proof.Machine
end

