-- ==== Sys2Proof/Machine/State.lean ====
section
/-!
DEFINITION. Everything the spec gives the machine, as plain data: fibres and batches (02), registers and memory (03), lathes (05),
billets (06), the directory (07), matrix engines (08), gangs (09), queues and streamers (15), system registers, launch queues,
fault queues and traps (22 to 25), power and boot (26), debug and replay (27). Units are lists of records keyed by their numbers;
a unit not listed is in its reset state.
-/
namespace Sys2Proof.Machine

/-- Home context of a fibre: package core, issue port, context index (R22). -/
structure FKey where
  core : Nat
  port : Nat
  ctx : Nat
deriving DecidableEq, Repr

/-- Destination of a pending fixed-latency write (R202). -/
inductive PendDest where
  | reg (v : Nat) (r : VReg)
  | tag (v : Nat) (t : BitVec 4)
  | pred (p : Nat) (b : Bool)
deriving DecidableEq, Repr

/-- A pending fixed-latency write: its remaining distance, its destination, and whether it has landed early because a later
write of the same register landed (R200 to R202). -/
structure Pend where
  left : Nat
  dest : PendDest
  landed : Bool
deriving DecidableEq, Repr

/-- Kinds of outstanding requests whose results are interlocked (R199): loads, atomics, RED's query, and the status of a CUTREG whose cut
has not been entered (R310). -/
inductive OutKind where
  | load
  | atom
  | query
  | cut
deriving DecidableEq, Repr

/-- An outstanding load, atomic or RED query of a fibre; `fe` is 1 for .fe and 2 for .fe.clr, and an atomic's order; `acq` marks an acquire (R62,
R161, R230, R238, R241). For a CUTREG `addr` and
`w` are the first cell and the rows of its range, `b` its cut words, `off` its bank row (R310). -/
structure Out where
  id : Nat
  kind : OutKind
  spad : Bool
  addr : Nat
  w : Nat
  d : Nat
  tags : List (BitVec 4)
  fe : Nat
  atBank : Bool
  scope : Nat
  acq : Bool
  aop : Nat
  b : Nat
  e : Nat
  obj : Nat
  off : Nat
  hash : BitVec 64
  pc : BitVec 44
deriving DecidableEq, Repr

/-- An operation counted by an async counter: class 0 cpy, 1 mx, 2 row, 3 fab, 4 lda (R68). -/
structure AOp where
  id : Nat
  cls : Nat
  done : Bool
  err : Bool
deriving DecidableEq, Repr

/-- What a waiting fibre waits for. `retry` is a wait before issue: the instruction executes again. In every other wait the
instruction has been issued and the program counter has moved on; `Fibre.waitPc` is the instruction's own. `mates`: a guard-false lane waits
with the lanes of its batch that wait at BAR, NFVOTE or GSYNC (R152, R223, R306). -/
inductive Wait where
  | retry
  | bar (id phase : Nat)
  | bwait (addr : Nat)
  | barv (addr d : Nat)
  | fe (addr : Nat)
  | recv (n d : Nat) (hdr : Option Nat) (pd : Nat)
  | vote (pd : Nat)
  | sync (pd : Nat)
  | gate
  | guestSlot
  | trapping (code info : Nat)
  | mates
deriving DecidableEq, Repr

/-- Why a fibre is parked (R21): a trap, unresolved pages by the internal numbers of their fault entries, or NOPEN.wait on a name. -/
inductive ParkCause where
  | trap
  | unresolved (entries : List Nat)
  | name (n : BitVec 64)
deriving DecidableEq, Repr

/-- Run states of R21; a fibre is away when `Fibre.guest` holds a guest. -/
inductive Run where
  | ready
  | waiting (w : Wait)
  | parked (c : ParkCause)
  | joining
  | exited
deriving DecidableEq, Repr

/-- Trap record of R354. -/
structure TrapRec where
  siblings : BitVec 32
  lanes : BitVec 32
  parent : BitVec 24
  blk : BitVec 17
  fid : BitVec 13
  port : BitVec 2
  cmp : Bool
  nest : Bool
  pc : BitVec 44
  detail : BitVec 16
  cause : BitVec 8
  info : BitVec 64
deriving DecidableEq, Repr

/-- A message of an away fibre on the fabric (R114, R118, R119). -/
inductive Transit where
  | none
  | out
  | home
  | barArrival
  | joinArrival
  | release
deriving DecidableEq, Repr

/-- State of an away fibre: guest core, hop count, live-set index of its billet and that set's register mask, carried capabilities at
their home numbers, and the vector registers kept at home (R112 to R119). A fibre with a guest holds a guest slot. -/
structure Guest where
  core : Nat
  hops : Nat
  live : Nat
  mask : Nat
  caps : List (Nat × CapWord)
  homeRegs : List VReg
deriving DecidableEq, Repr

/-- A move that has been decided and waits for a guest slot: target core, live-set index and mask, carried capabilities, the program
counter at which the fibre resumes, whether the qualifier is fb, and T_guest as it stood when the wait began (R111, R114, R120, R323). -/
structure Move where
  core : Nat
  fb : Bool
  live : Nat
  mask : Nat
  caps : List (Nat × CapWord)
  pc : BitVec 44
  limit : Nat
deriving DecidableEq, Repr

/-- An owner lookup of a lane: address, the answer (a stack, or 64 plus a cause) when it has come, and the refusal of a move that
waited for a guest slot (R313, R120). -/
structure Lookup where
  obj : Nat
  off : Nat
  ans : Option Nat
  ref : Nat
deriving DecidableEq, Repr

/-- A translation the port has answered to a waiting lane: object, page offset, the place or the cause, and of its extent the row-exclusive
attribute and the end (R338, R339, R341). -/
structure Xlate where
  obj : Nat
  page : Nat
  place : Option Nat
  cause : Nat
  rx : Bool
  top : Nat
deriving DecidableEq, Repr

/-- A fibre (R19) with everything 12, 13, 16, 24, 25 and 27 add to it. `wbase`: its window base (R19). `expired`: its masked handler has used
up its budget after a pre-emption request (R356). `mark`: TLBINV waits for the walks numbered below it (R369). `bat`: the batch it last
belonged to (R23). `ldl`: destinations of the LDLs since its batch's scratchpad completion count was last zero (R62). `acts`: it has
moved for its LD.mig or MIGR, which is an ordinary access now (R313, R314). `drops`: its present return home was begun by pre-emption (R202,
R356). `atMx`: the instruction at which it waits before issue is one of those that the engine-lost mark stops (R300). -/
structure Fibre where
  key : FKey
  blk : Nat
  bp : Nat
  fid : Nat
  pc : BitVec 44
  preds : BitVec 96
  regs : List VReg
  joins : List (Nat × Nat)
  run : Run
  slot : Option Nat
  age : Nat
  pend : List Pend
  outs : List Out
  ops : List AOp
  sticky : BitVec 5
  level : Nat
  tm : Bool
  trec : Option TrapRec
  logRec : Option TrapRec
  frag : Nat
  savedRegs : List VReg
  savedPreds : BitVec 96
  migst : BitVec 3
  redrej : BitVec 32
  lost : Bool
  fhash : BitVec 64
  dbcause : Bool
  cmpPass : Bool
  owe : Nat
  next : Nat
  waitPc : BitVec 44
  waitSeq : Nat
  waitSince : Nat
  guest : Option Guest
  transit : Transit
  move : Option Move
  own : Option Lookup
  xl : List Xlate
  expired : Bool
  mark : Option Nat
  sentTo : List (Nat × Nat)
  sent : Nat
  wbase : BitVec 16
  bat : Nat
  ldl : List Nat
  acts : Bool
  drops : Bool
  atMx : Bool
deriving DecidableEq, Repr

/-- A CUTREG whose lane has exited before its cut was entered: home context, block and fibre of the lane, and its request (R28, R310). -/
structure LeftCut where
  fib : FKey
  blk : Nat
  fid : Nat
  out : Out
deriving DecidableEq, Repr

/-- A batch slot in use: age stamp, last issue, earliest next issue, batch identifier (R23, R35, R200). Its lanes are the fibres that name
it. -/
structure Slot where
  core : Nat
  port : Nat
  idx : Nat
  age : Nat
  last : Nat
  next : Nat
  bid : Nat
deriving DecidableEq, Repr

/-- Kinds of store FIFO entries (R22, R231, R240, R243, R247, R267). -/
inductive StKind where
  | st
  | stl (qc : Nat)
  | capst
  | red (rop rfmt : Nat)
  | radd (fmt : Nat) (es : BitVec 8)
  | feset
  | feclr
deriving DecidableEq, Repr

/-- A store waiting in a FIFO: issuer, kind, object and offset or scratchpad cell, width, data; for a release, whether it waits for
the gatherings it sent (R167, R168); the fault entry it waits for (R58). -/
structure Store where
  id : Nat
  fib : FKey
  blk : Nat
  fid : Nat
  pc : BitVec 44
  kind : StKind
  spad : Bool
  obj : Nat
  off : Nat
  w : Nat
  data : Nat
  scope : Nat
  rel : Bool
  opId : Option Nat
  hash : BitVec 64
  entry : Option Nat
  lost : Bool
  gone : Bool
  xl : Option Xlate
  waits : List Nat
  marked : Bool
  part : Nat
deriving DecidableEq, Repr

/-- Spawn bin (R29): block part and entry, start cycle, fibres by context. -/
structure Bin where
  idx : Nat
  bp : Nat
  entry : BitVec 44
  start : Nat
  timer : Nat
  ctxs : List Nat
deriving DecidableEq, Repr

/-- Flush-marker gathering sent by a release or fence (R167): a die below 8, or 8 plus a device. -/
structure Gather where
  id : Nat
  dest : Nat
deriving DecidableEq, Repr

/-- Issue port of a core: store FIFO, spawn bins, die mask and device set, gatherings, the batch that must issue next (R35), and one past the
cycle in which it last issued. -/
structure Port where
  core : Nat
  port : Nat
  fifo : List Store
  bins : List Bin
  dieMask : BitVec 8
  devSet : List Nat
  allDevs : Bool
  gathers : List Gather
  forced : Option Nat
  issued : Nat
deriving DecidableEq, Repr

/-- Message of R252: words with tags and the header. -/
structure QMsg where
  words : List VReg
  header : BitVec 32
deriving DecidableEq, Repr

/-- Registers of a block part as they stood before cycle `cycle`, and the highest port that has written each register in that cycle
(R48, R201): a batch of another port that issues in that cycle reads these. -/
structure Before where
  cycle : Nat
  s : List Word
  c : List CapWord
  sbchk : Bool
  uw : List (Nat × Nat)
  cw : List (Nat × Nat)
deriving DecidableEq, Repr

/-- Block part (R25): s0 to s255, c0 to c15, open marks with the object each open holds, SBCHK, DTAG, inbound queue; what its registers
held before the cycle of their last write (R48). -/
structure Part where
  core : Nat
  bp : Nat
  blk : Nat
  rel : Nat
  s : List Word
  c : List CapWord
  opens : BitVec 16
  sbchk : Bool
  dtag : BitVec 32
  inq : List QMsg
  was : Option Before
deriving DecidableEq, Repr

/-- Named barrier (R223): phase count, arrivals, the CNT value of the phase. -/
structure NBar where
  phase : BitVec 32
  arrived : Nat
  expect : Option Nat
deriving DecidableEq, Repr

/-- Replay counters of R146. -/
structure Replay where
  tiles : BitVec 24
  replays : BitVec 24
  exhausted : BitVec 16
deriving DecidableEq, Repr

/-- Slot of a block fault record (R347). -/
structure FaultRec where
  obj : BitVec 32
  pc : BitVec 44
  fid : BitVec 13
  code : BitVec 4
  gone : Bool
deriving DecidableEq, Repr

/-- Loss-scale state of a member block (R149, R151). -/
structure Lsst where
  esend : BitVec 8
  eacc : BitVec 8
  nf : Bool
  vkill : Bool
  runf : BitVec 16
  rovf : BitVec 16
deriving DecidableEq, Repr

/-- A block (R38). `pre`: pre-emption has been requested, at `preAt` (R356); `dbg`: stopped by DSTOP (R389); `held`: restored and not
yet released by LSQRST (R371); `lsq`: LSQSAVE has named it since it stopped (R371). -/
structure Block where
  id : Nat
  kernel : Nat
  gang : Option Nat
  member : Nat
  x : Nat
  y : Nat
  z : Nat
  part : Nat
  queue : Nat
  level : Nat
  prio : Nat
  spadAt : Nat
  spadSize : Nat
  tileN : Nat
  bars : List NBar
  faults : List FaultRec
  fovf : Bool
  replay : Replay
  lsst : Lsst
  opPort : List (List Word)
  killed : Bool
  done : Bool
  pre : Bool
  preAt : Nat
  dbg : Bool
  held : Bool
  lsq : Bool
deriving DecidableEq, Repr

/-- Gang (R39) with its current vote and sync rounds (R152, R306): contributions by member, none when not yet made; `voteFwd` is what it has
forwarded to its domain group's round, `voteKill` that a killed gang of the group has retired while that round was open (R154). -/
structure Gang where
  id : Nat
  kernel : Nat
  members : List Nat
  killed : List Bool
  votes : List (Option Bool)
  voteDom : Bool
  voteFwd : Option Bool
  voteKill : Bool
  syncs : List Bool
deriving DecidableEq, Repr

/-- Resident or queued kernel (R40, R326), the index of its packet, its grid with the next block or gang to admit, its replay counters (R146),
its trial (R373) and its energy counter (R380), and the kernel of its queue before it, for which ORD waits (R332). -/
structure Kernel where
  id : Nat
  part : Nat
  queue : Nat
  index : Nat
  code : CapWord
  entry : BitVec 44
  fibres : Nat
  partsN : Nat
  win : Nat
  tilesN : Nat
  spadK : Nat
  gangN : Nat
  gx : Nat
  gy : Nat
  gz : Nat
  binTimer : Nat
  pFirst : Nat
  pCount : Nat
  sbchk : Bool
  ord : Bool
  esend : BitVec 8
  eacc : BitVec 8
  voteGrp : Nat
  liveN : Nat
  liveOff : BitVec 44
  doneVal : BitVec 64
  caps : List CapWord
  unis : List Word
  nextBlk : Nat
  liveBlks : Nat
  replay : Replay
  trial : Option (Nat × Nat × Nat)
  energy : BitVec 64
  after : Option Nat
deriving DecidableEq, Repr

/-- Launch queue (R324, R325, R329), or a monitor queue (R382) in partition 8: registers, the TAIL the processor knows, and its ageing: the
ageing steps that have been noted in `reached`, when the next one falls due, and when it reached the priority of those noted (R329); the last
kernel that it has launched (R332). -/
structure LQueue where
  part : Nat
  q : Nat
  ring : BitVec 64
  en : Bool
  prio : BitVec 3
  logn : BitVec 4
  tailAddr : BitVec 64
  head : BitVec 32
  doneAddr : BitVec 64
  halt : Bool
  index : BitVec 32
  err : BitVec 8
  tail : Option (BitVec 32)
  waitAt : Nat
  reached : Nat
  reachAt : Nat
  last : Option Nat
deriving DecidableEq, Repr

/-- Entry of a port's TLBs (R341): a range of an extent, or one page; the place is a device address, or for a page entry with P clear or MOV
set the cause (R343). `rx` and `top` are the row-exclusive attribute and the end of the extent (R338, R339). -/
structure Tlb where
  mport : Nat
  part : Nat
  range : Bool
  obj : Nat
  lo : Nat
  hi : Nat
  place : Nat
  cause : Option Nat
  rx : Bool
  top : Nat
deriving DecidableEq, Repr

/-- Who waits for a walk (R342); of another device's request, its kind of access. -/
inductive Waiter where
  | fibre (k : FKey)
  | store (id : Nat)
  | copy (id : Nat)
  | mx (cluster idx : Nat)
  | remote (kind : Nat)
deriving DecidableEq, Repr

/-- Translation walk in progress at a port. -/
structure Walk where
  id : Nat
  mport : Nat
  part : Nat
  obj : Nat
  page : Nat
  waiters : List Waiter
deriving DecidableEq, Repr

/-- Fault queue entry (R345) with the model's own number `eid`, whether it is posted and popped (R344), and whether an owner lookup found it
(R313). -/
structure FaultEntry where
  eid : Nat
  ident : Nat
  posted : Bool
  popped : Bool
  obj : BitVec 32
  poff : BitVec 44
  cause : BitVec 4
  kind : BitVec 4
  w : Bool
  core : BitVec 11
  port : BitVec 2
  slot : BitVec 6
  lanes : BitVec 32
  pc : BitVec 44
  fid : BitVec 13
  blk : BitVec 17
  waiter : Waiter
  look : Bool
deriving DecidableEq, Repr

/-- Replay or recording state of a partition (R393, R394): open chunk (object index, requester, run, hash) by object, and for
replay the grants left of the current chunk, and the objects whose replay has stopped. -/
structure RrChunk where
  j : Nat
  coord : BitVec 48
  fid : BitVec 13
  run : Nat
  hash : BitVec 64
  addr : Nat
deriving DecidableEq, Repr

/-- Per-partition state that is not a plain register: fault queue, reclamation queue, trap log and latch, directory quota, frames of stacks that
the monitor has given to others (R374: stack, first frame, count), replay. -/
structure Partn where
  part : Nat
  faults : List FaultEntry
  reclaims : List (BitVec 128)
  deferred : List (BitVec 128)
  tlog : List TrapRec
  tovf : Bool
  latch : BitVec 256
  quota : Nat
  denied : List (Nat × Nat × Nat)
  rrOpen : List RrChunk
  rrCur : List RrChunk
  rrDone : List Nat
  rrUsed : BitVec 32
  rrFull : Bool
  rrBad : Bool
  rrDiv : Bool
  trTail : BitVec 32
  trDrops : BitVec 32
  pcount : BitVec 64
  dcount : BitVec 64
deriving DecidableEq, Repr

/-- Tile register by its number, 16 times its block plus its number in the share: tag and 4096 elements by row (R47, R89), one past the cycle of
its last access and the highest port that made one in that cycle (R304). -/
structure Tile where
  no : Nat
  tag : BitVec 4
  els : List Word
  usedAt : Nat
  usedBy : Nat
deriving DecidableEq, Repr

/-- Reservation table entry (R135, R137, R138, R143, R144): parameter block words, capabilities at issue, index vector and whether that
was damaged (R17), operand shadow, rung and pass, partial result, monitor counts. -/
structure MxEntry where
  idx : Nat
  blk : Nat
  fib : FKey
  fid : Nat
  pc : BitVec 44
  opId : Nat
  issue : Nat
  prio : Nat
  params : List Word
  bcap : CapWord
  wcap : CapWord
  index : List Nat
  hurt : Bool
  needPort : Bool
  active : Bool
  shadow : List Nat
  keep : List Bool
  rung : Nat
  pass : Nat
  acc : List Word
  satN : Nat
  undN : Nat
  canN : Nat
  nonfin : Bool
  replays : Nat
  granted : Bool
  lastGrant : Nat
  activeAt : Nat
  waits : List Nat
  xl : List Xlate
deriving DecidableEq, Repr

/-- Matrix engine of a cluster (R14, R135, R379): credit, throttle step, entries; when each kernel began its passes and when a kernel last ended
one; when the engine last ended a pass, and when its next pass slot begins. -/
structure Engine where
  cluster : Nat
  credit : Nat
  step : Nat
  entries : List MxEntry
  firstPass : List (Nat × Nat)
  lastPass : List (Nat × Nat)
  lastEnd : Nat
  slotAt : Nat
  starving : Option Nat
deriving DecidableEq, Repr

/-- Streamer command (R257 to R265): command block words, capabilities at issue, progress index, the fault entries it waits for. -/
structure Copy where
  cluster : Nat
  id : Nat
  slot : Nat
  kind : Nat
  blk : Nat
  fib : FKey
  fid : Nat
  pc : BitVec 44
  opId : Nat
  words : List Word
  scap : CapWord
  dcap : CapWord
  started : Bool
  index : Nat
  waits : List Nat
  xl : List Xlate
deriving DecidableEq, Repr

/-- Held start token (R261). -/
structure Token where
  cluster : Nat
  blk : Nat
  key : Nat
deriving DecidableEq, Repr

/-- Message on the fabric: a remote add (R147), a SEND through the egress (R253), an ESEND update (R149). -/
inductive MsgKind where
  | radd (blk off : Nat) (val : Word) (fmt : Nat) (es : BitVec 8)
  | send (blk ccore : Nat) (m : QMsg)
  | esend (blk : Nat) (val : BitVec 8)
deriving DecidableEq, Repr

structure Msg where
  id : Nat
  src : FKey
  blk : Nat
  opId : Nat
  kind : MsgKind
deriving DecidableEq, Repr

/-- LDA transaction in flight (R235): source place, destination and barrier cells. -/
structure LdaTx where
  id : Nat
  fib : FKey
  opId : Nat
  blk : Nat
  src : Nat
  w : Nat
  dst : Nat
  bar : Nat
deriving DecidableEq, Repr

/-- Region-table entry (R90 to R105): a registered cut, or a row program's occupation (R276). `floor`: the boost below which its bank's may not fall
while this cut has pending rows, so that it meets the bound of R100. -/
structure Region where
  idx : Nat
  part : Nat
  obj : Nat
  bank : Nat
  row : Nat
  n : Nat
  func : Nat
  fmt : Nat
  sat : Bool
  ca : Word
  cb : Word
  stand : Bool
  held : Bool
  passes : Nat
  state : Nat
  start : Nat
  done : Nat
  dmap : List Nat
  ue : Bool
  uerow : Nat
  aborted : Bool
  boost : Nat
  floor : Nat
  fib : FKey
  blk : Nat
  opId : Nat
  isProg : Bool
  slot : Nat
  px : Nat
  py : Nat
  pz : Nat
  order : Nat
  sub : Nat
  running : Bool
  step : Nat
deriving DecidableEq, Repr

/-- Lathe sequencer of a stack: region table, program slots, sweep position and last restore of banks, temperature, banks whose
lengthening of W is deferred, save mode, accesses waiting on pending rows with the time the bound of R99 falls, the last step of a
program by region (R94 to R109). Times of turns are in 64ths of a cycle. `kept`, `keptProgs` and `keptDeferred` are what it wrote to the rows
when save mode began (R109). -/
structure Lathe where
  stack : Nat
  regions : List Region
  progs : List (Nat × Nat × List Word)
  sweep : List (Nat × Nat)
  turnAt : List (Nat × Nat)
  hot : Bool
  deferred : List Nat
  save : Bool
  kept : List Region
  keptProgs : List (Nat × Nat × List Word)
  keptDeferred : List Nat
  waits : List (Nat × Nat × Nat)
  lastStep : List (Nat × Nat)
  workAt : Nat
deriving DecidableEq, Repr

/-- Directory binding of a slot (R123): object, length minus one, rights byte. -/
structure Binding where
  obj : Nat
  lenM1 : Nat
  rights : Nat
deriving DecidableEq, Repr

/-- Directory entry: K is 0 for a single entry (R123). -/
structure NameEntry where
  part : Nat
  name : BitVec 64
  k : Nat
  slots : List (Option Binding)
deriving DecidableEq, Repr

/-- Directory-managed object (R124, R132): bind and open counts, last name and slot, reclaimed. -/
structure DirObj where
  part : Nat
  obj : Nat
  binds : Nat
  opens : Nat
  name : BitVec 64
  slot : Nat
  reclaimed : Bool
deriving DecidableEq, Repr

/-- Window object over the local offsets [wb, wb + wl) of a block's scratchpad (R317). -/
structure Window where
  part : Nat
  obj : Nat
  blk : Nat
  wb : Nat
  wl : Nat
  ended : Bool
deriving DecidableEq, Repr

/-- What another device has made known of an object of its own (R317, R319): it is a scratchpad window, the window has ended, granules of
it that are live barriers. -/
structure Far where
  dev : Nat
  obj : Nat
  ended : Bool
  live : List Nat
deriving DecidableEq, Repr

/-- A saved context image, named by the serial number its header granule carries in memory (R360, R371, log 11). -/
structure Image where
  serial : Nat
  part : Nat
  block : Block
  parts : List Part
  fibres : List Fibre
  bins : List (Nat × Nat × Bin)
  spad : List Host.Cell
  fulls : List Nat
  lives : List Nat
  tiles : List Tile
  entries : List MxEntry
  copies : List Copy
  tokens : List Token
  stores : List (Nat × Nat × Store)
  isStores : Bool
deriving DecidableEq, Repr

/-- Boot status of the DVSEC capability (R387). -/
structure Dvsec where
  done : Bool
  fail : Bool
  step : BitVec 4
  code : BitVec 16
  detail : BitVec 64
deriving DecidableEq, Repr

/-- Batch that issues: core, port, slot. -/
structure Cur where
  core : Nat
  port : Nat
  slot : Nat
deriving DecidableEq, Repr

/-- Who moves: a port issues its next batch, or an event happens (log 4). -/
inductive Mover where
  | issue (core port : Nat)
  | event (i : Instr)
deriving DecidableEq, Repr

/-- One scheduled move: cycles that pass before it, and the mover. -/
structure Sched where
  dt : Nat
  mover : Mover
deriving DecidableEq, Repr

/-- The whole machine. -/
structure State where
  /-- Cycles since reset (log 6), and what moves next (log 4). -/
  now : Nat
  agenda : List Sched
  focus : Nat × Nat
  turn : Nat
  cur : Option Cur
  /-- Fresh numbers and the argument of free values (log 7, 13). -/
  seq : Nat
  nextJoin : Nat
  freeCtr : Nat
  /-- Work: 02. -/
  fibres : List Fibre
  slots : List Slot
  ports : List Port
  parts : List Part
  blocks : List Block
  gangs : List Gang
  kernels : List Kernel
  /-- Memory: 03. Cells by device address; hidden bits of granules and words. -/
  mem : List Host.Cell
  capTags : List Nat
  fullBits : List Nat
  liveBits : List Nat
  ueMarks : List Nat
  redTags : List (Nat × Nat)
  redFlags : List Nat
  /-- Ports: 23. -/
  tlbs : List Tlb
  walks : List Walk
  windows : List Window
  fars : List Far
  /-- Engines, streamers, fabric, lathes: 05, 08, 09, 15, 16. -/
  engines : List Engine
  tiles : List Tile
  pkgReplay : Replay
  copies : List Copy
  tokens : List Token
  msgs : List Msg
  ldas : List LdaTx
  feStores : List Store
  leftCuts : List LeftCut
  /-- Writes of the device itself that a row or a sleeping stack holds back: cell, bytes, value (R99, R102, R377, R391). -/
  devWrites : List (Nat × Nat × Nat)
  lathes : List Lathe
  /-- Banks in their refresh windows as the schedule of each weight store began them: die, bank, cycle (R67; log 7). -/
  wrefBank : List (Nat × Nat × Nat)
  /-- Directory: 07. -/
  names : List NameEntry
  dirObjs : List DirObj
  /-- System: 22 to 27. Registers that differ from their reset value, by partition and number. -/
  sys : List (Nat × Nat)
  /-- One past the cycle of the last SYSWR: no other port issues in that cycle after it (R364). -/
  sysAt : Nat
  queues : List LQueue
  partns : List Partn
  owners : List (Nat × Nat)
  serves : List (Nat × Nat)
  fenced : List Nat
  fencePend : List Nat
  power : List (Nat × Nat)
  idleAt : List (Nat × Nat)
  /-- Cycle of the last request at a stack (R377). -/
  reqAt : List (Nat × Nat)
  pathsDown : List Nat
  images : List Image
  dvsec : Dvsec
  bootStep : Nat
  everEnabled : Bool
  belowSince : Option Nat
deriving DecidableEq, Repr

/-- Counters of R146 at reset. -/
def Replay.zero : Replay := { tiles := 0, replays := 0, exhausted := 0 }

/-- The machine right after reset: no work, no memory contents, every register at its reset value. -/
def State.reset : State where
  now := 0
  agenda := []
  focus := (0, 0)
  turn := 0
  cur := none
  seq := 0
  nextJoin := 0
  freeCtr := 0
  fibres := []
  slots := []
  ports := []
  parts := []
  blocks := []
  gangs := []
  kernels := []
  mem := []
  capTags := []
  fullBits := []
  liveBits := []
  ueMarks := []
  redTags := []
  redFlags := []
  tlbs := []
  walks := []
  windows := []
  fars := []
  engines := []
  tiles := []
  pkgReplay := Replay.zero
  copies := []
  tokens := []
  msgs := []
  ldas := []
  feStores := []
  leftCuts := []
  devWrites := []
  lathes := []
  wrefBank := []
  names := []
  dirObjs := []
  sys := []
  sysAt := 0
  queues := []
  partns := []
  owners := []
  serves := []
  fenced := []
  fencePend := []
  power := []
  idleAt := []
  reqAt := []
  pathsDown := []
  images := []
  dvsec := { done := false, fail := false, step := 0, code := 0, detail := 0 }
  bootStep := 0
  everEnabled := false
  belowSince := none

/-- Faults: the machine stops. The one case is an access at a device address that no memory of the spec has. -/
inductive Fault where
  /-- Raised by a table walk's read, a vector table read, an ownership map read or a host access outside every memory. Safe: the
  spec says nothing lies there, and the model stops. -/
  | noSuchAddress (addr : Nat)
deriving DecidableEq, Repr

/-- Refusals: no meaning. -/
inductive Refusal where
  /-- Raised by an arm of `exec` whose instruction has no meaning yet. Safe: nothing is claimed of it. -/
  | notModelled (mnemonic : String)
deriving DecidableEq, Repr

/-- Result of a step. -/
abbrev Result := Host.Outcome State Fault Refusal

end Sys2Proof.Machine
end

