-- ==== Sys2Proof/Machine/Ops.lean ====
section
/-!
DEFINITION. The named operations on the state: number sets and maps, memory bytes in canonical form, records found and changed by
their numbers, registers of a fibre and their pending writes (R199 to R202), join entries (R31), taking a trap and returning
from it (R353, R366), and the end of an issue: fragments, slots, distances and age (R30, R35, R200).
-/
namespace Sys2Proof.Machine

/-! ### Sets and maps of numbers, kept in rising order -/

/-- `x` put into a set. -/
def setIns (x : Nat) : List Nat → List Nat
  | [] => [x]
  | y :: ys => if x < y then x :: y :: ys else if x == y then y :: ys else y :: setIns x ys

/-- `x` in the set exactly when `b`. -/
def setPut (x : Nat) (b : Bool) (l : List Nat) : List Nat := if b then setIns x l else l.filter (· != x)

/-- Value at a key, `d` where the key is not listed. -/
def mapGet (l : List (Nat × Nat)) (k d : Nat) : Nat := match l.find? (·.1 == k) with | some p => p.2 | none => d

/-- Key set to a value. -/
def mapPut (k v : Nat) : List (Nat × Nat) → List (Nat × Nat)
  | [] => [(k, v)]
  | p :: ps => if k < p.1 then (k, v) :: p :: ps else if k == p.1 then (k, v) :: ps else p :: mapPut k v ps

/-- Key no longer listed. -/
def mapDel (k : Nat) (l : List (Nat × Nat)) : List (Nat × Nat) := l.filter (·.1 != k)

/-- Insertion sort by a number, stable. -/
def insBy {α : Type} (w : α → Nat) (x : α) : List α → List α
  | [] => [x]
  | y :: ys => if w x ≤ w y then x :: y :: ys else y :: insBy w x ys

def sortBy {α : Type} (w : α → Nat) (l : List α) : List α := l.foldr (insBy w) []

/-- The first record that satisfies `p` changed by `g`; `g d` added where there is none. -/
def upsert {α : Type} (p : α → Bool) (d : α) (g : α → α) (l : List α) : List α :=
  if l.any p then l.map (fun x => if p x then g x else x) else l ++ [g d]

/-- The first record that satisfies `p`, `d` where there is none. -/
def findD {α : Type} (p : α → Bool) (d : α) (l : List α) : α := match l.find? p with | some x => x | none => d

/-! ### Memory: bytes by device address, unlisted bytes 0 (log 2) -/

def memGet : List Host.Cell → Nat → Byte
  | [], _ => 0
  | (k, b) :: r, a => if k == a then b else if a < k then 0 else memGet r a

def memPut : List Host.Cell → Nat → Byte → List Host.Cell
  | [], a, v => if v == 0 then [] else [(a, v)]
  | (k, b) :: r, a, v =>
    if a < k then (if v == 0 then (k, b) :: r else (a, v) :: (k, b) :: r)
    else if k == a then (if v == 0 then r else (a, v) :: r)
    else (k, b) :: memPut r a v

/-- Canonical form above a bound: addresses strictly rising, no listed 0. -/
def cellsAbove : Option Nat → List Host.Cell → Bool
  | _, [] => true
  | lo, (k, b) :: r => (match lo with | some l => decide (l < k) | none => true) && b != 0 && cellsAbove (some k) r

/-- Canonical form of memory: addresses strictly rising, no entry equal to what an unlisted address reads as. -/
def Memory.wf (m : List Host.Cell) : Bool := cellsAbove none m

/-- Little-endian number of `n` bytes from `a` (R4). -/
def readMem (m : List Host.Cell) (a : Nat) : Nat → Nat
  | 0 => 0
  | n + 1 => (memGet m a).toNat + 256 * readMem m (a + 1) n

/-- `n` bytes of `v` written from `a`, little-endian (R4). -/
def writeMem (m : List Host.Cell) (a v : Nat) : Nat → List Host.Cell
  | 0 => m
  | n + 1 => writeMem (memPut m a (BitVec.ofNat 8 v)) (a + 1) (v / 256) n

def State.read (s : State) (a n : Nat) : Nat := readMem s.mem a n

/-- The granule of an address. -/
def granOf (a : Nat) : Nat := a / 16 * 16

/-- Granules that `n` bytes from `a` touch. -/
def gransOf (a n : Nat) : List Nat := (List.range ((a + n + 15) / 16 - a / 16)).map (fun i => granOf a + 16 * i)

/-- Words that `n` bytes from `a` touch. -/
def wordsOf (a n : Nat) : List Nat := (List.range ((a + n + 3) / 4 - a / 4)).map (fun i => a / 4 * 4 + 4 * i)

/-- An address of a scratchpad cell. -/
def isSpad (a : Nat) : Bool := decide (Config.spadBase ≤ a) && decide (a < Config.rowBase)

/-- A cell of near memory, the second tier, the weight stores, host memory, a scratchpad, a compute row or another device (log 1). -/
def mapped (a : Nat) : Bool :=
  if a < Config.hostBase then
    let u := a / Config.unitStride
    let p := a % Config.unitStride
    (decide (u < 16) && decide (p < Config.nearBytes)) || (decide (16 ≤ u) && decide (u < 24) && decide (p < Config.tierBytes))
  else true

/-- Bytes written by anything but a capability store: the capability tags of the granules are cleared (R55), the reduction tags
and conflict flags of the words too (R173). -/
def State.write (s : State) (a n v : Nat) : State :=
  let ws := wordsOf a n
  { s with
    mem := writeMem s.mem a v n
    capTags := s.capTags.filter (fun g => !(gransOf a n).contains g)
    redTags := s.redTags.filter (fun p => !ws.contains p.1)
    redFlags := s.redFlags.filter (fun w => !ws.contains w) }

/-- A whole granule written as a capability, its tag set (R55, R243). -/
def State.writeCap (s : State) (a : Nat) (c : CapWord) : State :=
  let s := s.write a 16 c.toNat
  { s with capTags := setIns a s.capTags }

/-- Some granule of the bytes holds an uncorrectable error (R17). -/
def State.ue (s : State) (a n : Nat) : Bool := (gransOf a n).any (fun g => s.ueMarks.contains g)

def State.isFull (s : State) (g : Nat) : Bool := s.fullBits.contains g
def State.isLive (s : State) (g : Nat) : Bool := s.liveBits.contains g
def State.setFull (s : State) (g : Nat) (b : Bool) : State := { s with fullBits := setPut g b s.fullBits }
def State.setLive (s : State) (g : Nat) (b : Bool) : State := { s with liveBits := setPut g b s.liveBits }

/-! ### Records by their numbers -/

def State.fresh (s : State) : State := { s with seq := s.seq + 1 }

def fibre? (s : State) (k : FKey) : Option Fibre := s.fibres.find? (fun f => f.key == k)

def setFibre (s : State) (k : FKey) (g : Fibre → Fibre) : State :=
  { s with fibres := s.fibres.map (fun f => if f.key == k then g f else f) }

/-- Every fibre of a list of keys changed alike. -/
def setFibres (s : State) (ks : List FKey) (g : Fibre → Fibre) : State :=
  { s with fibres := s.fibres.map (fun f => if ks.contains f.key then g f else f) }

def block? (s : State) (id : Nat) : Option Block := s.blocks.find? (fun b => b.id == id)
def setBlock (s : State) (id : Nat) (g : Block → Block) : State :=
  { s with blocks := s.blocks.map (fun b => if b.id == id then g b else b) }

def kernel? (s : State) (id : Nat) : Option Kernel := s.kernels.find? (fun k => k.id == id)
def setKernel (s : State) (id : Nat) (g : Kernel → Kernel) : State :=
  { s with kernels := s.kernels.map (fun k => if k.id == id then g k else k) }

def gang? (s : State) (id : Nat) : Option Gang := s.gangs.find? (fun g => g.id == id)
def setGang (s : State) (id : Nat) (g : Gang → Gang) : State :=
  { s with gangs := s.gangs.map (fun x => if x.id == id then g x else x) }

def isPart (core bp : Nat) (p : Part) : Bool := p.core == core && p.bp == bp
def part? (s : State) (core bp : Nat) : Option Part := s.parts.find? (isPart core bp)
def setPart (s : State) (core bp : Nat) (g : Part → Part) : State :=
  { s with parts := s.parts.map (fun p => if isPart core bp p then g p else p) }

def Port.empty (core port : Nat) : Port :=
  { core := core, port := port, fifo := [], bins := [], dieMask := 0, devSet := [], allDevs := false, gathers := [], forced := none
    issued := 0 }
def isPort (core port : Nat) (p : Port) : Bool := p.core == core && p.port == port
def portOf (s : State) (core port : Nat) : Port := findD (isPort core port) (Port.empty core port) s.ports
def setPort (s : State) (core port : Nat) (g : Port → Port) : State :=
  { s with ports := upsert (isPort core port) (Port.empty core port) g s.ports }

def Partn.empty (p : Nat) : Partn :=
  { part := p, faults := [], reclaims := [], deferred := [], tlog := [], tovf := false, latch := 0, quota := 8192
    denied := [], rrOpen := [], rrCur := [], rrDone := [], rrUsed := 0, rrFull := false, rrBad := false, rrDiv := false
    trTail := 0, trDrops := 0, pcount := 0, dcount := 0 }
def partnOf (s : State) (p : Nat) : Partn := findD (fun x => x.part == p) (Partn.empty p) s.partns
def setPartn (s : State) (p : Nat) (g : Partn → Partn) : State :=
  { s with partns := upsert (fun x => x.part == p) (Partn.empty p) g s.partns }

def Engine.empty (c : Nat) : Engine :=
  { cluster := c, credit := 0, step := 0, entries := [], firstPass := [], lastPass := [], lastEnd := 0, slotAt := 0, starving := none }
def engineOf (s : State) (c : Nat) : Engine := findD (fun e => e.cluster == c) (Engine.empty c) s.engines
def setEngine (s : State) (c : Nat) (g : Engine → Engine) : State :=
  { s with engines := upsert (fun e => e.cluster == c) (Engine.empty c) g s.engines }

def Lathe.empty (k : Nat) : Lathe :=
  { stack := k, regions := [], progs := [], sweep := [], turnAt := [], hot := false, deferred := [], save := false, kept := [], keptProgs := []
    keptDeferred := [], waits := []
    lastStep := [], workAt := 0 }
def latheOf (s : State) (k : Nat) : Lathe := findD (fun x => x.stack == k) (Lathe.empty k) s.lathes
def setLathe (s : State) (k : Nat) (g : Lathe → Lathe) : State :=
  { s with lathes := upsert (fun x => x.stack == k) (Lathe.empty k) g s.lathes }

def LQueue.empty (p q : Nat) : LQueue :=
  { part := p, q := q, ring := 0, en := false, prio := 0, logn := 4, tailAddr := 0, head := 0, doneAddr := 0
    halt := false, index := 0, err := 0, tail := none, waitAt := 0, reached := 0, reachAt := 0, last := none }
def isQueue (p q : Nat) (x : LQueue) : Bool := x.part == p && x.q == q
def queueOf (s : State) (p q : Nat) : LQueue := findD (isQueue p q) (LQueue.empty p q) s.queues
def setQueue (s : State) (p q : Nat) (g : LQueue → LQueue) : State :=
  { s with queues := upsert (isQueue p q) (LQueue.empty p q) g s.queues }

/-- Partition number under which the monitor's own state is held. -/
def monPart : Nat := 8

/-- Reset value of a system register that holds a plain value (R323, R348, R365, R381, R388). -/
def sysReset (n : Nat) : Nat :=
  match n with
  | 0x0000 => 100
  | 0x0001 => Config.latFetch.toNat
  | 0x0002 => Config.latAdmit.toNat
  | 0x0003 => 1024
  | 0x0004 => 2000
  | 0x0303 => 65536
  | 0x0401 => 4000
  | 0x0505 => 10
  | 0x4000 => 0xF
  | 0x4004 => 3000
  | 0x4005 => 1000 + 1000 * 2 ^ 32
  | _ => 0

/-- Plain value of a system register of a partition. The comparators of core `k` are held as numbers from 0x20000 + 16k on. -/
def sysGet (s : State) (p n : Nat) : Nat := mapGet s.sys (n * 16 + p) (sysReset n)
def sysPut (s : State) (p n v : Nat) : State :=
  { s with sys := if v == sysReset n then mapDel (n * 16 + p) s.sys else mapPut (n * 16 + p) v s.sys }

/-- A number that is no block's (R112: blocks are below 384 times 256). A saved block's is this plus its image's serial number. -/
def noBlock : Nat := 2 ^ 17

/-! ### Uniform and capability registers of a block part -/

/-- Registers of a block part before the present cycle, with no write of it yet (R48). -/
def Part.before (q : Part) (now : Nat) : Before :=
  match q.was with
  | some w => if w.cycle == now then w else { cycle := now, s := q.s, c := q.c, sbchk := q.sbchk, uw := [], cw := [] }
  | none => { cycle := now, s := q.s, c := q.c, sbchk := q.sbchk, uw := [], cw := [] }

/-- Uniform registers, capability registers and SBCHK as a batch that issues in cycle `now` reads them: the values before any write of that
cycle (R48, R201). -/
def Part.seenS (q : Part) (now : Nat) : List Word :=
  match q.was with | some w => if w.cycle == now then w.s else q.s | none => q.s
def Part.seenC (q : Part) (now : Nat) : List CapWord :=
  match q.was with | some w => if w.cycle == now then w.c else q.c | none => q.c
def Part.seenCheck (q : Part) (now : Nat) : Bool :=
  match q.was with | some w => if w.cycle == now then w.sbchk else q.sbchk | none => q.sbchk

/-- A port above `port` has written register `n` in the present cycle, so that its value remains (R48). -/
def outdone (l : List (Nat × Nat)) (port n : Nat) : Bool := l.any fun x => x.1 == n && decide (port < x.2)

/-- Uniform register `n` written by a batch of a port (R48). -/
def Part.putUni (q : Part) (now port n : Nat) (w : Word) : Part :=
  let b := q.before now
  if outdone b.uw port n then q else { q with s := q.s.set n w, was := some { b with uw := (n, port) :: b.uw } }

/-- Capability register `n` written by a batch of a port (R48). -/
def Part.putCap (q : Part) (now port n : Nat) (c : CapWord) : Part :=
  let b := q.before now
  if outdone b.cw port n then q else { q with c := q.c.set n c, was := some { b with cw := (n, port) :: b.cw } }

/-- SBCHK written by a batch of a port; it is held as number 256 beside the uniform registers (R201). -/
def Part.putCheck (q : Part) (now port : Nat) (v : Bool) : Part :=
  let b := q.before now
  if outdone b.uw port 256 then q else { q with sbchk := v, was := some { b with uw := (256, port) :: b.uw } }

/-! ### A fibre's place, registers and pending writes -/

/-- The core a fibre occupies: its guest core while away (R37). -/
def Fibre.loc (f : Fibre) : Nat := match f.guest with | some g => g.core | none => f.key.core

def Fibre.away (f : Fibre) : Bool := f.guest.isSome

/-- Lane position (R22). -/
def Fibre.lane (f : Fibre) : Nat := f.key.ctx % 32

/-- The fibre runs a trap handler (R321, R353). -/
def Fibre.inHandler (f : Fibre) : Bool := f.trec.isSome

/-- Level in force (R321). -/
def Fibre.lvl (f : Fibre) : Nat := if f.inHandler then max 1 f.level else f.level

def Fibre.reg (f : Fibre) (v : Nat) : VReg := f.regs.getD v { val := 0, tag := tRaw }
def Fibre.val (f : Fibre) (v : Nat) : Word := (f.reg v).val

def Fibre.setReg (f : Fibre) (v : Nat) (r : VReg) : Fibre := { f with regs := f.regs.set v r }

/-- Predicate; p0 reads as 1 (R19). -/
def Fibre.pred (f : Fibre) (p : Nat) : Bool := p == 0 || f.preds.getLsbD p

/-- Predicate written; p0 ignores it (R19). -/
def Fibre.setPred (f : Fibre) (p : Nat) (b : Bool) : Fibre :=
  if p == 0 then f
  else { f with preds := if b then f.preds ||| (1#96 <<< p) else f.preds &&& ~~~(1#96 <<< p) }

/-- A pending write takes place. -/
def Fibre.apply (f : Fibre) (d : PendDest) : Fibre :=
  match d with
  | .reg v r => f.setReg v r
  | .tag v t => f.setReg v { f.reg v with tag := t }
  | .pred p b => f.setPred p b

/-- Two pending writes of one register. -/
def sameDest : PendDest → PendDest → Bool
  | .pred p _, .pred q _ => p == q
  | .pred _ _, _ => false
  | _, .pred _ _ => false
  | .reg v _, .reg w _ => v == w
  | .reg v _, .tag w _ => v == w
  | .tag v _, .reg w _ => v == w
  | .tag v _, .tag w _ => v == w

/-- Pending writes that are due land, in issue order, each after every earlier one of its register (R202). -/
def landDue : List Pend → Fibre → Fibre × List Pend
  | [], f => (f, [])
  | e :: r, f =>
    let l := e.left == 0 || r.any (fun x => x.left == 0 && sameDest x.dest e.dest)
    let f := if l && !e.landed then f.apply e.dest else f
    let q := landDue r f
    (q.1, if e.left == 0 then q.2 else { e with landed := e.landed || l } :: q.2)

/-- The fibre issues an instruction with distance `n` to the next (R200). -/
def Fibre.tick (f : Fibre) (n : Nat) : Fibre :=
  let q := landDue (f.pend.map (fun e => { e with left := e.left - n })) f
  { q.1 with pend := q.2 }

/-- A landing point: every pending write lands (R202). -/
def Fibre.landAll (f : Fibre) : Fibre :=
  { (f.pend.foldl (fun g e => if e.landed then g else g.apply e.dest) f) with pend := [] }

/-- A fixed-latency write issued with latency `l` (R199). -/
def Fibre.push (f : Fibre) (l : Nat) (d : PendDest) : Fibre :=
  { f with pend := f.pend ++ [{ left := l, dest := d, landed := false }] }

/-- An interlocked write takes place after every earlier one of its register (R202). -/
def Fibre.writeNow (f : Fibre) (d : PendDest) : Fibre :=
  let g := f.pend.foldl (fun g e => if !e.landed && sameDest e.dest d then g.apply e.dest else g) f
  { g.apply d with pend := f.pend.map (fun e => if sameDest e.dest d then { e with landed := true } else e) }

/-- Outstanding operations of an async counter's class: the counter's value (R68). -/
def Fibre.counter (f : Fibre) (cls : Nat) : Nat := (f.ops.filter (fun o => o.cls == cls)).length

/-- The CUTREG whose request this is asks for a once cut. -/
def Out.once (o : Out) : Bool := o.kind == .cut && o.b / 2 ^ 9 % 2 == 0

/-- A fibre's row counter with the once cuts that its CUTREGs have yet to enter (R68, R97, R310). -/
def Fibre.rowCount (f : Fibre) : Nat := f.counter 2 + (f.outs.filter Out.once).length

/-- Completed operations leave their counter in issue order; an error sets the sticky bit (R68, R69). -/
def popDone (cls : Nat) : List AOp → List AOp × Bool
  | [] => ([], false)
  | o :: r =>
    if o.cls == cls then
      if o.done then (let q := popDone cls r; (q.1, o.err || q.2)) else (o :: r, false)
    else (let q := popDone cls r; (o :: q.1, q.2))

/-- Operation `id` of a fibre completes, with or without an error. -/
def Fibre.complete (f : Fibre) (id cls : Nat) (err : Bool) : Fibre :=
  let q := popDone cls (f.ops.map (fun o => if o.id == id then { o with done := true, err := err } else o))
  { f with ops := q.1, sticky := if q.2 then f.sticky ||| (1#5 <<< cls) else f.sticky }

/-- Operation `id` completes in the fibre that issued it, also in a saved one (R68, R357). -/
def completeOp (s : State) (k : FKey) (id cls : Nat) (err : Bool) : State :=
  let s := setFibre s k fun f => f.complete id cls err
  { s with images := s.images.map fun i =>
      { i with fibres := i.fibres.map fun f => if f.ops.any (fun o => o.id == id) then f.complete id cls err else f } }

/-- An operation of a class counts, at its place in the order of issue (R68). -/
def Fibre.addOp (f : Fibre) (id cls : Nat) : Fibre :=
  { f with ops := insBy (·.id) { id := id, cls := cls, done := false, err := false } f.ops }

/-! ### Lane masks, join entries -/

/-- Mask of the lane positions of fibres. -/
def laneMask (l : List Fibre) : BitVec 32 := l.foldl (fun m f => m ||| (1#32 <<< f.lane)) 0

/-- Join identifiers some fibre's stack holds. -/
def usedJoins (s : State) : List Nat := (s.fibres ++ s.images.flatMap (·.fibres)).flatMap (fun f => f.joins.map (·.1))

/-- The next identifier, from `n` on, that no stack holds (R31, log 12). -/
def freeJoin (used : List Nat) : Nat → Nat → Nat
  | 0, n => n
  | fuel + 1, n => if used.contains n then freeJoin used fuel ((n + 1) % 2 ^ 24) else n

/-- An entry pushed; the oldest of sixteen is discarded (R31). -/
def pushJoin (e : Nat × Nat) (l : List (Nat × Nat)) : List (Nat × Nat) := (e :: l).take 16

/-- A fresh entry with the mask of a batch pushed on the stack of each of its lanes (R31). -/
def pushAll (s : State) (lanes : List Fibre) : State :=
  let id := freeJoin (usedJoins s) (usedJoins s).length s.nextJoin
  let s := setFibres s (lanes.map (·.key)) fun f => { f with joins := pushJoin (id, (laneMask lanes).toNat) f.joins }
  { s with nextJoin := (id + 1) % 2 ^ 24 }

/-! ### Capabilities as words (R50) -/

def capObj (c : CapWord) : Nat := (c.extractLsb' 96 32).toNat
def capRights (c : CapWord) : Nat := (c.extractLsb' 88 8).toNat
def capLimit (c : CapWord) : Nat := (c.extractLsb' 44 40).toNat
def capBase (c : CapWord) : Nat := (c.extractLsb' 0 44).toNat
def capRes (c : CapWord) : Nat := (c.extractLsb' 84 4).toNat
def mkCap (obj rights limit base : Nat) : CapWord :=
  (BitVec.ofNat 32 obj ++ BitVec.ofNat 8 rights ++ 0#4 ++ BitVec.ofNat 40 limit ++ BitVec.ofNat 44 base : BitVec 128)

/-! ### Taking a trap and returning from it -/

/-- Handler code capability of a partition (R365). -/
def handlerCap (s : State) (p : Nat) : CapWord := BitVec.ofNat 128 (sysGet s p 0x0301 + 2 ^ 64 * sysGet s p 0x0302)

/-- Vector table entry of a cause: trap window size and handler offset; an entry with a reserved bit or TW = 3 has no handler, nor has
any with a null handler code capability (R352, R365). -/
def vectorOf (s : State) (p code : Nat) : Nat × BitVec 44 :=
  let e := s.read (sysGet s p 0x0300 + 16 * code) 16
  if handlerCap s p == 0 || e / 2 ^ 46 != 0 || e / 2 ^ 44 % 4 == 3 then (0, 0) else (e / 2 ^ 44 % 4, BitVec.ofNat 44 e)

/-- A fibre is back at home, the live set of its billet's mask (bit j: vj) written into its home registers (R119). -/
def Fibre.comeHome (f : Fibre) : Fibre :=
  match f.guest with
  | none => f
  | some g =>
    { f with
      regs := (List.range g.homeRegs.length).map
        (fun j => if g.mask / 2 ^ j % 2 == 1 then f.reg j else g.homeRegs.getD j { val := 0, tag := tRaw })
      guest := none
      transit := .none }

/-- Trap record of a fibre of a fragment (R354). -/
def trapRecord (f : Fibre) (lanes : List Fibre) (code : Nat) (info : BitVec 64) (detail : Nat) (cmp : Bool) : TrapRec :=
  let m := laneMask lanes
  let top := f.joins.headD (0, 0)
  { siblings := BitVec.ofNat 32 top.2 &&& ~~~m, lanes := m, parent := BitVec.ofNat 24 top.1
    blk := BitVec.ofNat 17 f.blk, fid := BitVec.ofNat 13 f.fid, port := BitVec.ofNat 2 f.key.port
    cmp := cmp, nest := f.tm, pc := f.pc, detail := BitVec.ofNat 16 detail, cause := BitVec.ofNat 8 code, info := info }

/-- The record as its 256 bits. -/
def TrapRec.bits (r : TrapRec) : BitVec 256 :=
  (r.siblings ++ r.lanes ++ r.parent ++ r.blk ++ r.fid ++ r.port ++ 0#2 ++ BitVec.ofBool r.cmp ++ BitVec.ofBool r.nest ++ r.pc
    ++ r.detail ++ r.cause ++ r.info : BitVec 256)

/-- Entry of one fibre into its handler: record, saved trap window, TM, pc (R353, step 4). -/
def Fibre.enter (f : Fibre) (r : TrapRec) (tw : Nat) (hoff : BitVec 44) : Fibre :=
  { f with
    trec := some r
    savedRegs := f.regs.take (8 * tw)
    savedPreds := f.preds
    pc := hoff
    tm := true
    dbcause := r.cmp
    run := .ready
    slot := none }

/-- One fibre stays parked with its record in the trap log (R353, step 3). -/
def Fibre.park (f : Fibre) (r : TrapRec) (frag : Nat) : Fibre :=
  { f with logRec := some r, frag := frag, dbcause := r.cmp, run := .parked .trap, slot := none }

/-- A record appended to the trap log of a partition, or lost with OVF set (R365). -/
def logTrap (s : State) (p : Nat) (r : TrapRec) : State :=
  setPartn s p fun x => if x.tlog.length < 256 then { x with tlog := x.tlog ++ [r] } else { x with tovf := true }

/-- A trap is taken by the fragment `ks` of a block (R353): pending writes land, the record is written, and each fibre enters the
handler or parks in the trap log; ENGINE_LOST clears the mark (R300). -/
def takeTrap (s : State) (p : Nat) (ks : List FKey) (code : Nat) (info : BitVec 64) (detail : Nat) (cmp : Bool) : State :=
  let s := setFibres s ks fun f => { f.landAll.comeHome with lost := f.lost && code != cEngineLost, cmpPass := false }
  let fs := sortBy Fibre.lane (s.fibres.filter (fun f => ks.contains f.key))
  let v := vectorOf s p code
  let stops := fs.filter (fun f => f.tm || v.2 == 0)
  let goes := fs.filter (fun f => !(f.tm || v.2 == 0))
  let rec' := fun (f : Fibre) => trapRecord f fs code info detail cmp
  let s := setFibres s (goes.map (·.key)) fun f => f.enter (rec' f) v.1 v.2
  match stops with
  | [] => s
  | f :: _ =>
    let s := logTrap s p (rec' f)
    let s := setFibres s (stops.map (·.key)) fun g => g.park (rec' g) s.seq
    s.fresh

/-- Where a fibre resumes after a record: past the instruction for USER_TRAP and for a BREAKPOINT of BKPT, at it otherwise (R353). -/
def TrapRec.resume (r : TrapRec) : BitVec 44 :=
  if r.cause.toNat == cUserTrap || (r.cause.toNat == cBreakpoint && !r.cmp) then r.pc + 8 else r.pc

/-- Predicates p1 to p15 of `old` in place of those of `new` (R353). -/
def restorePreds (new old : BitVec 96) : BitVec 96 := (new &&& ~~~0xFFFE#96) ||| (old &&& 0xFFFE#96)

/-- Return from the handler in one fibre that holds a record (R353, R366): the trap window is restored, TM is cleared and the
record ends; the program counter is `TrapRec.resume`. -/
def Fibre.leave (f : Fibre) : Fibre :=
  match f.trec with
  | none => f
  | some r =>
    { f with
      regs := f.savedRegs ++ f.regs.drop f.savedRegs.length
      preds := restorePreds f.preds f.savedPreds
      tm := false
      trec := none
      savedRegs := []
      dbcause := false
      cmpPass := r.cmp
      pc := r.resume }

/-- A logged fibre resumes at user level at its record's place (R366). -/
def Fibre.resumeLogged (f : Fibre) : Fibre :=
  match f.logRec with
  | none => f
  | some r =>
    { f with
      logRec := none, trec := none, savedRegs := [], dbcause := false, tm := false
      cmpPass := r.cmp, pc := r.resume, run := .ready, slot := none }

/-! ### Slots and the end of an issue -/

def isSlot (c : Cur) (x : Slot) : Bool := x.core == c.core && x.port == c.port && x.idx == c.slot
def slot? (s : State) (c : Cur) : Option Slot := s.slots.find? (isSlot c)
def setSlot (s : State) (c : Cur) (g : Slot → Slot) : State :=
  { s with slots := s.slots.map (fun x => if isSlot c x then g x else x) }

/-- The lanes of a batch slot, in ascending lane position. -/
def lanesOf (s : State) (c : Cur) : List Fibre :=
  sortBy Fibre.lane (s.fibres.filter (fun f => f.slot == some c.slot && f.loc == c.core && f.key.port == c.port))

/-- Lowest free slot of a port, when there is one. -/
def freeSlot (s : State) (core port : Nat) : Option Nat :=
  (List.range Config.slotsPerPort).find? (fun i => !s.slots.any (isSlot { core := core, port := port, slot := i }))

/-- Slots that no lane names any more go back to their ports (R30). -/
def dropSlot (s : State) (c : Cur) : State :=
  if (lanesOf s c).isEmpty then { s with slots := s.slots.filter (fun x => !isSlot c x) } else s

/-- What an instruction makes of one lane. Lanes it does not list go on to the next instruction. -/
inductive Fate where
  /-- goes on at a program counter -/
  | go (pc : BitVec 44)
  /-- returns from its handler to a program counter, which no comparator matches this once (R366, R390) -/
  | back (pc : BitVec 44)
  /-- stays at the instruction, which it issues again -/
  | stay
  /-- traps with a code, INFO and DETAIL; the flag is CMP -/
  | trap (code : Nat) (info : BitVec 64) (detail : Nat) (cmp : Bool)
  /-- parks on fault entries -/
  | unres (entries : List Nat)
  /-- parks in NOPEN.wait on a name -/
  | name (n : BitVec 64)
  /-- has left the batch; the instruction has done the rest -/
  | gone
  /-- has issued the instruction and leaves its slot (joining, or a move to a core) -/
  | leave (pc : BitVec 44) (tag : Nat)
  /-- waits for a guest slot of a core, out of its slot, the instruction not issued -/
  | depart (tag : Nat)
deriving DecidableEq, Repr

/-- Result of an instruction's own effect: the state, fates of lanes, a wait before issue, and marks of a control transfer, a taken
backward branch or YIELD, a migration; an address read that no memory has. -/
structure Acted where
  s : State
  fates : List (FKey × Fate)
  wait : Bool
  branch : Bool
  renew : Bool
  migrate : Bool
  hole : Option Nat
deriving DecidableEq, Repr

/-- An effect with fates for some lanes. -/
def acted (s : State) (fates : List (FKey × Fate)) : Acted :=
  { s := s, fates := fates, wait := false, branch := false, renew := false, migrate := false, hole := none }

/-- The instruction waits before issue. -/
def actWait (s : State) : Acted := { acted s [] with wait := true }

def fateOf (l : List (FKey × Fate)) (f : Fibre) : Option Fate := (l.find? (fun p => p.1 == f.key)).map (·.2)

/-- The lane stops: a trap or a park. -/
def stopsFate : Option Fate → Bool
  | some (.trap ..) | some (.unres _) | some (.name _) => true
  | _ => false

/-- Fragment a lane falls into (R30). Lanes that trap BREAKPOINT at a BKPT and lanes of its batch that a comparator matches make two fragments of
one code, told apart by CMP (DESIGN CHOICE, log 21: R8 and R30 name one fragment per code, R390 and R354 give the matched lanes one of their own). -/
def fragOf : Option Fate → Nat
  | some (.trap c _ _ m) => 2 + 2 * c + m.toNat
  | some (.unres _) => 1
  | some (.name _) => 0
  | some (.leave _ t) => 100 + t
  | some (.depart t) => 100 + t
  | _ => 99

/-- Program counter a lane goes on at, when it stays in the batch or its fragments. -/
def nextPc (l : List (FKey × Fate)) (len : Nat) (f : Fibre) : Option (BitVec 44) :=
  match fateOf l f with
  | none => some (f.pc + BitVec.ofNat 44 len)
  | some (.go p) => some p
  | some (.back p) => some p
  | some .stay => some f.pc
  | _ => none

/-- Numbers without repeats, rising. -/
def distinct (l : List Nat) : List Nat := l.foldr setIns []

/-- The entry a split pushes (R31): for a control transfer with several targets, or a stop or a migration split over an empty stack. -/
def splitsBatch (a : Acted) (lanes : List Fibre) (len : Nat) : Bool :=
  let fs := lanes.map (fateOf a.fates)
  let empty := lanes.all (fun f => f.joins.isEmpty)
  let targets := distinct ((lanes.filterMap (nextPc a.fates len)).map BitVec.toNat)
  (a.branch && decide (2 ≤ targets.length)) || (empty && fs.any stopsFate)
    || (empty && a.migrate && decide (2 ≤ (distinct (fs.map fragOf)).length))

/-- A waiting that keeps the instruction's distance owed until it ends, because a restore executes the instruction again (R357). -/
def Run.owes : Run → Bool
  | .waiting (.fe _) | .waiting (.recv ..) => true
  | _ => false

/-- A wait before issue ends. -/
def Run.unwait (r : Run) : Run := if r == .waiting .retry then .ready else r

/-- A fibre has issued an instruction of distance `n` and goes on at `pc`, not before cycle `next`. -/
def Fibre.advance (f : Fibre) (pc : BitVec 44) (n next : Nat) : Fibre :=
  let g := if f.run.owes then { f with owe := n } else f.tick n
  { g with
    pc := pc, waitPc := f.pc, next := next, cmpPass := false, xl := [], own := none, sent := 0, mark := none, run := f.run.unwait
    sentTo := f.sentTo.filter (fun x => x.2 != 0), acts := false, atMx := false }

/-- Delay of a causal trial after an issue at `pc` (R373). -/
def trialDelay (s : State) (b : Block) (pc : BitVec 44) : Nat :=
  match (kernel? s b.kernel).bind (·.trial) with
  | some (lo, hi, d) => if decide (lo ≤ pc.toNat) && decide (pc.toNat < hi) then 0 else d
  | none => 0

/-- One lane after an issue, out of its slot until its fragment is placed. -/
def Fibre.settle (a : Acted) (len dist next age : Nat) (f : Fibre) : Fibre :=
  let g := { f with slot := none, age := age }
  match fateOf a.fates f with
  | none => g.advance (f.pc + BitVec.ofNat 44 len) dist next
  | some (.go p) => g.advance p dist next
  | some (.back p) => { g.advance p dist next with cmpPass := f.cmpPass }
  | some (.leave p _) => g.advance p dist next
  | some .stay => { g with run := f.run.unwait }
  | some (.depart _) => g
  | some (.unres _) => { g with xl := [], own := none, sent := 0, mark := none }
  | some _ => { g with xl := [], own := none, sent := 0, mark := none, acts := false }

/-- A batch slot taken by the fibres `ks`, as the batch numbered `bid`; they take its age stamp (R23, R30). -/
def takeSlot (s : State) (c : Cur) (ks : List FKey) (age next bid : Nat) : State :=
  let s := setFibres s ks fun f => { f with slot := some c.slot, bat := bid, age := age }
  { s with slots := s.slots ++ [{ core := c.core, port := c.port, idx := c.slot, age := age, last := s.now, next := next, bid := bid }] }

/-- A group of fibres becomes the batch of the lowest free slot of a port, or loose where none is free (R23, R29, R30, R32; DESIGN CHOICE, log 21: R24
and R29 alone say that the slot is the lowest-numbered one, and the slot breaks ties of R35). -/
def placeBatch (s : State) (core port : Nat) (ks : List FKey) (age next : Nat) : State :=
  match freeSlot s core port with
  | none => setFibres s ks fun f => { f with slot := none, age := age }
  | some i => takeSlot s.fresh { core := core, port := port, slot := i } ks age next s.seq

/-- Pre-emption has stopped the fibre: its block is being pre-empted and it is no masked handler within its budget (R356). -/
def preStopped (s : State) (f : Fibre) : Bool := (block? s f.blk).any (fun b => b.pre && (!f.tm || f.expired))

/-- Key of the fragment of a lane that goes on: its program counter and whether it runs a handler (R22, R30). A lane that stops at this boundary
leaves its slot (R356). -/
def goKey (a : Acted) (len : Nat) (f : Fibre) : Option Nat :=
  let g := (fibre? a.s f.key).getD f
  if preStopped a.s g then none else (nextPc a.fates len f).map fun p => p.toNat * 2 + g.inHandler.toNat

/-- Fragments that go on, in order of ascending program counter: the first keeps the slot and the batch's number, the others take free
slots (R30). -/
def placeGroups (c : Cur) (lanes : List Fibre) (a : Acted) (len age next bid : Nat) (s : State) : List Nat → State
  | [] => s
  | w :: ws =>
    let ks := (lanes.filter (fun f => goKey a len f == some w)).map (·.key)
    let s := if (slot? s c).isNone then takeSlot s c ks age next bid else placeBatch s c.core c.port ks age next
    placeGroups c lanes a len age next bid s ws

/-- Every fault entry that some lane of a list waits for, once (R58). -/
def entriesOf (fates : List (FKey × Fate)) (fs : List Fibre) : List Nat :=
  distinct (fs.flatMap fun f => match fateOf fates f with | some (.unres es) => es | _ => [])

/-- Stopped fragments, in ascending order of code: traps are delivered, the others park (R8, R30, R353). -/
def stopGroups (p : Nat) (lanes : List Fibre) (fates : List (FKey × Fate)) (s : State) : List Nat → State
  | [] => s
  | w :: ws =>
    let fs := lanes.filter (fun f => stopsFate (fateOf fates f) && fragOf (fateOf fates f) == w)
    let ks := fs.map (·.key)
    let s :=
      match fs.head?.bind (fateOf fates) with
      | some (.trap code info detail cmp) => takeTrap s p ks code info detail cmp
      | some (.unres _) => setFibres s ks fun g => { g with run := .parked (.unresolved (entriesOf fates fs)) }
      | some (.name n) => setFibres s ks fun g => { g with run := .parked (.name n) }
      | _ => s
    stopGroups p lanes fates s ws

/-- The lane has issued the instruction and goes on. -/
def goesOn : Option Fate → Bool
  | none | some (.go _) | some (.back _) | some (.leave ..) => true
  | _ => false

/-- End of an issue of batch `c` of block `b`: the entry of a split, the lanes that go on with their distance and places, the delay
of a trial where some lane has issued and goes on, and the lanes that stop (R30, R31, R35, R200, R353, R373, R392). -/
def finish (c : Cur) (b : Block) (lanes : List Fibre) (len dist : Nat) (a : Acted) : State :=
  let s := if splitsBatch a lanes len then pushAll a.s lanes else a.s
  let age := if a.renew then s.now else ((slot? s c).map (·.age)).getD s.now
  let d := if lanes.any (fun f => goesOn (fateOf a.fates f)) then trialDelay s b ((lanes.head?.map (·.pc)).getD 0) else 0
  let s := if d == 0 then s else setPartn s b.part fun x => { x with dcount := x.dcount + BitVec.ofNat 64 d }
  let next := s.now + dist + d
  let s := setFibres s (lanes.map (·.key)) (Fibre.settle a len dist next age)
  let s := { s with slots := s.slots.filter (fun x => !isSlot c x) }
  let s := placeGroups c lanes a len age next (((slot? a.s c).map (·.bid)).getD 0) s (distinct (lanes.filterMap (goKey a len)))
  stopGroups b.part lanes a.fates s (distinct (((lanes.map (fateOf a.fates)).filter stopsFate).map fragOf))

end Sys2Proof.Machine
end

