-- ==== Sys2Proof/Machine/Mem.lean ====
section
/-!
DEFINITION. Addresses: capability checks (R52), scratchpad offsets (R60), object ids (R53), the tables and their walk (R337 to R340),
TLBs and walks of a port (R341, R342), fault entries (R344, R345), home stacks (R56), the store FIFO of a port (R22, R231) and the
block fault record (R347).
-/
namespace Sys2Proof.Machine

/-- Rights in RIGHTS bit order (R50). -/
def rRD : Nat := 1
def rWR : Nat := 2
def rEX : Nat := 4
def rAT : Nat := 8
def rCUT : Nat := 16
def rMIG : Nat := 32
def rCLD : Nat := 64
def rCST : Nat := 128

/-- What an object id names (R53, R66, R317). -/
inductive ObjName where
  | weight (die : Nat)
  | window
  | local (id : Nat)
  | remote (dev obj : Nat)
deriving DecidableEq, Repr

def objName (s : State) (part obj : Nat) : ObjName :=
  let loc := fun id => if s.windows.any (fun w => w.part == part && w.obj == id && !w.ended) then .window else .local id
  if obj < 2 ^ 31 then
    if 0x7FFFFFF8 ≤ obj then .weight (obj - 0x7FFFFFF8) else loc obj
  else if obj / 2 ^ 21 % 1024 == Config.deviceNumber.toNat then loc (obj % 2 ^ 21)
  else .remote (obj / 2 ^ 21 % 1024) (obj % 2 ^ 21)

/-- One number for an object: its local id where a domain-wide id names this device (R53). -/
def canonObj (obj : Nat) : Nat :=
  if obj < 2 ^ 31 then obj else if obj / 2 ^ 21 % 1024 == Config.deviceNumber.toNat then obj % 2 ^ 21 else obj

/-- An object of the directory that has been reclaimed (R132). -/
def isReclaimed (s : State) (part obj : Nat) : Bool := s.dirObjs.any (fun d => d.part == part && d.obj == canonObj obj && d.reclaimed)

/-- Check of R52: bounds, rights, alignment in that order; the null capability reports CAP_RIGHTS alone. -/
def capCheck (c : CapWord) (x : Int) (w need : Nat) : Option Nat :=
  let a := (capBase c : Int) + x
  if c == 0 then some cCapRights
  else if a < (capBase c : Int) || (capBase c : Int) + (capLimit c : Int) < a + (w : Int) - 1 then some cCapBounds
  else if capRights c &&& need != need then some cCapRights
  else if a % (w : Int) != 0 then some cMisaligned
  else none

/-- R52 for an access that is no LDW: a weight store, or a window of this device, has no rights for it (R66, R317). -/
def accessCheck (s : State) (part : Nat) (c : CapWord) (x : Int) (w need : Nat) : Option Nat :=
  let bad := match objName s part (capObj c) with | .weight _ | .window => true | _ => false
  match capCheck c x w need with
  | some e => if e == cMisaligned && bad then some cCapRights else some e
  | none => if bad then some cCapRights else none

/-- Object offset that an address of R52 is. -/
def capOff (c : CapWord) (x : Int) : Nat := ((capBase c : Int) + x).toNat

/-- Check of a scratchpad offset (R60). -/
def spadCheck (b : Block) (o : Int) (w : Nat) : Option Nat :=
  if o < 0 || (b.spadSize : Int) < o + (w : Int) then some cSpadBounds
  else if o % (w : Int) != 0 then some cMisaligned
  else none

/-- Package cluster of a block (R112). -/
def Block.cluster (b : Block) : Nat := b.id / 256

/-- Cell of a local offset of a block's scratchpad (R60). -/
def spadCell (b : Block) (o : Nat) : Nat := Config.spadBase + b.cluster * Config.spadBytes + b.spadAt + o

/-! ### Tables -/

/-- Extent record (R339). -/
structure Ext where
  ostart : Nat
  npages : Nat
  kind : Nat
  dev : Nat
  unit : Nat
  paged : Bool
  pbase : Nat
deriving DecidableEq, Repr

def extOf (x : Nat) : Ext :=
  { ostart := x / 2 ^ 84, npages := x / 2 ^ 64 % 2 ^ 20, kind := x / 2 ^ 60 % 16, dev := x / 2 ^ 50 % 1024
    unit := x / 2 ^ 46 % 16, paged := x / 2 ^ 45 % 2 == 1, pbase := x % 2 ^ 44 }

/-- A record with a reserved bit or a reserved value, or a unit that does not exist (R339, log 18). -/
def extBad (x : Nat) : Bool :=
  let e := extOf x
  x / 2 ^ 44 % 2 == 1 || decide (2 < e.kind) || (e.kind != 2 && e.dev != 0)
    || ((e.kind == 2 || e.paged) && e.pbase != 0) || (e.kind != 0 && decide (8 ≤ e.unit)) || e.npages == 0
    || e.ostart % 4096 != 0 || e.pbase % 4096 != 0

/-- Result of reading the tables for one page (R337 to R340). -/
inductive WalkRes where
  | ok (place : Nat) (e : Ext) (rx : Bool)
  | bad (cause : Nat)
  /-- a table lies at an address that no memory has -/
  | nowhere (addr : Nat)
deriving DecidableEq, Repr

/-- Causes of R345. -/
def fNoObject : Nat := 0
def fNoExtent : Nat := 1
def fNotPresent : Nat := 2
def fMoving : Nat := 3
def fReclaimed : Nat := 4
def fWindowEnded : Nat := 5
def fTableError : Nat := 6

/-- Result of looking for the extent of an offset. -/
inductive ExtRes where
  | found (e : Ext)
  | bad (cause : Nat)
  | nowhere (addr : Nat)
deriving DecidableEq, Repr

/-- Search of the extent array, `n` records from `p`, in their order. A record that it reads and that is damaged or malformed ends it with
TABLE_ERROR, whether or not it covers the offset (R339, R340; DESIGN CHOICE, log 21: no rule says which records a walk reads). -/
def findExt (s : State) (off : Nat) : Nat → Nat → ExtRes
  | 0, _ => .bad fNoExtent
  | n + 1, p =>
    if !mapped p then .nowhere p
    else if s.ue p 16 then .bad fTableError
    else
      let x := s.read p 16
      let e := extOf x
      if extBad x then .bad fTableError
      else if e.ostart ≤ off && decide (off < e.ostart + 4096 * e.npages) then .found e
      else findExt s off n (p + 16)

/-- Address of a partition's object table and its length; the monitor's own for monitor-level requests (R337, R382). -/
def tableOf (s : State) (part : Nat) : Nat × Nat :=
  if part == monPart then (sysGet s monPart 0x4060, sysGet s monPart 0x4061) else (sysGet s part 0x0200, sysGet s part 0x0201)

/-- Result of reading a descriptor. -/
inductive DescRes where
  | ok (d : Nat)
  | bad (cause : Nat)
  | nowhere (addr : Nat)
deriving DecidableEq, Repr

/-- Descriptor of a local id (R337, R338). -/
def descOf (s : State) (part id : Nat) : DescRes :=
  let t := tableOf s part
  let p := t.1 + 32 * id
  if id == 0 || decide (t.2 ≤ id) then .bad fNoObject
  else if !mapped p then .nowhere p
  else if s.ue p 32 then .bad fTableError
  else
    let d := s.read p 32
    if d / 2 ^ 95 % 2 == 0 then .bad fNoObject
    else if d / 2 ^ 112 % 2 ^ 16 != 0 || d / 2 ^ 96 % 16 != 0 || d / 2 ^ 44 % 2 ^ 48 != 0 || (d / 2 ^ 94 % 2 == 1 && d / 2 ^ 93 % 2 == 1)
    then .bad fTableError
    else .ok d

def descLenM1 (d : Nat) : Nat := d % 2 ^ 44
def descRx (d : Nat) : Bool := d / 2 ^ 94 % 2 == 1
def descCmpOk (d : Nat) : Bool := d / 2 ^ 93 % 2 == 1

/-- The extent of an offset of a local object (R339). -/
def extentOf (s : State) (part id off : Nat) : ExtRes :=
  match descOf s part id with
  | .bad c => .bad c
  | .nowhere a => .nowhere a
  | .ok d => if descLenM1 d < off then .bad fNoExtent else findExt s off (d / 2 ^ 100 % 4096) (d / 2 ^ 192)

/-- Cell of an object of another device (log 15). -/
def remotePlace (dev obj off : Nat) : Nat := Config.remoteBase + (dev * 2 ^ 32 + obj) * 2 ^ 44 + off

/-- Cell of a physical byte of an extent's memory (log 1); none outside that memory (log 18). -/
def physPlace (kind unit p : Nat) : Option Nat :=
  if kind == 0 then (if unit < 16 && decide (p < Config.nearBytes) then some (unit * Config.unitStride + p) else none)
  else (if unit < 8 && decide (p < Config.tierBytes) then some ((16 + unit) * Config.unitStride + p) else none)

/-- Place of the first byte of an offset's page, through the tables as they stand (R337 to R340). -/
def walkTables (s : State) (part id off : Nat) : WalkRes :=
  if s.windows.any (fun w => w.part == part && w.obj == id && w.ended) then .bad fWindowEnded
  else if isReclaimed s part id then .bad fReclaimed
  else
    let page := off / 4096 * 4096
    match descOf s part id, extentOf s part id off with
    | .bad c, _ => .bad c
    | .nowhere a, _ => .nowhere a
    | _, .bad c => .bad c
    | _, .nowhere a => .nowhere a
    | .ok d, .found e =>
      let place := fun p =>
        match (if e.kind == 2 then some (remotePlace e.dev id page) else physPlace e.kind e.unit p) with
        | some a => .ok a e (descRx d)
        | none => .bad fTableError
      if !e.paged then place (e.pbase + (page - e.ostart))
      else
        let q := d / 2 ^ 128 % 2 ^ 64 + 8 * (off / 4096)
        if !mapped q then .nowhere q
        else if s.ue q 8 then .bad fTableError
        else
          let x := s.read q 8
          if x / 2 ^ 44 % 2 ^ 14 != 0 || x % 4096 != 0 then .bad fTableError
          else if x / 2 ^ 63 % 2 == 0 then .bad fNotPresent
          else if x / 2 ^ 62 % 2 == 1 then .bad fMoving
          else place (x / 2 ^ 12 % 2 ^ 32 * 4096)

/-- Cells that the search for an offset's extent reads: the descriptor and the extent records up to the one that ends it (R338, R339). -/
def extentCells (s : State) (part id off : Nat) : List Nat :=
  let p := (tableOf s part).1 + 32 * id
  match descOf s part id with
  | .ok d =>
    let n := d / 2 ^ 100 % 4096
    let x := d / 2 ^ 192
    let k := ((List.range n).find? fun i => let v := s.read (x + 16 * i) 16; let e := extOf v
      s.ue (x + 16 * i) 16 || extBad v || (e.ostart ≤ off && decide (off < e.ostart + 4096 * e.npages))).getD (n - 1)
    p :: (List.range (k + 1)).map (fun i => x + 16 * i)
  | _ => [p]

/-- Cells that a walk for one page reads: those of its extent, and of a paged extent the page entry (R340). -/
def walkCells (s : State) (part id off : Nat) : List Nat :=
  extentCells s part id off ++
    (match descOf s part id, extentOf s part id off with
    | .ok d, .found e => if e.paged then [d / 2 ^ 128 % 2 ^ 64 + 8 * (off / 4096)] else []
    | _, _ => [])

/-! ### Ports: TLBs and walks -/

/-- Answer of a port to a request. `ended`: a window of another device that has ended (R319). -/
inductive Tr where
  | place (a : Nat)
  | miss
  | unres (cause : Nat)
  | ended
deriving DecidableEq, Repr

/-- Entry of a TLB that an offset hits; a range entry is used before a page entry, and a page entry with P clear or MOV set may have made
room (R341, R343, log 14). -/
def tlbFind (s : State) (part id off : Nat) : Option Tlb :=
  let hit := fun r => s.tlbs.find? (fun t => t.part == part && t.range == r && t.obj == id
    && decide (t.lo ≤ off) && decide (off < t.hi) && (t.cause.isNone || Config.keepsMiss s.now t.lo))
  hit true <|> hit false

/-- The stack group that a core belongs to, and the port of that group's stack (R10). -/
def portOfCore (core : Nat) : Nat := core / 96

/-- The memory port that owns an extent: the stack's, or from 16 on the further port of a die (R11, R56). -/
def extPort (e : Ext) : Nat := if e.kind == 0 then e.unit else 16 + e.unit

/-- The memory port that owns an offset of a local object; where no extent covers it, that of the requester's stack group (log 14). -/
def ownerPort (s : State) (part id off cur : Nat) : Nat :=
  match extentOf s part id off with
  | .found e => extPort e
  | _ => cur

/-- Another device has told that an object of its own is an ended window (R319). -/
def farEnded (s : State) (dev obj : Nat) : Bool := s.fars.any fun x => x.dev == dev && x.obj == obj && x.ended

/-- What the port has answered a requester of a page of a local object, or its TLBs hold (R341). -/
def pageAnswer (s : State) (part id off : Nat) (xl : List Xlate) : Option Xlate :=
  let page := off / 4096 * 4096
  match xl.find? (fun x => x.obj == id && x.page == page) with
  | some x => some x
  | none => (tlbFind s part id off).map fun t =>
      { obj := id, page := page, place := if t.cause.isSome then none else some (t.place + (page - t.lo)), cause := t.cause.getD 0, rx := t.rx
        top := t.top }

/-- Object offset to place, through what the requester has been answered, the TLBs, or fixed names (R53, R132, R341). A weight store's never parks
its reader (R234). -/
def translate (s : State) (part obj off : Nat) (xl : List Xlate) : Tr :=
  match objName s part obj with
  | .weight d => .place (Config.weightBase + d * 2 ^ 32 + off)
  | name =>
  if isReclaimed s part obj then .unres fReclaimed
  else match name with
  | .weight d => .place (Config.weightBase + d * 2 ^ 32 + off)
  | .remote dev o => if farEnded s dev o then .ended else .place (remotePlace dev o off)
  | .window => .unres fNoObject
  | .local id =>
    match pageAnswer s part id off xl with
    | some x => (match x.place with | some a => .place (a + off % 4096) | none => .unres x.cause)
    | none => .miss

/-- Granule of another device that is a live barrier of a window (R317). -/
def farLive (s : State) (a : Nat) : Bool :=
  decide (Config.remoteBase ≤ a) &&
    (let x := (a - Config.remoteBase) / 2 ^ 44
     s.fars.any fun y => y.dev == x / 2 ^ 32 && y.obj == x % 2 ^ 32 && y.live.contains (granOf (a % 2 ^ 44)))

/-- A requester waits for the walk of a page at the port that owns it, one walk for each page, by whichever id its object is presented (R53, R342);
`cur` is the port of the requester's stack group. -/
def joinWalk (s : State) (cur part : Nat) (obj off : Nat) (w : Waiter) : State :=
  let page := off / 4096 * 4096
  let obj := canonObj obj
  let mport := ownerPort s part obj off cur
  let same := fun (x : Walk) => x.mport == mport && x.part == part && x.obj == obj && x.page == page
  if s.walks.any same then
    { s with walks := s.walks.map fun x => if same x && !x.waiters.contains w then { x with waiters := x.waiters ++ [w] } else x }
  else
    { s.fresh with walks := s.walks ++ [{ id := s.seq, mport := mport, part := part, obj := obj, page := page, waiters := [w] }] }

/-- Home stack of an extent (R56); `cur` is the stack of the requester's stack group. -/
def homeStack (e : Ext) : Nat := if e.kind == 0 then e.unit else 2 * e.unit

/-- Result of an owner lookup: the home stack of an address, read from the extent alone (R313, R56). -/
inductive Owner where
  | stack (k : Nat)
  | unres (cause : Nat)
  | nowhere (addr : Nat)
deriving DecidableEq, Repr

def ownerOf (s : State) (part cur obj off : Nat) : Owner :=
  if isReclaimed s part obj then .unres fReclaimed
  else match objName s part obj with
  | .local id =>
    (match extentOf s part id off with
    | .found e => .stack (homeStack e)
    | .bad c => .unres c
    | .nowhere a => .nowhere a)
  | _ => .stack cur

/-- Walks that a port serves now: the first 64 of its list whose requests are among the first 4096; the others wait in arrival order (R342). -/
def walkServed (s : State) (w : Walk) : Bool :=
  let before := s.walks.filter fun x => x.mport == w.mport && decide (x.id < w.id)
  decide (before.length < 64) && decide ((before.map (·.waiters.length)).sum < 4096)

/-- Requests of a core that are outstanding: loads, atomics, queries, CUTREGs that have not been entered and LDA transactions, not the stores of
its FIFOs (R9; DESIGN CHOICE, log 21: R9 does not say which requests count). -/
def coreRequests (s : State) (core : Nat) : Nat :=
  ((s.fibres.filter (fun f => f.loc == core)).map (·.outs.length)).sum + (s.ldas.filter (fun x => x.fib.core == core)).length
    + (s.leftCuts.filter (fun x => x.fib.core == core)).length

/-- Room for `n` more outstanding requests of a core: a batch that needs more waits before issue (R9; DESIGN CHOICE, log 21: R9 does not say what
a batch does when its core has 2048 of them). -/
def reqRoom (s : State) (core n : Nat) : Bool := decide (coreRequests s core + n ≤ 2048)

/-! ### Rows -/

/-- Stack, bank and bank row of a cell of near memory (R90, log 3). -/
structure RowAt where
  stack : Nat
  bank : Nat
  row : Nat
deriving DecidableEq, Repr

def rowAt (a : Nat) : Option RowAt :=
  let p := a % Config.unitStride
  if a < 16 * Config.unitStride && decide (p < Config.nearBytes) then
    some { stack := a / Config.unitStride, bank := p / (Config.rowsPerBank * Config.rowBytes), row := p / Config.rowBytes % Config.rowsPerBank }
  else none

/-- First cell of a bank row. -/
def rowCell (stack bank row : Nat) : Nat :=
  stack * Config.unitStride + (bank * Config.rowsPerBank + row) * Config.rowBytes

/-- Subarray of a bank row (R90). -/
def subarrayOf (row : Nat) : Nat := row / 512

/-- The region covers a bank row. -/
def Region.covers (r : Region) (bank row : Nat) : Bool := r.bank == bank && decide (r.row ≤ row) && decide (row < r.row + r.n)

/-- Region row `i` of a once cut has been applied (R103). -/
def Region.applied (r : Region) (i : Nat) : Bool := decide ((i + r.n - r.start) % r.n < r.done) || r.dmap.contains i

/-- A pending row of a once cut (R98, R99). -/
def Region.pendingAt (r : Region) (bank row : Nat) : Bool :=
  !r.isProg && !r.stand && r.state == 1 && r.covers bank row && !r.applied (row - r.row)

/-- A row program runs on the subarray of a bank row (R108). -/
def Region.runsOn (r : Region) (bank row : Nat) : Bool :=
  r.isProg && r.running && r.bank == bank && r.sub == subarrayOf row

/-- Units: clusters 0 to 383, stacks from 384, cores from 400. -/
def stackUnit (k : Nat) : Nat := Config.clusterCount + k
def coreUnit (k : Nat) : Nat := Config.clusterCount + Config.stackCount + k

/-- A unit is in a deeper power state (R377). -/
def unitAsleep (s : State) (u : Nat) : Bool := mapGet s.power u 0 != 0

/-- The stack is in self-refresh (R377). -/
def asleep (s : State) (stack : Nat) : Bool := unitAsleep s (stackUnit stack)

/-- An access to a cell waits: its stack is in self-refresh, its row is pending in held mode, or a row program runs on its subarray
(R99, R102, R377). -/
def rowWaits (s : State) (a : Nat) : Bool :=
  match rowAt a with
  | none => false
  | some x => asleep s x.stack || (latheOf s x.stack).regions.any fun r => (r.held && r.pendingAt x.bank x.row) || r.runsOn x.bank x.row

/-- A once cut of the bank has pending rows. -/
def oncePending (l : Lathe) (bank : Nat) : Bool := l.regions.any fun r => r.bank == bank && !r.isProg && !r.stand && r.state == 1

/-- T_pf of a partition in cycles, 4 to the nanosecond (R99, R323). -/
def tPf (s : State) (part : Nat) : Nat := 4 * sysGet s part 0x0004

/-- A cluster that no block and no guest is on begins to be idle (R377). -/
def noteIdle (s : State) (cluster : Nat) : State :=
  if s.blocks.any (fun b => b.cluster == cluster) || s.fibres.any (fun f => f.loc / 4 == cluster) || unitAsleep s cluster then s
  else { s with idleAt := mapPut cluster s.now s.idleAt }

/-- The cycle at which a request reached a unit in a deeper state is noted (R377). -/
def noteWake (s : State) (u : Nat) : State :=
  if unitAsleep s u && !s.idleAt.any (·.1 == u) then { s with idleAt := mapPut u s.now s.idleAt } else s

/-- A wait is noted: on a sleeping stack its cycle, on a pending row the cycle at which T_pf falls (R99, R323, R377). -/
def noteWait (s : State) (a : Nat) : State :=
  match rowAt a with
  | none => s
  | some x =>
    let s := noteWake s (stackUnit x.stack)
    match (latheOf s x.stack).regions.find? (fun r => r.held && r.pendingAt x.bank x.row) with
    | none => s
    | some r =>
      setLathe s x.stack fun l =>
        if l.waits.any (fun w => w.1 == x.bank && w.2.1 == x.row) then l
        else { l with waits := l.waits ++ [(x.bank, x.row, s.now + tPf s r.part)] }

/-- A request has reached the stack of a cell (R377). -/
def touch (s : State) (a : Nat) : State :=
  match rowAt a with
  | some x => { s with reqAt := mapPut x.stack s.now s.reqAt }
  | none => s

/-- First cells of the rows of 1 KiB that `n` bytes from a cell lie in (R90, R99). -/
def rowSpan (a n : Nat) : List Nat := a :: (List.range ((a + n - 1) / 1024 - a / 1024)).map (fun i => (a / 1024 + 1 + i) * 1024)

/-- A cell of `n` bytes from `a` at which an access to them is held back, and their stacks reached (R99, R102, R377). -/
def spanHeld (s : State) (a n : Nat) : Option Nat := (rowSpan a n).find? (rowWaits s)

/-- A write of the device itself, such as a trace record: it delays nobody, and where a row or a sleeping stack holds it back it waits in its order
(R99, R377, R391). -/
def devWrite (s : State) (a n v : Nat) : State :=
  if rowWaits s a || s.devWrites.any (fun x => x.1 == a) then { noteWait s a with devWrites := s.devWrites ++ [(a, n, v)] }
  else (touch s a).write a n v

/-- The first of those writes that nothing holds back any more is made. -/
def devWriteDue (s : State) : State :=
  match s.devWrites.find? (fun x => !rowWaits s x.1) with
  | some x => (touch { s with devWrites := s.devWrites.erase x } x.1).write x.1 x.2.1 x.2.2
  | none => s

/-- The cell of an object's descriptor (R337, R338); none for an id that the table does not hold. -/
def descCell (s : State) (part obj : Nat) : Option Nat :=
  match objName s part obj with
  | .local id => if id == 0 || decide ((tableOf s part).2 ≤ id) then none else some ((tableOf s part).1 + 32 * id)
  | _ => none

/-- The descriptors of objects that hold a reader back, and their stacks reached (R99, R102, R377). -/
def descHeld (s : State) (part : Nat) (objs : List Nat) : Option Nat := (objs.filterMap (descCell s part)).find? (rowWaits s)
def touchDescs (s : State) (part : Nat) (objs : List Nat) : State := (objs.filterMap (descCell s part)).foldl touch s

/-- The entry of a trap's cause in the vector table that some lane of a fragment reads: none where each of them is masked, or where the partition
has no handler code capability (R352, R353, R365). -/
def vectorCell (s : State) (part code : Nat) (fs : List Fibre) : Option Nat :=
  if handlerCap s part == 0 || fs.all (·.tm) then none else some (sysGet s part 0x0300 + 16 * code)

/-- Some table that a walk reads lies where an access waits (R99, R102, R377). -/
def walkWaits (s : State) (part id off : Nat) : Option Nat := (walkCells s part id off).find? (rowWaits s)

/-- The same of the tables that an owner lookup reads (R313). -/
def lookupWaits (s : State) (part id off : Nat) : Option Nat := (extentCells s part id off).find? (rowWaits s)

/-! ### Fault entries -/

/-- An entry held at its port, not yet posted (R344, R345). -/
def holdEntry (s : State) (part obj off cause kind : Nat) (w : Bool) (core port slot : Nat) (lanes : BitVec 32) (pc : BitVec 44)
    (fid blk : Nat) (waiter : Waiter) : State :=
  let e : FaultEntry :=
    { eid := s.seq, ident := 0, posted := false, popped := false, obj := BitVec.ofNat 32 obj, poff := BitVec.ofNat 44 (off / 4096 * 4096)
      cause := BitVec.ofNat 4 cause, kind := BitVec.ofNat 4 kind, w := w, core := BitVec.ofNat 11 core, port := BitVec.ofNat 2 port
      slot := BitVec.ofNat 6 slot, lanes := lanes, pc := pc, fid := BitVec.ofNat 13 fid, blk := BitVec.ofNat 17 blk, waiter := waiter
      look := false }
  setPartn s.fresh part fun p => { p with faults := p.faults ++ [e] }

/-- The 32 bytes of an entry as a number (R345). -/
def FaultEntry.bits (e : FaultEntry) : BitVec 256 :=
  (e.obj ++ e.poff ++ e.cause ++ e.kind ++ BitVec.ofBool e.w ++ 0#3 ++ e.core ++ e.port ++ e.slot ++ 0#21 ++ e.lanes ++ e.pc ++ e.fid
    ++ e.blk ++ 0#10 ++ BitVec.ofNat 12 e.ident : BitVec 256)

/-- Everything that waits at the ports for a waiter that is no more is dropped: walks' answers and fault entries (R358, R372). -/
def forget (s : State) (gone : Waiter → Bool) : State :=
  { s with
    walks := s.walks.map fun w => { w with waiters := w.waiters.filter (fun x => !gone x) }
    partns := s.partns.map fun p => { p with faults := p.faults.filter (fun e => !gone e.waiter) } }

/-! ### Block fault record and store FIFOs -/

/-- An event filled into a block's fault record (R347). -/
def fillFault (s : State) (blk obj : Nat) (pc : BitVec 44) (fid code : Nat) (gone : Bool) : State :=
  setBlock s blk fun b =>
    if b.faults.length < 8 then
      { b with faults := b.faults ++ [{ obj := BitVec.ofNat 32 obj, pc := pc, fid := BitVec.ofNat 13 fid, code := BitVec.ofNat 4 code, gone := gone }] }
    else { b with fovf := true }

/-- A fibre has exited: no record that still runs carries its key (R28). -/
def exited (s : State) (k : FKey) (blk fid : Nat) : Bool :=
  match fibre? s k with
  | some f => f.blk != blk || f.fid != fid || f.run == .exited
  | none => true

/-- A discarded store recorded as STORE_LOST (R65, R347). -/
def storeLost (s : State) (x : Store) : State :=
  fillFault s x.blk (if x.spad then 0 else x.obj) x.pc x.fid 1 (exited s x.fib x.blk x.fid)

/-- Every unperformed store of a fibre. -/
def storesOf (s : State) (k : FKey) : List Store :=
  (s.ports.flatMap (·.fifo)).filter (fun x => x.fib == k) ++ s.feStores.filter (fun x => x.fib == k)

/-- Room for `n` more stores in a port's FIFO (R58); a store of several lanes waits until all of them fit (DESIGN CHOICE, log 21). -/
def fifoRoom (s : State) (core port n : Nat) : Bool := decide ((portOf s core port).fifo.length + n ≤ Config.fifoSize)

/-- A store of a fibre enters the FIFO of its port on the core it occupies (R22, R121). -/
def pushStore (s : State) (f : Fibre) (b : Block) (kind : StKind) (spad : Bool) (obj off w data scope : Nat) (rel : Bool)
    (hash : BitVec 64) (opId : Option Nat) : State :=
  let x : Store :=
    { id := s.seq, fib := f.key, blk := f.blk, fid := f.fid, pc := f.pc, kind := kind, spad := spad, obj := obj, off := off, w := w
      data := data, scope := scope, rel := rel, opId := opId, hash := hash, entry := none, lost := false, gone := false, xl := none
      waits := [], marked := false, part := b.part }
  setPort s.fresh f.loc f.key.port fun p => { p with fifo := p.fifo ++ [x] }

/-! ### Releases -/

/-- A load, an atomic or a query of the fibre is outstanding: a read at issue comes after it (R160, R163); a CUTREG that has not been entered
does not hold it back (R310). -/
def Fibre.reading (f : Fibre) : Bool := f.outs.any (fun o => o.kind != .cut)

/-- The store is a RED, which is a read where it is rejected (R173). -/
def Store.isRed (x : Store) : Bool := match x.kind with | .red .. => true | _ => false

/-- A RED of a fibre older than an operation has not performed: later reads come after it (R160, R173). -/
def redAhead (s : State) (k : FKey) (before : Nat) : Bool := (storesOf s k).any fun x => x.isRed && decide (x.id < before)

/-- Every earlier access of a fibre has performed, its cuts entered. -/
def drained (s : State) (f : Fibre) : Bool := f.outs.isEmpty && (storesOf s f.key).isEmpty

/-- Every earlier access of a fibre has performed, but for cuts that may be entered later (R310). -/
def settled (s : State) (f : Fibre) : Bool := !f.reading && (storesOf s f.key).isEmpty

/-- Dies of a die mask. -/
def diesOf (m : BitVec 8) : List Nat := (List.range 8).filter (fun d => m.getLsbD d)

/-- Destinations to which a release or fence of a scope sends markers: dies below 8, devices from 8 on (R167). -/
def markerDests (p : Port) (scope : Nat) : List Nat :=
  if scope < 4 then [] else diesOf p.dieMask ++ (if scope == 5 then p.devSet.map (· + 8) else [])

/-- Markers set out; the numbers of their gatherings (R167). -/
def sendMarkers (s : State) (core port scope : Nat) : State × List Nat :=
  let ds := markerDests (portOf s core port) scope
  let gs := ds.zipIdx.map fun x => ({ id := s.seq + x.2, dest := x.1 } : Gather)
  ({ (setPort s core port fun p => { p with gathers := p.gathers ++ gs }) with seq := s.seq + ds.length }, gs.map (·.id))

/-- The mask, and for domain scope the set, are cleared when a release or fence has performed (R167). -/
def clearMask (s : State) (core port scope : Nat) : State :=
  if scope < 4 then s
  else setPort s core port fun p => { p with dieMask := 0, devSet := if scope == 5 then [] else p.devSet, allDevs := if scope == 5 then false else p.allDevs }

/-- Some of these gatherings are outstanding. -/
def gathering (s : State) (core port : Nat) (ids : List Nat) : Bool := (portOf s core port).gathers.any (fun g => ids.contains g.id)

/-- A release before an effect (R164, R167): earlier accesses performed, and from package scope on the markers gathered. The flag says
that the release has performed. The gatherings are noted in every lane, with 0 for the instruction at hand beside those of atomics. -/
def released (s : State) (ls : List Fibre) (scope : Nat) : State × Bool :=
  match ls with
  | [] => (s, true)
  | f :: _ =>
    let core := f.loc
    let port := f.key.port
    if !ls.all (drained s) then (s, false)
    else if scope < 4 then (s, true)
    else if ls.any (fun g => g.sentTo.all (fun x => x.2 != 0)) then
      let q := sendMarkers s core port scope
      if q.2.isEmpty then (clearMask s core port scope, true)
      else (setFibres q.1 (ls.map (·.key)) fun g =>
        { g with sentTo := g.sentTo.filter (fun x => x.2 != 0) ++ q.2.map fun i => (i, 0) }, false)
    else if ls.any (fun g => gathering s core port ((g.sentTo.filter (fun x => x.2 == 0)).map (·.1))) then (s, false)
    else (clearMask (setFibres s (ls.map (·.key)) fun g => { g with sentTo := g.sentTo.filter (fun x => x.2 != 0) }) core port scope, true)

/-! ### The store hash (R395) -/

/-- One bit of the CRC-64 of ECMA-182, most significant bit first. -/
def crcBit (c : BitVec 64) (b : Bool) : BitVec 64 :=
  let t := c.getLsbD 63 != b
  let c := c <<< 1
  if t then c ^^^ 0x42F0E1EBA9EA3693#64 else c

/-- The lowest `n` bits of a byte, most significant first. -/
def crcBits (c : BitVec 64) (b : BitVec 8) : Nat → BitVec 64
  | 0 => c
  | n + 1 => crcBits (crcBit c (b.getLsbD n)) b n

/-- `n` bytes of a little-endian number. -/
def crcBytes (c : BitVec 64) (v : Nat) : Nat → BitVec 64
  | 0 => c
  | n + 1 => crcBytes (crcBits c (BitVec.ofNat 8 v) 8) (v / 256) n

/-- Recording or replay is on for a partition (R388). -/
def rrMode (s : State) (part : Nat) : Nat := sysGet s part 0x0528 % 4

/-- The hash after one lane's feed of 32 bytes (R395). -/
def feed (s : State) (part : Nat) (h : BitVec 64) (obj off w data : Nat) : BitVec 64 :=
  if rrMode s part == 0 then h
  else crcBytes h (obj % 2 ^ 32 + 2 ^ 32 * (off % 2 ^ 64) + 2 ^ 96 * (w % 256) + 2 ^ 128 * (data % 2 ^ 128)) 32

end Sys2Proof.Machine
end

