-- ==== Sys2Proof/Machine/Messages.lean ====
section
/-!
DEFINITION. Host messages (R384).
-/
namespace Sys2Proof.Machine

/-- HMSTAT's TAIL and the model's count of messages the host has not read (R381; log 19). -/
def hmTail (s : State) : Nat := sysGet s monPart 0x4007 % 2 ^ 32
def hmUnread (s : State) : Nat := sysGet s monPart 0x30000

/-- Host cell of an entry of the message ring. -/
def hmCell (s : State) (i : Nat) : Nat := Config.hostBase + sysGet s monPart 0x4006 + 16 * (i % 256)

/-- A message as its 16 bytes. -/
def hostMsgBits (code part unit detail seq : Nat) : BitVec 128 :=
  BitVec.ofNat 64 detail ++ BitVec.ofNat 8 code ++ BitVec.ofNat 8 part ++ BitVec.ofNat 16 unit ++ BitVec.ofNat 32 seq

def putHm (s : State) (i code part unit detail : Nat) : State :=
  s.write (hmCell s i) 16 (hostMsgBits code part unit detail (hmTail s)).toNat

/-- OVF of HMSTAT set. -/
def setHmOvf (s : State) : State :=
  let x := sysGet s monPart 0x4007
  if x / 2 ^ 40 % 2 == 1 then s else sysPut s monPart 0x4007 (x + 2 ^ 40)

/-- A host message is written, or merged where the ring is full; nothing before HMRING is set (R384; log 19). -/
def postHost (s : State) (code part unit detail : Nat) : State :=
  if sysGet s monPart 0x4006 == 0 then s
  else
    let tail := hmTail s
    let n := hmUnread s
    if n < 256 then
      let s := putHm s tail code part unit detail
      let x := sysGet s monPart 0x4007
      sysPut (sysPut s monPart 0x4007 (x / 2 ^ 32 * 2 ^ 32 + (tail + 1) % 2 ^ 32)) monPart 0x30000 (n + 1)
    else
      let same := fun (i : Nat) =>
        let v := s.read (hmCell s i) 16
        v / 2 ^ 56 % 2 ^ 8 == code && v / 2 ^ 32 % 2 ^ 16 == unit
      let s := setHmOvf s
      if (List.range 256).any same then s else putHm s (tail + 255) code part unit detail

end Sys2Proof.Machine
end

