-- ==== Sys2Proof/Machine/Fences.lean ====
section
/-!
DEFINITION. What a lathe's end of work brings about (R95, R96, R100), queue halts (R328) and fenced units (R385).
-/
namespace Sys2Proof.Machine

/-! ### Lathes -/

/-- The lathe has work: a cut runs, a program is queued. -/
def hasWork (l : Lathe) : Bool := l.regions.any fun r => r.isProg || r.state == 1 || r.state == 3

/-- Boost of a bank: the largest of its regions with a running cut (R96, R105), and no less than the bound of R100 of a once cut with pending rows
needs (`Region.floor`; log 19). -/
def boostOf (l : Lathe) (bank : Nat) : Nat :=
  (l.regions.filter fun r => r.bank == bank && !r.isProg && (r.state == 1 || r.state == 3)).foldl (fun m r => max m (max r.boost r.floor)) 1

/-- The cut is a once cut with pending rows. -/
def Region.oncePending (r : Region) : Bool := !r.isProg && !r.stand && r.state == 1

/-- Once cuts with pending rows keep the boost that their bank has now as their floor: it is theirs at t_reg, and when W or b becomes smaller the
bound of R100 is no later than the new W/b from then. -/
def Lathe.holdBoost (l : Lathe) (banks : Nat → Bool) : Lathe :=
  { l with regions := l.regions.map fun r => if r.oncePending && banks r.bank then { r with floor := boostOf l r.bank } else r }

/-- The boosts of banks that have become smaller than they were in `old` are floors of their once cuts (R100). -/
def boostFell (old : Lathe) (s : State) : State :=
  setLathe s old.stack fun l => l.holdBoost fun b => decide (boostOf l b < boostOf old b)

/-- A bank without pending once cuts takes a deferred lengthening of W (R95). -/
def relaxW (s : State) (stack : Nat) : State := setLathe s stack fun l => { l with deferred := l.deferred.filter (oncePending l) }
/-- Owner of a cluster (R374): a partition, 0xFE the monitor, 0xFF none. -/
def clusterOwner (s : State) (c : Nat) : Nat := mapGet s.owners c 0xFE

/-- The owner number of the map that stands for a partition of the model. -/
def ownerCode (part : Nat) : Nat := if part == monPart then 0xFE else part

/-! ### Queues -/

/-- QSTAT (R324). -/
def LQueue.stat (q : LQueue) : Nat := q.halt.toNat * 2 ^ 40 + q.index.toNat * 2 ^ 8 + q.err.toNat

/-- A queue stops at a packet with an error and tells the host (R328, R382, R384). -/
def haltQueue (s : State) (part q : Nat) (index : BitVec 32) (err : Nat) : State :=
  let s := setQueue s part q fun x => { x with halt := true, index := index, err := BitVec.ofNat 8 err }
  postHost s 1 (if part == monPart then 0xFF else part) q (queueOf s part q).stat

/-- Blocks of a kernel's grid, or gangs of a grid of gangs (R40, R326). -/
def Kernel.total (k : Kernel) : Nat := k.gx * k.gy * k.gz

/-- Head kernel of a queue: the first with blocks not yet admitted (R329, R332). -/
def headKernel (s : State) (part q : Nat) : Option Kernel :=
  (sortBy (fun (k : Kernel) => k.id) (s.kernels.filter fun k => k.part == part && k.queue == q && decide (k.nextBlk < k.total))).head?

/-! ### Fenced units -/

/-- A guest is on a core that satisfies `p` (R114). -/
def guestOn (s : State) (p : Nat → Bool) : Bool := s.fibres.any fun f => f.guest.any fun g => p g.core

/-- A unit holds a resident block, or a cut that has not ended or a row program, or a guest, which keep it from being fenced (R385; a program as a
cut, and a guest as a block: DESIGN CHOICE, log 21). -/
def unitHeld (s : State) (u : Nat) : Bool :=
  if u < Config.clusterCount then s.blocks.any (fun b => b.cluster == u) || guestOn s fun c => c / 4 == u
  else if u < Config.clusterCount + Config.stackCount then hasWork (latheOf s (u - Config.clusterCount))
  else s.parts.any (fun p => coreUnit p.core == u) || guestOn s fun c => coreUnit c == u

/-- A core, or its cluster, is fenced. -/
def coreFenced (s : State) (core : Nat) : Bool := s.fenced.contains (core / 4) || s.fenced.contains (coreUnit core)

/-- Number of a unit as a host message gives it (R384). -/
def unitNumber (u : Nat) : Nat :=
  if u < Config.clusterCount then u
  else if u < Config.clusterCount + Config.stackCount then u - Config.clusterCount
  else u - Config.clusterCount - Config.stackCount

/-- Clusters of a partition, fenced ones included. -/
def clustersOf (s : State) (part : Nat) : List Nat :=
  (List.range Config.clusterCount).filter fun c => clusterOwner s c == ownerCode part

/-- Clusters of a partition that work (R330, R385). -/
def working (s : State) (part : Nat) : List Nat := (clustersOf s part).filter fun c => !s.fenced.contains c

/-- The waiting queues of a partition whose clusters are all fenced halt with NO_FIT (R385). -/
def haltFenced (s : State) (part : Nat) : State :=
  (s.queues.filter (fun q => q.part == part && !q.halt)).foldl (fun t q =>
    match headKernel s part q.q with
    | some k =>
      if (clustersOf s part).isEmpty || !(working s part).isEmpty then t else haltQueue t part q.q (BitVec.ofNat 32 k.index) 6
    | none => t) s

/-- The counts that the device reports to the driver: those of its units that are not fenced (R9, R385; DESIGN CHOICE, log 21: the rules do not say
which counts these are, nor that a cluster of which a core is fenced keeps its scratchpad in them). -/
structure Reported where
  clusters : Nat
  engines : Nat
  cores : Nat
  nearStacks : Nat
  contexts : Nat
  spadBytes : Nat
  nearBytes : Nat
deriving DecidableEq, Repr

def reported (s : State) : Reported :=
  let up := fun (u : Nat) => !s.fenced.contains u
  let clusters := ((List.range Config.clusterCount).filter up).length
  let cores := ((List.range Config.coreCount).filter fun c => up (c / 4) && up (coreUnit c)).length
  let near := ((List.range Config.stackCount).filter fun k => up (stackUnit k)).length
  { clusters := clusters, engines := clusters, cores := cores, nearStacks := near, contexts := cores * (4 * Config.ctxPerPort)
    spadBytes := clusters * Config.spadBytes, nearBytes := near * Config.nearBytes }

/-- A unit is fenced: it is in the map and in the reported counts no more (R385). -/
def fenceUnit (s : State) (u : Nat) : State :=
  let s := { s with fenced := setIns u s.fenced, fencePend := s.fencePend.filter (· != u) }
  let s := sysPut s monPart 0x4008 3
  let s := postHost (postHost s 4 0xFF (unitNumber u) 0) 5 0xFF (unitNumber u) 0
  (List.range 9).foldl haltFenced s

/-- Units whose fencing waited for what they held are fenced when it is gone: a cluster or core with the last block or guest, a stack with the last cut
(R385). -/
def fenceDue (s : State) : State := (s.fencePend.filter (fun u => !unitHeld s u)).foldl fenceUnit s

/-- A guest has left a core: its cluster may be idle, or due to be fenced (R377, R385). -/
def guestLeft (s : State) (core : Nat) : State := fenceDue (noteIdle s (core / 4))

/-- Cuts or programs of a stack have ended, or entries have left its table, which stood as in `old`: the bound of R100 of the cuts that go on is kept, a
lengthening of W is taken, the idle time of a stack without regions begins, and a pending fence may fall due (R95, R100, R377, R385). -/
def latheEnds (old : Lathe) (s : State) : State :=
  let s := relaxW (boostFell old s) old.stack
  fenceDue (if !old.regions.isEmpty && (latheOf s old.stack).regions.isEmpty then { s with reqAt := mapPut old.stack s.now s.reqAt } else s)

end Sys2Proof.Machine
end

