-- ==== Sys2Proof/Machine/Operands.lean ====
section
/-!
DEFINITION. Issue of an instruction: the registers it names, guards (R190), comparators (R390), pre-issue checks (R197), returns of
away fibres (R116), interlocks (R199), and every operand form: vector, uniform and capability registers, predicates, immediates,
lane sources (R192), offsets (R194).
-/
namespace Sys2Proof.Machine

/-- What an instruction names, for everything that happens before its own effect: length, stall count, yield bit, guard; vector
registers and predicates read and written; tile registers; feature bit; level; MX instruction or WAITC mx (R300); legal encoding;
needs home (R116); a trap of the fetch (R54, R183); capability registers. -/
structure Use where
  len : Nat := 8
  stall : Nat := 0
  y : Bool := false
  g : Nat := 0
  gn : Bool := false
  vr : List Nat := []
  vw : List Nat := []
  pr : List Nat := []
  pw : List Nat := []
  tiles : List Nat := []
  feat : Option Nat := none
  priv : Nat := 0
  mx : Bool := false
  legal : Bool := true
  home : Bool := false
  early : Option Nat := none
  caps : List Nat := []
deriving DecidableEq, Repr

/-- Use of a 64-bit instruction, from its head (R189). -/
def useOf (h : Head) (legal : Bool) : Use :=
  { stall := h.stall.toNat, y := h.y, g := h.g.toNat, gn := h.gn, legal := h.wf && legal }

/-- The guard of a lane (R190). -/
def Use.guard (u : Use) (f : Fibre) : Bool := f.pred u.g != u.gn

/-! ### Block part registers -/

def partOf (s : State) (f : Fibre) : Option Part := part? s f.key.core f.bp

/-- Uniform register of a fibre's block part, as it stood before any write of the present cycle (R25, R48). -/
def uni (s : State) (f : Fibre) (n : Nat) : Word := ((partOf s f).map (fun p => (p.seenS s.now).getD n 0)).getD 0

/-- 64-bit value of a uniform pair. -/
def uniPair (s : State) (f : Fibre) (n : Nat) : DWord := pairOf (uni s f n) (uni s f (n + 1))

def setUni (s : State) (f : Fibre) (n : Nat) (w : Word) : State :=
  setPart s f.key.core f.bp fun p => p.putUni s.now f.key.port n w

/-- Consecutive uniform registers written, the low word first. -/
def setUnis (s : State) (f : Fibre) (n : Nat) : List Word → State
  | [] => s
  | w :: ws => setUnis (setUni s f n w) f (n + 1) ws

/-- Words of a number, low word first. -/
def wordsN (v : Nat) : Nat → List Word
  | 0 => []
  | n + 1 => BitVec.ofNat 32 v :: wordsN (v / 2 ^ 32) n

/-- Capability register of a fibre: the block part's, or at a guest the carried copy, null where none is carried (R25, R115). -/
def capReg (s : State) (f : Fibre) (n : Nat) : CapWord :=
  match f.guest with
  | some g => ((g.caps.find? (·.1 == n)).map (·.2)).getD 0
  | none => ((partOf s f).map (fun p => (p.seenC s.now).getD n 0)).getD 0

/-! ### Before the effect -/

/-- Streamer commands and reservation entries of the block make no progress (R357, R371). -/
def Block.frozen (b : Block) : Bool := b.pre || b.held

/-- Some member of the block's gang is saved: until all are restored none of them runs (R39, R371; log 11). -/
def gangAway (s : State) (b : Block) : Bool := (b.gang.bind (gang? s)).any (fun g => g.members.any (fun m => decide (noBlock < m)))

/-- The fibre of a block is stopped: restored and not released, stopped by DSTOP, or pre-empted, but for a masked handler within its
budget (R356, R371, R389). -/
def stoppedIn (s : State) (b : Block) (f : Fibre) : Bool :=
  b.held || b.dbg || (b.pre && (!f.tm || f.expired)) || gangAway s b

/-- The fibre can issue: ready, or waiting before issue, not stopped, not between cores (R21). -/
def Fibre.canIssue (s : State) (f : Fibre) : Bool :=
  (f.run == .ready || f.run == .waiting .retry) && f.transit == .none && !(block? s f.blk).any (fun b => stoppedIn s b f)

/-- Comparator `k` of a core: enabled, its program counter, queues and lanes (R388, R390). -/
def cmpHit (s : State) (b : Block) (f : Fibre) (k : Nat) : Bool :=
  let r := sysGet s b.part (0x20000 + 16 * f.loc + 2 * k)
  let m := sysGet s b.part (0x20001 + 16 * f.loc + 2 * k)
  r / 2 ^ 44 % 2 == 1 && r / 2 % 2 ^ 43 * 2 == f.pc.toNat && m / 2 ^ (32 + b.queue) % 2 == 1 && m / 2 ^ f.lane % 2 == 1 && !f.cmpPass

/-- The lowest comparator that matches some lane of the batch (R390). -/
def comparator (s : State) (b : Block) (lanes : List Fibre) : Option Nat :=
  (List.range 8).find? (fun k => lanes.any (fun f => cmpHit s b f k))

/-- A source or the guard has a fixed-latency write pending: the consumer is short (R200, R201). -/
def shortIn (u : Use) (f : Fibre) : Bool :=
  f.pend.any fun e => match e.dest with
    | .reg v _ => u.vr.contains v
    | .tag v _ => u.vr.contains v
    | .pred p _ => p != 0 && (p == u.g || u.pr.contains p)

/-- A feature is accepted (R198, R383). -/
def featureOn (s : State) (k : Nat) : Bool := sysGet s monPart 0x4001 / 2 ^ k % 2 == 1

/-- Pre-issue checks but ENGINE_LOST, which every lane of the batch fails alike, the smallest code (R197). -/
def preissue (s : State) (u : Use) (b : Block) (lanes : List Fibre) : Option Nat :=
  let sbchk := lanes.any (fun f => ((partOf s f).map (·.seenCheck s.now)).getD false)
  let win := fun v => lanes.any (fun f => decide (f.regs.length ≤ v))
  minCodes
    [u.early,
     if !u.legal || u.feat.any (fun k => !featureOn s k) then some cIllegalOp else none,
     if lanes.any (fun f => decide (f.lvl < u.priv)) then some cPriv else none,
     if sbchk && lanes.any (shortIn u) then some cStallShort else none,
     if (u.vr ++ u.vw).any win || u.tiles.any (fun t => decide (b.tileN ≤ t)) then some cWindowRange else none]

/-- Registers an outstanding result fills. -/
def Out.regs (o : Out) : List Nat := (List.range o.tags.length).map (· + o.d)

/-- The instruction reads or writes a register whose result is outstanding (R199). -/
def interlocked (u : Use) (f : Fibre) : Bool :=
  f.outs.any fun o => o.regs.any (fun v => u.vr.contains v || u.vw.contains v)

/-- The fibre has an LDL outstanding: it counts in its batch's scratchpad completion count (R62). -/
def Fibre.spadLoads (f : Fibre) : Bool := f.outs.any (fun o => o.spad && o.kind == .load)

/-- The batch's scratchpad completion count is not zero, and the instruction reads or writes a destination of one of the LDLs that it
counts (R62). -/
def spadHeld (u : Use) (lanes : List Fibre) : Bool :=
  lanes.any Fibre.spadLoads && lanes.any (fun f => f.ldl.any (fun v => u.vr.contains v || u.vw.contains v))

/-- An away fibre that must go home before this instruction issues (R116). -/
def needsHome (u : Use) (f : Fibre) : Bool :=
  match f.guest with
  | some g => u.home || u.caps.any (fun c => !g.caps.any (·.1 == c))
  | none => false

/-- Slots that no fibre names are free (R30). -/
def cleanSlots (s : State) : State :=
  { s with slots := s.slots.filter fun x => s.fibres.any fun f => f.slot == some x.idx && f.loc == x.core && f.key.port == x.port }

/-- Fibres set out for home with the live set of their billets, to issue there the instruction that they have reached (R116, R119). -/
def startReturn (s : State) (ks : List FKey) : State :=
  cleanSlots (setFibres s ks fun f => { f with transit := .home, slot := none, run := f.run.unwait, own := none, acts := false, drops := false })

/-- Every lane of the batch waits before issue (R21); `mx` tells that the engine-lost mark stops its instruction (R300). -/
def waitBatch (s : State) (lanes : List Fibre) (mx : Bool) : State :=
  setFibres s (lanes.map (·.key)) fun f =>
    if f.run == .waiting .retry then { f with atMx := mx } else { f with run := .waiting .retry, waitSince := s.now, atMx := mx }

/-- The lane traps. -/
def trapFated (fates : List (FKey × Fate)) (f : Fibre) : Bool :=
  match fateOf fates f with
  | some (.trap ..) => true
  | _ => false

/-- A lane that traps first sees its outstanding results written (R353; log 19). -/
def trapWaits (fates : List (FKey × Fate)) (f : Fibre) : Bool := trapFated fates f && !f.outs.isEmpty

/-- Away lanes that trap: their return home is a fence at package scope (R116, R121, R172). -/
def trapGoers (fates : List (FKey × Fate)) (lanes : List Fibre) : List Fibre := lanes.filter fun f => trapFated fates f && f.away

/-- Entries of the vector table that the traps of a batch read (R352, R353). -/
def vectorCells (s : State) (b : Block) (lanes : List Fibre) (fates : List (FKey × Fate)) : List Nat :=
  fates.filterMap fun x => match x.2 with
    | .trap c _ _ _ => vectorCell s b.part c (lanes.filter fun f => fragOf (fateOf fates f) == fragOf (some x.2))
    | _ => none

/-- End of an issue, or a wait where a trap cannot be taken yet: results are outstanding, an away lane's return has not been fenced, or a row or a
sleeping stack holds the vector table's entry back (R99, R102, R172, R353, R377). -/
def conclude (s : State) (c : Cur) (b : Block) (lanes : List Fibre) (u : Use) (a : Acted) : Result :=
  let goers := trapGoers a.fates lanes
  let vs := vectorCells s b lanes a.fates
  if lanes.any (trapWaits a.fates) then .next (waitBatch s lanes u.mx)
  else if a.wait then .next (waitBatch a.s lanes u.mx)
  else if !(released s goers 4).2 then .next (waitBatch (released s goers 4).1 lanes u.mx)
  else match vs.find? (rowWaits s) with
  | some x => .next (waitBatch (noteWait s x) lanes u.mx)
  | none =>
    match a.hole <|> vs.find? (fun x => !mapped x) with
    | some x => .fault (.noSuchAddress x)
    | none =>
      let t := finish c b lanes u.len (1 + u.stall) { a with s := (released (vs.foldl touch a.s) goers 4).1, renew := a.renew || u.y }
      .next (goers.foldl (fun t f => guestLeft t f.loc) t)

/-- All lanes of a list trap with a code. -/
def trapAll (lanes : List Fibre) (code : Nat) (detail : Nat) (cmp : Bool) : List (FKey × Fate) :=
  lanes.map (fun f => (f.key, .trap code 0 detail cmp))

/-- Fates of the lanes that comparator `k` matches: BREAKPOINT, or the smaller code that the instruction's own check of the lane gives, with what
those checks say of it in `own` (R8, R390; log 19). -/
def hitFates (k : Nat) (own : List (FKey × Fate)) (hits : List Fibre) : List (FKey × Fate) :=
  hits.map fun f => (f.key,
    match fateOf own f with
    | some (.trap c i d m) => if c < cBreakpoint then .trap c i d m else .trap cBreakpoint 0 k true
    | _ => .trap cBreakpoint 0 k true)

/-- Issue of an instruction by the batch that `State.cur` names (R190, R197, R390, R116, R199). A lane that a comparator matches and that fails a
check, before the issue or of the instruction itself, reports the check's code where that is the smaller one (R7, R8; log 19). -/
def issue (u : Use) (act : State → Block → List Fibre → Acted) (s : State) : Result :=
  match s.cur with
  | none => .next s
  | some c =>
    let lanes := lanesOf s c
    match lanes.head?.bind (fun f => block? s f.blk) with
    | none => .next s
    | some b =>
      if !lanes.all (Fibre.canIssue s) then .next s
      else if lanes.any (needsHome u) then .next (startReturn s ((lanes.filter (needsHome u)).map (·.key)))
      else
        let hit := match comparator s b lanes with
          | some k => hitFates k (act s b (lanes.filter u.guard)).fates (lanes.filter (fun f => cmpHit s b f k))
          | none => []
        let rest := lanes.filter (fun f => (fateOf hit f).isNone)
        match preissue s u b lanes with
        | some e => conclude s c b lanes { u with y := false } (acted s (trapAll lanes e 0 false))
        | none =>
          if u.mx && lanes.any (·.lost) then
            conclude s c b lanes { u with y := false } (acted s (trapAll (lanes.filter (·.lost)) cEngineLost 0 false
              ++ hit ++ rest.map (fun f => (f.key, .stay))))
          else if lanes.any (interlocked u) || spadHeld u lanes then .next (waitBatch s lanes u.mx)
          else if rest.isEmpty then conclude s c b lanes { u with y := false } (acted s hit)
          else
            let a := act s b (rest.filter u.guard)
            conclude s c b lanes u { a with fates := hit ++ a.fates }

/-! ### Effects of common shapes -/

/-- Fibres of a list changed, each by a function of its own record. -/
def onLanes (s : State) (ls : List Fibre) (g : Fibre → Fibre) : State := setFibres s (ls.map (·.key)) g

/-- Lanes whose check gives a code trap with it. -/
def trapsOf (check : Fibre → Option Nat) (ls : List Fibre) : List (FKey × Fate) :=
  ls.filterMap (fun f => (check f).map (fun e => (f.key, Fate.trap e 0 0 false)))

/-- A lane operation: lanes whose check gives a code trap, the others write their destinations at a latency, or at once where the
operation is interlocked (R199, R202). -/
def regAct (lat : Option Nat) (check : Fibre → Option Nat) (out : Fibre → List PendDest) (s : State) (ls : List Fibre) : Acted :=
  let ok := ls.filter (fun f => (check f).isNone)
  let put := fun f d => match lat with | some l => Fibre.push f l d | none => Fibre.writeNow f d
  acted (onLanes s ok fun f => (out f).foldl put f) (trapsOf check ls)

/-- An effect done lane by lane in ascending lane position; each gives a fate, or none to go on. -/
def eachLane (g : State → Fibre → State × Option Fate) (s : State) : List Fibre → State × List (FKey × Fate)
  | [] => (s, [])
  | f :: fs =>
    let r := g s f
    let q := eachLane g r.1 fs
    (q.1, match r.2 with | some x => (f.key, x) :: q.2 | none => q.2)

/-- The same as an effect of the instruction. -/
def laneAct (g : State → Fibre → State × Option Fate) (s : State) (ls : List Fibre) : Acted :=
  let r := eachLane g s ls
  acted r.1 r.2

/-- An effect through the lowest active, guard-true lane; nothing without one (R48, R134). -/
def firstLane (g : State → Fibre → Acted) (s : State) (ls : List Fibre) : Acted :=
  match ls with
  | [] => acted s []
  | f :: _ => g s f

/-- The trap fate of a code. -/
def trapF (code : Nat) : Fate := .trap code 0 0 false

/-- The trap fate of a code with an address as INFO (R354). -/
def trapAt (code : Nat) (info : Nat) : Fate := .trap code (BitVec.ofNat 64 info) 0 false

/-! ### Operand forms of the lane operations -/

/-- Where an operation's B comes from: a vector register, a uniform register, an immediate, or a lane source. -/
inductive BSrc where
  | vec (b : Nat)
  | uni (b : Nat)
  | imm (w : Word)
  | lane (xm xk : Nat) (xf : Bool) (b : Nat)
deriving DecidableEq, Repr

/-- Source lane of R192, when there is one. -/
def srcLane (xm xk : Nat) (f : Fibre) : Option Nat :=
  match xm with
  | 1 => some ((f.val xk).toNat % 32)
  | 2 => some xk
  | 3 => if xk ≤ f.lane then some (f.lane - xk) else none
  | 4 => if f.lane + xk < 32 then some (f.lane + xk) else none
  | _ => some (f.lane ^^^ xk)

/-- The lane of a list at a position. -/
def laneAt (ls : List Fibre) (j : Nat) : Option Fibre := ls.find? (fun f => f.lane == j)

/-- B of one lane; `ls` are the active, guard-true lanes (R191 to R193). -/
def bValue (s : State) (ls : List Fibre) (x : BSrc) (f : Fibre) : VReg :=
  match x with
  | .vec b => f.reg b
  | .uni b => { val := uni s f b, tag := tRaw }
  | .imm w => { val := w, tag := tRaw }
  | .lane xm xk xf b =>
    match (srcLane xm xk f).bind (laneAt ls) with
    | some g => g.reg b
    | none => if xf then { val := 0, tag := tRaw } else f.reg b

/-- Vector registers that a B source reads. -/
def BSrc.reads : BSrc → List Nat
  | .vec b => [b]
  | .lane xm xk _ b => if xm == 1 then [b, xk] else [b]
  | _ => []

/-- A B source that names a uniform register (R116). -/
def BSrc.isUni : BSrc → Bool
  | .uni _ => true
  | _ => false

/-- The index register of a lane source is an untyped operand (R192). -/
def BSrc.check (x : BSrc) (f : Fibre) : Option Nat :=
  match x with
  | .lane 1 xk _ _ => checkTag none (f.reg xk)
  | _ => none

/-- One of the 56 operations on every lane (R186, R191, R193, R203, R282). -/
def op6Act (o : Op6) (rm : Rm) (sat ftz : Bool) (a d : Nat) (x : BSrc) (lat : Option Nat) (s : State) (_ : Block) (ls : List Fibre) :
    Acted :=
  regAct lat
    (fun f => minCodes [x.check f, op6Check o (f.reg a) (bValue s ls x f) (f.reg d)])
    (fun f => [.reg d (op6Result o rm sat ftz (f.reg a) (bValue s ls x f) (f.reg d))]) s ls

/-- Registers an operation reads (R187). -/
def op6Reads (o : Op6) (a d : Nat) (x : BSrc) : List Nat :=
  (if o == .mov && (match x with | .imm _ => true | _ => false) then [] else [a])
    ++ (if o.noB then [] else x.reads) ++ (if o.readsD then [d] else [])

/-- Form A (R186). -/
def op6A (o : Op6) (f : FormA) (s : State) : Result :=
  issue
    { len := 4, stall := f.stall.toNat, g := f.g.toNat, legal := f.wf o, vr := op6Reads o f.a.toNat f.d.toNat (.vec f.b.toNat)
      vw := [f.d.toNat] }
    (op6Act o .rne false false f.a.toNat f.d.toNat (.vec f.b.toNat) (op6Latency o)) s

/-- Form A instruction that a form H instruction is, but for its length (R185). -/
def aliasOf (o : Op6) (f : FormH) : FormA :=
  if o == .mov then { g := 0, b := 0, a := f.a.setWidth 6, d := f.d.setWidth 6, stall := f.stall.setWidth 3 }
  else { g := 0, b := f.a.setWidth 6, a := f.d.setWidth 6, d := f.d.setWidth 6, stall := f.stall.setWidth 3 }

/-- Form H (R184, R185). -/
def op6H (o : Op6) (f : FormH) (s : State) : Result :=
  let a := aliasOf o f
  issue
    { len := 2, stall := a.stall.toNat, vr := op6Reads o a.a.toNat a.d.toNat (.vec a.b.toNat), vw := [a.d.toNat] }
    (op6Act o .rne false false a.a.toNat a.d.toNat (.vec a.b.toNat) (op6Latency o)) s

/-- B source of form X (R191). -/
def xSrc (f : OpX) : BSrc :=
  if f.bu then .uni f.b.toNat
  else if f.xm == 0 then .vec f.b.toNat
  else .lane f.xm.toNat f.xk.toNat f.xf f.b.toNat

/-- Form X (R191, R192). -/
def op6X (o : Op6) (h : Head) (f : OpX) (s : State) : Result :=
  issue
    { useOf h (f.wf o) with
      vr := op6Reads o f.a.toNat f.d.toNat (xSrc f), vw := [f.d.toNat], home := (xSrc f).isUni }
    (op6Act o (rmOf f.rm.toNat) f.sat f.ftz f.a.toNat f.d.toNat (xSrc f)
      ((op6Latency o).map (· + (if f.xm == 0 then 0 else 2)))) s

/-- Form I; MOV writes the immediate, tagged RAW (R193). -/
def op6I (o : Op6) (h : Head) (f : OpI) (s : State) : Result :=
  let w : Word := f.imm.signExtend 32
  let x := BSrc.imm w
  let act := if o == .mov then
      fun s (_ : Block) ls => regAct (op6Latency o) (fun _ => none) (fun _ => [.reg f.d.toNat { val := w, tag := tRaw }]) s ls
    else op6Act o .rne false false f.a.toNat f.d.toNat x (op6Latency o)
  issue { useOf h (f.wf o) with vr := op6Reads o f.a.toNat f.d.toNat x, vw := [f.d.toNat] } act s

/-! ### Offsets -/

/-- Registers of an offset operand (R194). -/
def offRegs (a : Nat) (o64 : Bool) : List Nat := if o64 then [a, a + 1] else [a]

/-- Value of an offset operand: the register sign-extended, or the 64-bit pair (R194). -/
def offVal (f : Fibre) (a : Nat) (o64 : Bool) : Int :=
  if o64 then (pairOf (f.val a) (f.val (a + 1))).toInt else (f.val a).toInt

/-- Untyped check of a list of registers (R87). -/
def checkRegs (f : Fibre) (rs : List Nat) : Option Nat := minCodes (rs.map (fun r => checkTag none (f.reg r)))

end Sys2Proof.Machine
end

