-- ==== Sys2Proof/Machine/Fetch.lean ====
section
/-!
DEFINITION. Reading the code object: the capability in force (R54, R353), bytes of an instruction or of a jump table at an offset of
the object (R183, R218), and trace records (R391).
-/
namespace Sys2Proof.Machine

/-- Code capability in force for a fibre: the handler's in a handler, the kernel's otherwise (R54, R353). -/
def codeCap (s : State) (b : Block) (f : Fibre) : CapWord :=
  if f.inHandler then handlerCap s b.part else ((kernel? s b.kernel).map (·.code)).getD 0

/-- `n` bytes at offset `off` lie in the range of a code capability (R54). -/
def inCode (c : CapWord) (off n : Nat) : Bool := decide (capBase c ≤ off) && decide (off + n ≤ capBase c + capLimit c + 1)

/-- Result of reading an object page by page. -/
inductive CodeRes where
  | bytes (v : Nat)
  | unres (cause : Nat)
  /-- the page at an offset waits for a walk -/
  | miss (off : Nat)
  /-- the cell's row, or a table's, holds the access back -/
  | held (addr : Nat)
deriving DecidableEq, Repr

/-- Place of an offset of a code object as the port translates it for a requester that has been answered `xl`; only a local object holds code (R341;
log 17). -/
def codePlace (s : State) (part obj off : Nat) (xl : List Xlate) : Tr :=
  match objName s part obj with
  | .local _ => translate s part obj off xl
  | _ => .unres fNoObject

/-- Code bytes of one page (R341; log 17); a pending row, a row program or self-refresh holds the read back at whichever of its rows it meets one
(R99, R102, R377). Bytes with an uncorrectable error are executed, or read by BRX, as they are, with no report (DESIGN CHOICE, log 21: R17's
table lists no such consumer). -/
def codePage (s : State) (part obj off n : Nat) (xl : List Xlate) : CodeRes :=
  match codePlace s part obj off xl with
  | .place a => (match spanHeld s a n with | some z => .held z | none => .bytes (s.read a n))
  | .unres c => .unres c
  | .miss => .miss off
  | .ended => .unres fNoObject

/-- Cell of an offset of the code object, where it resolves. -/
def codeCell (s : State) (part obj off : Nat) (xl : List Xlate) : Option Nat :=
  match codePlace s part obj off xl with
  | .place a => some a
  | _ => none

/-- `n` bytes of the code object from an offset, which may cross a page. -/
def codeRead (s : State) (part obj off n : Nat) (xl : List Xlate) : CodeRes :=
  let k := min n (4096 - off % 4096)
  match codePage s part obj off k xl with
  | .bytes v =>
    if k == n then .bytes v
    else match codePage s part obj (off + k) (n - k) xl with
      | .bytes w => .bytes (v + 256 ^ k * w)
      | r => r
  | r => r

/-! ### Trace -/

/-- A trace record in the ring, dropped where the ring is full; nothing with tracing off (R391). -/
def traceWrite (s : State) (b : Block) (f : Fibre) (kind code : Nat) (data : Nat) : State :=
  let ctl := sysGet s b.part 0x0505
  if ctl / 2 ^ 40 % 2 == 0 then s
  else
    let logn := if 10 ≤ ctl % 32 && decide (ctl % 32 ≤ 24) then ctl % 32 else 10
    let p := partnOf s b.part
    let head := BitVec.ofNat 32 (sysGet s b.part 0x0507)
    if (p.trTail - head).toNat == 2 ^ logn then setPartn s b.part fun x => { x with trDrops := x.trDrops + 1 }
    else
      let phase := ((b.bars[0]?).map (·.phase)).getD 0
      let r : BitVec 256 := BitVec.ofNat 128 data ++ BitVec.ofNat 16 b.z ++ BitVec.ofNat 16 b.y ++ BitVec.ofNat 16 b.x ++ phase
        ++ BitVec.ofNat 16 code ++ BitVec.ofNat 11 f.loc ++ BitVec.ofNat 5 f.lane ++ BitVec.ofNat 2 kind ++ BitVec.ofNat 13 f.fid ++ 0#1
      let s := devWrite s (sysGet s b.part 0x0504 + 32 * (p.trTail.toNat % 2 ^ logn)) 32 r.toNat
      setPartn s b.part fun x => { x with trTail := x.trTail + 1 }

end Sys2Proof.Machine
end

