-- ==== Sys2Proof/Machine/Fibres.lean ====
section
/-!
DEFINITION. Lives of fibres: ending (R28), spawn bins (R29), creation by SPAWN (R26, R27), named barriers (R223), join sets (R32),
loose fibres (R23), release of waits.
-/
namespace Sys2Proof.Machine

/-- Fibres of a block that have not exited. -/
def aliveOf (s : State) (blk : Nat) : List Fibre := s.fibres.filter (fun f => f.blk == blk && f.run != .exited)

/-- Waits issued with their distance still owed end: the distance is entered and the fibre is ready (R357). -/
def Fibre.release (f : Fibre) : Fibre :=
  { (f.tick f.owe) with owe := 0, run := .ready }

/-- Exited fibres whose last store and last atomic have performed give up their contexts (R28, R237). That an atomic keeps a context as a store
does is the model's reading (log 19: R28 names stores alone, and R237 has every atomic write). -/
def reap (s : State) : State :=
  { s with fibres := s.fibres.filter (fun f => f.run != .exited || !f.outs.isEmpty || !(storesOf s f.key).isEmpty) }

/-! ### Lanes that wait with their batch -/

/-- The fibre waits at a barrier or in a round for others. -/
def Run.collective : Run → Bool
  | .waiting (.bar ..) | .waiting (.vote _) | .waiting (.sync _) => true
  | _ => false

/-- Guard-false lanes of a batch that waits for others wait with it (R152, R223, R306). -/
def holdMates (s : State) (ls : List Fibre) : State :=
  if ls.isEmpty then s
  else match s.cur with
  | none => s
  | some c =>
    setFibres s (((lanesOf s c).filter fun f => !(ls.any fun g => g.key == f.key)).map (·.key)) fun f => { f with run := .waiting .mates }

/-- Some lane of the batch of a fibre still waits at a barrier or in a round. -/
def matesWait (l : List Fibre) (f : Fibre) : Bool :=
  l.any fun g => g.blk == f.blk && g.bat == f.bat && g.waitPc == f.waitPc && g.run.collective

/-- Fibres that waited with their batches are ready again when none of those lanes waits any more. -/
def freeMates (s : State) : State :=
  { s with fibres := s.fibres.map fun f => if f.run == .waiting .mates && !matesWait s.fibres f then { f with run := .ready } else f }

/-! ### Named barriers -/

def NBar.zero : NBar := { phase := 0, arrived := 0, expect := none }

def barOf (b : Block) (id : Nat) : NBar := b.bars.getD id NBar.zero

def setBar (s : State) (blk id : Nat) (g : NBar → NBar) : State :=
  setBlock s blk fun b => { b with bars := b.bars.set id (g (barOf b id)) }

/-- The phase's arrivals reach its count: the value of the first arrival's register, or every fibre of the block that has not
exited (R223). -/
def barFull (s : State) (b : Block) (n : NBar) : Bool :=
  n.arrived != 0 && (match n.expect with | some v => n.arrived == v | none => n.arrived == (aliveOf s b.id).length)

/-- The phase completes when it is full: waiters at home are ready, and those that pre-emption has recalled; for an away one the release message
sets out. An away one whose arrival is still on its way stays waiting: its arrival counts when it reaches home (R118, R223, R356). -/
def barCheck (s : State) (blk id : Nat) : State :=
  match block? s blk with
  | none => s
  | some b =>
    let n := barOf b id
    if barFull s b n then
      let s := setBar s blk id fun n => { n with phase := n.phase + 1, arrived := 0, expect := none }
      freeMates { s with fibres := s.fibres.map fun f =>
          if f.blk == blk && f.run == .waiting (.bar id n.phase.toNat) && (f.transit == .none || f.transit == .home) then
            if f.away && f.transit == .none then { f with transit := .release } else { f with run := .ready }
          else f }
    else s

/-- One arrival of a fibre at a barrier; `cnt` is the value of CNT = 1's register (R223). -/
def barArrive (s : State) (k : FKey) (blk id : Nat) (cnt : Option Nat) : State :=
  match block? s blk with
  | none => s
  | some b =>
    let n := barOf b id
    let s := setBar s blk id fun n => { n with arrived := n.arrived + 1, expect := if n.arrived == 0 then cnt else n.expect }
    let s := setFibre s k fun f => { f with run := .waiting (.bar id n.phase.toNat) }
    barCheck s blk id

/-- Every barrier of a block counts again after an exit (R223). -/
def barRecount (s : State) (blk : Nat) : State := (List.range 16).foldl (fun s id => barCheck s blk id) s

/-! ### Ending -/

/-- A fibre ends (R28, R32, R202): its counters and joins end with it, its stores and atomics still perform, and its cuts are still entered, with
no hold on its context. A spawn bin that it leaves empty is no more (R29); a guest's core may be idle, or due to be fenced (R377, R385). -/
def exitFibre (s : State) (k : FKey) : State :=
  match fibre? s k with
  | none => s
  | some f =>
    let cuts := (f.outs.filter (fun o => o.kind == .cut)).map fun o => ({ fib := k, blk := f.blk, fid := f.fid, out := o } : LeftCut)
    let s := setFibre { s with leftCuts := s.leftCuts ++ cuts } k fun f =>
      { f.landAll with
        run := .exited, slot := none, joins := [], ops := [], outs := f.outs.filter (fun o => o.kind == .atom), guest := none
        transit := .none, logRec := none }
    let leave := fun (l : List Bin) => l.filterMap fun x =>
      if x.ctxs.contains k.ctx then
        (if x.ctxs.all (· == k.ctx) then none else some { x with ctxs := x.ctxs.filter (· != k.ctx) })
      else some x
    let s := { s with ports := s.ports.map fun p => if p.core == k.core && p.port == k.port then { p with bins := leave p.bins } else p }
    reap (barRecount (forget (if f.away then guestLeft s f.loc else s) fun w => w == .fibre k) f.blk)

/-! ### Spawn bins -/

/-- A fibre waits in a spawn bin. -/
def inBin (s : State) (k : FKey) : Bool := (portOf s k.core k.port).bins.any (fun x => x.ctxs.contains k.ctx)

/-- A bin launches as a batch in the lowest free slot, or its fibres become loose, with the bin's start as age (R29). -/
def launchBin (s : State) (core port idx : Nat) : State :=
  match (portOf s core port).bins.find? (fun x => x.idx == idx) with
  | none => s
  | some x =>
    let s := setPort s core port fun p => { p with bins := p.bins.filter (fun y => y.idx != idx) }
    placeBatch s core port (x.ctxs.map fun c => { core := core, port := port, ctx := c }) x.start s.now

/-- The bin of a key, made where none carries it; a full port launches its earliest bin first, of several that started in one cycle the
first in the port's list (R29; DESIGN CHOICE, log 21: R29 does not say which). -/
def binFor (s : State) (core port bp : Nat) (entry : BitVec 44) (timer : Nat) : State × Nat :=
  let p := portOf s core port
  match p.bins.find? (fun x => x.bp == bp && x.entry == entry) with
  | some x => (s, x.idx)
  | none =>
    let s := if p.bins.length < Config.binsPerPort then s
      else match sortBy (fun (x : Bin) => x.start) p.bins with
        | x :: _ => launchBin s core port x.idx
        | [] => s
    let used := (portOf s core port).bins.map (·.idx)
    let i := ((List.range Config.binsPerPort).find? (fun i => !used.contains i)).getD 0
    (setPort s core port fun p => { p with bins := p.bins ++ [{ idx := i, bp := bp, entry := entry, start := s.now, timer := timer, ctxs := [] }] }, i)

/-- Window base of a context: the 64 registers at 64 times its number in the core's file, in units of eight (R19, R20; DESIGN CHOICE, log 7). -/
def baseOf (k : FKey) : BitVec 16 := BitVec.ofNat 16 ((k.port * Config.ctxPerPort + k.ctx) * 8)

/-- A fibre right after its creation (R19, R27). -/
def newFibre (b : Block) (key : FKey) (bp fid : Nat) (pc : BitVec 44) (regs : List VReg) (now : Nat) : Fibre :=
  { key := key, blk := b.id, bp := bp, fid := fid, pc := pc, preds := 1, regs := regs, joins := [], run := .ready, slot := none, age := now
    pend := [], outs := [], ops := [], sticky := 0, level := b.level, tm := false, trec := none, logRec := none, frag := 0
    savedRegs := [], savedPreds := 0, migst := 0, redrej := 0, lost := false, fhash := 0, dbcause := false
    cmpPass := false, owe := 0, next := now, waitPc := pc, waitSeq := 0, waitSince := 0, guest := none, transit := .none, move := none, own := none
    xl := [], expired := false, mark := none, sentTo := [], sent := 0, wbase := baseOf key
    bat := 0, ldl := [], acts := false, drops := false, atMx := false }

/-- Window registers right after creation: 0, tagged RAW (R19). -/
def zeroRegs (n : Nat) : List VReg := List.replicate n { val := 0, tag := tRaw }

/-- Lowest number below `n` that is not in a list. -/
def lowestFree (used : List Nat) (n : Nat) : Option Nat := (List.range n).find? (fun i => !used.contains i)

/-- SPAWN of one lane: the child's context, or none for lack of room (R26, R27, R29). -/
def spawnOne (s : State) (b : Block) (timer : Nat) (f : Fibre) (entry : BitVec 44) (arg : VReg) : State × Bool :=
  let core := f.key.core
  let port := f.key.port
  let alive := aliveOf s b.id
  let used := (s.fibres.filter (fun g => g.key.core == core && g.key.port == port)).map (·.key.ctx)
  let held := (((portOf s core port).bins.find? (fun x => x.bp == f.bp && x.entry == entry)).map (fun x => x.ctxs.map (· % 32))).getD []
  let free := (List.range Config.ctxPerPort).filter (fun c => !used.contains c)
  match (free.find? (fun c => !held.contains (c % 32))) <|> free.head? with
  | none => (s, false)
  | some ctx =>
    if Config.maxFibres ≤ alive.length then (s, false)
    else
      -- a bin that already holds the lane position launches first
      let s := if held.contains (ctx % 32) then
          match (portOf s core port).bins.find? (fun x => x.bp == f.bp && x.entry == entry) with
          | some x => launchBin s core port x.idx
          | none => s
        else s
      let q := binFor s core port f.bp entry timer
      let fid := (lowestFree (alive.map (·.fid)) Config.maxFibres).getD 0
      let key : FKey := { core := core, port := port, ctx := ctx }
      let regs := ((zeroRegs f.regs.length).set 0 arg).set 1 { val := BitVec.ofNat 32 f.fid, tag := tI32 }
      let s := { q.1 with fibres := q.1.fibres ++ [newFibre b key f.bp fid entry regs s.now] }
      let s := setPort s core port fun p => { p with bins := p.bins.map fun x => if x.idx == q.2 then { x with ctxs := x.ctxs ++ [ctx] } else x }
      let full := (portOf s core port).bins.any (fun x => x.idx == q.2 && decide (32 ≤ x.ctxs.length))
      (if full then launchBin s core port q.2 else s, true)

/-- Bins of a port whose timer value is 0 launch in the cycle they are filled (R29). -/
def launchZero (s : State) (core port : Nat) : State :=
  ((portOf s core port).bins.filter (fun x => x.timer == 0)).foldl (fun s x => launchBin s core port x.idx) s

/-! ### Join sets -/

/-- The join set of an identifier in a block part (R32). -/
def joinSet (s : State) (blk core bp id : Nat) : List Fibre :=
  s.fibres.filter fun f => f.blk == blk && f.key.core == core && f.bp == bp && f.run != .exited
    && (match f.joins.head? with | some e => e.1 == id && e.2 / 2 ^ f.lane % 2 == 1 | none => false)

/-- Every member is joining and its arrival has reached home (R32, R118). -/
def joinReady (l : List Fibre) : Bool := !l.isEmpty && l.all (fun f => f.run == .joining && f.transit == .none)

/-- Place of a member's JOIN: core, code (the handler's or the kernel's) and address. -/
def Fibre.joinKey (f : Fibre) : Nat := (f.loc * 2 + f.inHandler.toNat) * 2 ^ 44 + f.waitPc.toNat

/-- Keys of the batches that members of a completed join form. -/
def mergeKeys (l : List Fibre) : List Nat := distinct (l.map Fibre.joinKey)

/-- The join completes: members pop the entry, and those at one JOIN on one core and port become one batch (R32), whatever their stacks hold
below the popped entry (DESIGN CHOICE, log 21: after an overflow of R31 they may differ, and R22 keeps such fibres out of one batch). -/
def joinDone (s : State) (l : List Fibre) : State :=
  let s := setFibres s (l.map (·.key)) fun f => { f with joins := f.joins.tail, run := .ready }
  (mergeKeys l).foldl (fun s w =>
    let g := l.filter (fun f => f.joinKey == w)
    match g with
    | [] => s
    | f :: _ =>
      let age := g.foldl (fun a x => min a x.age) f.age
      let next := g.foldl (fun a x => max a x.next) f.next
      placeBatch s f.loc f.key.port (g.map (·.key)) age next) s

end Sys2Proof.Machine
end

