-- ==== Sys2Proof/Machine/Rows.lean ====
section
/-!
DEFINITION. Near memory as rows of banks (R90, log 3), rows that hold an access back (R99, R102, R108), the granules of a
scratchpad: full/empty service (R63, R233) and barrier objects (R64, R248 to R251), and releases with their markers (R163, R167).
-/
namespace Sys2Proof.Machine

/-! ### Reading with a fibre's own pending stores -/

/-- Bytes `n` from `a` of a store overlap an access. -/
def overlaps (a n b m : Nat) : Bool := decide (a < b + m) && decide (b < a + n)

/-- One number for the memory that an object's offset names: that of the other device's object where an extent of KIND 2 maps the id there
(R53, R339). -/
def aliasObj (s : State) (part obj off : Nat) : Nat :=
  match objName s part obj with
  | .local id => (match extentOf s part id off with | .found e => if e.kind == 2 then 2 ^ 31 + e.dev * 2 ^ 21 + id else id | _ => id)
  | _ => canonObj obj

/-- A fibre's own pending stores to an object, by whichever of the ids that name its memory, or to the scratchpad, older than an operation (R53,
R158, R160). -/
def ownStores (s : State) (k : FKey) (before : Nat) (spad : Bool) (obj off n : Nat) : List Store :=
  (storesOf s k).filter fun x => decide (x.id < before) && x.spad == spad && overlaps off n x.off x.w && !x.lost
    && (spad || canonObj x.obj == canonObj obj || aliasObj s x.part x.obj x.off == aliasObj s x.part obj off)

/-- A store whose bytes a load can take before it performs. -/
def Store.forwards (x : Store) : Bool :=
  match x.kind with
  | .st | .stl _ | .capst => true
  | _ => false

/-- `v` (n bytes at `off`) overlaid with a store's bytes. -/
def overlay (off n v : Nat) (x : Store) : Nat :=
  ((List.range n).map fun i =>
    (if x.off ≤ off + i && decide (off + i < x.off + x.w) then x.data / 256 ^ (off + i - x.off) % 256 else v / 256 ^ i % 256) * 256 ^ i).sum

/-- What a fibre's load reads: memory, overlaid with its own pending stores in order (R160). -/
def readOwn (s : State) (k : FKey) (before : Nat) (spad : Bool) (obj off cell n : Nat) : Nat :=
  (ownStores s k before spad obj off n).foldl (overlay off n) (s.read cell n)

/-- A load's bytes hold an uncorrectable error: one of them lies in a damaged granule and none of its fibre's pending stores gives it
(R17, R160, R230). -/
def ueLeft (s : State) (k : FKey) (before : Nat) (spad : Bool) (obj off cell n : Nat) : Bool :=
  s.ue cell n && (List.range n).any fun i =>
    s.ueMarks.contains (granOf (cell + i))
      && !(ownStores s k before spad obj off n).any fun x => decide (x.off ≤ off + i) && decide (off + i < x.off + x.w)

/-- A damaged granule is only partly written (R351). -/
def partialUe (s : State) (a w : Nat) : Bool := s.ue a w && decide (w < 16)

/-- A store replaces whole damaged granules (R351). -/
def healGran (s : State) (a w : Nat) : State := if w == 16 then { s with ueMarks := s.ueMarks.filter (· != granOf a) } else s

/-! ### Outstanding results -/

/-- An outstanding result is written: `n` registers from its destination (R199). -/
def Fibre.finishOut (f : Fibre) (o : Out) (v : Nat) : Fibre :=
  let g := (o.tags.zipIdx).foldl (fun g x => g.writeNow (.reg (o.d + x.2) { val := BitVec.ofNat 32 (v / 2 ^ (32 * x.2)), tag := x.1 })) f
  { g with outs := g.outs.filter (fun y => y.id != o.id) }

/-! ### Full/empty granules -/

/-- Order in which requests reached a bank; ties by core, port, lane (R63). -/
def tieKey (seq : Nat) (k : FKey) : Nat := ((seq * 2048 + k.core) * 4 + k.port) * 32 + k.ctx % 32

/-- A lane waiting at the bank on a granule's bit: the fibre and its outstanding load. -/
def feWaiters (s : State) (g : Nat) : List (Fibre × Out) :=
  sortBy (fun x => tieKey x.1.waitSeq x.1.key)
    (s.fibres.filterMap fun f => (f.outs.find? (fun o => o.fe != 0 && o.atBank && granOf o.addr == g)).map fun o => (f, o))

/-- A request's trap can reach its lane now: the lane is not parked, joining, or waiting for others (log 9). -/
def Fibre.takesTrap (f : Fibre) : Bool :=
  match f.run with
  | .ready | .waiting .retry | .waiting .gate | .waiting (.fe _) | .waiting (.trapping ..) => true
  | _ => false

/-- The lane of an outstanding request is to trap at the request's instruction, nothing written (R17, R230, R238); where an earlier request of
the lane has met damage already, that one traps. -/
def trapOut (s : State) (k : FKey) (o : Out) (code : Nat) : State :=
  setFibre s k fun f =>
    let g := { f with outs := f.outs.filter (fun y => y.id != o.id && (y.fe == 0 || y.kind != .load)) }
    match f.run with
    | .exited => g
    | .waiting (.trapping c _) => if c == code then g else { g with run := .waiting (.trapping code o.off), pc := o.pc, owe := 0 }
    | _ => { g with run := .waiting (.trapping code o.off), pc := o.pc, owe := 0 }

/-- The granule's data, as the lane of a waiting load reads it, hold an uncorrectable error (R232). -/
def feUe (s : State) (x : Fibre × Out) : Bool := ueLeft s x.1.key x.2.id true 0 x.2.off x.2.addr x.2.w

/-- A waiting load reads and its lane goes on, or is to trap DATA_UE (R232). -/
def feRead (s : State) (x : Fibre × Out) : State :=
  if feUe s x then trapOut s x.1.key x.2 cDataUe
  else
    let v := readOwn s x.1.key x.2.id true 0 x.2.off x.2.addr x.2.w
    setFibre s x.1.key fun f => (f.finishOut x.2 v).release

/-- A scratchpad write of a store; liveness has been checked. -/
def spadWrite (s : State) (cell n v : Nat) : State := { s with mem := writeMem s.mem cell v n }

/-- The lane of an STL.fe that has performed goes on. -/
def freeFe (s : State) (k : FKey) : State :=
  setFibre s k fun f => match f.run with | .waiting (.fe _) => f.release | _ => f

/-- Service of a granule after a change: while full every waiting LDL.fe reads and one LDL.fe.clr clears; while empty one waiting
STL.fe writes and fills (R63, R233), or is discarded where it would write part of a damaged granule (R351). -/
def serveGran : Nat → State → Nat → State
  | 0, s, _ => s
  | fuel + 1, s, g =>
    if s.isFull g then
      let ws := feWaiters s g
      let s := (ws.filter (fun x => x.2.fe == 1)).foldl feRead s
      match ws.filter (fun x => x.2.fe == 2) with
      | [] => s
      | x :: _ => serveGran fuel (if feUe s x then feRead s x else (feRead s x).setFull g false) g
    else
      match sortBy (fun (x : Store) => tieKey x.id x.fib) (s.feStores.filter (fun x => granOf x.obj == g)) with
      | [] => s
      | x :: _ =>
        let s := { s with feStores := s.feStores.filter (fun y => y.id != x.id) }
        if partialUe s x.obj x.w then serveGran fuel (reap (storeLost (freeFe s x.fib) x)) g
        else serveGran fuel ((reap (freeFe (healGran (spadWrite s x.obj x.w x.data) x.obj x.w) x.fib)).setFull g true) g

/-- Waiters that a granule can have. -/
def serveFuel (s : State) : Nat := 2 * (s.fibres.length + s.feStores.length) + 2

/-! ### Lanes that trap after they have gone on -/

/-- Fibres that trap with a code and an address once their outstanding results are written, back at the instruction that waits. -/
def trapLater (s : State) (ks : List FKey) (code info : Nat) : State :=
  setFibres s ks fun f =>
    let g := { f with outs := f.outs.filter (fun o => o.fe == 0 || o.kind != .load) }
    if f.run == .exited then g else { g with run := .waiting (.trapping code info), pc := f.waitPc, owe := 0 }

/-- The fibres of the batch of a fibre: those of its slot, or those that left the slot with it (R23, R42). -/
def mates (s : State) (f : Fibre) : List Fibre :=
  sortBy Fibre.lane (s.fibres.filter fun g =>
    g.blk == f.blk && g.bat == f.bat && g.slot == f.slot && g.loc == f.loc && g.key.port == f.key.port && g.joins == f.joins
      && g.run != .exited)

/-- The code with which a lane is to trap, at its program counter. -/
def trapsWith (f : Fibre) : Option (Nat × BitVec 44) := match f.run with | .waiting (.trapping code _) => some (code, f.pc) | _ => none

/-- A request that meets damage or a barrier as it performs, of lanes that have issued the instruction at `pc`: no wait on a full/empty bit, no
CUTREG, no RMW at a replay gate, which other fibres decide (R8, R62, R394). -/
def comesBy (s : State) (part : Nat) (pc : BitVec 44) (o : Out) : Bool :=
  o.pc == pc && o.kind != .cut && (o.fe == 0 || o.kind != .load) && !(o.kind == .atom && !o.spad && rrMode s part == 2)

/-- What the delivery of a trap waits for: results of the fragment's lanes, requests of the same instruction in other lanes of the batch, which
may meet the same condition, and a vector table entry that is held back (R8, R30, R99, R353). -/
def trapHeld (s : State) (part : Nat) (ms mine : List Fibre) (f : Fibre) (v : Option Nat) : Bool :=
  mine.any (fun g => !g.outs.isEmpty) || ms.any (fun g => g.outs.any (comesBy s part f.pc)) || v.any (rowWaits s)

/-- Traps of such fibres are delivered, those of one batch and code at one instruction as one fragment once all their outstanding results
are written; away lanes return home first, behind a fence at package scope (R8, R30, R31, R116, R172, R353). -/
def fireTraps (s : State) : List Fibre → State
  | [] => s
  | x :: xs =>
    match fibre? s x.key with
    | none => fireTraps s xs
    | some f =>
      match f.run with
      | .waiting (.trapping code _) =>
        let ms := mates s f
        let mine := ms.filter (fun g => trapsWith g == trapsWith f)
        let part := ((block? s f.blk).map (·.part)).getD 0
        let v := vectorCell s part code mine
        let r := released s (mine.filter Fibre.away) 4
        if trapHeld s part ms mine f v then fireTraps ((v.filter (rowWaits s)).elim s (noteWait s)) xs
        else if !r.2 then fireTraps r.1 xs
        else
          let s := v.elim r.1 (touch r.1)
          let info := match mine.head?.map (·.run) with | some (.waiting (.trapping _ i)) => i | _ => 0
          let ks := mine.map (·.key)
          let s := if ms.all (fun g => g.joins.isEmpty) then pushAll s ms else s
          let s := setFibres s ks fun g => { g with run := .ready, slot := none }
          let t := cleanSlots (takeTrap s part ks code (BitVec.ofNat 64 info) 0 false)
          fireTraps (mine.foldl (fun t g => guestLeft t g.loc) t) xs
      | _ => fireTraps s xs

/-- A lane that traps later. -/
def Fibre.trapping (f : Fibre) : Bool := match f.run with | .waiting (.trapping ..) => true | _ => false

/-- Every such trap that can be delivered is. -/
def deliver (s : State) : State := fireTraps s (s.fibres.filter Fibre.trapping)

/-- A granule set full or empty, its waiters served (R233). -/
def fillGran (s : State) (g : Nat) (full : Bool) : State := deliver (serveGran (serveFuel s) (s.setFull g full) g)

/-! ### Barrier objects -/

/-- Fields of a barrier object (R64). -/
structure BarObj where
  phase : Nat
  expect : Nat
  arrived : Nat
  pending : Nat
  waiters : Nat
deriving DecidableEq, Repr

def barObj (s : State) (g : Nat) : BarObj :=
  let v := s.read g 16
  { phase := v / 2 ^ 96 % 2 ^ 32, expect := v / 2 ^ 80 % 2 ^ 16, arrived := v / 2 ^ 64 % 2 ^ 16, pending := v / 2 ^ 40 % 2 ^ 24
    waiters := v / 2 ^ 24 % 2 ^ 16 }

def putBarObj (s : State) (g : Nat) (o : BarObj) : State :=
  spadWrite s g 16 (o.phase % 2 ^ 32 * 2 ^ 96 + o.expect % 2 ^ 16 * 2 ^ 80 + o.arrived % 2 ^ 16 * 2 ^ 64 + o.pending % 2 ^ 24 * 2 ^ 40
    + o.waiters % 2 ^ 16 * 2 ^ 24)

/-- Arrivals held for the next phase, in the tie order of R63 (R249). -/
def heldArrivals (s : State) (g : Nat) : List Fibre :=
  sortBy (fun f => tieKey f.waitSeq f.key) (s.fibres.filter fun f => match f.run with | .waiting (.barv a _) => a == g | _ => false)

/-- A held arrival counts: its lane receives the phase (R249). -/
def countHeld (s : State) (g : Nat) (f : Fibre) : State :=
  let o := barObj s g
  let s := putBarObj s g { o with arrived := o.arrived + 1 }
  setFibre s f.key fun x =>
    match x.run with
    | .waiting (.barv _ d) => { (x.writeNow (.reg d { val := BitVec.ofNat 32 o.phase, tag := tI32 })) with run := .ready }
    | _ => x

/-- Phase completion and the arrivals held for the next phase (R64, R249, R251). -/
def phaseCheck : Nat → State → Nat → State
  | 0, s, _ => s
  | fuel + 1, s, g =>
    let o := barObj s g
    if !s.isLive g then s
    else if o.arrived == o.expect then
      if o.pending != 0 then s
      else
        let s := putBarObj s g { o with phase := o.phase + 1, arrived := 0, waiters := 0 }
        let s := { s with fibres := s.fibres.map fun f => if f.run == .waiting (.bwait g) then { f with run := .ready } else f }
        phaseCheck fuel s g
    else
      match heldArrivals s g with
      | [] => s
      | f :: _ => phaseCheck fuel (countHeld s g f) g

def phaseFuel (s : State) : Nat := 2 * s.fibres.length + 4

/-- One transaction fewer outstanding on a live object; discarded where none is or where PENDING is 0 (R64, R248, R250). -/
def pendingDown (s : State) (g : Nat) : State :=
  let o := barObj s g
  if !s.isLive g || o.pending == 0 then s
  else phaseCheck (phaseFuel s) (putBarObj s g { o with pending := o.pending - 1 }) g

def pendingUp (s : State) (g n : Nat) : State :=
  let o := barObj s g
  putBarObj s g { o with pending := o.pending + n }

/-! ### Requests of lanes to their memory port -/

/-- A request of a lane: object and offset. -/
structure Req where
  f : Fibre
  obj : Nat
  off : Nat
deriving DecidableEq, Repr

/-- The port's answers: some request waits for a walk; places by request; parked lanes. -/
structure Asked where
  s : State
  miss : Bool
  places : List (Option Nat)
  fates : List (FKey × Fate)
deriving DecidableEq, Repr

/-- Entries for the distinct pages of unresolved requests, one for each (R58, R344). -/
def holdPages (s : State) (part : Nat) (w : Bool) (bad : List (Req × Nat)) : List (Nat × Nat) → State
  | [] => s
  | (obj, page) :: ps =>
    let mine := bad.filter (fun x => x.1.obj == obj && x.1.off / 4096 == page)
    let s := match mine with
      | [] => s
      | x :: _ => holdEntry s part obj (page * 4096) x.2 0 w x.1.f.loc x.1.f.key.port 0 (laneMask (mine.map (·.1.f))) x.1.f.pc x.1.f.fid x.1.f.blk
          (.fibre x.1.f.key)
    holdPages s part w bad ps

/-- First occurrences only. -/
def dedup {α : Type} [BEq α] : List α → List α
  | [] => []
  | x :: xs => x :: (dedup xs).filter (fun y => !(y == x))

/-- Requests of lanes sent to the port of their stack group: while any misses, the walks are begun and nothing else happens;
unresolved lanes park as one fragment on the entries of their pages (R58, R341, R342). A lane that reads an ended window of another device
parks on an entry of that device's, which only its supervisor sees (R319). -/
def ask (s : State) (part : Nat) (w : Bool) (reqs : List Req) : Asked :=
  let ans := reqs.map fun r => (r, translate s part r.obj r.off r.f.xl)
  let missed := ans.filter (fun x => x.2 == .miss)
  if !missed.isEmpty then
    { s := missed.foldl (fun s x => joinWalk s (portOfCore x.1.f.loc) part x.1.obj x.1.off (.fibre x.1.f.key)) s
      miss := true, places := [], fates := [] }
  else
    let bad := ans.filterMap fun x => match x.2 with | .unres c => some (x.1, c) | _ => none
    let pages := dedup (bad.map fun x => (x.1.obj, x.1.off / 4096))
    let eids := (List.range pages.length).map (· + s.seq)
    let ended := (ans.filter (fun x => x.2 == .ended)).map (·.1.f.key)
    let t := holdPages s part w bad pages
    { s := if ended.isEmpty then t else t.fresh
      miss := false
      places := ans.map fun x => match x.2 with | .place a => some a | _ => none
      fates := (dedup ((bad.map fun x => x.1.f.key) ++ ended)).map fun k =>
        (k, .unres (if ended.contains k then eids ++ [s.seq + pages.length] else eids)) }

end Sys2Proof.Machine
end

