-- ==== Sys2Proof/Machine/Billets.lean ====
section
/-!
DEFINITION. Billets: owner lookups, refusals, departure, arrival and return of fibres (R110 to R121, R268, R269, R313, R314).
-/
namespace Sys2Proof.Machine

/-- The stack of the stack group a fibre occupies (R37). -/
def Fibre.stack (f : Fibre) : Nat := f.loc / 96

/-- Target core of a move to a stack (R111). -/
def targetOf (f : Fibre) (stack : Nat) : Nat := 96 * stack + f.key.core % 96

/-- The 128 bits of a live-set entry as a fibre reads it; none where the index lies beyond the table (R113). -/
def liveRaw (s : State) (b : Block) (f : Fibre) (idx : Nat) : Option CodeRes :=
  match kernel? s b.kernel with
  | none => none
  | some k =>
    let off := k.liveOff.toNat + 16 * idx
    if k.liveN ≤ idx || !inCode k.code off 16 then none else some (codeRead s b.part (capObj k.code) off 16 f.xl)

/-- The wait of a fibre that cannot read an entry yet: a row holds it back, or its page waits for a walk (R99, R341). -/
def liveWait (s : State) (b : Block) (f : Fibre) (idx : Nat) : Option State :=
  match liveRaw s b f idx with
  | some (.held a) => some (noteWait (touch s a) a)
  | some (.miss o) => some (joinWalk s (portOfCore f.loc) b.part (((kernel? s b.kernel).map (fun k => capObj k.code)).getD 0) o (.fibre f.key))
  | _ => none

/-- A live-set entry's mask and carried capability registers; none where the entry is malformed (R113). An entry whose code page does not resolve
counts as malformed, and damaged bytes are used as they are (DESIGN CHOICE, log 21: R113 names neither). -/
def liveEntry (s : State) (b : Block) (f : Fibre) (idx : Nat) : Option (Nat × List Nat) :=
  match liveRaw s b f idx with
  | none => none
  | some r =>
    match r with
    | .bytes v =>
      let mask := v % 2 ^ 64
      let c0 := v / 2 ^ 64 % 16
      let v0 := v / 2 ^ 68 % 2 == 1
      let c1 := v / 2 ^ 69 % 16
      let v1 := v / 2 ^ 73 % 2 == 1
      if v / 2 ^ 74 != 0 || decide (16 < popcN mask 64) || mask / 2 ^ f.regs.length != 0 || (v0 && v1 && c0 == c1) then none
      else some (mask, (if v0 then [c0] else []) ++ (if v1 then [c1] else []))
    | _ => none

/-- Live-set index of LD.mig: s255 at home, the billet's LIVE away (R269). -/
def ldLive (s : State) (f : Fibre) : Nat :=
  match f.guest with
  | some g => g.live
  | none => (uni s f 255).toNat % 64

/-- Causes 1 to 5 of a refused move, the first that holds (R120). -/
def refusal (s : State) (b : Block) (f : Fibre) (c : CapWord) (live target : Nat) : Option Nat :=
  let hops := (f.guest.map (·.hops)).getD 0
  if capRights c &&& rMIG == 0 then some 1
  else if !f.ops.isEmpty then some 2
  else if 8 < hops + 1 then some 3
  else if (liveEntry s b f live).isNone then some 4
  else if clusterOwner s (target / 4) != ownerCode b.part || coreFenced s target || decide (0 < f.lvl) then some 5
  else none

/-- Register TGUEST of a partition, in cycles (R323). -/
def tGuest (s : State) (part : Nat) : Nat := sysGet s part 0x0003 % 65536

/-- A lane waits to leave for a core, for T_guest as it stands (R114, R323). -/
def departLane (s : State) (b : Block) (f : Fibre) (live target : Nat) (fb : Bool) (pc : BitVec 44) : State :=
  match liveEntry s b f live with
  | none => s
  | some (mask, cs) =>
    setFibre s f.key fun g =>
      { g with
        transit := .out
        move := some { core := target, fb := fb, live := live, mask := mask, caps := cs.map (fun n => (n, capReg s f n)), pc := pc
                       limit := tGuest s b.part }
        run := .waiting .guestSlot
        waitSince := s.now }

/-- Registers of a live set in the order of its slots (R113). -/
def liveSlots (mask : Nat) : List Nat := (List.range 64).filter (fun j => mask.testBit j)

/-- The billet of a move as its 1024 bits, after the fibre's pending writes have landed, unused slots and unnamed capability fields zero; `v` is its
live-set entry (R112, R113, R202). -/
def billetBits (v : Nat) (f : Fibre) (m : Move) : BitVec 1024 :=
  let f := f.landAll
  let regs := (liveSlots m.mask).take 16
  let slots := (regs.zipIdx.map fun x => (f.val x.1).toNat * 2 ^ (32 * x.2)).sum
  let tags := (regs.zipIdx.map fun x => (f.reg x.1).tag.toNat * 2 ^ (4 * x.2)).sum
  let cap := fun (valid num : Nat) =>
    if v.testBit valid then ((m.caps.find? (·.1 == v / 2 ^ num % 16)).map (·.2)).getD 0 else (0 : CapWord)
  cap 73 69 ++ cap 68 64 ++ BitVec.ofNat 512 slots ++ BitVec.ofNat 64 tags ++ f.preds ++ 0#3 ++ BitVec.ofNat 6 m.live
    ++ BitVec.ofNat 4 ((f.guest.map (·.hops)).getD 0 + 1) ++ BitVec.ofNat 5 f.lane ++ BitVec.ofNat 2 f.key.port
    ++ BitVec.ofNat 2 (f.key.core % 4) ++ BitVec.ofNat 17 f.blk ++ BitVec.ofNat 13 f.fid ++ m.pc

/-- Another device has told that an object of its own is a scratchpad window (R317). -/
def farWindow (s : State) (part obj : Nat) : Bool :=
  match objName s part obj with
  | .remote dev o => s.fars.any fun x => x.dev == dev && x.obj == o
  | _ => false

/-- Result of routing the lanes of LD.mig or MIGR: those that act here with what MIGST receives, fates of the others, a wait (R111, R313). -/
structure Routed where
  s : State
  wait : Bool
  here : List (Fibre × Nat)
  fates : List (FKey × Fate)
deriving DecidableEq, Repr

/-- What becomes of one lane whose lookup has been answered. -/
inductive Way where
  | here (migst : Nat)
  | refused (cause : Nat)
  | home
  | go (target : Nat)
  | unres (cause : Nat)
deriving DecidableEq, Repr

/-- A lane that has moved for its instruction acts here (R313, R314); a window of another device gives no right to move (R317). -/
def wayOf (s : State) (b : Block) (c : CapWord) (live : Nat) (fb : Bool) (f : Fibre) (ans ref : Nat) : Way :=
  if f.acts then .here 0
  else if ref != 0 then (if fb then .here ref else .refused ref)
  else if 64 ≤ ans then .unres (ans - 64)
  else if farWindow s b.part (capObj c) then (if fb then .here 1 else .refused 1)
  else if ans == f.stack then .here 0
  else
    let t := targetOf f ans
    if t == f.key.core then .home
    else match refusal s b f c live t with
    | some e => if fb then .here e else .refused e
    | none => .go t

/-- Fault entries that owner lookups have posted are marked so: their resolution is judged by the extent alone (R313, R346). -/
def fromLookup (s : State) (part : Nat) (eids : List Nat) : State :=
  if eids.isEmpty then s
  else setPartn s part fun q => { q with faults := q.faults.map fun e => if eids.contains e.eid then { e with look := true } else e }

/-- Owner lookups of lanes at their addresses: sent, awaited, then each lane goes its way (R110, R111, R120, R313, R314). `live` and
`pc` give a lane's live-set index and the program counter of its billet. -/
def route (s : State) (b : Block) (fb : Bool) (c : Fibre → CapWord) (off : Fibre → Nat) (live : Fibre → Nat) (pc : Fibre → BitVec 44)
    (ls : List Fibre) : Routed :=
  let asked := fun (f : Fibre) => f.acts || f.own.any (fun l => l.obj == capObj (c f) && l.off == off f)
  let ans := fun (f : Fibre) => if f.acts then some f.stack else if asked f then f.own.bind (·.ans) else none
  if ls.any (fun f => !asked f) then
    { s := setFibres s ((ls.filter (fun f => !asked f)).map (·.key))
        (fun f => { f with own := some { obj := capObj (c f), off := off f, ans := none, ref := 0 } }), wait := true, here := [], fates := [] }
  else if ls.any (fun f => (ans f).isNone) then { s := s, wait := true, here := [], fates := [] }
  else match (ls.filterMap (fun f => liveWait s b f (live f))).head? with
  | some t => { s := t, wait := true, here := [], fates := [] }
  | none =>
    let ways := ls.map fun f => (f, wayOf s b (c f) (live f) fb f ((ans f).getD 0) ((f.own.map (·.ref)).getD 0))
    let goes := ways.filterMap fun x => match x.2 with | .go t => some (x.1, t) | _ => none
    -- a departure is a fence at package scope (R121, R172)
    let q := released s (goes.map (·.1)) 4
    let s := q.1
    if !q.2 then { s := s, wait := true, here := [], fates := [] }
    else
      let bad := ways.filterMap fun x => match x.2 with | .unres e => some (({ f := x.1, obj := capObj (c x.1), off := off x.1 } : Req), e) | _ => none
      let pages := dedup (bad.map fun x => (x.1.obj, x.1.off / 4096))
      let eids := (List.range pages.length).map (· + s.seq)
      let t := fromLookup (holdPages s b.part false bad pages) b.part eids
      let t := goes.foldl (fun t x => departLane t b x.1 (live x.1) x.2 fb (pc x.1)) t
      let t := ways.foldl (fun t x => match x.2 with
        | .home => setFibre t x.1.key fun f => { f with transit := .home, run := f.run.unwait, own := none, acts := true, drops := false }
        | _ => t) t
      { s := t, wait := false
        here := ways.filterMap fun x => match x.2 with | .here m => some (x.1, m) | _ => none
        fates := ways.filterMap fun x => match x.2 with
          | .here _ => none
          | .refused e => some (x.1.key, .trap cMigRefused 0 e false)
          | .home => some (x.1.key, .depart (1 + x.1.key.core))
          | .go t => some (x.1.key, .depart (1 + t))
          | .unres _ => some (x.1.key, .unres eids) }

/-- Lanes that act here issue: their pending writes land, and with the fallback qualifier MIGST is written (R202, R120). -/
def landHere (s : State) (fb : Bool) (here : List (Fibre × Nat)) : State :=
  here.foldl (fun s x => setFibre s x.1.key fun f => { f.landAll with migst := if fb then BitVec.ofNat 3 x.2 else f.migst }) s

/-- Lanes that act here wait before issue while the rest of the batch leaves: what was decided for them stands. -/
def stayHere (s : State) (here : List (Fibre × Nat)) : State :=
  here.foldl (fun s x => setFibre s x.1.key fun f =>
    { f with own := f.own.map fun l => { l with ans := some f.stack, ref := x.2 } }) s

/-- The answer of a lookup as a number: a stack, or 64 plus a cause. -/
def ownerAnswer (s : State) (part : Nat) (f : Fibre) (l : Lookup) : Option Nat :=
  match ownerOf s part f.stack l.obj l.off with
  | .stack k => some k
  | .unres e => some (64 + e)
  | .nowhere _ => none

def keyOf (core port ctx : Nat) : FKey := { core := core, port := port, ctx := ctx }

/-- R313. -/
def execOwnerLookup (core port ctx : Nat) (s : State) : Result :=
  match fibre? s (keyOf core port ctx) with
  | none => .next s
  | some f =>
    match f.own, block? s f.blk with
    | some l, some b =>
      if l.ans.isSome || f.transit != .none then .next s
      else match lookupWaits s b.part (canonObj l.obj) l.off with
      | some a => .next (noteWait (touch s a) a)
      | none =>
      match ownerOf s b.part f.stack l.obj l.off with
      | .nowhere a => .fault (.noSuchAddress a)
      | _ => .next (setFibre s f.key fun g => { g with own := some { l with ans := ownerAnswer s b.part f l } })
    | _, _ => .next s

/-- Guest slots of a lane position of a port that are held (R114). -/
def guestsAt (s : State) (core port lane : Nat) : Nat :=
  (s.fibres.filter (fun f => f.key.port == port && f.lane == lane && f.guest.any (fun g => g.core == core))).length

/-- Registers of a fibre at a guest core: the live set carried, the others 0 tagged INVALID (R115). -/
def guestRegs (f : Fibre) (mask : Nat) : List VReg :=
  f.regs.zipIdx.map fun x => if mask / 2 ^ x.2 % 2 == 1 then x.1 else { val := 0, tag := tInvalid }

/-- A billet takes its guest slot: pending writes land, the live set is carried, the fibre is loose and ready (R114, R115, R117, R202). -/
def Fibre.arrive (f : Fibre) (m : Move) (now : Nat) : Fibre :=
  let f := f.landAll
  { f with
    guest := some
      { core := m.core, hops := ((f.guest.map (·.hops)).getD 0) + 1, live := m.live, mask := m.mask, caps := m.caps
        homeRegs := (f.guest.map (·.homeRegs)).getD f.regs }
    regs := guestRegs f m.mask
    migst := if m.fb then 0 else f.migst
    pc := m.pc, run := .ready, transit := .none, move := none, own := none, slot := none, next := now, acts := m.pc == f.pc }

/-- A guest slot of a lane position is free on a core; a fenced one has none (R114, R385; DESIGN CHOICE, log 21: R120 judges a fenced target at issue,
and no rule says what a billet meets whose target is fenced on its way). -/
def guestRoom (s : State) (core port lane : Nat) : Bool := decide (guestsAt s core port lane < 2) && !coreFenced s core

/-- R117, R114; a cluster in a deeper power state first leaves it (R377). -/
def execBilletArrival (core port ctx : Nat) (s : State) : Result :=
  match fibre? s (keyOf core port ctx) with
  | none => .next s
  | some f =>
    match f.move with
    | none => .next s
    | some m =>
      if !guestRoom s m.core port f.lane then .next s
      else if unitAsleep s (m.core / 4) then .next (noteWake s (m.core / 4))
      else
        let t := setFibre s f.key fun g => g.arrive m s.now
        .next (if f.away then guestLeft t f.loc else t)

/-- R114, R120: the move is refused NO_GUEST and the instruction issues again, to fall back or to trap. -/
def execGuestWaitTimeout (core port ctx : Nat) (s : State) : Result :=
  match fibre? s (keyOf core port ctx) with
  | none => .next s
  | some f =>
    match f.move with
    | some m =>
      if guestRoom s m.core port f.lane || decide (s.now < f.waitSince + m.limit) then .next s
      else .next (setFibre s f.key fun g =>
        { g with move := none, transit := .none, run := .ready, own := g.own.map fun l => { l with ref := 6 } })
    | none => .next s

/-- An away fibre sets out for home, its pending writes as they are; one parked there on a page executes its instruction again at home, and
may move again, but it stays parked till then (R202, R356, R359). -/
def Fibre.recall (f : Fibre) : Fibre :=
  if f.away && f.transit == .none then
    { f with transit := .home, slot := none, drops := true, acts := false, own := none
             run := (match f.run with | .parked (.unresolved _) => .parked (.unresolved []) | r => r.unwait) }
  else f

/-- R119, R314: a returning fibre is home once its earlier accesses have performed at package scope (R121, R172); an away one of a
pre-empted block sets out when no message of it is on the way (R356). -/
def execBilletReturn (core port ctx : Nat) (s : State) : Result :=
  match fibre? s (keyOf core port ctx) with
  | none => .next s
  | some f =>
    if f.away && f.transit == .none && !f.tm && (block? s f.blk).any (·.pre) then .next (setFibre s f.key Fibre.recall)
    else if f.transit == .home then
      let r := released s [f] 4
      if r.2 then .next (guestLeft (setFibre r.1 f.key fun g =>
        { (if g.drops then g else g.landAll).comeHome with slot := none, next := s.now, drops := false }) f.loc) else .next r.1
    else .next s

/-- R118: an away fibre's arrival at a barrier or a join counts. -/
def execArrivalMessage (core port ctx : Nat) (s : State) : Result :=
  match fibre? s (keyOf core port ctx) with
  | none => .next s
  | some f =>
    match f.transit, f.run with
    | .barArrival, .waiting (.bar id _) =>
      .next (barArrive (setFibre s f.key fun g => { g with transit := .none }) f.key f.blk id none)
    | .joinArrival, _ => .next (setFibre s f.key fun g => { g with transit := .none })
    | _, _ => .next s

/-- R118: a barrier's release reaches an away fibre. -/
def execReleaseMessage (core port ctx : Nat) (s : State) : Result :=
  match fibre? s (keyOf core port ctx) with
  | none => .next s
  | some f =>
    if f.transit == .release then .next (freeMates (setFibre s f.key fun g => { g with transit := .none, run := .ready })) else .next s

/-- R268, R110, R120, R313; a weight store, or a window of this device, gives no right to move (R66, R317). -/
def execMigr (h : Head) (p : MigrP) (s : State) : Result :=
  let a := p.a.toNat
  let c := p.c.toNat
  issue { useOf h (Instr.migr h p).legal with feat := some 1, vr := offRegs a p.o64, caps := [c] }
    (fun s b ls =>
      let chk := fun (f : Fibre) =>
        match checkRegs f (offRegs a p.o64) with
        | some e => some (trapF e)
        | none =>
          let e := capCheck (capReg s f c) (offVal f a p.o64) 1 0
          let own := match objName s b.part (capObj (capReg s f c)) with | .window | .weight _ => some cCapRights | _ => none
          (e <|> own).map fun e => trapAt e (capOff (capReg s f c) (offVal f a p.o64))
      let traps := ls.filterMap fun f => (chk f).map fun e => (f.key, e)
      let r := route s b p.fb (fun f => capReg s f c) (fun f => capOff (capReg s f c) (offVal f a p.o64)) (fun _ => p.live.toNat)
        (fun f => f.pc + 8) (ls.filter (fun f => (chk f).isNone))
      if r.wait then actWait r.s else { acted (landHere r.s p.fb r.here) (traps ++ r.fates) with migrate := true }) s

/-- R268, R119: away lanes set out for home with the named live set, or their billet's where the index is malformed. They leave the batch
with no join entry, since R30 lists no split for MIGRH. -/
def execMigrh (h : Head) (p : MigrhP) (s : State) : Result :=
  issue { useOf h (Instr.migrh h p).legal with feat := some 1 }
    (fun s b ls =>
      let away := ls.filter Fibre.away
      match (away.filterMap fun f => liveWait s b f p.live.toNat).head? with
      | some t => actWait t
      | none =>
      let s := onLanes s (ls.filter (fun f => !f.away)) Fibre.landAll
      let s := onLanes s away fun f =>
        let e := liveEntry s b f p.live.toNat
        { f.landAll with
          transit := .home, drops := false
          guest := f.guest.map fun g => match e with | some x => { g with mask := x.1 } | none => g }
      acted s (away.map fun f => (f.key, .leave (f.pc + 8) (1 + f.key.core)))) s

end Sys2Proof.Machine
end

