-- ==== Sys2Proof/Machine/Batches.lean ====
section
/-!
DEFINITION. Batch slots: filling and releasing them, starvation, spawn bins that fall due, joins that complete (R22, R23, R29, R32, R35,
R42, R45).
-/
namespace Sys2Proof.Machine

/-- A batch that may issue now. -/
def slotReady (s : State) (x : Slot) : Bool :=
  let fs := lanesOf s { core := x.core, port := x.port, slot := x.idx }
  !fs.isEmpty && fs.all (Fibre.canIssue s) && decide (x.next ≤ s.now)

/-- Fibres that could share a batch (R22): block part, core, port, program counter, join stack; away and home fibres, and handler and
kernel code, apart. -/
def sameBatch (f g : Fibre) : Bool :=
  f.blk == g.blk && f.key.core == g.key.core && f.bp == g.bp && f.loc == g.loc && f.away == g.away && f.key.port == g.key.port
    && f.pc == g.pc && f.joins == g.joins && f.inHandler == g.inHandler

/-- One fibre for each lane position: of several loose ones of the group the oldest (DESIGN CHOICE, log 21: R23 does not say which joins the batch). -/
def oneEach : List Fibre → List Fibre
  | [] => []
  | f :: fs => f :: (oneEach fs).filter (fun g => g.lane != f.lane)

/-- Loose ready fibres of a port, the oldest first, of equally old ones the first of the list (R21, R23; DESIGN CHOICE, log 21: R23 does not
order fibres of one age). -/
def looseOf (s : State) (core port : Nat) : List Fibre :=
  sortBy (fun (f : Fibre) => f.age)
    (s.fibres.filter fun f => f.slot.isNone && f.loc == core && f.key.port == port && f.run == .ready && f.canIssue s && !inBin s f.key)

/-- R23: a free slot takes the group of the oldest loose ready fibre, as a batch of a new number. -/
def execBatcherFill (core port : Nat) (s : State) : Result :=
  match looseOf s core port, freeSlot s core port with
  | f :: fs, some i =>
    let g := oneEach (f :: fs.filter (sameBatch f))
    let next := g.foldl (fun a x => max a x.next) 0
    .next (takeSlot s.fresh { core := core, port := port, slot := i } (g.map (·.key)) f.age next s.seq)
  | _, _ => .next s

/-- R35: a ready batch that has not issued for 4096 cycles issues next on its port. -/
def execAgeStarvationIssue (core port : Nat) (s : State) : Result :=
  let held := s.slots.filter fun x => x.core == core && x.port == port
  if (portOf s core port).forced.any (fun i => held.any (fun x => x.idx == i)) then .next s
  else match sortBy (fun (x : Slot) => x.last) (held.filter fun x => slotReady s x && decide (x.last + 4096 ≤ s.now)) with
  | [] => .next s
  | x :: _ => .next (setPort s core port fun p => { p with forced := some x.idx })

/-- The cycle from which a lane of a slot has waited. -/
def waitedFrom (x : Slot) (f : Fibre) : Option Nat :=
  match f.run with
  | .waiting .retry => some (max f.waitSince x.last)
  | .waiting _ => some x.last
  | _ => none

/-- R42: a batch that has waited 64 cycles releases its slot. -/
def execSlotRelease (core port slot : Nat) (s : State) : Result :=
  let c : Cur := { core := core, port := port, slot := slot }
  match slot? s c with
  | none => .next s
  | some x =>
    let fs := lanesOf s c
    if fs.any (fun f => (waitedFrom x f).any (fun t => decide (t + 64 ≤ s.now))) then
      let s := setFibres s (fs.map (·.key)) fun f => { f with slot := none }
      .next (dropSlot (setPort s core port fun p => { p with forced := if p.forced == some slot then none else p.forced }) c)
    else .next s

/-- R29: a bin launches when it holds 32 fibres or its timer has run out; not while its block is stopped (R360). -/
def execBinLaunch (core port bin : Nat) (s : State) : Result :=
  match (portOf s core port).bins.find? (fun x => x.idx == bin) with
  | none => .next s
  | some x =>
    let stopped := ((part? s core x.bp).bind fun q => block? s q.blk).any Block.frozen
    if !stopped && (decide (32 ≤ x.ctxs.length) || decide (x.start + x.timer ≤ s.now)) then .next (launchBin s core port bin)
    else .next s

/-- R32, R45: a join set all of whose members are joining completes. `part` is core 0 to 3 of the cluster times 64 plus the slot. -/
def execJoinComplete (blk part id : Nat) (s : State) : Result :=
  match block? s blk with
  | none => .next s
  | some b =>
    let l := joinSet s blk (4 * b.cluster + part / 64) (part % 64) id
    if joinReady l then .next (joinDone s l) else .next s

end Sys2Proof.Machine
end

