-- ==== Sys2Proof/Machine/Directory.lean ====
section
/-!
DEFINITION. The tensor name directory: bindings, opens, rings, reclamation (R122 to R133) and its instructions (R278 to R281).
-/
namespace Sys2Proof.Machine

/-! ### Objects and reclamation -/

def isDirObj (part obj : Nat) (d : DirObj) : Bool := d.part == part && d.obj == obj

def dirObj? (s : State) (part obj : Nat) : Option DirObj := s.dirObjs.find? (isDirObj part obj)

def DirObj.empty (part obj : Nat) : DirObj :=
  { part := part, obj := obj, binds := 0, opens := 0, name := 0, slot := 0, reclaimed := false }

def setDirObj (s : State) (part obj : Nat) (g : DirObj → DirObj) : State :=
  { s with dirObjs := upsert (isDirObj part obj) (DirObj.empty part obj) g s.dirObjs }

/-- Reclamation record (R132). -/
def DirObj.record (d : DirObj) : BitVec 128 := d.name ++ 0#29 ++ BitVec.ofNat 3 d.slot ++ BitVec.ofNat 32 d.obj

/-- Regions over an object end with it: cuts are aborted, programs stop, entries are freed (R69, R105). -/
def freeRegions (s : State) (part obj : Nat) : State :=
  let mine := fun (r : Region) => r.part == part && r.obj == obj
  let gone := s.lathes.flatMap (fun l => l.regions.filter mine)
  let s := gone.foldl (fun s r =>
    if (r.isProg || (!r.stand && r.state == 1)) then completeOp s r.fib r.opId 2 true else s) s
  let t := { s with lathes := s.lathes.map fun l =>
      let l := { l with regions := l.regions.filter (fun r => !mine r) }
      { l with waits := l.waits.filter fun w => l.regions.any fun r => r.held && r.pendingAt w.1 w.2.1 } }
  (s.lathes.filter fun l => l.regions.any mine).foldl (fun t l => latheEnds l t) t

/-- An object whose open and bind counts are both zero is reclaimed, or its reclamation deferred while 256 records wait (R132, R348). -/
def reclaimCheck (s : State) (part obj : Nat) : State :=
  match dirObj? s part obj with
  | none => s
  | some d =>
    if d.binds == 0 && d.opens == 0 && !d.reclaimed then
      if (partnOf s part).reclaims.length < 256 then
        let s := setPartn s part fun p => { p with reclaims := p.reclaims ++ [d.record] }
        freeRegions (setDirObj s part obj fun d => { d with reclaimed := true }) part obj
      else setPartn s part fun p => if p.deferred.contains d.record then p else { p with deferred := p.deferred ++ [d.record] }
    else s

/-- One open of an object ends (R126). -/
def dropOpen (s : State) (part obj : Nat) : State :=
  let o := canonObj obj
  match dirObj? s part o with
  | some d => if d.opens == 0 then s else reclaimCheck (setDirObj s part o fun d => { d with opens := d.opens - 1 }) part o
  | none => s

/-- A batch of a higher port has written capability register `n` of a fibre's block part in this cycle, after this one (R48). -/
def capOutdone (s : State) (f : Fibre) (n : Nat) : Bool :=
  (partOf s f).any fun q => outdone (q.before s.now).cw f.key.port n

/-- A capability register of a block part written; an open it held is released first (R48, R126). -/
def setCap (s : State) (part : Nat) (f : Fibre) (n : Nat) (c : CapWord) : State :=
  match partOf s f with
  | none => s
  | some q =>
    if capOutdone s f n then s
    else
      let s := if q.opens.getLsbD n then dropOpen s part (capObj (q.c.getD n 0)) else s
      setPart s f.key.core f.bp fun q => { q.putCap s.now f.key.port n c with opens := q.opens &&& ~~~(1#16 <<< n) }

/-- A register receives the capability of an open and holds it; one that is written over in the same cycle is released again (R48, R126). -/
def setOpen (s : State) (part : Nat) (f : Fibre) (n : Nat) (c : CapWord) : State :=
  if capOutdone s f n then dropOpen s part (capObj c)
  else setPart (setCap s part f n c) f.key.core f.bp fun q => { q with opens := q.opens ||| (1#16 <<< n) }

/-- A capability register written at the core the fibre occupies: the carried copy of an away fibre, the block part's at home (R115). -/
def putCap (s : State) (part : Nat) (f : Fibre) (n : Nat) (c : CapWord) : State :=
  match f.guest with
  | some _ => setFibre s f.key fun x => { x with guest := x.guest.map fun g => { g with caps := g.caps.map fun y => if y.1 == n then (n, c) else y } }
  | none => setCap s part f n c

/-- Every open of a block part ends (R126). -/
def dropOpens (s : State) (part : Nat) (q : Part) : State :=
  (List.range 16).foldl (fun s n => if q.opens.getLsbD n then dropOpen s part (capObj (q.c.getD n 0)) else s) s

/-! ### Entries -/

def isName (part : Nat) (name : BitVec 64) (e : NameEntry) : Bool := e.part == part && e.name == name

def entry? (s : State) (part : Nat) (name : BitVec 64) : Option NameEntry := s.names.find? (isName part name)

def setEntry (s : State) (part : Nat) (name : BitVec 64) (e : NameEntry) : State :=
  { s with names := upsert (isName part name) e (fun _ => e) s.names }

def delEntry (s : State) (part : Nat) (name : BitVec 64) : State := { s with names := s.names.filter (fun e => !isName part name e) }

/-- Slot of an open: 0 for a single entry, tag mod K for a ring (R125). -/
def slotOf (e : NameEntry) (tag : Nat) : Nat := if e.k == 0 then 0 else tag % e.k

/-- Statuses of R127. -/
def dOk : Nat := 0
def dUnbound : Nat := 1
def dOpenLimit : Nat := 2
def dNotWhole : Nat := 3
def dFull : Nat := 4
def dSlotRange : Nat := 5
def dReclaimed : Nat := 6
def dBadList : Nat := 7
def dBadName : Nat := 8

/-- Room for one more entry within the partition's quota and the package's 65 536 (R122). -/
def quotaLeft (s : State) (part : Nat) : Bool :=
  decide (s.names.length < 65536) && decide ((s.names.filter (fun e => e.part == part)).length < (partnOf s part).quota)

/-- Length of an object minus one; none where the id names nothing or its descriptor is malformed or damaged, so that NBIND answers NOT_WHOLE
(R127 names no status for it; DESIGN CHOICE, log 21). An object of another device counts as whole (R127, log 15). -/
def objLenM1 (s : State) (part : Nat) (c : CapWord) : Option Nat :=
  match objName s part (capObj c) with
  | .local id => (match descOf s part id with | .ok d => some (descLenM1 d) | _ => none)
  | .weight _ => some (Config.weightBytes - 1)
  | .window => (s.windows.find? (fun w => w.part == part && w.obj == canonObj (capObj c))).map (fun w => w.wl - 1)
  | .remote _ _ => some (capLimit c)

/-- A local object becomes directory-managed: DIRM of its descriptor is set (R124, R338). -/
def setDirm (s : State) (part obj : Nat) : State :=
  match objName s part obj, descOf s part obj with
  | .local _, .ok d =>
    if d.testBit 92 then s
    else (let a := (tableOf s part).1 + 32 * obj + 11; s.write a 1 (s.read a 1 ||| 16))
  | _, _ => s

/-- Counts of an object that a slot bound before and of one it binds now; reclamation is judged by the caller. -/
def unbindCount (s : State) (part : Nat) (old : Option Binding) : State :=
  match old with
  | some b => setDirObj s part (canonObj b.obj) fun d => { d with binds := d.binds - 1 }
  | none => s

/-- Fragments parked in NOPEN.wait on a name become ready (R128). -/
def wakeName (s : State) (part : Nat) (name : BitVec 64) : State :=
  { s with fibres := s.fibres.map fun f =>
      if f.run == .parked (.name name) && (block? s f.blk).any (fun b => b.part == part) then { f with run := .ready } else f }

/-- A status and a state, with the objects whose counts fell. -/
structure DirRes where
  code : Nat
  s : State
  fell : List Nat
deriving DecidableEq, Repr

/-- One binding (R129): the first status that fails, in the order of R127, or the new directory. A bound domain-wide id of this device stays as it
was presented in the binding, in the capabilities of its opens and in NINFO, and the reclamation record names its local id (DESIGN CHOICE, log 21:
R132 does not say which). -/
def bindOne (s : State) (part : Nat) (name : BitVec 64) (slot : Nat) (c : CapWord) : DirRes :=
  let no := fun k : Nat => ({ code := k, s := s, fell := [] } : DirRes)
  let e := entry? s part name
  let obj := canonObj (capObj c)
  let range := match e with | some e => if e.k == 0 then slot == 0 else decide (slot < e.k) | none => slot == 0
  if name == 0 then no dBadName
  else if c == 0 then
    match e with
    | none => no dOk
    | some e =>
      if !range then no dSlotRange
      else
        let old := (e.slots.getD slot none)
        let slots := e.slots.set slot none
        let s := unbindCount s part old
        let s := if slots.all Option.isNone then delEntry s part name else setEntry s part name { e with slots := slots }
        { code := dOk, s := s, fell := match old with | some b => [canonObj b.obj] | none => [] }
  else if (dirObj? s part obj).any (·.reclaimed) then no dReclaimed
  else if capRights c % 2 == 0 || capBase c != 0 || objLenM1 s part c != some (capLimit c) then no dNotWhole
  else if !range then no dSlotRange
  else if e.isNone && !quotaLeft s part then no dFull
  else
    let e := e.getD { part := part, name := name, k := 0, slots := [none] }
    let old := e.slots.getD slot none
    let s := if (dirObj? s part obj).isNone then setDirm s part obj else s
    let s := setDirObj s part obj fun d => { d with binds := d.binds + 1, name := name, slot := slot }
    let s := unbindCount s part old
    let s := setEntry s part name { e with slots := e.slots.set slot (some { obj := capObj c, lenM1 := capLimit c, rights := capRights c }) }
    { code := dOk, s := wakeName s part name, fell := match old with | some b => [canonObj b.obj] | none => [] }

/-- Objects whose counts fell are judged at the end of the operation (R132). -/
def judge (part : Nat) (r : DirRes) : State := r.fell.foldl (fun s o => reclaimCheck s part o) r.s

/-- Binding records in order: the first that fails with its index, or all (R129). -/
def bindAll (s0 s : State) (part : Nat) (fell : List Nat) (i : Nat) : List (CapWord × BitVec 64 × Nat) → Nat × Nat × State
  | [] => (dOk, 0, judge part { code := dOk, s := s, fell := fell })
  | (c, name, slot) :: r =>
    let q := bindOne s part name slot c
    if q.code != dOk then (q.code, i, s0) else bindAll s0 q.s part (fell ++ q.fell) (i + 1) r

/-! ### Instructions -/

/-- Name pair of a directory instruction. -/
def dirName (s : State) (f : Fibre) (p : DirP) : BitVec 64 := uniPair s f p.sn.toNat

/-- Tag of an open: the tag register, or the block part's default (R125). -/
def dirTag (s : State) (f : Fibre) (p : DirP) : Nat :=
  if p.tv then (uni s f p.stg.toNat).toNat else match partOf s f with | some q => q.dtag.toNat | none => 0

/-- Footprint of the directory instructions. -/
def dirUse (h : Head) (legal : Bool) : Use := { useOf h legal with feat := some 2, home := true }

/-- The status register receives a code and a detail (R278). -/
def dirStatus (s : State) (f : Fibre) (p : DirP) (code detail : Nat) : State :=
  setUni s f p.st.toNat (BitVec.ofNat 32 (code + 256 * detail))

/-- An acquire of the fibre is outstanding: a directory operation comes after it, and so does the end of an open (R126, R131, R163, R315). -/
def acquiring (f : Fibre) : Bool := f.outs.any (·.acq)

/-- A directory operation that is no release, by the lowest lane, once its acquires have performed (R48, R315). -/
def dirOp (g : State → Fibre → Acted) (s : State) (ls : List Fibre) : Acted :=
  firstLane (fun s f => if acquiring f then actWait s else g s f) s ls

/-- R125, R127, R128, R279. -/
def execNopen (h : Head) (p : DirP) (s : State) : Result :=
  issue (dirUse h (Instr.nopen h p).legal)
    (fun s b ls => dirOp (fun s f =>
      let name := dirName s f p
      let n := p.c.toNat
      let e := entry? s b.part name
      let slot := (e.map fun e => slotOf e (dirTag s f p)).getD 0
      match (if name == 0 then none else e.bind fun e => (e.slots.getD slot none)) with
      | some x =>
        let o := canonObj x.obj
        if (dirObj? s b.part o).any (fun d => decide (2 ^ 24 - 1 ≤ d.opens)) then acted (dirStatus s f p dOpenLimit 0) []
        else
          let s := setDirObj s b.part o fun d => { d with opens := d.opens + 1 }
          acted (dirStatus (setOpen s b.part f n (mkCap x.obj x.rights x.lenM1 0)) f p dOk 0) []
      | none =>
        if name == 0 then acted (dirStatus s f p dBadName 0) []
        else if p.wait then acted s (ls.map fun g => (g.key, .name name))
        else acted (dirStatus (setCap s b.part f n 0) f p dUnbound 0) []) s ls) s

/-- R126. -/
def execNclose (h : Head) (p : DirP) (s : State) : Result :=
  issue (dirUse h (Instr.nclose h p).legal)
    (fun s b ls => dirOp (fun s f => acted (setCap s b.part f p.c.toNat 0) []) s ls) s

/-- R129, R131, R280; it waits while a row or a sleeping stack holds back the object's descriptor (R99, R102, R377). -/
def execNbind (h : Head) (p : DirP) (s : State) : Result :=
  issue (dirUse h (Instr.nbind h p).legal)
    (fun s b ls => firstLane (fun s f =>
      let q := released s [f] 4
      let s := q.1
      if !q.2 then actWait s
      else
        let c := capReg s f p.c.toNat
        match descHeld s b.part [capObj c] with
        | some a => actWait (noteWait s a)
        | none =>
          let s := touchDescs s b.part [capObj c]
          let r := bindOne s b.part (dirName s f p) p.imm.toNat c
          acted (dirStatus (if r.code == dOk then judge b.part r else s) f p r.code 0) []) s ls) s

/-- Checks of NBINDM's list through its capability (R280). -/
def listCheck (s : State) (part : Nat) (c : CapWord) (x : Int) (n : Nat) : Option Nat :=
  match accessCheck s part c x 1 (rRD + rCLD), accessCheck s part c (x + 32 * n - 1) 1 (rRD + rCLD) with
  | some e, some e' => some (min e e')
  | some e, none => some e
  | none, some e => some e
  | none, none => if x % 32 != 0 || capOff c x % 16 != 0 then some cMisaligned else none

/-- Two records of a list with one name and slot, or a reserved field: the lowest index that fails (R127). -/
def badRecord (l : List (Nat × BitVec 64 × Nat)) : Option Nat :=
  ((l.zipIdx).find? fun x => x.1.1 != 0 || (l.take x.2).any (fun y => y.2 == x.1.2)).map (·.2)

/-- R129, R131, R280, R17. -/
def execNbindm (h : Head) (p : DirP) (s : State) : Result :=
  issue (dirUse h (Instr.nbindm h p).legal)
    (fun s b ls => firstLane (fun s f =>
      let c := capReg s f p.c.toNat
      let x := (uniPair s f p.sn.toNat).toInt
      let n := p.imm.toNat
      match listCheck s b.part c x n with
      | some e => acted s [(f.key, trapAt e (capOff c x))]
      | none =>
        let q := released s [f] 4
        let s := q.1
        if !q.2 then actWait s
        else
          let q := ask s b.part false ((List.range (2 * n)).map fun i => { f := f, obj := capObj c, off := capOff c x + 16 * i })
          if q.miss then actWait q.s
          else if !q.fates.isEmpty then acted q.s q.fates
          else
            let g := q.places.filterMap id
            if g.any (rowWaits s) then actWait (g.foldl noteWait s)
            else
            let s := g.foldl touch s
            let at' := fun (i : Nat) => capOff c x + 16 * i
            match (List.range n).find? (fun i => !s.capTags.contains (g.getD (2 * i) 0)), g.findIdx? (fun a => s.ue a 16) with
            | some i, _ => acted s [(f.key, trapAt cCapTag (at' (2 * i)))]
            | none, some i => acted s [(f.key, trapAt cDataUe (at' i))]
            | none, none =>
              let rec' := (List.range n).map fun i => (BitVec.ofNat 128 (s.read (g.getD (2 * i) 0) 16), s.read (g.getD (2 * i + 1) 0) 16)
              match badRecord (rec'.map fun y => (y.2 / 2 ^ 72, BitVec.ofNat 64 y.2, y.2 / 2 ^ 64 % 256)) with
              | some i => acted (dirStatus s f p dBadList i) []
              | none =>
                let objs := rec'.map fun y => capObj y.1
                match descHeld s b.part objs with
                | some a => actWait (noteWait s a)
                | none =>
                  let s := touchDescs s b.part objs
                  let r := bindAll s s b.part [] 0 (rec'.map fun y => (y.1, BitVec.ofNat 64 y.2, y.2 / 2 ^ 64 % 256))
                  acted (dirStatus r.2.2 f p r.1 r.2.1) []) s ls) s

/-- R133, R281. -/
def execNinfo (h : Head) (p : DirP) (s : State) : Result :=
  issue (dirUse h (Instr.ninfo h p).legal)
    (fun s b ls => dirOp (fun s f =>
      let name := dirName s f p
      let e := if name == 0 then none else entry? s b.part name
      let slot := (e.map fun e => slotOf e (dirTag s f p)).getD 0
      let x := e.bind fun e => (e.slots.getD slot none)
      let opens := (x.bind fun x => (dirObj? s b.part (canonObj x.obj)).map (·.opens)).getD 0
      let w : BitVec 32 := BitVec.ofBool x.isSome ++ BitVec.ofNat 4 ((e.map (·.k)).getD 0) ++ BitVec.ofNat 3 slot ++ BitVec.ofNat 24 opens
      let st := if name == 0 then dBadName else if x.isSome then dOk else dUnbound
      acted (setUnis s f p.st.toNat [BitVec.ofNat 32 ((x.map (·.obj)).getD 0), w, BitVec.ofNat 32 st]) []) s ls) s

/-- K of a name set (R130). -/
def ringSet (s : State) (part : Nat) (name : BitVec 64) (k : Nat) : DirRes :=
  let no := fun k : Nat => ({ code := k, s := s, fell := [] } : DirRes)
  if name == 0 then no dBadName
  else
    match entry? s part name with
    | none =>
      if !quotaLeft s part then no dFull
      else { code := dOk, s := setEntry s part name { part := part, name := name, k := k, slots := List.replicate k none }, fell := [] }
    | some e =>
      let cut := e.slots.drop k
      let s := cut.foldl (fun s x => unbindCount s part x) s
      let slots := (e.slots ++ List.replicate k none).take k
      { code := dOk, s := setEntry s part name { e with k := k, slots := slots }
        fell := cut.filterMap fun x => x.map fun b => canonObj b.obj }

/-- R130, R131, R280. -/
def execNring (h : Head) (p : DirP) (s : State) : Result :=
  issue (dirUse h (Instr.nring h p).legal)
    (fun s b ls => firstLane (fun s f =>
      let q := released s [f] 4
      let s := q.1
      if !q.2 then actWait s
      else
        let r := ringSet s b.part (dirName s f p) p.imm.toNat
        acted (dirStatus (judge b.part r) f p r.code 0) []) s ls) s

/-- R281. -/
def execNtag (h : Head) (p : DirP) (s : State) : Result :=
  issue (dirUse h (Instr.ntag h p).legal)
    (fun s _ ls => firstLane (fun s f => acted (setPart s f.key.core f.bp fun q => { q with dtag := uni s f p.sn.toNat }) []) s ls) s

end Sys2Proof.Machine
end

