-- ==== Sys2Proof/Machine/MemOps.lean ====
section
/-!
DEFINITION. Memory, capability and barrier instructions at issue (R228 to R251): what they check, and the loads, stores, atomics and
transactions they send. Sys2Proof.Machine.Perform says how those perform.
-/
namespace Sys2Proof.Machine

/-! ### Checks and requests -/

/-- INFO of an address (R354). -/
def infoOf (a : Int) : Nat := (BitVec.ofInt 64 a).toNat

/-- The trap with the smallest code of a list of checks, each with its INFO (R8). -/
def firstTrap (l : List (Option Nat × Nat)) : Option Fate :=
  (minCodes (l.map (·.1))).map fun e => trapAt e (((l.find? (fun x => x.1 == some e)).map (·.2)).getD 0)

/-- Lanes whose check gives a trap, with it, and the lanes that pass. -/
def trapped (chk : Fibre → Option Fate) (ls : List Fibre) : List (FKey × Fate) := ls.filterMap fun f => (chk f).map fun e => (f.key, e)
def passed (chk : Fibre → Option Fate) (ls : List Fibre) : List Fibre := ls.filter fun f => (chk f).isNone

/-- Check of a global access of one lane (R52, R66, R317). -/
def globalChk (s : State) (b : Block) (f : Fibre) (c : Nat) (x : Int) (w need : Nat) : Option Nat × Nat :=
  (accessCheck s b.part (capReg s f c) x w need, infoOf ((capBase (capReg s f c) : Int) + x))

/-- Check of a scratchpad access of one lane (R60). -/
def spadChk (b : Block) (o : Int) (w : Nat) : Option Nat × Nat := (spadCheck b o w, infoOf o)

/-- A live barrier granule refuses an access (R65). -/
def liveChk (s : State) (b : Block) (o : Int) (code : Nat) : Option Nat × Nat :=
  (if s.isLive (granOf (spadCell b o.toNat)) then some code else none, infoOf o)

/-- Lanes whose requests reach memory, with their cells, or the fates of those that do not. -/
structure Reached where
  s : State
  miss : Bool
  good : List (Fibre × Nat)
  fates : List (FKey × Fate)
deriving DecidableEq, Repr

/-- A lane's own pending stores to bytes that hold an uncorrectable error: a load of them waits before issue until the stores have performed, so
that a trap DATA_UE is precise (R17, R160, R351; log 9). -/
def hurtHeld (s : State) (f : Fibre) (spad : Bool) (obj off cell n : Nat) : Bool :=
  s.ue cell n && !(ownStores s f.key s.seq spad obj off n).isEmpty

/-- Requests of lanes at object offsets, translated; `ue` asks for DATA_UE where the bytes hold an uncorrectable error; they wait while own
stores to such bytes are pending (R17, R58, R160). -/
def reach (s : State) (b : Block) (write ue : Bool) (w : Nat) (obj off : Fibre → Nat) (ls : List Fibre) : Reached :=
  let q := ask s b.part write (ls.map fun f => { f := f, obj := obj f, off := off f })
  let placed := (ls.zip q.places).filterMap fun x => x.2.map fun a => (x.1, a)
  let hurt := fun (x : Fibre × Nat) => ue && q.s.ue x.2 w
  let bad := placed.filter hurt
  let held := ue && placed.any fun x => hurtHeld q.s x.1 false (obj x.1) (off x.1) x.2 w
  { s := if held then s else q.s, miss := q.miss || held
    good := placed.filter (fun x => !hurt x)
    fates := q.fates ++ bad.map fun x => (x.1.key, trapAt cDataUe (off x.1)) }

/-- An outstanding request of a fibre, the numbers in lane order. -/
def pushOut (s : State) (f : Fibre) (o : Out) : State :=
  setFibre s.fresh f.key fun g => { g with outs := g.outs ++ [{ o with id := s.seq }] }

/-- The core of a batch has room for the requests of these lanes (R9). -/
def lanesFit (s : State) (ls : List Fibre) : Bool := match ls with | [] => true | f :: _ => reqRoom s f.loc ls.length

/-- A plain load from a cell. -/
def loadOut (f : Fibre) (kind : OutKind) (spad : Bool) (addr w d : Nat) (tag : BitVec 4) (fe scope obj off : Nat) : Out :=
  { id := 0, kind := kind, spad := spad, addr := addr, w := w, d := d, tags := List.replicate (max 1 (w / 4)) tag, fe := fe, atBank := false
    scope := scope, acq := false, aop := 0, b := 0, e := 0, obj := obj, off := off, hash := f.fhash, pc := f.pc }

/-- Registers of a form M data operand (R194). -/
def memRegs (p : MemP) : List Nat := (List.range (max 1 (2 ^ p.w.toNat / 4))).map (· + p.d.toNat)

/-- Width in bytes. -/
def memW (p : MemP) : Nat := 2 ^ p.w.toNat

/-- Offset of a form M lane (R194, R230). -/
def memOff (p : MemP) (f : Fibre) : Int := offVal f p.a.toNat p.o64 + p.off.toInt * (memW p : Int)

/-- Local offset of a scratchpad lane: the register read unsigned (R230). -/
def spadOff (p : MemP) (f : Fibre) : Int := ((f.val p.a.toNat).toNat : Int) + p.off.toInt * (memW p : Int)

/-- Data of a store: its registers, low word first. -/
def storeData (p : MemP) (f : Fibre) : Nat :=
  ((memRegs p).zipIdx.map fun x => (f.val x.1).toNat * 2 ^ (32 * x.2)).sum % 256 ^ memW p

/-- A lane's own earlier stores that a read at issue must not pass: those that overlap its bytes, and REDs (R160, R173). -/
def ownPending (s : State) (f : Fibre) (spad : Bool) (obj off n : Nat) : Bool :=
  !(ownStores s f.key s.seq spad obj off n).isEmpty || redAhead s f.key s.seq

/-- With the store hash on, a store waits for the lane's outstanding atomics, whose feeds come first (R395). -/
def hashWaits (s : State) (b : Block) (ls : List Fibre) : Bool :=
  rrMode s b.part != 0 && ls.any (fun f => f.outs.any (fun o => o.kind == .atom))

/-- A feed of a lane's hash (R395, R396). -/
def feedLane (s : State) (b : Block) (f : Fibre) (obj off w data : Nat) : State :=
  setFibre s f.key fun g => { g with fhash := feed s b.part g.fhash obj off w data }

/-! ### Loads and stores -/

/-- Lanes that load: requests, then outstanding loads (R230). -/
def loadLanes (s : State) (b : Block) (p : MemP) (ls : List Fibre) (traps : List (FKey × Fate)) : Acted :=
  let c := fun (f : Fibre) => capReg s f p.c.toNat
  let off := fun (f : Fibre) => capOff (c f) (memOff p f)
  let q := reach s b false true (memW p) (fun f => capObj (c f)) off ls
  if !lanesFit s ls then actWait s
  else if q.miss then actWait q.s
  else
    let s := q.good.foldl (fun s x =>
      pushOut s x.1 { loadOut x.1 .load false x.2 (memW p) p.d.toNat p.t 0 p.sc.toNat (capObj (c x.1)) (off x.1) with acq := p.qc == 6 }) q.s
    acted s (traps ++ q.fates)

/-- Footprint of a form M load. -/
def memUse (h : Head) (p : MemP) (legal store : Bool) : Use :=
  { useOf h legal with
    vr := offRegs p.a.toNat p.o64 ++ (if store then memRegs p else []), vw := if store then [] else memRegs p }

/-- R230; with .mig and .mig.fb the lanes first follow R110 to R121. -/
def execLd (h : Head) (p : MemP) (s : State) : Result :=
  let mig := p.qc == 4 || p.qc == 5
  issue { memUse h p (Instr.ld h p).legal false with caps := [p.c.toNat], feat := if mig then some 1 else none }
    (fun s b ls =>
      let chk := fun (f : Fibre) => firstTrap
        [(checkRegs f (offRegs p.a.toNat p.o64), 0), globalChk s b f p.c.toNat (memOff p f) (memW p) rRD]
      let traps := trapped chk ls
      let ok := passed chk ls
      if mig then
        let r := route s b (p.qc == 5) (fun f => capReg s f p.c.toNat) (fun f => capOff (capReg s f p.c.toNat) (memOff p f))
          (ldLive s) (·.pc) ok
        if r.wait then actWait r.s
        else
          let a := loadLanes r.s b p (r.here.map (·.1)) (traps ++ r.fates)
          if !a.wait then
            { a with s := landHere a.s (p.qc == 5) (r.here.filter (fun x => !stopsFate (fateOf a.fates x.1))), migrate := true }
          else if (traps ++ r.fates).isEmpty then a
          else { acted (stayHere a.s r.here) (traps ++ r.fates ++ r.here.map (fun x => (x.1.key, .stay))) with migrate := true }
      else loadLanes s b p ok traps) s

/-- R231. -/
def execSt (h : Head) (p : MemP) (s : State) : Result :=
  issue { memUse h p (Instr.st h p).legal true with caps := [p.c.toNat] }
    (fun s b ls =>
      let c := fun (f : Fibre) => capReg s f p.c.toNat
      let chk := fun (f : Fibre) => firstTrap
        [(checkRegs f (offRegs p.a.toNat p.o64 ++ memRegs p), 0), globalChk s b f p.c.toNat (memOff p f) (memW p) rWR]
      let ok := passed chk ls
      if hashWaits s b ok || ok.any (fun f => !fifoRoom s f.loc f.key.port ok.length) then actWait s
      else acted (ok.foldl (fun s f =>
        let off := capOff (c f) (memOff p f)
        let s := pushStore s f b .st false (capObj (c f)) off (memW p) (storeData p f) p.sc.toNat (p.qc == 7) f.fhash none
        feedLane s b f (capObj (c f)) off p.w.toNat (storeData p f)) s) (trapped chk ls)) s

/-- Lanes of the batch that issues. -/
def curLanes (s : State) : List Fibre := match s.cur with | some c => lanesOf s c | none => []

/-- The destinations that the batch's scratchpad completion count holds back: those of the LDLs since it was last zero (R62). -/
def noteLdl (s : State) (ls : List Fibre) (regs : List Nat) : State :=
  let all := curLanes s
  let s := if all.any Fibre.spadLoads then s else onLanes s all fun f => { f with ldl := [] }
  onLanes s ls fun f => { f with ldl := dedup (f.ldl ++ regs) }

/-- R230, R232, R233. A lane of .fe or .fe.clr waits (R63). -/
def execLdl (h : Head) (p : MemP) (s : State) : Result :=
  let fe := if p.qc == 1 then 1 else if p.qc == 2 then 2 else 0
  issue { memUse h p (Instr.ldl h p).legal false with home := true }
    (fun s b ls =>
      let cell := fun (f : Fibre) => spadCell b (spadOff p f).toNat
      let chk := fun (f : Fibre) => firstTrap
        [(checkRegs f [p.a.toNat], 0), spadChk b (spadOff p f) (memW p)]
      let chk' := fun (f : Fibre) => (chk f) <|> firstTrap
        [(if fe != 0 then (liveChk s b (spadOff p f) cBarrierClobber).1 else none, infoOf (spadOff p f)),
         (if s.ue (cell f) (memW p) then some cDataUe else none, infoOf (spadOff p f))]
      if !lanesFit s ls || (passed chk ls).any (fun f => hurtHeld s f true 0 (spadOff p f).toNat (cell f) (memW p)) then actWait s
      else acted ((passed chk' ls).foldl (fun s f =>
        let s := pushOut s f
          { loadOut f .load true (cell f) (memW p) p.d.toNat p.t fe p.sc.toNat (cell f) (spadOff p f).toNat with acq := p.qc == 6 }
        if fe == 0 then s else setFibre s f.key fun g => { g with run := .waiting (.fe (cell f)) })
        (noteLdl s (passed chk' ls) (memRegs p))) (trapped chk' ls)) s

/-- R231, R232, R233. A lane of .fe waits until its store has performed (R63). -/
def execStl (h : Head) (p : MemP) (s : State) : Result :=
  issue { memUse h p (Instr.stl h p).legal true with home := true }
    (fun s b ls =>
      let cell := fun (f : Fibre) => spadCell b (spadOff p f).toNat
      let chk := fun (f : Fibre) => firstTrap
        [(checkRegs f (p.a.toNat :: memRegs p), 0), spadChk b (spadOff p f) (memW p)]
      let chk' := fun (f : Fibre) => (chk f) <|> firstTrap [liveChk s b (spadOff p f) cBarrierClobber]
      let ok := passed chk' ls
      if hashWaits s b ok || ok.any (fun f => !fifoRoom s f.loc f.key.port ok.length) then actWait s
      else acted (ok.foldl (fun s f =>
        let off := (spadOff p f).toNat
        let s := pushStore s f b (.stl p.qc.toNat) true (cell f) off (memW p) (storeData p f) p.sc.toNat (p.qc == 7) f.fhash none
        let s := feedLane s b f 0 off p.w.toNat (storeData p f)
        if p.qc == 1 then setFibre s f.key fun g => { g with run := .waiting (.fe (cell f)) } else s) s) (trapped chk' ls)) s

/-- LDW reads the issuing die's weight store alone (R66, R234). -/
def weightChk (s : State) (b : Block) (f : Fibre) (c : CapWord) (x : Int) (w : Nat) : Option Nat :=
  match capCheck c x w rRD with
  | some e => if e == cMisaligned && objName s b.part (capObj c) != .weight (f.loc / 192) then some cCapRights else some e
  | none => if objName s b.part (capObj c) == .weight (f.loc / 192) then none else some cCapRights

/-- R234. -/
def execLdw (h : Head) (p : MemP) (s : State) : Result :=
  issue { memUse h p (Instr.ldw h p).legal false with caps := [p.c.toNat] }
    (fun s b ls =>
      let chk := fun (f : Fibre) => firstTrap
        [(checkRegs f (offRegs p.a.toNat p.o64), 0),
         (weightChk s b f (capReg s f p.c.toNat) (memOff p f) (memW p), infoOf ((capBase (capReg s f p.c.toNat) : Int) + memOff p f))]
      loadLanes s b p (passed chk ls) (trapped chk ls)) s

/-! ### Transactions into the scratchpad -/

/-- R235. A lane whose barrier has no room for one more transaction waits at the instruction; those of its batch whose requests have been
accepted are noted and do not ask again. -/
def execLda (h : Head) (p : LdaP) (s : State) : Result :=
  let a := p.a.toNat
  let w := 2 ^ p.w.toNat
  issue { useOf h (Instr.lda h p).legal with vr := offRegs a p.o64 ++ [p.b.toNat, p.d.toNat], home := true }
    (fun s b ls =>
      let x := fun (f : Fibre) => offVal f a p.o64
      let dst := fun (f : Fibre) => (f.val p.d.toNat).toNat
      let bar := fun (f : Fibre) => (f.val p.b.toNat).toNat
      let chk := fun (f : Fibre) => firstTrap
        [(checkRegs f (offRegs a p.o64 ++ [p.b.toNat, p.d.toNat]), 0), globalChk s b f p.c.toNat (x f) w rRD,
         spadChk b (dst f) w, spadChk b (bar f) 16]
      let chk' := fun (f : Fibre) => (chk f) <|> firstTrap
        [(if s.isLive (granOf (spadCell b (bar f))) then none else some cIllegalOp, 0)]
      let left := ls.filter (fun f => f.sent == 0)
      let ok := passed chk' left
      let c := fun (f : Fibre) => capReg s f p.c.toNat
      let q := reach s b false false w (fun f => capObj (c f)) (fun f => capOff (c f) (x f)) ok
      let room := fun (s : State) (f : Fibre) =>
        decide (f.counter 4 < 63) && decide ((barObj s (spadCell b (bar f))).pending < 2 ^ 24 - 1) && reqRoom s f.loc 1
      let take := fun (s : State) => q.good.foldl (fun s y =>
        let f := y.1
        if !room s f then s else
        let s := { s with ldas := s.ldas ++ [{ id := s.seq, fib := f.key, opId := s.seq, blk := b.id, src := y.2, w := w
                                               dst := spadCell b (dst f), bar := spadCell b (bar f) }] }
        let s := pendingUp s (spadCell b (bar f)) 1
        (setFibre s f.key fun g => { (g.addOp s.seq 4) with sent := 1 }).fresh) s
      let t := take q.s
      if q.miss then actWait q.s
      else if q.good.any (fun y => ((fibre? t y.1.key).map (·.sent)).getD 0 == 0) then actWait (take s)
      else acted t (trapped chk' left ++ q.fates)) s

/-! ### Atomics and reductions -/

/-- Tags of ATOM's operands: B and E by the operation, pair tags for 64 bits (R237). -/
def atomTags (p : AtomP) : Option (BitVec 4) × Option (BitVec 4) :=
  let a := p.aop.toNat
  if a == 2 || (6 ≤ a && a ≤ 9) then (if p.w64 then (tagIs tI64lo, tagIs tI64hi) else (tagIs tI32, none))
  else if a == 10 then (tagIs tF32, none)
  else (none, none)

/-- Tags that the old value takes: the operation's expected tag, and RAW for the untyped operations, AND, OR and XOR among them (R237; DESIGN
CHOICE, log 21: R237 names RAW for CAS and XCHG alone). -/
def atomOut (p : AtomP) : List (BitVec 4) :=
  let t := (atomTags p).1.getD tRaw
  if p.w64 then [t, (atomTags p).2.getD tRaw] else [t]

/-- Check of an operand register or pair. -/
def pairCheck (f : Fibre) (r : Nat) (wide : Bool) (t : Option (BitVec 4) × Option (BitVec 4)) : Option Nat :=
  if wide then minCode (checkTag t.1 (f.reg r)) (checkTag t.2 (f.reg (r + 1))) else checkTag t.1 (f.reg r)

/-- Value of an operand register or pair. -/
def pairVal (f : Fibre) (r : Nat) (wide : Bool) : Nat := if wide then (pairOf (f.val r) (f.val (r + 1))).toNat else (f.val r).toNat

def pairRegs (r : Nat) (wide : Bool) : List Nat := if wide then [r, r + 1] else [r]

/-- In replay mode a lane that names a nominated object waits at the instruction (R394, R398). -/
def gated (s : State) (b : Block) (obj : Nat) : Bool :=
  rrMode s b.part == 2 && (List.range 8).any fun j =>
    sysGet s b.part (0x0540 + j) != 0 && canonObj (sysGet s b.part (0x0540 + j)) == canonObj obj

/-- R238. -/
def execAtom (h : Head) (p : AtomP) (s : State) : Result :=
  let a := p.a.toNat
  let w := if p.w64 then 8 else 4
  let cas := p.aop == 1
  issue
    { useOf h (Instr.atom h p).legal with
      vr := offRegs a p.o64 ++ pairRegs p.b.toNat p.w64 ++ (if cas then pairRegs p.e.toNat p.w64 else [])
      vw := pairRegs p.d.toNat p.w64, home := p.sp, caps := if p.sp then [] else [p.c.toNat] }
    (fun s b ls =>
      let tagChk := fun (f : Fibre) =>
        minCodes [checkRegs f (offRegs a p.o64), pairCheck f p.b.toNat p.w64 (atomTags p),
          if cas then pairCheck f p.e.toNat p.w64 (atomTags p) else none]
      let out := fun (f : Fibre) (cell obj off : Nat) =>
        { loadOut f .atom p.sp cell w p.d.toNat tRaw p.ord.toNat p.sc.toNat obj off with
          tags := atomOut p, acq := p.ord.toNat % 2 == 1, aop := p.aop.toNat, b := pairVal f p.b.toNat p.w64, e := pairVal f p.e.toNat p.w64 }
      if p.sp then
        let o := fun (f : Fibre) => ((f.val a).toNat : Int)
        let chk := fun (f : Fibre) => firstTrap [(tagChk f, 0), spadChk b (o f) w]
        let chk' := fun (f : Fibre) => (chk f) <|> firstTrap
          [liveChk s b (o f) cBarrierClobber,
           (if s.ue (spadCell b (o f).toNat) w then some cDataUe else none, infoOf (o f))]
        if !lanesFit s ls || (passed chk ls).any (fun f => hurtHeld s f true 0 (o f).toNat (spadCell b (o f).toNat) w) then actWait s
        else acted ((passed chk' ls).foldl (fun s f =>
          let cell := spadCell b (o f).toNat
          let s := pushOut s f (out f cell cell (o f).toNat)
          setFibre s f.key fun g => { g with run := .waiting .gate }) s) (trapped chk' ls)
      else
        let c := fun (f : Fibre) => capReg s f p.c.toNat
        let off := fun (f : Fibre) => capOff (c f) (offVal f a p.o64)
        let chk := fun (f : Fibre) => firstTrap [(tagChk f, 0), globalChk s b f p.c.toNat (offVal f a p.o64) w (rRD + rWR + rAT)]
        let q := reach s b true true w (fun f => capObj (c f)) off (passed chk ls)
        if !lanesFit s ls then actWait s
        else if q.miss then actWait q.s
        else acted (q.good.foldl (fun s x =>
          let s := pushOut s x.1 (out x.1 x.2 (capObj (c x.1)) (off x.1))
          if gated s b (capObj (c x.1)) then setFibre s x.1.key fun g => { g with run := .waiting .gate } else s) q.s)
          (trapped chk ls ++ q.fates)) s

/-- Tags of RED's operand by format; untyped for AND, OR, XOR (R240). -/
def redTagsOf (p : RedP) : Option (BitVec 4) × Option (BitVec 4) :=
  if 5 ≤ p.rop.toNat then (none, none)
  else match p.rfmt.toNat with
  | 0 => (tagIs tI32, none)
  | 1 => (tagIs tF32, none)
  | 2 => (tagIs tF16x2, none)
  | 3 => (tagIs tBf16x2, none)
  | _ => (tagIs tI64lo, tagIs tI64hi)

/-- R240, R241; a window of another device gives no right to the query form (R317). -/
def execRed (h : Head) (p : RedP) (s : State) : Result :=
  let a := p.a.toNat
  let wide := p.rfmt == 4
  let w := if wide then 8 else 4
  issue
    { useOf h (Instr.red h p).legal with
      vr := offRegs a p.o64 ++ (if p.q then [] else pairRegs p.b.toNat wide), vw := if p.q then [p.d.toNat] else [], caps := [p.c.toNat] }
    (fun s b ls =>
      let c := fun (f : Fibre) => capReg s f p.c.toNat
      let x := fun (f : Fibre) => offVal f a p.o64
      let off := fun (f : Fibre) => capOff (c f) (x f)
      if p.q then
        let chk := fun (f : Fibre) => firstTrap
          [(checkRegs f (offRegs a p.o64), 0), globalChk s b f p.c.toNat (x f) 4 rRD,
           (if farWindow s b.part (capObj (c f)) then some cCapRights else none, infoOf ((capBase (c f) : Int) + x f))]
        let q := reach s b false true 4 (fun f => capObj (c f)) off (passed chk ls)
        if !lanesFit s ls then actWait s
        else if q.miss then actWait q.s
        else acted (q.good.foldl (fun s y =>
          pushOut s y.1 (loadOut y.1 .query false y.2 4 p.d.toNat tI32 0 p.sc.toNat (capObj (c y.1)) (off y.1))) q.s) (trapped chk ls ++ q.fates)
      else
        let chk := fun (f : Fibre) => firstTrap
          [(minCode (checkRegs f (offRegs a p.o64)) (pairCheck f p.b.toNat wide (redTagsOf p)), 0),
           globalChk s b f p.c.toNat (x f) w (rWR + rAT)]
        let ok := passed chk ls
        if hashWaits s b ok || ok.any (fun f => !fifoRoom s f.loc f.key.port ok.length) then actWait s
        else acted (ok.foldl (fun s f =>
          let v := pairVal f p.b.toNat wide
          let s := pushStore s f b (.red p.rop.toNat p.rfmt.toNat) false (capObj (c f)) (off f) w v p.sc.toNat p.rel f.fhash none
          let s := feedLane s b f (capObj (c f)) (off f) (if wide then 3 else 2) v
          if gated s b (capObj (c f)) then setFibre s f.key fun g => { g with run := .waiting .gate } else s) s) (trapped chk ls)) s

/-! ### Fences -/

/-- R242, R167. -/
def execFence (h : Head) (p : FenceP) (s : State) : Result :=
  let sc := p.sc.toNat
  issue (useOf h (Instr.fence h p).legal)
    (fun s _ ls => let q := released s ls sc; if q.2 then acted q.1 [] else actWait q.1) s

/-! ### Capabilities -/

/-- R243, R48, R126: through the lowest active, guard-true lane. -/
def execCapld (h : Head) (p : MemP) (s : State) : Result :=
  issue { useOf h (Instr.capld h p).legal with vr := offRegs p.a.toNat p.o64, caps := [p.c.toNat, p.d.toNat] }
    (fun s b ls => firstLane (fun s f =>
      let c := capReg s f p.c.toNat
      let chk := fun (f : Fibre) => firstTrap
        [(checkRegs f (offRegs p.a.toNat p.o64), 0), globalChk s b f p.c.toNat (memOff p f) 16 (rRD + rCLD)]
      let off := capOff c (memOff p f)
      let q := reach s b false false 16 (fun _ => capObj c) (fun _ => off) (passed chk [f])
      if q.miss then actWait q.s
      else match q.good with
        | [] => acted q.s (trapped chk [f] ++ q.fates)
        | (_, a) :: _ =>
          if f.reading || ownPending s f false (capObj c) off 16 then actWait s
          else if rowWaits s a then actWait (noteWait s a)
          else
            let s := touch s a
            if !s.capTags.contains a then acted s [(f.key, trapAt cCapTag off)]
            else if s.ue a 16 then acted s [(f.key, trapAt cDataUe off)]
            else acted (putCap s b.part f p.d.toNat (BitVec.ofNat 128 (s.read a 16))) []) s ls) s

/-- R243. -/
def execCapst (h : Head) (p : MemP) (s : State) : Result :=
  issue { useOf h (Instr.capst h p).legal with vr := offRegs p.a.toNat p.o64, caps := [p.c.toNat, p.d.toNat] }
    (fun s b ls =>
      let c := fun (f : Fibre) => capReg s f p.c.toNat
      let chk := fun (f : Fibre) => firstTrap
        [(checkRegs f (offRegs p.a.toNat p.o64), 0), globalChk s b f p.c.toNat (memOff p f) 16 (rWR + rCST)]
      let ok := passed chk ls
      if hashWaits s b ok || ok.any (fun f => !fifoRoom s f.loc f.key.port ok.length) then actWait s
      else acted (ok.foldl (fun s f =>
        let off := capOff (c f) (memOff p f)
        let v := (capReg s f p.d.toNat).toNat
        let s := pushStore s f b .capst false (capObj (c f)) off 16 v p.sc.toNat false f.fhash none
        feedLane s b f (capObj (c f)) off 4 v) s) (trapped chk ls)) s

/-- The open mark of a capability register (R125). -/
def openMark (s : State) (f : Fibre) (n : Nat) : Bool := ((partOf s f).map (fun q => q.opens.getLsbD n)).getD false

/-- A write of the register would end an open, before an acquire of the fibre that is outstanding (R126, R163). -/
def openHeld (s : State) (f : Fibre) (n : Nat) : Bool := openMark s f n && acquiring f

/-- R245, R48, R126. -/
def execCnarrow (h : Head) (p : CnarrowP) (s : State) : Result :=
  issue { useOf h (Instr.cnarrow h p).legal with home := true }
    (fun s b ls => firstLane (fun s f =>
      let c := capReg s f p.cs.toNat
      let off := (uniPair s f p.sb.toNat).toInt
      let lim := (uniPair s f p.sl.toNat).toNat
      if off < 0 || (capLimit c : Int) < off + lim then acted s (trapAll ls cCapBounds 0 false)
      else if openHeld s f p.cd.toNat then actWait s
      else acted (setCap s b.part f p.cd.toNat (mkCap (capObj c) (capRights c) lim (capBase c + off.toNat))) []) s ls) s

/-- R245, R126. -/
def execCrights (h : Head) (p : CrightsP) (s : State) : Result :=
  issue { useOf h (Instr.crights h p).legal with caps := [p.cs.toNat, p.cd.toNat] }
    (fun s b ls => firstLane (fun s f =>
      let c := capReg s f p.cs.toNat
      if openHeld s f p.cd.toNat then actWait s
      else acted (putCap s b.part f p.cd.toNat (mkCap (capObj c) (capRights c &&& p.mask.toNat) (capLimit c) (capBase c))) []) s ls) s

/-- R245. -/
def execCinfo (h : Head) (p : CinfoP) (s : State) : Result :=
  issue { useOf h (Instr.cinfo h p).legal with home := true }
    (fun s _ ls => firstLane (fun s f =>
      let c := capReg s f p.cs.toNat
      let w : BitVec 32 := BitVec.ofBool (openMark s f p.cs.toNat) ++ 0#3 ++ BitVec.ofNat 8 (capRights c) ++ BitVec.ofNat 8 (capLimit c / 2 ^ 32)
        ++ BitVec.ofNat 12 (capBase c / 2 ^ 32)
      acted (setUnis s f p.sd.toNat [BitVec.ofNat 32 (capObj c), BitVec.ofNat 32 (capBase c), BitVec.ofNat 32 (capLimit c), w]) []) s ls) s

/-! ### Granules and barrier objects -/

/-- Local offset of a granule operand (R246). -/
def granOff (p : GranP) (f : Fibre) : Int := ((f.val p.a.toNat).toNat : Int) + 16 * p.off.toInt

/-- Footprint of a granule instruction. -/
def granUse (h : Head) (p : GranP) (legal : Bool) (vr vw pw : List Nat) : Use :=
  { useOf h legal with vr := p.a.toNat :: vr, vw := vw, pw := pw, home := true }

/-- Check of a granule operand: untyped registers, then R246. -/
def granChk (b : Block) (p : GranP) (regs : List Nat) (f : Fibre) : Option Fate :=
  firstTrap [(checkRegs f (p.a.toNat :: regs), 0), spadChk b (granOff p f) 16]

def granCell (b : Block) (p : GranP) (f : Fibre) : Nat := spadCell b (granOff p f).toNat

/-- FESET and FECLR: lanes enter the store FIFO (R247). -/
def granStore (kind : StKind) (h : Head) (p : GranP) (legal : Bool) (s : State) : Result :=
  issue (granUse h p legal [] [] [])
    (fun s b ls =>
      let chk := fun (f : Fibre) => (granChk b p [] f) <|> firstTrap [liveChk s b (granOff p f) cBarrierClobber]
      let ok := passed chk ls
      if ok.any (fun f => !fifoRoom s f.loc f.key.port ok.length) then actWait s
      else acted (ok.foldl (fun s f =>
        pushStore s f b kind true (granCell b p f) (granOff p f).toNat 16 0 1 (kind == .feset) f.fhash none) s) (trapped chk ls)) s

/-- R247. -/
def execFeset (h : Head) (p : GranP) (s : State) : Result := granStore .feset h p (Instr.feset h p).legal s

/-- R247. -/
def execFeclr (h : Head) (p : GranP) (s : State) : Result := granStore .feclr h p (Instr.feclr h p).legal s

/-- A read of a granule waits for the lane's earlier reads and its own stores to it (R160). -/
def granWaits (s : State) (p : GranP) (ls : List Fibre) : Bool :=
  ls.any fun f => f.reading || ownPending s f true 0 (granOff p f).toNat 16

/-- R247. -/
def execFetest (h : Head) (p : GranP) (s : State) : Result :=
  issue (granUse h p (Instr.fetest h p).legal [] [] [p.pd.toNat])
    (fun s b ls =>
      let chk := granChk b p []
      let ok := passed chk ls
      if granWaits s p ok then actWait s
      else acted (onLanes s ok fun f =>
        f.push 2 (.pred p.pd.toNat (!s.isLive (granCell b p f) && s.isFull (granCell b p f)))) (trapped chk ls)) s

/-- Lanes that wait on a granule's bit when it becomes live trap BARRIER_CLOBBER (R233); what an STL.fe has fed to its lane's store hash is taken
back (R395). -/
def clobberWaiters (s : State) (g : Nat) : State :=
  let loads := (feWaiters s g).map fun x => (x.1.key, x.2.off)
  let held := s.feStores.filter (fun x => granOf x.obj == g)
  let stores := held.map fun x => (x.fib, x.off)
  let s := held.foldl (fun s x => setFibre s x.fib fun f => { f with fhash := x.hash }) s
  let s := (loads ++ stores).foldl (fun s x => trapLater s [x.1] cBarrierClobber x.2) s
  deliver { s with feStores := s.feStores.filter (fun x => granOf x.obj != g) }

/-- A granule's barrier object made, remade or ended by one lane of BINIT (R248). -/
def binitLane (s : State) (b : Block) (p : GranP) (f : Fibre) : State × Option Fate :=
  let g := granCell b p f
  let e := (f.val p.v.toNat).toNat
  let o := barObj s g
  let info := (granOff p f).toNat
  if !s.isLive g then
    if e == 0 then (fillGran (healGran (spadWrite s g 16 0) g 16) g false, none)
    else
      let s := putBarObj (healGran s g 16) g { phase := 0, expect := e, arrived := 0, pending := 0, waiters := 0 }
      (clobberWaiters ((s.setLive g true).setFull g false) g, none)
  else if o.waiters != 0 then (s, some (trapAt cBarrierClobber info))
  else if e == 0 then
    let held := (heldArrivals s g).map (·.key)
    (deliver (trapLater (((spadWrite s g 16 0).setLive g false).setFull g false) held cIllegalOp 0), none)
  else
    (phaseCheck (phaseFuel s) (putBarObj s g { o with phase := 0, arrived := 0, expect := e }) g, none)

/-- R248. -/
def execBinit (h : Head) (p : GranP) (s : State) : Result :=
  issue (granUse h p (Instr.binit h p).legal [p.v.toNat] [] [])
    (fun s b ls =>
      let chk := fun (f : Fibre) => firstTrap
        [(checkRegs f [p.a.toNat, p.v.toNat], 0), spadChk b (granOff p f) 16,
         (if 8192 < (f.val p.v.toNat).toNat then some cIllegalOp else none, 0)]
      let ok := passed chk ls
      if !ok.all (drained s) then actWait s
      else
        let r := eachLane (fun s f => binitLane s b p f) s ok
        acted r.1 (trapped chk ls ++ r.2)) s

/-- One arrival of a lane of BARV, counted or held for the next phase (R249). -/
def barvLane (s : State) (b : Block) (p : GranP) (f : Fibre) : State × Option Fate :=
  let g := granCell b p f
  let o := barObj s g
  if !s.isLive g then (s, some (trapF cIllegalOp))
  else if o.arrived < o.expect then
    let s := putBarObj s g { o with arrived := o.arrived + 1 }
    let s := setFibre s f.key fun x => x.writeNow (.reg p.v.toNat { val := BitVec.ofNat 32 o.phase, tag := tI32 })
    (phaseCheck (phaseFuel s) s g, none)
  else
    let s := setFibre s.fresh f.key fun x => { x with run := .waiting (.barv g p.v.toNat), waitSeq := s.seq }
    (s, none)

/-- R249. -/
def execBarv (h : Head) (p : GranP) (s : State) : Result :=
  issue (granUse h p (Instr.barv h p).legal [] [p.v.toNat] [])
    (fun s b ls =>
      let chk := granChk b p []
      let ok := passed chk ls
      if !ok.all (drained s) then actWait s
      else
        let r := eachLane (fun s f => barvLane s b p f) s ok
        acted r.1 (trapped chk ls ++ r.2)) s

/-- R250. -/
def execBexpt (h : Head) (p : GranP) (s : State) : Result :=
  issue (granUse h p (Instr.bexpt h p).legal [p.v.toNat] [] [])
    (fun s b ls =>
      let chk := granChk b p [p.v.toNat]
      let ok := passed chk ls
      -- a write, after every earlier access of the lane (R160); a cut may be entered later (R310)
      if !ok.all (settled s) then actWait s
      else
        let r := eachLane (fun s f =>
          let g := granCell b p f
          let n := (f.val p.v.toNat).toNat
          if !s.isLive g || decide (2 ^ 24 - 1 < (barObj s g).pending + n) then (s, some (trapF cIllegalOp))
          else (pendingUp s g n, none)) s ok
        acted r.1 (trapped chk ls ++ r.2)) s

/-- R251. -/
def execBwait (h : Head) (p : GranP) (s : State) : Result :=
  issue (granUse h p (Instr.bwait h p).legal [p.v.toNat] [] [])
    (fun s b ls =>
      let chk := granChk b p [p.v.toNat]
      let ok := passed chk ls
      if !ok.all (settled s) then actWait s
      else
        let r := eachLane (fun s f =>
          let g := granCell b p f
          let o := barObj s g
          if !s.isLive g then (s, some (trapF cIllegalOp))
          else if o.phase != (f.val p.v.toNat).toNat then (s, none)
          else (setFibre (putBarObj s g { o with waiters := o.waiters + 1 }) f.key fun x => { x with run := .waiting (.bwait g) }, none)) s ok
        acted r.1 (trapped chk ls ++ r.2)) s

end Sys2Proof.Machine
end

