-- ==== Sys2Proof/Machine/Queues.lean ====
section
/-!
DEFINITION. Inbound queues, operand ports, start tokens and the fabric egress (R252 to R256, R261), remote adds (R147, R148, R150,
R266, R267) and the arrivals of their messages.
-/
namespace Sys2Proof.Machine

/-- The block of the batch that issues. -/
def curBlock (s : State) : Option Block := (s.cur.bind fun c => (lanesOf s c).head?).bind fun f => block? s f.blk

/-! ### Inbound queues -/

/-- Entries of an inbound queue, of an operand port, and of a streamer queue. -/
def queueSize : Nat := 64

/-- The block part of a block on a core. -/
def partAt (s : State) (blk core : Nat) : Option Part := s.parts.find? (fun p => p.blk == blk && p.core == core)

/-- Core at relative position `j` of a fibre's core in its cluster (R252). -/
def siblingCore (f : Fibre) (j : Nat) : Nat := f.key.core / 4 * 4 + (f.key.core % 4 + 1 + j) % 4

/-- Number of words for an NW field. -/
def nwWords (nw : Nat) : Nat := 2 ^ nw

/-- Header of a message (R252). -/
def header (b : Block) (f : Fibre) (nw : Nat) (fab : Bool) : BitVec 32 :=
  BitVec.ofNat 11 (if fab then b.member else f.key.core) ++ BitVec.ofNat 5 f.lane ++ BitVec.ofNat 13 f.fid ++ BitVec.ofNat 2 nw ++ BitVec.ofBool fab

/-- The message a lane sends. -/
def messageOf (b : Block) (p : SendP) (fab : Bool) (f : Fibre) : QMsg :=
  { words := (List.range (nwWords p.nw.toNat)).map fun k => f.reg (p.a.toNat + k), header := header b f p.nw.toNat fab }

/-- A lane receives a message (R254): its words, 0 beyond them, the header, the predicate. -/
def Fibre.receive (f : Fibre) (m : QMsg) (n d : Nat) (hdr : Option Nat) (pd : Nat) : Fibre :=
  let f := (List.range n).foldl (fun g k => g.writeNow (.reg (d + k) (m.words.getD k { val := 0, tag := tRaw }))) f
  let f := match hdr with | some h => f.writeNow (.reg h { val := m.header, tag := tRaw }) | none => f
  f.writeNow (.pred pd true)

/-- The lane that began to wait first at a block part's queue; ties by port and lane (R254). -/
def firstReceiver (s : State) (core bp : Nat) : Option Fibre :=
  (sortBy (fun (f : Fibre) => (f.waitSince * 4 + f.key.port) * 32 + f.lane)
    (s.fibres.filter fun f => f.key.core == core && f.bp == bp && (match f.run with | .waiting (.recv ..) => true | _ => false))).head?

/-- A message enters an inbound queue, or goes to the first lane that waits there; none where the queue is full (R252, R254). -/
def enqueue (s : State) (q : Part) (m : QMsg) : Option State :=
  match firstReceiver s q.core q.bp with
  | some f =>
    match f.run with
    | .waiting (.recv n d hdr pd) => some (setFibre s f.key fun g => (g.receive m n d hdr pd).release)
    | _ => none
  | none => if q.inq.length < queueSize then some (setPart s q.core q.bp fun p => { p with inq := p.inq ++ [m] }) else none

/-- A start token enters while fewer than 16 are held: it starts the oldest waiting deferred command of the block with its key, or is
held (R261; log 19). -/
def putToken (s : State) (b : Block) (key : Nat) : Option State :=
  let keyOf := fun (c : Copy) => (c.words.getD 7 0).toNat % 2 ^ 16
  if 16 ≤ (s.tokens.filter (fun t => t.cluster == b.cluster)).length then none
  else match s.copies.find? (fun c => c.blk == b.id && !c.started && keyOf c == key) with
  | some c => some { s with copies := s.copies.map fun x => if x.id == c.id then { x with started := true } else x }
  | none => some { s with tokens := s.tokens ++ [{ cluster := b.cluster, blk := b.id, key := key }] }

/-- Member block of a gang. -/
def memberBlock (s : State) (b : Block) (m : Nat) : Option Nat := (b.gang.bind (gang? s)).bind fun g => g.members[m]?

/-- A message of a lane through the egress is on its way to a queue of its own block: a later one must not come before it (R256). -/
def egressAhead (s : State) (b : Block) (f : Fibre) (core : Nat) : Bool :=
  s.msgs.any fun x => x.src == f.key && (match x.kind with | .send y c _ => y == b.id && c == core % 4 | _ => false)

/-- A lane's message enters the queue of a block part of its own block, in the lane's issue order (R252, R256). -/
def enqueueOwn (s : State) (b : Block) (f : Fibre) (q : Part) (m : QMsg) : Option State :=
  if egressAhead s b f q.core then none else enqueue s q m

/-- Consumer `m` of R252 takes a lane's message, when it can. -/
def accept (s : State) (b : Block) (p : SendP) (f : Fibre) (m : Nat) : Option State :=
  match m with
  | 3 => (partOf s f).bind fun q => enqueueOwn s b f q (messageOf b p false f)
  | 4 =>
    match block? s b.id with
    | some c =>
      if c.opPort.length < queueSize then
        some (setBlock s b.id fun c => { c with opPort := c.opPort ++ [(messageOf b p false f).words.map (·.val)] })
      else none
    | none => none
  | 5 => putToken s b (((messageOf b p false f).words.getD 0 { val := 0, tag := tRaw }).val.toNat % 2 ^ 16)
  | 6 =>
    let w := (uni s f p.s.toNat).toNat
    let msg : Msg :=
      { id := s.seq, src := f.key, blk := b.id, opId := s.seq
        kind := .send ((memberBlock s b (w % 64)).getD noBlock) (w / 64 % 4) (messageOf b p true f) }
    some (setFibre { s.fresh with msgs := s.msgs ++ [msg] } f.key fun g => g.addOp s.seq 3)
  | 7 =>
    let data := (((messageOf b p false f).words.zipIdx).map fun x => x.1.val.toNat * 2 ^ (32 * x.2)).sum
    some (traceWrite s b f 1 0 data)
  | j => (partAt s b.id (siblingCore f j)).bind fun q => enqueueOwn s b f q (messageOf b p false f)

/-- Messages of lanes to consumers, in order, until one is held up; a consumer that has taken a lane's message is noted (R253). -/
def sendAll (b : Block) (p : SendP) (s : State) : List (FKey × Nat) → State × Bool
  | [] => (s, true)
  | (k, m) :: r =>
    match fibre? s k with
    | none => sendAll b p s r
    | some f =>
      if f.sent.testBit m then sendAll b p s r
      else match accept s b p f m with
      | none => (s, false)
      | some t => sendAll b p (setFibre t k fun g => { g with sent := g.sent + 2 ^ m }) r

/-- Consumers of a mask, ascending. -/
def consumers (p : SendP) : List Nat := (List.range 8).filter (fun m => p.mask.getLsbD m)

/-- SEND names a consumer that its block does not have (R253). -/
def sendIllegal (s : State) (p : SendP) : Bool :=
  match s.cur.bind fun c => (lanesOf s c).head?, curBlock s with
  | some f, some b =>
    (List.range 3).any (fun j => p.mask.getLsbD j && (partAt s b.id (siblingCore f j)).isNone)
      || (p.mask.getLsbD 4 && b.tileN == 0) || (p.mask.getLsbD 6 && b.gang.isNone)
  | _, _ => false

/-- Scope of the release that a SEND is: none without a queue, cluster, or package through the egress (R256, R261). -/
def sendScope (p : SendP) : Option Nat :=
  if p.mask.getLsbD 6 then some 4 else if p.mask &&& 0x2F != 0 then some 2 else none

/-- R253, R256. -/
def execSend (h : Head) (p : SendP) (s : State) : Result :=
  let rs := (List.range (nwWords p.nw.toNat)).map (· + p.a.toNat)
  issue { useOf h ((Instr.send h p).legal && !sendIllegal s p) with vr := rs, home := true }
    (fun s b ls =>
      let traps := trapsOf (fun f => checkRegs f rs) ls
      let ok := ls.filter (fun f => (checkRegs f rs).isNone)
      if p.mask.getLsbD 6 && ok.any (fun f => !f.sent.testBit 6 && 63 ≤ f.counter 3) then actWait s
      else
        let r := match sendScope p with | some sc => released s ok sc | none => (s, true)
        if !r.2 then actWait r.1
        else
          let q := sendAll b p r.1 (ok.flatMap fun f => (consumers p).map fun m => (f.key, m))
          if q.2 then acted q.1 traps else actWait q.1) s

/-- One lane of RECV (R254). -/
def recvLane (p : RecvP) (s : State) (f : Fibre) : State :=
  let n := nwWords p.nw.toNat
  let hdr := if p.hv then some p.h.toNat else none
  match partOf s f with
  | none => s
  | some q =>
    match q.inq with
    | m :: r =>
      let s := setPart s q.core q.bp fun x => { x with inq := r }
      setFibre s f.key fun g => g.receive m n p.d.toNat hdr p.pd.toNat
    | [] =>
      if p.wait then
        setFibre s f.key fun g => { g with run := .waiting (.recv n p.d.toNat hdr p.pd.toNat), waitSince := s.now }
      else setFibre s f.key fun g => g.writeNow (.pred p.pd.toNat false)

/-- R254. -/
def execRecv (h : Head) (p : RecvP) (s : State) : Result :=
  let rs := (List.range (nwWords p.nw.toNat)).map (· + p.d.toNat)
  issue { useOf h (Instr.recv h p).legal with
      vw := rs ++ (if p.hv then [p.h.toNat] else []), pw := [p.pd.toNat], home := true }
    (fun s _ ls => acted (ls.foldl (recvLane p) s) []) s

/-- The queue that QPOLL looks at (R255). -/
def polled (s : State) (p : QpollP) (f : Fibre) : Option Part :=
  if p.sel == 0 then partOf s f else partAt s f.blk (siblingCore f (p.sel.toNat - 1))

/-- R255. A lane that polls a core without a part of its block traps. -/
def execQpoll (h : Head) (p : QpollP) (s : State) : Result :=
  issue { useOf h (Instr.qpoll h p).legal with vw := [p.d.toNat], home := true }
    (fun s _ ls => regAct none (fun f => if (polled s p f).isNone then some cIllegalOp else none)
      (fun f =>
        let n := ((polled s p f).map (fun q => q.inq.length)).getD 0
        [.reg p.d.toNat { val := BitVec.ofNat 32 (n + 256 * (queueSize - n)), tag := tI32 }]) s ls) s

/-! ### Completions on the fabric -/

/-- A fabric operation has ended; its counter sees it in issue order (R68). -/
def markOp (s : State) (k : FKey) (id : Nat) (err : Bool) : State :=
  setFibre s k fun f => { f with ops := f.ops.map fun o => if o.id == id then { o with done := true, err := err } else o }

/-- R68, R69. -/
def execFabCompletion (core port ctx : Nat) (s : State) : Result :=
  .next (setFibre s (keyOf core port ctx) fun f =>
    let q := popDone 3 f.ops
    { f with ops := q.1, sticky := if q.2 then f.sticky ||| (1#5 <<< 3) else f.sticky })

def dropMsg (s : State) (id : Nat) : State := { s with msgs := s.msgs.filter (fun m => m.id != id) }

/-- Messages of one lane to one queue arrive in issue order (R256). -/
def overtakes (s : State) (m : Msg) : Bool :=
  match m.kind with
  | .send blk core _ =>
    s.msgs.any fun x => x.src == m.src && decide (x.id < m.id) && (match x.kind with | .send y c _ => y == blk && c == core | _ => false)
  | _ => false

/-- R252, R253: a message through the egress enters its queue, or is discarded with an error. -/
def execQueueEntryArrival (op : Nat) (s : State) : Result :=
  match s.msgs.find? (fun m => m.id == op) with
  | none => .next s
  | some m =>
    match m.kind with
    | .send blk core q =>
      if overtakes s m then .next s
      else match block? s blk with
      | none => .next (markOp (dropMsg s op) m.src m.opId true)
      | some b =>
        match partAt s blk (b.cluster * 4 + core) with
        | none => .next (markOp (dropMsg s op) m.src m.opId true)
        | some x =>
          if b.killed then .next (markOp (dropMsg s op) m.src m.opId true)
          else match enqueue s x q with
          | some t => .next (markOp (dropMsg t op) m.src m.opId false)
          | none => .next s
    | _ => .next s

/-! ### Remote adds -/

/-- Tag of RADD's value (R267). -/
def raddTag (fmt : Nat) : Option (BitVec 4) := match fmt with | 0 => tagIs tF32 | 1 => tagIs tBf16x2 | _ => tagIs tI32

/-- R266, R267. A lane of a block outside a gang that names a member traps. A remote add may fill a granule, so it follows the lane's earlier
accesses (R163, R170). -/
def execRadd (h : Head) (p : RaddP) (s : State) : Result :=
  let a := p.a.toNat
  issue
    { useOf h (Instr.radd h p).legal with
      feat := some 3, vr := offRegs a p.o64 ++ [p.b.toNat] ++ (if p.gl || p.gu then [] else [p.g.toNat]), home := true }
    (fun s b ls =>
      let tags := fun (f : Fibre) => minCodes
        [checkTag (raddTag p.fmt.toNat) (f.reg p.b.toNat), checkRegs f (offRegs a p.o64),
         if p.gl || p.gu then none else checkTag none (f.reg p.g.toNat)]
      let full := fun (l : List Fibre) => l.any (fun f => 63 ≤ f.counter 3)
      if p.gl then
        let c := fun (f : Fibre) => capReg s f p.c.toNat
        let x := fun (f : Fibre) => offVal f a p.o64 + 4 * p.off.toInt
        let chk := fun (f : Fibre) => firstTrap [(tags f, 0), globalChk s b f p.c.toNat (x f) 4 (rWR + rAT)]
        let ok := passed chk ls
        if full ok || hashWaits s b ok || ok.any (fun f => !fifoRoom s f.loc f.key.port ok.length) then actWait s
        else acted (ok.foldl (fun s f =>
          let op := s.seq
          let s := setFibre s.fresh f.key fun g => g.addOp op 3
          let v := (f.val p.b.toNat).toNat
          let off := capOff (c f) (x f)
          let s := pushStore s f b (.radd p.fmt.toNat b.lsst.esend) false (capObj (c f)) off 4 v 0 false f.fhash (some op)
          let s := feedLane s b f (capObj (c f)) off 2 v
          if gated s b (capObj (c f)) then setFibre s f.key fun g => { g with run := .waiting .gate } else s) s) (trapped chk ls)
      else
        let member := fun (f : Fibre) => (if p.gu then uni s f p.g.toNat else f.val p.g.toNat).toNat
        let o := fun (f : Fibre) => ((f.val a).toNat : Int) + 4 * p.off.toInt
        let chk := fun (f : Fibre) => firstTrap
          [(tags f, 0), (if b.gang.isNone then some cIllegalOp else none, 0),
           (if (memberBlock s b (member f)).isNone then some cSpadBounds else none, infoOf (o f)),
           spadChk b (o f) 4]
        let ok := passed chk ls
        if full ok || !ok.all (drained s) then actWait s
        else acted (ok.foldl (fun s f =>
          let msg : Msg :=
            { id := s.seq, src := f.key, blk := b.id, opId := s.seq
              kind := .radd ((memberBlock s b (member f)).getD noBlock) (o f).toNat (f.val p.b.toNat) p.fmt.toNat b.lsst.esend }
          setFibre { s.fresh with msgs := s.msgs ++ [msg] } f.key fun g => g.addOp s.seq 3) s) (trapped chk ls)) s

/-- One rescaled element of an arrival (R150): its code, whether it overflowed, whether it is finite and inexact. -/
def rescale (f : FloatFmt) (v : Nat) (k : Int) : Nat × Bool × Bool :=
  let x := scaleV k (decF false f v)
  let r := roundF .rne false false f x
  let y := decF false f r
  let fin := fun (v : FVal) => match v with | .fin .. => true | _ => false
  let inf := fun (v : FVal) => match v with | .inf _ => true | _ => false
  (r, fin x && inf y, fin x && fin y && !sameV x y)
where
  /-- Two finite values are equal. -/
  sameV (a b : FVal) : Bool :=
    match a, b with
    | .fin s m e, .fin t n d => (m == 0 && n == 0) || (s == t && m * 2 ^ (e - min e d).toNat == n * 2 ^ (d - min e d).toNat)
    | _, _ => false

/-- Format of a floating remote add. -/
def raddFmt (fmt : Nat) : FloatFmt := if fmt == 0 then .f32 else .bf16

/-- A counter of 16 bits that saturates. -/
def bump16 (c : BitVec 16) (n : Nat) : BitVec 16 := BitVec.ofNat 16 (min 65535 (c.toNat + n))

/-- An arrival's new word and loss-scale state (R147, R150). -/
def raddApply (l : Lsst) (old : Nat) (v : Word) (fmt : Nat) (es : BitVec 8) : Nat × Lsst :=
  if fmt == 2 then ((old + v.toNat) % 2 ^ 32, l)
  else
    let f := raddFmt fmt
    let k := l.eacc.toInt - es.toInt
    let halves := if fmt == 0 then [(old, v.toNat)] else [(old % 65536, v.toNat % 65536), (old / 65536, v.toNat / 65536)]
    let rs := halves.map fun x => (x.1, rescale f x.2 k)
    let out := rs.map fun x => roundF .rne false false f (addV .rne (decF false f x.1) (decF false f x.2.1))
    let nf := out.any (fun x => nonFinite (decF false f x))
    (out.getD 0 0 + 65536 * out.getD 1 0,
     { l with
       nf := l.nf || nf
       rovf := bump16 l.rovf (rs.filter (fun x => x.2.2.1)).length
       runf := bump16 l.runf (rs.filter (fun x => x.2.2.2)).length })

/-- R147, R148, R150. -/
def execRaddArrival (op : Nat) (s : State) : Result :=
  match s.msgs.find? (fun m => m.id == op) with
  | none => .next s
  | some m =>
    match m.kind with
    | .radd blk off v fmt es =>
      match block? s blk with
      | none => .next (markOp (dropMsg s op) m.src m.opId true)
      | some b =>
        let a := spadCell b off
        if b.killed || s.isLive (granOf a) || s.ue a 4 then .next (markOp (dropMsg s op) m.src m.opId true)
        else
          let r := raddApply b.lsst (s.read a 4) v fmt es
          let s := setBlock (spadWrite (dropMsg s op) a 4 r.1) blk fun b => { b with lsst := r.2 }
          .next (markOp (deliver (fillGran s (granOf a) true)) m.src m.opId false)
    | _ => .next s

/-- R149: an update of ESEND reaches a member. -/
def execEsendUpdate (op : Nat) (s : State) : Result :=
  match s.msgs.find? (fun m => m.id == op) with
  | none => .next s
  | some m =>
    match m.kind with
    | .esend blk v => .next (setBlock (dropMsg s op) blk fun b => { b with lsst := { b.lsst with esend := v } })
    | _ => .next s

end Sys2Proof.Machine
end

