-- ==== Sys2Proof/Machine/Gangs.lean ====
section
/-!
DEFINITION. Gang instructions and rounds: GSYNC, NFVOTE, LSCALE (R149, R152 to R154, R306 to R308).
-/
namespace Sys2Proof.Machine

/-- A killed member of a gang. -/
def memberKilled (g : Gang) (m : Nat) : Bool := g.killed.getD m false

/-- R306; outside a gang the lanes trap. -/
def execGsync (h : Head) (p : GsyncP) (s : State) : Result :=
  issue { useOf h (Instr.gsync h p).legal with feat := some 3, pw := [p.pd.toNat] }
    (fun s b ls =>
      if b.gang.isNone then acted s (trapAll ls cIllegalOp 0 false) else
      match ls.head?, b.gang.bind (gang? s) with
      | some _, some g =>
        if g.syncs.getD b.member false then actWait s
        else
          let r := released s ls 4
          if !r.2 then actWait r.1
          else
            let s := setGang r.1 g.id fun g => { g with syncs := g.syncs.set b.member true }
            acted (holdMates (onLanes s ls fun f => { f with run := .waiting (.sync p.pd.toNat) }) ls) []
      | _, _ => acted s []) s

/-- The kernel of a block is in no domain vote group (R307). -/
def noVoteGroup (s : State) (b : Block) : Bool := ((kernel? s b.kernel).map (fun k => k.voteGrp == 0)).getD true

/-- R307, R152, R153; outside a gang, or a domain vote group, the lanes trap. A round in which some member votes with the domain qualifier is a domain
round of the whole gang (DESIGN CHOICE, log 21: R152 does not say what mixed votes make). -/
def execNfvote (h : Head) (p : VoteP) (s : State) : Result :=
  issue { useOf h (Instr.nfvote h p).legal with feat := some 3, pr := [p.ps.toNat], pw := [p.pd.toNat] }
    (fun s b ls =>
      if b.gang.isNone || (p.dom && noVoteGroup s b) then acted s (trapAll ls cIllegalOp 0 false) else
      match ls.head?, b.gang.bind (gang? s) with
      | some _, some g =>
        if (g.votes.getD b.member none).isSome then actWait s
        else
          let r := released s ls (if p.dom then 5 else 4)
          if !r.2 then actWait r.1
          else
            let flag := ls.any (fun f => f.pred p.ps.toNat != p.psn) || b.lsst.nf
            let s := setGang r.1 g.id fun g => { g with votes := g.votes.set b.member (some flag), voteDom := g.voteDom || p.dom }
            let s := setBlock s b.id fun b => { b with lsst := { b.lsst with nf := false } }
            acted (holdMates (onLanes s ls fun f => { f with run := .waiting (.vote p.pd.toNat) }) ls) []
      | _, _ => acted s []) s

/-- Value of LSCALE (R308). -/
def lscaleVal (s : State) (p : LscaleP) (f : Fibre) : BitVec 8 := if p.iv then p.imm else (uni s f p.s.toNat).setWidth 8

/-- R308, R149. -/
def execLscale (h : Head) (p : LscaleP) (s : State) : Result :=
  issue { useOf h (Instr.lscale h p).legal with feat := some 3, home := !p.iv }
    (fun s b ls => firstLane (fun s f =>
      let v := lscaleVal s p f
      if p.acc then acted (setBlock s b.id fun b => { b with lsst := { b.lsst with eacc := v } }) []
      else
        let s := setBlock s b.id fun b => { b with lsst := { b.lsst with esend := v } }
        let others := (((b.gang.bind (gang? s)).map (·.members)).getD []).filter (· != b.id)
        acted (others.foldl (fun s m =>
          { s.fresh with msgs := s.msgs ++ [{ id := s.seq, src := f.key, blk := b.id, opId := 0, kind := .esend m v }] }) s) []) s ls) s

/-- A round's result reaches a lane (R152, R306). -/
def Fibre.roundOut (f : Fibre) (r : Bool) : Fibre :=
  match f.run with
  | .waiting (.vote pd) => { (f.writeNow (.pred pd r)) with run := .ready }
  | .waiting (.sync pd) => { (f.writeNow (.pred pd r)) with run := .ready }
  | _ => f

/-- No member of a gang lives. -/
def gangDead (g : Gang) : Bool := (List.range g.members.length).all (memberKilled g)

/-- Every living member of a gang has contributed to its vote round, and one lives (R152, R154). -/
def voteFull (g : Gang) : Bool :=
  (List.range g.members.length).all (fun m => memberKilled g m || (g.votes.getD m none).isSome) && !gangDead g

/-- OR of a full round: a killed member counts as 1 (R154). -/
def voteOr (g : Gang) : Bool :=
  (List.range g.members.length).any fun m => memberKilled g m || (g.votes.getD m none) == some true

/-- The member number that stands for a saved block in its gang (R357, R371). -/
def savedNo (serial : Nat) : Nat := noBlock + serial + 1

/-- Every fibre of a gang's members changed, also of saved ones (R357); lanes that waited with their batches are ready when those are. -/
def gangFibres (s : State) (g : Gang) (h : Fibre → Fibre) : State :=
  let free := fun (l : List Fibre) => l.map fun f => if f.run == .waiting .mates && !matesWait l f then { f with run := .ready } else f
  freeMates { s with
    fibres := s.fibres.map fun f => if g.members.contains f.blk then h f else f
    images := s.images.map fun i => if g.members.contains (savedNo i.serial) then { i with fibres := free (i.fibres.map h) } else i }

/-- VKILL is set in the living members of a gang, also in saved ones (R154). -/
def gangVkill (s : State) (g : Gang) : State :=
  let set := fun (b : Block) => if b.killed then b else { b with lsst := { b.lsst with vkill := true } }
  { s with
    blocks := s.blocks.map fun b => if g.members.contains b.id then set b else b
    images := s.images.map fun i => if g.members.contains (savedNo i.serial) then { i with block := set i.block } else i }

/-- A vote round of a gang ends with a result; VKILL where a member of the round's gangs was killed (R154). What a retired gang left to a domain
round is spent with that round. -/
def endVote (r vkill : Bool) (s : State) (g : Gang) : State :=
  let s := setGang s g.id fun g =>
    { g with votes := g.votes.map (fun _ => none), voteDom := false, voteFwd := none, voteKill := g.voteKill && !g.voteDom }
  let s := if vkill then gangVkill s g else s
  gangFibres s g fun f => match f.run with | .waiting (.vote _) => f.roundOut r | _ => f

/-- Gangs of one domain vote group: those of kernels of the partition with the group's number (R152; log 15). -/
def voteGroup (s : State) (g : Gang) : List Gang :=
  match kernel? s g.kernel with
  | none => [g]
  | some k => s.gangs.filter fun x => (kernel? s x.kernel).any (fun y => y.part == k.part && y.voteGrp == k.voteGrp)

/-- A gang is about to retire. Where it was killed while a domain round of its group is open, the round's other gangs keep its 1 and its VKILL
(R154). -/
def leaveRound (s : State) (g : Gang) : State :=
  let gs := voteGroup s g
  if g.killed.any id && gs.any (fun x => x.voteDom || x.voteFwd.isSome) then
    { s with gangs := s.gangs.map fun x => if x.id != g.id && gs.any (fun y => y.id == x.id) then { x with voteKill := true } else x }
  else s

/-- R152, R154: a vote round completes; with the domain qualifier the gang's OR is forwarded, and the group's round completes with
its last gang that has a living member. A killed member counts as 1 whatever its gang had forwarded. -/
def execVoteRoundComplete (gang : Nat) (s : State) : Result :=
  match gang? s gang with
  | none => .next s
  | some g =>
    if !voteFull g then .next s
    else if !g.voteDom then .next (endVote (voteOr g) (g.killed.any id) s g)
    else
      let s := setGang s gang fun g => { g with voteFwd := some (voteOr g) }
      let gs := voteGroup s g
      if gs.all (fun x => x.voteFwd.isSome || gangDead x) then
        let killed := gs.any (fun x => x.killed.any id || x.voteKill)
        .next (gs.foldl (endVote (gs.any (fun x => x.voteFwd == some true) || killed) killed) s)
      else .next s

/-- R306. -/
def execSyncRoundComplete (gang : Nat) (s : State) : Result :=
  match gang? s gang with
  | none => .next s
  | some g =>
    let ms := List.range g.members.length
    if ms.all (fun m => memberKilled g m || g.syncs.getD m false) && ms.any (fun m => g.syncs.getD m false && !memberKilled g m) then
      let r := g.killed.any id
      let s := setGang s gang fun g => { g with syncs := g.syncs.map (fun _ => false) }
      .next (gangFibres s g fun f => match f.run with | .waiting (.sync _) => f.roundOut r | _ => f)
    else .next s

end Sys2Proof.Machine
end

