-- ==== Sys2Proof/Machine/Special.lean ====
section
/-!
DEFINITION. User special registers (R225 to R227).
-/
namespace Sys2Proof.Machine

/-- Replay counters as REPLAYS lays them out (R146). -/
def Replay.bits (r : Replay) : BitVec 64 := r.tiles ++ r.replays ++ r.exhausted

/-- Loss-scale state as LSST lays it out (R151). -/
def Lsst.bits (l : Lsst) : BitVec 64 :=
  l.esend ++ l.eacc ++ BitVec.ofBool l.nf ++ BitVec.ofBool l.vkill ++ 0#14 ++ l.runf ++ l.rovf

/-- PLACE (R227): the home core, port and lane. -/
def placeBits (f : Fibre) : BitVec 32 :=
  BitVec.ofNat 11 f.key.core ++ BitVec.ofNat 6 f.bp ++ BitVec.ofNat 2 (f.key.core % 4) ++ BitVec.ofNat 2 f.key.port ++ BitVec.ofNat 5 f.lane ++ 0#6

/-- ASYNC (R227). -/
def asyncBits (f : Fibre) : BitVec 64 :=
  0#27 ++ f.sticky ++ 0#2 ++ BitVec.ofNat 6 (f.counter 4) ++ BitVec.ofNat 6 (f.counter 3) ++ BitVec.ofNat 6 (f.counter 2)
    ++ BitVec.ofNat 6 (f.counter 1) ++ BitVec.ofNat 6 (f.counter 0)

/-- Bank in its refresh window in a die's weight store, and the cycle at which that window began: 160 cycles to a bank, in ascending order, from
where the schedule is known to have been (R67, log 7). -/
def wrefOf (s : State) (die : Nat) : Nat × Nat :=
  let w := match s.wrefBank.find? (·.1 == die) with | some x => x.2 | none => (0, 0)
  let k := (s.now - w.2) / 160
  ((w.1 + k) % 256, w.2 + 160 * k)

/-- WREF (R67): the bank in its window and the cycles left. -/
def wrefBits (s : State) (die : Nat) : BitVec 32 :=
  let w := wrefOf s die
  BitVec.ofNat 8 w.1 ++ BitVec.ofNat 12 (160 - (s.now - w.2)) ++ 160#12

/-- Gang size and member number (R227). -/
def gangBits (s : State) (b : Block) : BitVec 32 :=
  match b.gang.bind (gang? s) with
  | some g => 0#17 ++ BitVec.ofNat 7 g.members.length ++ 0#2 ++ BitVec.ofNat 6 b.member
  | none => 0

/-- A fibre's own view of a special register (R226). -/
def srValue (s : State) (b : Block) (f : Fibre) (n : Nat) : BitVec 64 :=
  let k := kernel? s b.kernel
  match n with
  | 0x00 => BitVec.ofNat 64 f.fid
  | 0x01 => (placeBits f).setWidth 64
  | 0x02 => BitVec.ofNat 64 b.x
  | 0x03 => BitVec.ofNat 64 b.y
  | 0x04 => BitVec.ofNat 64 b.z
  | 0x05 => (gangBits s b).setWidth 64
  | 0x06 => BitVec.ofNat 64 ((k.map (·.fibres)).getD 0)
  | 0x07 => BitVec.ofNat 64 ((k.map (·.win)).getD 0)
  | 0x08 => BitVec.ofNat 64 s.now + Config.cycleOffset f.key.core
  | 0x09 => asyncBits f
  | 0x0A => (BitVec.ofBool (((partOf s f).map (·.seenCheck s.now)).getD false)).setWidth 64
  | 0x0B => BitVec.ofNat 64 (engineOf s b.cluster).step
  | 0x0C => (k.map (·.energy)).getD 0
  | 0x0D => (wrefBits s (b.cluster / 48)).setWidth 64
  | 0x0E => b.replay.bits
  | 0x0F => b.lsst.bits
  | 0x10 => f.migst.setWidth 64
  | 0x11 => f.redrej.setWidth 64
  | _ => match partOf s f with | some q => q.dtag.setWidth 64 | none => 0

/-- A kernel's energy counter has gone up by an amount that the spec does not state, to 2^64 - 1 at most (R15, R380, log 13). -/
def chargeEnergy (s : State) (kernel : Nat) : State :=
  setKernel { s with freeCtr := s.freeCtr + 1 } kernel fun k =>
    { k with energy := BitVec.ofNat 64 (min (2 ^ 64 - 1) (k.energy.toNat + (Config.freeValue 64 s.freeCtr).toNat)) }

/-- R225, R226. What a kernel has consumed is charged to its counter when it is read (R380, log 13). -/
def execGetsr (h : Head) (p : SrP) (s : State) : Result :=
  let n := p.sr.toNat
  let v := p.v.toNat
  let wide := srWide n
  issue { useOf h (Instr.getsr h p).legal with vw := if p.us then [] else if wide then [v, v + 1] else [v], home := true }
    (fun s b ls =>
      let s' := if n == 0x0C then chargeEnergy s b.kernel else s
      if p.us then
        firstLane (fun s' f =>
          let x := srValue s' b f n
          acted (setUnis s' f p.s.toNat (if wide then [loWord x, hiWord x] else [loWord x])) []) s' ls
      else
        regAct none (fun _ => none)
          (fun f =>
            let x := srValue s' b f n
            if wide then [.reg v { val := loWord x, tag := tI64lo }, .reg (v + 1) { val := hiWord x, tag := tI64hi }]
            else [.reg v { val := loWord x, tag := tI32 }]) s' ls) s

/-- SETSR LSST acts on the W1C fields (R151). -/
def lsstClear (l : Lsst) (x : BitVec 64) : Lsst :=
  { l with
    nf := l.nf && !x.getLsbD 47, vkill := l.vkill && !x.getLsbD 46
    runf := if x.extractLsb' 16 16 == 0 then l.runf else 0
    rovf := if x.extractLsb' 0 16 == 0 then l.rovf else 0 }

/-- R225, R227, R151, R201. -/
def execSetsr (h : Head) (p : SrP) (s : State) : Result :=
  let n := p.sr.toNat
  let v := p.v.toNat
  let rs := if p.us then [] else if srWide n then [v, v + 1] else [v]
  issue { useOf h (Instr.setsr h p).legal with vr := rs, home := true }
    (fun s b ls =>
      let traps := trapsOf (fun f => checkRegs f rs) ls
      let ok := ls.filter (fun f => (checkRegs f rs).isNone)
      let x := fun (f : Fibre) => if p.us then uniPair s f p.s.toNat else pairOf (f.val v) (f.val (v + 1))
      let w := fun (f : Fibre) => if p.us then uni s f p.s.toNat else f.val v
      let s' :=
        if n == 0x09 then onLanes s ok fun f => { f with sticky := f.sticky &&& ~~~((x f).extractLsb' 32 5) }
        else match ls.head? with
          | none => s
          | some f =>
            if !(checkRegs f rs).isNone then s
            else if n == 0x0A then setPart s f.key.core f.bp fun q => q.putCheck s.now f.key.port ((w f).getLsbD 0)
            else if n == 0x0F then setBlock s b.id fun c => { c with lsst := lsstClear c.lsst (x f) }
            else s
      acted s' traps) s

end Sys2Proof.Machine
end

