-- ==== Sys2Proof/Machine/Sweep.lean ====
section
/-!
DEFINITION. The lathe's table and sweep: the cut catalogue (R92, R93), the sweep of a bank (R94 to R96), the ranges of capabilities
(R90, R91), the region table of a stack (R374) and the instant at which CUTREG enters a cut (R91, R97, R310).
-/
namespace Sys2Proof.Machine

/-! ### The catalogue -/

/-- Element bytes of a cut format: 0 FP32, 1 FP16, 2 BF16, 3 E4M3, 4 INT8, 5 INT32 (R92). -/
def cutBytes (fmt : Nat) : Nat := match fmt with | 0 | 5 => 4 | 1 | 2 => 2 | _ => 1

/-- Float format of a cut format, when it is one. -/
def cutFloat (fmt : Nat) : Option FloatFmt := match fmt with | 0 => some .f32 | 1 => some .f16 | 2 => some .bf16 | 3 => some .e4m3 | _ => none

/-- `x` is below `y`, −0 below +0 (R92, R214). -/
def belowV (x y : FVal) : Bool := ltV x y || (eqV x y && isNeg x && !isNeg y)

/-- The cut's constants are invalid (R92). CLAMP's A ≤ B is read with −0 below +0, as its effect is, so A = +0 with B = −0 is BAD_CUT (DESIGN
CHOICE, log 21: R92 does not say that the order applies to the condition). -/
def cutBad (func fmt : Nat) (ca cb : Word) : Bool :=
  if 8 ≤ func || 6 ≤ fmt then true
  else match cutFloat fmt with
  | some f =>
    let a := decF false .f32 ca.toNat
    let b := decF false .f32 cb.toNat
    match func with
    | 3 => isNaNV a || isNaNV b || belowV b a
    | 5 => nonFinite a || (isNeg a && !isZeroV a)
    | 7 => decide (ca.toInt < 0) || decide ((fmtMan f : Int) ≤ ca.toInt)
    | _ => false
  | none =>
    match func with
    | 3 => decide (cb.toInt < ca.toInt)
    | 5 => decide (ca.toInt < 0)
    | 7 => decide (ca.toInt < 0) || decide ((8 * cutBytes fmt : Int) ≤ ca.toInt)
    | _ => false

/-- A finite value rounded to `a` trailing mantissa bits of a format (R92 RNDM). -/
def roundMan (f : FloatFmt) (a : Nat) (v : FVal) : FVal :=
  match v with
  | .fin s m e =>
    if m == 0 then v
    else
      let q := max (e + (Nat.log2 m : Int)) (2 - 2 ^ (fmtExp f - 1)) - a
      .fin s (quantize .rne s m e q) q
  | v => v

/-- sign(x)·max(|x| − A, 0) of a value that is no NaN (R92 DECAY; log 19). -/
def decayV (x a : FVal) : FVal :=
  match x with
  | .fin s m e =>
    match addV .rne (.fin false m e) (negV a) with
    | .fin false n d => .fin s n d
    | _ => .fin s 0 0
  | v => v

/-- Exact result of a floating cut on a value (R92, R93). -/
def cutV (f : FloatFmt) (func : Nat) (ca cb : Word) (x : FVal) : FVal :=
  let a := decF false .f32 ca.toNat
  let b := decF false .f32 cb.toNat
  match func with
  | 0 => mulV a x
  | 1 => addV .rne x a
  | 2 => addV .rne (mulV a x) b
  | f' =>
    if isNaNV x then .nan
    else match f' with
    | 3 => (let y := if belowV x a then a else x; if belowV b y then b else y)
    | 4 => if ltV (.fin false 0 0) x then x else .fin false 0 0
    | 5 => decayV x a
    | _ => roundMan f ca.toNat x

/-- Exact result of an integer cut (R92). RNDM of integer elements rounds ties to even (DESIGN CHOICE, log 21: R93 names RNE for floating elements
alone). -/
def cutI (func : Nat) (a b x : Int) : Int :=
  match func with
  | 0 => a * x
  | 1 => x + a
  | 2 => a * x + b
  | 3 => min (max x a) b
  | 4 => if 0 < x then x else 0
  | 5 => x.sign * max ((x.natAbs : Int) - a) 0
  | _ =>
    let k := a.toNat
    let n := (quantize .rne (x < 0) x.natAbs 0 k : Int) * 2 ^ k
    if x < 0 then -n else n

/-- One element code after a cut (R92, R93). -/
def cutElem (func fmt : Nat) (sat : Bool) (ca cb : Word) (x : Nat) : Nat :=
  let w := 8 * cutBytes fmt
  if func == 6 then ((x &&& ca.toNat) ^^^ cb.toNat) % 2 ^ w
  else match cutFloat fmt with
  | some f => roundF .rne sat false f (cutV f func ca cb (decF false f x))
  | none =>
    let r := cutI func ca.toInt cb.toInt (BitVec.ofNat w x).toInt
    let r := if sat then min (max r (-(2 ^ (w - 1)))) (2 ^ (w - 1) - 1) else r
    (BitVec.ofInt w r).toNat

/-- A row's bytes after a cut. -/
def cutRow (func fmt : Nat) (sat : Bool) (ca cb : Word) (v : Nat) : Nat :=
  let w := 8 * cutBytes fmt
  ((List.range (8192 / w)).map fun i => cutElem func fmt sat ca cb (v / 2 ^ (w * i) % 2 ^ w) * 2 ^ (w * i)).sum

/-! ### The sweep of a bank -/

/-- Refresh window of a bank in milliseconds (R95). -/
def winMs (l : Lathe) (bank : Nat) : Nat := if l.hot || l.deferred.contains bank then 16 else 32

/-- t_row in 64ths of a cycle (R94). -/
def tRow (l : Lathe) (bank : Nat) : Nat := winMs l bank * 4000000 * 64 / (65536 * boostOf l bank)

def mapHas (l : List (Nat × Nat)) (k : Nat) : Bool := l.any (·.1 == k)

/-- Sweep position and time of the next restore of a bank: a bank without regions has kept its turns (R94; log 7). -/
def sweepNow (s : State) (l : Lathe) (bank : Nat) : Nat × Nat :=
  let p := mapGet l.sweep bank 0
  let d := mapGet l.turnAt bank (tRow l bank)
  let t := 64 * s.now
  if l.regions.any (fun r => r.bank == bank) || t < d then (p, d)
  else
    let k := (t - d) / tRow l bank + 1
    ((p + k) % Config.rowsPerBank, d + k * tRow l bank)

/-- The bank's record brought to the present. -/
def settleBank (s : State) (stack bank : Nat) : State :=
  setLathe s stack fun l =>
    let x := sweepNow s l bank
    { l with sweep := mapPut bank x.1 l.sweep, turnAt := mapPut bank x.2 l.turnAt }

/-- After a change of W or boost the next turn of a bank is no later than the new t_row from now (R95, R96, R100). -/
def hasten (s : State) (stack bank : Nat) : State :=
  setLathe s stack fun l =>
    let d := min (mapGet l.turnAt bank (tRow l bank)) (64 * s.now + tRow l bank)
    { l with turnAt := mapPut bank d l.turnAt }

/-! ### Regions of capabilities -/

/-- What a capability's range is: rows of a bank, a status of R91, its unresolved pages with their causes, pages that wait for a walk. -/
inductive RangeRes where
  | rows (stack bank row n : Nat)
  | status (code : Nat)
  | unres (pages : List (Nat × Nat))
  | miss (pages : List Nat)
deriving DecidableEq, Repr

/-- What keeps pages from being located for a requester that has been answered `xl`: those that wait for a walk, else every unresolved one (R58, R91,
R341, R344). -/
def rangeStop (s : State) (part id : Nat) (xl : List Xlate) (pages : List Nat) : Option RangeRes :=
  let miss := pages.filter fun q => translate s part id q xl == .miss
  let bad := pages.filterMap fun q => match translate s part id q xl with | .unres e => some (e, q) | _ => none
  if !miss.isEmpty then some (.miss miss) else if !bad.isEmpty then some (.unres bad) else none

/-- Pages of a range of a capability. -/
def rangePages (c : CapWord) : List Nat :=
  (List.range ((capBase c + capLimit c) / 4096 - capBase c / 4096 + 1)).map fun i => (capBase c / 4096 + i) * 4096

/-- Conditions 1 to 3 of R91 on a range, after each of its pages has been located at the memory port, for a requester that has been answered `xl`
(R90, R341; log 19). -/
def rangeOf (s : State) (part : Nat) (c : CapWord) (xl : List Xlate) : RangeRes :=
  match objName s part (capObj c) with
  | .local id =>
    let lo := capBase c
    let hi := lo + capLimit c
    let place := fun (q : Nat) => match translate s part id q xl with | .place a => a | _ => 0
    match rangeStop s part id xl (rangePages c), pageAnswer s part id lo xl with
    | some r, _ => r
    | none, some x =>
      let a := place lo
      if Config.stackCount * Config.unitStride ≤ a then .status 1
      else if !x.rx || a % 1024 != 0 || (hi + 1) % 1024 != 0 || decide (x.top ≤ hi) then .status 2
      else
        let n := (hi + 1 - lo) / 1024
        let apart := (rangePages c).any fun q => place q + lo != a + q
        match rowAt a, rowAt (a + (hi - lo)) with
        | some x, some y =>
          if x.stack != y.stack || x.bank != y.bank || apart || 4096 < n then .status 3 else .rows x.stack x.bank x.row n
        | _, _ => .status 3
    | none, none => .status 1
  | _ => .status 1

/-- The cut entry of a range (R270). -/
def cutEntry (s : State) (part stack bank row n : Nat) : Option Region :=
  (latheOf s stack).regions.find? fun r => r.part == part && !r.isProg && r.bank == bank && r.row == row && r.n == n

/-- Rights of a lathe instruction on its capability (R54, R66, R317). -/
def latheRights (s : State) (part : Nat) (c : CapWord) (need : Nat) : Option Nat :=
  let bad := match objName s part (capObj c) with | .weight _ | .window => true | _ => false
  if c == 0 || capRights c &&& need != need || bad then some cCapRights else none

/-- The acting lane's status register (R270). -/
def putStatus (s : State) (f : Fibre) (d code detail : Nat) : State :=
  setFibre s f.key fun g => g.writeNow (.reg d { val := BitVec.ofNat 32 (code + 256 * detail), tag := tI32 })

/-- The acting lane parks on pages of its range, an entry for each, given with their causes (R344). -/
def parkRange (s : State) (b : Block) (f : Fibre) (obj : Nat) (pages : List (Nat × Nat)) : Acted :=
  acted (pages.foldl (fun t x => holdEntry t b.part obj x.2 x.1 0 false f.loc f.key.port 0 (1#32 <<< f.lane) f.pc f.fid f.blk (.fibre f.key)) s)
    [(f.key, .unres ((List.range pages.length).map (· + s.seq)))]

/-- A fibre waits for the walks of pages of an object (R341, R342). -/
def awaitPages (s : State) (b : Block) (f : Fibre) (obj : Nat) (pages : List Nat) : Acted :=
  actWait (pages.foldl (fun t q => joinWalk t (portOfCore f.loc) b.part obj q (.fibre f.key)) s)

/-- Effect on the rows of a capability's range, of a status where there are none; a park where pages are unresolved, a wait for walks or where the
stack is in self-refresh (R91, R341, R377). -/
def onRange (s : State) (b : Block) (f : Fibre) (c : CapWord) (none' : Nat → Acted) (g : State → Nat → Nat → Nat → Nat → Acted) : Acted :=
  match rangeOf s b.part c f.xl with
  | .rows k bank row n =>
    let a := rowCell k bank row
    if asleep s k then actWait (noteWait s a) else g (touch s a) k bank row n
  | .status e => none' e
  | .unres ps => parkRange s b f (capObj c) ps
  | .miss qs => awaitPages s b f (capObj c) qs

/-- A stack serves a partition (R374), the monitor's own too; a fenced one serves nobody any more (R385). -/
def stackServes (s : State) (stack part : Nat) : Bool :=
  !s.fenced.contains (stackUnit stack) && (part == monPart || (mapGet s.serves stack 0).testBit part)

/-- The lowest free region-table entry of a stack among those assigned to a partition (R374; log 7: those that the monitor has not taken
away). -/
def freeEntry (s : State) (stack part : Nat) : Option Nat :=
  let used := (latheOf s stack).regions.map (·.idx)
  (List.range 256).find? fun i => stackServes s stack part && !(sysGet s part (0x32000 + stack)).testBit i && !used.contains i

/-- A program slot of a stack is not assigned to a partition (R374; log 7: it is until the monitor takes it away). -/
def slotDenied (s : State) (stack part slot : Nat) : Bool := !stackServes s stack part || (sysGet s part (0x31000 + stack)).testBit slot

/-- Rows of two ranges of one bank meet. -/
def meets (row n row' n' : Nat) : Bool := decide (row < row' + n') && decide (row' < row + n)

/-- The range meets a region with a cut registered or a program running, or a subarray in which a program runs (R91, R102). -/
def regionBusy (l : Lathe) (bank row n : Nat) : Bool :=
  l.regions.any fun r => r.bank == bank
    && (meets row n r.row r.n && (!r.isProg || r.running)
      || (r.isProg && r.running && decide (subarrayOf row ≤ r.sub) && decide (r.sub ≤ subarrayOf (row + n - 1))))

/-- Region row first in turn order from a sweep position (R103). -/
def startRow (p row n : Nat) : Nat := if row ≤ p && decide (p < row + n) then p - row else 0

/-- An empty region entry. -/
def Region.blank (idx part obj bank row n : Nat) : Region :=
  { idx := idx, part := part, obj := obj, bank := bank, row := row, n := n, func := 0, fmt := 0, sat := false, ca := 0, cb := 0
    stand := false, held := false, passes := 0, state := 0, start := 0, done := 0, dmap := [], ue := false, uerow := 0, aborted := false
    boost := 1, floor := 1, fib := { core := 0, port := 0, ctx := 0 }, blk := 0, opId := 0, isProg := false, slot := 0, px := 0, py := 0, pz := 0
    order := 0
    sub := 0, running := false, step := 0 }

/-- A region enters the table; the watchdog's clock starts with the first work (R375). -/
def addRegion (s : State) (stack : Nat) (r : Region) : State :=
  setLathe s stack fun l => { l with regions := l.regions ++ [r], workAt := if hasWork l then l.workAt else s.now }

def setRegion (s : State) (stack idx : Nat) (g : Region → Region) : State :=
  setLathe s stack fun l => { l with regions := l.regions.map fun r => if r.idx == idx then g r else r }

/-- An entry is freed; waits on its rows end (R272). -/
def delRegion (s : State) (stack idx : Nat) : State :=
  match (latheOf s stack).regions.find? (fun r => r.idx == idx) with
  | none => s
  | some r =>
    let old := latheOf s stack
    latheEnds old (setLathe s stack fun l =>
      { l with regions := l.regions.filter (fun r => r.idx != idx), waits := l.waits.filter (fun w => !r.covers w.1 w.2.1) })

/-! ### A cut is entered -/

/-- The cut words of CUTREG are invalid (R92, R97, R271). -/
def cutWordsBad (w0 ca cb w3 : Word) : Bool :=
  let stand := w0.getLsbD 9
  w0.toNat / 2 ^ 11 != 0 || w3.toNat / 2 ^ 16 != 0 || (!stand && w3 != 0) || (stand && w0.getLsbD 10)
    || cutBad (w0.toNat % 16) (w0.toNat / 16 % 16) ca cb

/-- The outstanding status of a CUTREG on rows of a stack, its cut words in `b` (R310). -/
def cutOut (s : State) (f : Fibre) (obj cell n d words : Nat) : Out :=
  { id := s.seq, kind := .cut, spad := false, addr := cell, w := n, d := d, tags := [tI32], fe := 0, atBank := false, scope := 0, acq := false
    aop := 0, b := words, e := 0, obj := obj, off := 0, hash := f.fhash, pc := f.pc }

/-- The region that a CUTREG enters at entry `i` (R97, R103). -/
def cutRegion (s : State) (part : Nat) (k : FKey) (blk : Nat) (o : Out) (x : RowAt) (i : Nat) : Region :=
  let w := fun (k : Nat) => BitVec.ofNat 32 (o.b / 2 ^ (32 * k))
  let stand := (w 0).getLsbD 9
  { Region.blank i part o.obj x.bank x.row o.w with
    func := (w 0).toNat % 16, fmt := (w 0).toNat / 16 % 16, sat := (w 0).getLsbD 8, ca := w 1, cb := w 2
    stand := stand, held := (w 0).getLsbD 10, passes := (w 3).toNat % 65536, state := if stand then 3 else 1
    floor := if stand then 1 else boostOf (latheOf s x.stack) x.bank
    start := startRow (mapGet (latheOf s x.stack).sweep x.bank 0) x.row o.w, fib := k, blk := blk, opId := o.id }

/-- The instant t_reg of a CUTREG of a lane of a block: its status from 4 on, or the cut's entry and the row counter of its lane; a lane that has
exited (`left`) has neither status nor counter any more (R28, R91, R97, R310, R374). It waits for a sleeping stack (R377). -/
def enterCut (s : State) (k : FKey) (blk : Nat) (left : Bool) (o : Out) : State :=
  match rowAt o.addr, block? s blk with
  | some x, some b =>
    let w := fun (i : Nat) => BitVec.ofNat 32 (o.b / 2 ^ (32 * i))
    let done := fun (s : State) (code : Nat) =>
      if left then { s with leftCuts := s.leftCuts.filter (fun c => c.out.id != o.id) } else setFibre s k fun g => g.finishOut o code
    if asleep s x.stack then noteWait s o.addr
    else
      let s := touch s o.addr
      if regionBusy (latheOf s x.stack) x.bank x.row o.w then done s 4
      else match freeEntry s x.stack b.part with
      | none => done s 5
      | some i =>
        if cutWordsBad (w 0) (w 1) (w 2) (w 3) then done s 6
        else
          let s := settleBank s x.stack x.bank
          let s := addRegion s x.stack (cutRegion s b.part k blk o x i)
          let s := if left || !o.once then s else setFibre s k fun g => g.addOp o.id 2
          done s 0
  | _, _ => s

end Sys2Proof.Machine
end

