-- ==== Sys2Proof/Machine/Perform.lean ====
section
/-!
DEFINITION. Accesses that perform: stores in FIFO order (R231, R173, R65), loads and atomics (R230, R238), transactions into the
scratchpad (R235), global remote adds (R267), flush markers (R167), record and replay of grants (R393, R394, R397), and the walks
and fault entries of the memory ports (R341 to R345).
-/
namespace Sys2Proof.Machine

/-! ### Record and replay of RMWs -/

/-- Index of a nominated object among the RROBJ registers while MODE is not 0 (R388). -/
def rrIndex (s : State) (part obj : Nat) : Option Nat :=
  if rrMode s part == 0 then none
  else (List.range 8).find? fun j =>
    sysGet s part (0x0540 + j) != 0 && canonObj (sysGet s part (0x0540 + j)) == canonObj obj

/-- Block coordinates as COORD (R391). -/
def Block.coord (b : Block) : BitVec 48 := BitVec.ofNat 16 b.z ++ BitVec.ofNat 16 b.y ++ BitVec.ofNat 16 b.x

/-- A chunk as its 32 bytes (R393). -/
def RrChunk.bits (c : RrChunk) : BitVec 256 :=
  c.hash ++ BitVec.ofNat 16 c.run ++ c.coord ++ c.fid ++ BitVec.ofNat 3 c.j ++ 0#112

/-- A cell of the log at which one of the next `n` chunks would be written and that a row or a sleeping stack holds back (R99, R102, R377, R397). -/
def logHeld (s : State) (part n : Nat) : Option Nat :=
  let p := partnOf s part
  if p.rrFull then none
  else (((List.range n).map (p.rrUsed.toNat + ·)).filter (fun i => decide (i < sysGet s part 0x052A))).findSome? fun i =>
    let a := sysGet s part 0x0529 + 32 * i
    if rowWaits s a then some a else none

/-- A closed chunk written to the log and counted by USED, or FULL set; what closes it has waited until nothing holds the log back (R393, R397;
`logHeld`). -/
def writeChunk (s : State) (part : Nat) (c : RrChunk) : State :=
  let p := partnOf s part
  if p.rrFull || decide (sysGet s part 0x052A ≤ p.rrUsed.toNat) then setPartn s part fun p => { p with rrFull := true }
  else
    let a := sysGet s part 0x0529 + 32 * p.rrUsed.toNat
    setPartn ((touch s a).write a 32 c.bits.toNat) part fun p => { p with rrUsed := p.rrUsed + 1 }

/-- Every open chunk of a partition closed and written (R397). -/
def closeChunks (s : State) (part : Nat) : State :=
  let cs := (partnOf s part).rrOpen
  setPartn (cs.foldl (fun s c => writeChunk s part c) s) part fun p => { p with rrOpen := [] }

/-- A cell of the log that holds back the closing of a partition's open chunks, which retirement without `ids` brings about where no other user-level
block is resident (R99, R397). -/
def closeHeld (s : State) (part : Nat) (ids : List Nat) : Option Nat :=
  if s.blocks.any (fun b => b.part == part && b.level == 0 && !ids.contains b.id) then none
  else logHeld s part (partnOf s part).rrOpen.length

/-- A grant to a requester closes a chunk of object `j`: that of another requester, or its own with the last grant it has room for (R393). -/
def grantCloses (s : State) (part j : Nat) (coord : BitVec 48) (fid : BitVec 13) : Bool :=
  (partnOf s part).rrOpen.any fun c => c.j == j && (c.coord != coord || c.fid != fid || decide (65535 ≤ c.run + 1))

/-- A grant recorded: the requester's open chunk grows, or is closed and a new one begins; at 65535 grants a chunk closes at once (R393, R397). -/
def recordGrant (s : State) (part j : Nat) (coord : BitVec 48) (fid : BitVec 13) (hash : BitVec 64) : State :=
  let new : RrChunk := { j := j, coord := coord, fid := fid, run := 1, hash := hash, addr := 0 }
  let put := fun (s : State) (c : RrChunk) =>
    let full := decide (65535 ≤ c.run)
    setPartn (if full then writeChunk s part c else s) part fun p =>
      { p with rrOpen := p.rrOpen.filter (fun x => x.j != j) ++ (if full then [] else [c]) }
  match (partnOf s part).rrOpen.find? (fun c => c.j == j) with
  | none => put s new
  | some c => if c.coord == coord && c.fid == fid then put s { c with run := c.run + 1 } else put (writeChunk s part c) new

/-- The first chunk of object `j` in the log from entry `i` on (R393, R397). -/
def findChunk (s : State) (part j : Nat) : Nat → Nat → Option Nat
  | 0, _ => none
  | n + 1, i => if s.read (sysGet s part 0x0529 + 32 * i) 32 / 2 ^ 112 % 8 == j then some i else findChunk s part j n (i + 1)

/-- The chunk at entry `i` of the log is malformed: an empty run, a reserved bit, or an object that is not nominated (R394). -/
def badChunk (s : State) (part i : Nat) : Bool :=
  let x := s.read (sysGet s part 0x0529 + 32 * i) 32
  x / 2 ^ 176 % 2 ^ 16 == 0 || x % 2 ^ 112 != 0 || sysGet s part (0x0540 + x / 2 ^ 112 % 8) == 0

/-- A port comes to the next chunk of object `j`, from entry `i` on; where that is malformed it stops replaying `j` and sets BADLOG (R394). -/
def meetChunk (s : State) (part j i : Nat) : State :=
  if (findChunk s part j (sysGet s part 0x052A - i) i).any (badChunk s part) then
    setPartn s part fun p => { p with rrDone := p.rrDone ++ [j], rrBad := true }
  else s

/-- What the order gate does with an RMW (R394). -/
inductive Gate where
  | pass
  | hold
  | grant (c : RrChunk)
  | diverge
  | malformed
deriving DecidableEq, Repr

def gateOf (s : State) (part obj : Nat) (coord : BitVec 48) (fid : BitVec 13) (hash : BitVec 64) : Gate :=
  match rrIndex s part obj with
  | none => .pass
  | some j =>
    let p := partnOf s part
    if rrMode s part != 2 || p.rrDone.contains j then .pass
    else
      let cur := p.rrCur.find? (fun c => c.j == j)
      match cur with
      | some c =>
        if 0 < c.run then (if c.coord == coord && c.fid == fid then .grant { c with run := c.run - 1 } else .hold)
        else next j (c.addr + 1)
      | none => next j 0
where
  next (j i : Nat) : Gate :=
    match findChunk s part j (sysGet s part 0x052A - i) i with
    | none => .pass
    | some k =>
      let x := s.read (sysGet s part 0x0529 + 32 * k) 32
      let run := x / 2 ^ 176 % 2 ^ 16
      if badChunk s part k then .malformed
      else if BitVec.ofNat 48 (x / 2 ^ 128) != coord || BitVec.ofNat 13 (x / 2 ^ 115) != fid then .hold
      else if BitVec.ofNat 64 (x / 2 ^ 192) != hash then .diverge
      else .grant { j := j, coord := coord, fid := fid, run := run - 1, hash := hash, addr := k }

/-- A cell of the log at which a search for the next chunk of object `j`, from entry `i` on, is held back (R99, R102, R377). -/
def chunkHeld (s : State) (part j : Nat) : Nat → Nat → Option Nat
  | 0, _ => none
  | n + 1, i =>
    let a := sysGet s part 0x0529 + 32 * i
    if rowWaits s a then some a
    else if s.read a 32 / 2 ^ 112 % 8 == j then none
    else chunkHeld s part j n (i + 1)

/-- Entry of the log from which the order gate looks for the chunk of object `j`, where it has to look (R394). -/
def gateFrom (s : State) (part j : Nat) : Option Nat :=
  let p := partnOf s part
  if rrMode s part != 2 || p.rrDone.contains j then none
  else match p.rrCur.find? (fun c => c.j == j) with
  | some c => if c.run ≤ 1 then some (c.addr + 1) else none
  | none => some 0

/-- The order gate cannot read the log that it needs for an RMW of an object, or cannot write the chunk that the RMW closes (R99, R394, R397). -/
def gateHeld (s : State) (part obj : Nat) (coord : BitVec 48) (fid : BitVec 13) : Option Nat :=
  let n := sysGet s part 0x052A
  (rrIndex s part obj).bind fun j =>
    if rrMode s part == 1 then (if grantCloses s part j coord fid then logHeld s part 1 else none)
    else (gateFrom s part j).bind fun i =>
    match chunkHeld s part j (n - i) i, findChunk s part j (n - i) i with
    | some a, _ => some a
    | none, some k =>
      if s.read (sysGet s part 0x0529 + 32 * k) 32 / 2 ^ 176 % 2 ^ 16 ≤ 1 then chunkHeld s part j (n - (k + 1)) (k + 1) else none
    | none, none => none

/-- A grant is taken: recorded, or counted on the current chunk, which is consumed when its run is spent (R393, R394, R397). -/
def takeGrant (s : State) (part obj : Nat) (coord : BitVec 48) (fid : BitVec 13) (hash : BitVec 64) : State :=
  match rrIndex s part obj with
  | none => s
  | some j =>
    if rrMode s part == 1 then recordGrant s part j coord fid hash
    else match gateOf s part obj coord fid hash with
    | .grant c =>
      let t := setPartn s part fun p =>
        { p with rrCur := p.rrCur.filter (fun x => x.j != j) ++ [c], rrUsed := if c.run == 0 then p.rrUsed + 1 else p.rrUsed }
      if c.run == 0 then meetChunk t part j (c.addr + 1) else t
    | .malformed => setPartn s part fun p => { p with rrDone := p.rrDone ++ [j], rrBad := true }
    | _ => s

/-- Lanes of a fibre that waited for their RMW go on (R394). -/
def openGate (s : State) (k : FKey) : State :=
  setFibre s k fun f => if f.run == .waiting .gate then f.release else f

/-- What an operation has fed to its fibre's store hash at issue is taken back, where it is not performed and its lane executes it again (R394,
R395). -/
def unfeed (s : State) (x : Store) : State := setFibre s x.fib fun f => { f with fhash := x.hash }

/-- The requester of an RMW traps REPLAY_DIVERGE at it; the operation is not performed (R394, R398). -/
def divergeAt (s : State) (part : Nat) (k : FKey) : State :=
  let s := setPartn s part fun p => { p with rrDiv := true }
  reap (deliver (trapLater (setFibre s k fun f => { f with outs := f.outs.filter (fun o => o.kind != .atom) }) [k] cReplayDiverge 0))

/-! ### New values -/

/-- Integer operation of ATOM or RED on `w` bits: minimum, maximum (R237, R239). -/
def pickInt (w : Nat) (signed big : Bool) (a b : Nat) : Nat :=
  let v := fun (x : Nat) => if signed then (BitVec.ofNat w x).toInt else (x : Int)
  if big then (if v a < v b then b else a) else (if v b < v a then b else a)

/-- New value of an ATOM (R237). -/
def atomNew (aop w old b e : Nat) : Nat :=
  match aop with
  | 0 => b
  | 1 => if old == e then b else old
  | 2 => (old + b) % 2 ^ w
  | 3 => old &&& b
  | 4 => old ||| b
  | 5 => old ^^^ b
  | 6 => pickInt w true false old b
  | 7 => pickInt w false false old b
  | 8 => pickInt w true true old b
  | 9 => pickInt w false true old b
  | _ => (floatResult .fadd .rne false false (BitVec.ofNat 32 old) (BitVec.ofNat 32 b) 0).toNat

/-- New value of a RED (R239, R240). -/
def redNew (rop rfmt old v : Nat) : Nat :=
  let w := if rfmt == 4 then 64 else 32
  let a := BitVec.ofNat 32 old
  let b := BitVec.ofNat 32 v
  if rfmt == 1 then
    (floatResult (match rop with | 0 => .fadd | 1 => .fmin | _ => .fmax) .rne false false a b 0).toNat
  else if rfmt == 2 || rfmt == 3 then
    (halfResult (match rop with | 0 => .hadd2 | 1 => .hmin2 | _ => .hmax2) (if rfmt == 2 then .f16 else .bf16) .rne false false a b 0).toNat
  else match rop with
  | 0 => (old + v) % 2 ^ w
  | 1 => pickInt w true false old v
  | 2 => pickInt w true true old v
  | 3 => pickInt w false false old v
  | 4 => pickInt w false true old v
  | 5 => old &&& v
  | 6 => old ||| v
  | _ => old ^^^ v

/-- A RED applies to its words, or is rejected on all of them (R173, R174). -/
def redApply (s : State) (a w rop rfmt v : Nat) : State × Bool :=
  let ws := wordsOf a w
  let t := rop * 8 + rfmt
  if ws.all (fun x => match s.redTags.find? (·.1 == x) with | some y => y.2 == t | none => true) then
    ({ s with
        mem := writeMem s.mem a (redNew rop rfmt (s.read a w) v) w
        capTags := s.capTags.filter (fun g => !(gransOf a w).contains g)
        redTags := ws.foldl (fun l x => mapPut x t l) s.redTags }, true)
  else ({ s with redFlags := ws.foldl (fun l x => setIns x l) s.redFlags }, false)

/-- One element of a remote add with its sender's exponent (R267). -/
def scaledAdd (f : FloatFmt) (old v : Nat) (es : Int) : Nat :=
  roundF .rne false false f (addV .rne (decF false f old) (scaleV (-es) (decF false f v)))

/-- New value of a global remote add (R267). -/
def raddNew (fmt old v : Nat) (es : BitVec 8) : Nat :=
  match fmt with
  | 0 => scaledAdd .f32 old v es.toInt
  | 1 => scaledAdd .bf16 (old % 65536) (v % 65536) es.toInt + 65536 * scaledAdd .bf16 (old / 65536) (v / 65536) es.toInt
  | _ => (old + v) % 2 ^ 32

/-! ### The head of a store FIFO -/

def setStore (s : State) (core port id : Nat) (g : Store → Store) : State :=
  setPort s core port fun p => { p with fifo := p.fifo.map fun x => if x.id == id then g x else x }

def popStore (s : State) (core port id : Nat) : State := setPort s core port fun p => { p with fifo := p.fifo.filter (fun x => x.id != id) }

/-- The die of a memory cell, or 8 plus a device (R167). -/
def destOf (a : Nat) : Option Nat :=
  if a < Config.hostBase then
    let u := a / Config.unitStride
    some (if u < 16 then u / 2 else u - 16)
  else if Config.remoteBase ≤ a then some (8 + (a - Config.remoteBase) / 2 ^ 76 % 1024)
  else none

/-- A store has gone to memory: the die mask and device set record it, but not a release's own write, whose markers are spent from package
scope on (R167). -/
def noteDest (s : State) (core port : Nat) (x : Store) (a : Nat) : State :=
  if x.rel then clearMask s core port x.scope
  else match destOf a with
  | none => s
  | some d =>
    setPort s core port fun p =>
      if d < 8 then (if d == core / 192 then p else { p with dieMask := p.dieMask ||| (1#8 <<< d) })
      else if p.devSet.contains (d - 8) then p
      else if p.devSet.length < 64 then { p with devSet := p.devSet ++ [d - 8] }
      else { p with allDevs := true, devSet := List.range 1024 }

/-- What the head of a FIFO may do now. -/
inductive Turn where
  | stay (s : State)
  | lost
  | go (a : Nat)
deriving DecidableEq, Repr

/-- Earlier loads of its fibre, a release's gatherings, translation and pending rows hold a store at the head; a CUTREG that has not been
entered does not (R58, R99, R160, R167, R310). A store through an ended window of another device, or on a live barrier granule of a window, is
lost (R317, R319). -/
def turnOf (s : State) (core port : Nat) (x : Store) : Turn :=
  if x.lost then .lost
  else if ((fibre? s x.fib).map (fun f => f.blk == x.blk && f.fid == x.fid && f.outs.any (fun o => o.kind != .cut && decide (o.id < x.id)))).getD false then .stay s
  else if x.rel && !x.marked then
    let q := sendMarkers s core port x.scope
    .stay (setStore q.1 core port x.id fun y => { y with marked := true, waits := q.2 })
  else if gathering s core port x.waits then .stay s
  else if x.spad then .go x.obj
  else if x.entry.isSome then .stay s
  else match translate s x.part x.obj x.off x.xl.toList with
  | .miss => .stay (joinWalk s (portOfCore core) x.part x.obj x.off (.store x.id))
  | .unres c =>
    .stay (setStore (holdEntry s x.part x.obj x.off c 1 true core port 0 0 x.pc x.fid x.blk (.store x.id)) core port x.id
      fun y => { y with entry := some s.seq })
  | .ended => .lost
  | .place a => if farLive s a then .lost else if rowWaits s a then .stay (noteWait s a) else .go a
/-- A store is discarded and recorded (R65, R347, R351). -/
def loseStore (s : State) (core port : Nat) (x : Store) : State :=
  let s := openGate (freeFe (storeLost (popStore s core port x.id) x) x.fib) x.fib
  reap (match x.opId with | some i => completeOp s x.fib i 3 true | none => s)

/-- A scratchpad store performs: suppressed on a live granule, or by its qualifier (R65, R233, R247). -/
def performSpad (s : State) (core port : Nat) (x : Store) : State :=
  let g := granOf x.obj
  if s.isLive g then loseStore s core port x
  else
    let t := popStore s core port x.id
    match x.kind with
    | .feset => reap (fillGran t g true)
    | .feclr => reap (fillGran t g false)
    | .stl qc =>
      if partialUe s x.obj x.w then loseStore s core port x
      else
        let w := healGran (spadWrite t x.obj x.w x.data) x.obj x.w
        if qc == 3 then reap (fillGran w g true)
        else if qc == 1 then
          if s.isFull g then { t.fresh with feStores := t.feStores ++ [{ x with id := t.seq }] }
          else reap (fillGran (freeFe w x.fib) g true)
        else reap w
    | _ => t

/-- A RED performs at its word: gated, applied or rejected (R173, R240, R394). -/
def performRed (s : State) (core port : Nat) (x : Store) (a rop rfmt : Nat) : State :=
  let coord := ((block? s x.blk).map Block.coord).getD 0
  let fid := BitVec.ofNat 13 x.fid
  match gateOf s x.part x.obj coord fid x.hash with
  | .hold => s
  | .diverge => divergeAt (unfeed (popStore s core port x.id) x) x.part x.fib
  | _ =>
    let s := takeGrant s x.part x.obj coord fid x.hash
    if s.ue a x.w then loseStore s core port x
    else
      let r := redApply (noteDest (popStore s core port x.id) core port x a) a x.w rop rfmt x.data
      let s := openGate r.1 x.fib
      reap (if r.2 then s else setFibre s x.fib fun f =>
        if f.blk == x.blk && f.fid == x.fid && f.redrej != 0xFFFFFFFF then { f with redrej := f.redrej + 1 } else f)

/-- R231, R240, R243, R247; port 4, which no core has, makes the device's own writes that a row has held back (R99, R391). An away lane whose trap
waited for the store is then delivered (R121). -/
def execStorePerform (core port : Nat) (s : State) : Result :=
  if port == 4 then .next (devWriteDue s)
  else match (portOf s core port).fifo.head? with
  | none => .next s
  | some x =>
    match x.kind with
    | .radd .. => .next s
    | _ =>
      match turnOf s core port x with
      | .stay t => .next t
      | .lost => .next (loseStore s core port x)
      | .go a =>
        let s := touch s a
        match x.kind with
        | .red rop rfmt =>
          match gateHeld s x.part x.obj (((block? s x.blk).map Block.coord).getD 0) (BitVec.ofNat 13 x.fid) with
          | some z => .next (noteWait s z)
          | none => .next (deliver (performRed s core port x a rop rfmt))
        | .st =>
          .next (deliver (if partialUe s a x.w then loseStore s core port x
            else reap (noteDest (healGran ((popStore s core port x.id).write a x.w x.data) a x.w) core port x a)))
        | .capst => .next (deliver (reap (noteDest (healGran ((popStore s core port x.id).writeCap a (BitVec.ofNat 128 x.data)) a 16) core port x a)))
        | _ => .next (deliver (performSpad s core port x))

/-- R267, R394. -/
def execRaddGlobalApply (core port : Nat) (s : State) : Result :=
  match (portOf s core port).fifo.head? with
  | none => .next s
  | some x =>
    match x.kind with
    | .radd fmt es =>
      match turnOf s core port x with
      | .stay t => .next t
      | .lost => .next (loseStore s core port x)
      | .go a =>
        let s := touch s a
        let coord := ((block? s x.blk).map Block.coord).getD 0
        let fid := BitVec.ofNat 13 x.fid
        match gateHeld s x.part x.obj coord fid, gateOf s x.part x.obj coord fid x.hash with
        | some z, _ => .next (noteWait s z)
        | none, .hold => .next s
        | none, .diverge =>
          let s := popStore s core port x.id
          .next (divergeAt (setFibre (unfeed s x) x.fib fun f => { f with ops := f.ops.filter (fun o => some o.id != x.opId) }) x.part x.fib)
        | none, _ =>
          let s := takeGrant s x.part x.obj coord fid x.hash
          if s.ue a 4 then .next (loseStore s core port x)
          else
            let s := noteDest ((popStore s core port x.id).write a 4 (raddNew fmt (s.read a 4) x.data es)) core port x a
            let s := openGate s x.fib
            .next (deliver (reap (match x.opId with | some i => completeOp s x.fib i 3 false | none => s)))
    | _ => .next s

/-! ### Loads and atomics -/

/-- A weight-store cell whose bank is in its refresh window (R67, R234). -/
def weightWaits (s : State) (o : Out) : Bool :=
  decide (Config.weightBase ≤ o.addr) && decide (o.addr < Config.spadBase)
    && (wrefOf s ((o.addr - Config.weightBase) / 2 ^ 32)).1 == o.off / 256 % 256 && !o.spad

/-- Own earlier stores that a load cannot take its bytes from must have performed, and own earlier REDs, which are reads where they are rejected (R160,
R173). -/
def storesHold (s : State) (f : Fibre) (o : Out) : Bool :=
  (ownStores s f.key o.id o.spad o.obj o.off o.w).any (fun x => o.kind == .query || !x.forwards) || redAhead s f.key o.id

/-- The word that RED's query form returns (R241). -/
def queryWord (s : State) (a : Nat) : Nat :=
  match s.redTags.find? (·.1 == a) with
  | some y => (if s.redFlags.contains a then 2 ^ 31 else 0) + 2 ^ 30 + y.2 * 2 ^ 24
  | none => if s.redFlags.contains a then 2 ^ 31 else 0

/-- A load or query meets an uncorrectable error that none of its fibre's stores covers (R17, R230, R351). -/
def loadHurt (s : State) (f : Fibre) (o : Out) : Bool := ueLeft s f.key o.id o.spad o.obj o.off o.addr o.w

/-- The fibre's oldest request but for CUTREGs that have not been entered (R310). -/
def Fibre.nextOut (f : Fibre) : Option Out := f.outs.find? (fun o => o.kind != .cut)

/-- The oldest cut of a context that has not been entered is: that of its fibre, or of one that has left it (R28, R310). -/
def cutDue (s : State) (k : FKey) : State :=
  match (fibre? s k).bind (fun f => (f.outs.find? (fun o => o.kind == .cut)).map fun o => (f, o)) with
  | some (f, o) => deliver (enterCut s k f.blk false o)
  | none =>
    match s.leftCuts.find? (fun c => c.fib == k) with
    | some c => enterCut s k c.blk true c.out
    | none => s

/-- R230, R234, R241, R310: the oldest outstanding request of a fibre, when it is a load from memory; where it has none, a trap that it waits
to take is tried again. A context from 2048 on stands for the entry of a cut of context `ctx` - 2048, which loads may pass. -/
def execLoadComplete (core port ctx : Nat) (s : State) : Result :=
  if Config.ctxPerPort ≤ ctx then .next (cutDue s (keyOf core port (ctx - Config.ctxPerPort)))
  else match fibre? s (keyOf core port ctx) with
  | none => .next s
  | some f =>
    match f.nextOut with
    | none => .next (deliver s)
    | some o =>
      if o.spad || o.kind == .atom || storesHold s f o || weightWaits s o then .next s
      else if rowWaits s o.addr then .next (noteWait s o.addr)
      else if loadHurt s f o then .next (if f.takesTrap then deliver (trapOut (touch s o.addr) f.key o cDataUe) else s)
      else
        let s := touch s o.addr
        let v := if o.kind == .query then queryWord s o.addr else readOwn s f.key o.id false o.obj o.off o.addr o.w
        .next (deliver (setFibre s f.key fun g => g.finishOut o v))

/-- R62, R230, R233; .fe.clr writes the granule's bit, and comes after every earlier store of its fibre (R160). -/
def execLdlLaneComplete (core port ctx op : Nat) (s : State) : Result :=
  match fibre? s (keyOf core port ctx) with
  | none => .next s
  | some f =>
    match f.nextOut with
    | none => .next s
    | some o =>
      if o.id != op || !o.spad || o.kind != .load || o.atBank then .next s
      else if o.fe == 0 then
        if storesHold s f o then .next s
        else if loadHurt s f o then .next (if f.takesTrap then deliver (trapOut s f.key o cDataUe) else s)
        else .next (deliver (setFibre s f.key fun g => g.finishOut o (readOwn s f.key o.id true o.obj o.off o.addr o.w)))
      else if !(ownStores s f.key o.id true o.obj (granOf o.off) 16).isEmpty
          || (o.fe == 2 && (storesOf s f.key).any (fun x => decide (x.id < o.id))) then .next s
      else if s.isLive (granOf o.addr) then .next (deliver (trapLater s [f.key] cBarrierClobber o.off))
      else
        let s := setFibre s.fresh f.key fun g =>
          { g with waitSeq := s.seq, outs := g.outs.map fun y => if y.id == op then { y with atBank := true } else y }
        .next (deliver (serveGran (serveFuel s) s (granOf o.addr)))

/-- The order gate holds an RMW of a fibre (R394). -/
def gateHolds (s : State) (blk fid obj : Nat) (hash : BitVec 64) : Bool :=
  match block? s blk with
  | some b => gateOf s b.part obj b.coord (BitVec.ofNat 13 fid) hash == .hold
  | none => false

/-- The head of a port's FIFO is an RMW that the order gate holds, of a fibre other than `k` (R394). -/
def headHeld (s : State) (core port : Nat) (k : FKey) : Bool :=
  (portOf s core port).fifo.head?.any fun x =>
    x.fib != k && (match x.kind with | .red .. | .radd .. => true | _ => false) && gateHolds s x.blk x.fid x.obj x.hash

/-- Earlier atomics of the port at the location, lower lanes of one ATOM among them, and earlier stores of the FIFO and of the fibre, come
first (R238 and its example; log 5); what the order gate holds keeps no RMW of another fibre back (R398). -/
def atomWaits (s : State) (f : Fibre) (o : Out) : Bool :=
  ((portOf s f.loc f.key.port).fifo.any (fun x => x.id < o.id) && (o.spad || !headHeld s f.loc f.key.port f.key))
    || (storesOf s f.key).any (fun x => x.id < o.id)
    || s.fibres.any (fun g => g.loc == f.loc && g.key.port == f.key.port && g.blk == f.blk
        && g.outs.any (fun y => y.kind == .atom && decide (y.id < o.id) && y.addr == o.addr
            && (g.key == f.key || o.spad || !gateHolds s g.blk g.fid y.obj g.fhash)))

/-- The RMW of an atomic that may perform (R237, R238, R395). -/
def atomDo (s : State) (part : Nat) (f : Fibre) (o : Out) : State :=
  let old := s.read o.addr o.w
  let new := atomNew o.aop (8 * o.w) old o.b o.e
  let s := if o.spad then spadWrite s o.addr o.w new else s.write o.addr o.w new
  let s := setFibre s f.key fun g =>
    { (g.finishOut o old) with
      fhash := feed s part g.fhash (if o.spad then 0 else o.obj) o.off (if o.w == 8 then 3 else 2) new
      sentTo := g.sentTo.filter (fun x => x.2 != o.id) }
  reap (deliver (openGate s f.key))

/-- An atomic meets an uncorrectable error: its lane traps DATA_UE at it; that of an exited fibre is recorded as a lost store (R17, R28, R238,
R347; log 9). -/
def atomHurt (s : State) (f : Fibre) (o : Out) : State :=
  let t := trapOut s f.key o cDataUe
  if f.run == .exited then reap (fillFault t f.blk (if o.spad then 0 else o.obj) o.pc f.fid 1 true)
  else if f.takesTrap then deliver t else s

/-- R238, R162, R394. -/
def execAtomRmwPerform (core port ctx op : Nat) (s : State) : Result :=
  match fibre? s (keyOf core port ctx) with
  | none => .next s
  | some f =>
    match f.nextOut, block? s f.blk with
    | some o, some b =>
      let mine := f.sentTo.filter (fun x => x.2 == o.id)
      if o.id != op || o.kind != .atom || atomWaits s f o then .next s
      else if o.spad then
        if s.isLive (granOf o.addr) then
          .next (reap (deliver (trapLater (setFibre s f.key fun g => { g with outs := g.outs.filter (fun y => y.id != op) }) [f.key]
            cBarrierClobber o.off)))
        else if s.ue o.addr o.w then .next (atomHurt s f o)
        else .next (atomDo s b.part f o)
      else if rowWaits s o.addr then .next (noteWait s o.addr)
      else if s.ue o.addr o.w then .next (atomHurt (touch s o.addr) f o)
      else if 2 ≤ o.fe && mine.isEmpty && !(markerDests (portOf s f.loc port) o.scope).isEmpty then
        let q := sendMarkers s f.loc port o.scope
        .next (setFibre q.1 f.key fun g => { g with sentTo := g.sentTo ++ q.2.map fun i => (i, o.id) })
      else if gathering s f.loc port (mine.map (·.1)) then .next s
      else
        let s := touch (if 2 ≤ o.fe then clearMask s f.loc port o.scope else s) o.addr
        let fid := BitVec.ofNat 13 f.fid
        match gateHeld s b.part o.obj b.coord fid, gateOf s b.part o.obj b.coord fid f.fhash with
        | some z, _ => .next (noteWait s z)
        | none, .hold => .next s
        | none, .diverge => .next (divergeAt s b.part f.key)
        | none, _ => .next (atomDo (takeGrant s b.part o.obj b.coord fid f.fhash) b.part f o)
    | _, _ => .next s

/-! ### Transactions, markers -/

/-- R235: an LDA transaction reads, writes its granule and counts down. -/
def execLdaTransaction (core port ctx op : Nat) (s : State) : Result :=
  match s.ldas.find? (fun x => x.id == op && x.fib == keyOf core port ctx) with
  | none => .next s
  | some x =>
    -- the lane's earlier accesses come first (R169)
    let busy := ((fibre? s x.fib).map (fun f => f.blk == x.blk && f.outs.any (fun o => o.kind != .cut && decide (o.id < op)))).getD false
      || (storesOf s x.fib).any (fun y => y.blk == x.blk && decide (y.id < op))
    if busy then .next s
    else if rowWaits s x.src then .next (noteWait s x.src)
    else
      let g := granOf x.dst
      let bad := s.isLive g || s.ue x.src x.w
      let s := { s with ldas := s.ldas.filter (fun y => y.id != op) }
      let s := touch s x.src
      let s := if bad then s else fillGran (healGran (spadWrite s x.dst x.w (s.read x.src x.w)) x.dst x.w) g true
      .next (deliver (completeOp (pendingDown s (granOf x.bar)) x.fib x.opId 4 bad))

/-- R167, R168: a destination has gathered every marker of one release or fence and acknowledges. -/
def execFlushMarkerGather (core port op : Nat) (s : State) : Result :=
  if (portOf s core port).gathers.any (fun g => g.id == op) then
    .next (deliver (setPort s core port fun p => { p with gathers := p.gathers.filter (fun g => g.id != op) }))
  else .next s

/-! ### Walks and fault entries -/

/-- A TLB entry put, the oldest of its kind at the port making room (R341, log 14). -/
def putTlb (s : State) (t : Tlb) : State :=
  let same := fun (x : Tlb) => x.mport == t.mport && x.range == t.range
  let cap := if t.range then 64 else 2048
  let l := s.tlbs.filter fun x => !(same x && x.part == t.part && x.obj == t.obj && x.lo == t.lo)
  let l := if (l.filter same).length < cap then l else
    match l.find? same with
    | some y => l.filter (· != y)
    | none => l
  { s with tlbs := l ++ [t] }

/-- An access of another device that does not resolve: the supervisor of this device receives a fault entry (R58, R319). -/
def remoteUnresolved (s : State) (part obj off cause kind : Nat) : State :=
  let k := kind % 8
  holdEntry s part obj off cause (if k == 3 then 2 else if k == 0 || k == 4 then 0 else 1) (k != 0) 0 0 0 0 0 0 0 (.remote kind)

/-- The answer of a walk reaches a waiter. An access of another device, which the event REMOTE_DEVICE_REQUEST makes again, finds the translation at the
port; one that does not resolve ends here (R57, R319). -/
def answer (s : State) (part : Nat) (x : Xlate) (w : Waiter) : State :=
  let put := fun (l : List Xlate) => l.filter (fun y => !(y.obj == x.obj && y.page == x.page)) ++ [x]
  match w with
  | .fibre k => setFibre s k fun f => { f with xl := put f.xl }
  | .store id => { s with ports := s.ports.map fun p => { p with fifo := p.fifo.map fun y => if y.id == id then { y with xl := some x } else y } }
  | .copy id => { s with copies := s.copies.map fun c => if c.id == id then { c with xl := put c.xl } else c }
  | .mx cl i => setEngine s cl fun e => { e with entries := e.entries.map fun y => if y.idx == i then { y with xl := put y.xl } else y }
  | .remote kind => if x.place.isSome then s else remoteUnresolved s part x.obj x.page x.cause kind

/-- What the port that owns a page keeps of a walk for it: a range, a page, or that the page is absent or being moved (R341, R343); `cur` is the
port of the requester's stack group. -/
def walkTlb (s : State) (part id page cur : Nat) : Option Tlb :=
  let t : Tlb :=
    { mport := ownerPort s part id page cur, part := part, range := false, obj := id, lo := page, hi := page + 4096, place := 0, cause := none
      rx := false, top := 0 }
  match walkTables s part id page with
  | .nowhere _ => none
  | .bad c => if c == fNotPresent || c == fMoving then some { t with cause := some c } else none
  | .ok p e rx =>
    let top := e.ostart + 4096 * e.npages
    some (if e.paged then { t with place := p, rx := rx, top := top }
      else { t with range := true, lo := e.ostart, hi := top, place := p - (page - e.ostart), rx := rx, top := top })

/-- R341, R342, R337 to R340: a walk that its port serves ends; the port keeps what it has found (R343). -/
def execTableWalkComplete (walk : Nat) (s : State) : Result :=
  match s.walks.find? (fun w => w.id == walk) with
  | none => .next s
  | some w =>
    let id := match objName s w.part w.obj with | .local i => i | _ => w.obj
    if !walkServed s w then .next s
    else match walkWaits s w.part id w.page with
    | some a => .next (noteWait (touch s a) a)
    | none =>
    let s := (walkCells s w.part id w.page).foldl touch s
    let t := walkTlb s w.part id w.page w.mport
    let s' := { s with walks := s.walks.filter (fun x => x.id != walk) }
    let done := fun (x : Xlate) => w.waiters.foldl (fun s y => answer s w.part x y) (t.elim s' (putTlb s'))
    match walkTables s w.part id w.page with
    | .nowhere a => .fault (.noSuchAddress a)
    | .bad c => .next (done { obj := w.obj, page := w.page, place := none, cause := c, rx := false, top := 0 })
    | .ok p e rx =>
      .next (done { obj := w.obj, page := w.page, place := some p, cause := 0, rx := rx, top := e.ostart + 4096 * e.npages })

/-- R344: a held entry is posted while the queue has room and an identifier is free. -/
def execFaultEntryPost (held : Nat) (s : State) : Result :=
  match s.partns.find? (fun p => p.faults.any (fun e => e.eid == held && !e.posted)) with
  | none => .next s
  | some p =>
    let ids := (p.faults.filter (·.posted)).map (·.ident)
    match lowestFree ids 4096, p.faults.find? (fun e => e.eid == held) with
    | some i, some e =>
      if 4096 ≤ (p.faults.filter (fun e => e.posted && !e.popped)).length then .next s
      else .next (setPartn s p.part fun q =>
        { q with faults := q.faults.filter (fun x => x.eid != held) ++ [{ e with posted := true, ident := i }] })
    | _, _ => .next s

end Sys2Proof.Machine
end

