-- ==== Sys2Proof/Machine/Cuts.lean ====
section
/-!
DEFINITION. CUTREG, CUTDROP, CUTBOOST, SWPOS and ROWSTAT (R91, R97, R103, R270 to R274, R277), the turns of rows (R97 to R101, R311), the
lathe's watchdog (R104) and save mode (R109).
-/
namespace Sys2Proof.Machine

/-! ### Instructions -/

/-- R91, R97, R271, R310: the range is located and statuses 1 to 3 are given at issue; the rest comes at t_reg, `enterCut`. A once cut that would
raise the row counter above 63 waits before issue (R68). -/
def execCutreg (h : Head) (p : LatheP) (s : State) : Result :=
  let d := p.d.toNat
  issue { useOf h (Instr.cutreg h p).legal with feat := some 0, home := true, vw := [d] }
    (fun s b ls => firstLane (fun s f =>
      let c := capReg s f p.c.toNat
      match latheRights s b.part c (rCUT + rWR) with
      | some e => acted s [(f.key, trapF e)]
      | none =>
        if !drained s f || !reqRoom s f.loc 1 then actWait s
        else onRange s b f c (fun e => acted (putStatus s f d e 0) []) fun s k bank row n =>
          let w := fun i => uni s f (p.s.toNat + i)
          let words := ((List.range 4).map fun i => (w i).toNat * 2 ^ (32 * i)).sum
          let o := cutOut s f (canonObj (capObj c)) (rowCell k bank row) n d words
          if o.once && !cutWordsBad (w 0) (w 1) (w 2) (w 3) && decide (63 ≤ f.rowCount) then actWait s
          else acted (setFibre s.fresh f.key fun g => { g with outs := g.outs ++ [o] }) []) s ls) s

/-- R97, R105, R272; an away fibre first returns home (log 19). -/
def execCutdrop (h : Head) (p : LatheP) (s : State) : Result :=
  let d := p.d.toNat
  issue { useOf h (Instr.cutdrop h p).legal with feat := some 0, home := true, vw := [d] }
    (fun s b ls => firstLane (fun s f =>
      let c := capReg s f p.c.toNat
      match latheRights s b.part c (rCUT + rWR) with
      | some e => acted s [(f.key, trapF e)]
      | none => onRange s b f c (fun _ => acted (putStatus s f d 7 0) []) fun s k bank row n =>
          match cutEntry s b.part k bank row n with
          | none => acted (putStatus s f d 7 0) []
          | some r =>
            let s := if !r.stand && r.state == 1 then completeOp s r.fib r.opId 2 true else s
            acted (putStatus (delRegion s k r.idx) f d 0 0) []) s ls) s

/-- R96, R273; an away fibre first returns home (log 19). -/
def execCutboost (h : Head) (p : LatheP) (s : State) : Result :=
  let d := p.d.toNat
  let v := 2 ^ p.bf.toNat
  issue { useOf h (Instr.cutboost h p).legal with feat := some 0, home := true, vw := [d] }
    (fun s b ls => firstLane (fun s f =>
      let c := capReg s f p.c.toNat
      match latheRights s b.part c rCUT with
      | some e => acted s [(f.key, trapF e)]
      | none => onRange s b f c (fun _ => acted (putStatus s f d 7 0) []) fun s k bank row n =>
          match cutEntry s b.part k bank row n with
          | none => acted (putStatus s f d 7 0) []
          | some r =>
            if !r.stand && r.state == 1 && decide (v < r.boost) then acted (putStatus s f d 4 0) []
            else acted (putStatus (hasten (boostFell (latheOf s k) (setRegion s k r.idx fun r => { r with boost := v })) k bank) f d 0 0) []) s ls) s

/-- SWPOS's word for a cell (R274). -/
def swposWord (s : State) (a : Nat) : Word :=
  match rowAt a with
  | none => 0xFFFFFFFF
  | some x =>
    let l := latheOf s x.stack
    let bf := match boostOf l x.bank with | 4 => 2 | 2 => 1 | _ => 0
    BitVec.ofNat 32 ((if winMs l x.bank == 16 then 2 ^ 29 else 0) + bf * 2 ^ 27 + x.bank * 2 ^ 16 + (sweepNow s l x.bank).1)

/-- R274; a window of another device gives no right to it (R317). -/
def execSwpos (h : Head) (p : LatheP) (s : State) : Result :=
  let a := p.a.toNat
  issue { useOf h (Instr.swpos h p).legal with feat := some 0, caps := [p.c.toNat], vr := offRegs a p.o64, vw := [p.d.toNat] }
    (fun s b ls =>
      let c := fun (f : Fibre) => capReg s f p.c.toNat
      let chk := fun (f : Fibre) => firstTrap
        [(checkRegs f (offRegs a p.o64), 0), globalChk s b f p.c.toNat (offVal f a p.o64) 1 rRD,
         (if farWindow s b.part (capObj (c f)) then some cCapRights else none, infoOf ((capBase (c f) : Int) + offVal f a p.o64))]
      let q := reach s b false false 1 (fun f => capObj (c f)) (fun f => capOff (c f) (offVal f a p.o64)) (passed chk ls)
      if q.miss then actWait q.s
      else match (q.good.filter (fun x => (rowAt x.2).any fun y => asleep s y.stack)).head? with
      | some x => actWait (noteWait s x.2)
      | none => acted (q.good.foldl (fun s x =>
        setFibre (touch s x.2) x.1.key fun g => g.writeNow (.reg p.d.toNat { val := swposWord s x.2, tag := tI32 })) q.s) (trapped chk ls ++ q.fates)) s

/-- Region status (R103). -/
def Region.status (r : Region) : BitVec 64 :=
  BitVec.ofNat 16 r.passes ++ BitVec.ofNat 13 r.done ++ BitVec.ofNat 12 r.start ++ BitVec.ofNat 12 r.uerow ++ 0#6
    ++ BitVec.ofBool r.ue ++ BitVec.ofBool r.aborted ++ BitVec.ofNat 3 r.state

/-- The entry of a range, a program's where no cut has one (R277). -/
def anyEntry (s : State) (part stack bank row n : Nat) : Option Region :=
  cutEntry s part stack bank row n <|>
    (latheOf s stack).regions.find? fun r => r.part == part && r.bank == bank && r.row == row && r.n == n

/-- Key of a range in the record of last steps. -/
def rangeKey (bank row n : Nat) : Nat := (bank * 65536 + row) * 8192 + n

/-- Words that ROWSTAT writes (R277). -/
def rowstatWords (s : State) (part stack bank row n : Nat) : List Word :=
  let l := latheOf s stack
  let sweep := (sweepNow s l bank).1
  match anyEntry s part stack bank row n with
  | none => [0, 0, BitVec.ofNat 32 sweep, 0]
  | some r =>
    let progs := l.regions.filter fun x => x.isProg && x.bank == bank && x.row == row && x.n == n
    let run := progs.any (·.running)
    let step := match progs.find? (·.running) with | some x => x.step | none => mapGet l.lastStep (rangeKey bank row n) 0
    [loWord r.status, hiWord r.status, BitVec.ofNat 32 (sweep + step * 2 ^ 16 + (if run then 2 ^ 24 else 0)), BitVec.ofNat 32 (sysGet s part 0x0004)]

/-- Bit map of a region's done rows as a number (R99). -/
def doneMap (r : Region) : Nat := (r.dmap.map fun i => 2 ^ i).sum

/-- The registers of ROWSTAT are written, the done map is stored, with no feed of the store hash (R395), and the entry of an ended cut is freed (R103,
R277). -/
def rowstatPut (s : State) (b : Block) (p : LatheP) (f : Fibre) (ws : List Word) (dm : Nat) (r : Option (Nat × Region)) : State :=
  let s := setFibre s f.key fun g => (ws.zipIdx).foldl (fun g x => g.writeNow (.reg (p.d.toNat + x.2) { val := x.1, tag := tRaw })) g
  let o := (f.val p.a.toNat).toNat
  let s := if p.dm then
      (List.range 32).foldl (fun s i =>
        pushStore s f b (.stl 0) true (spadCell b (o + 16 * i)) (o + 16 * i) 16 (dm / 2 ^ (128 * i) % 2 ^ 128) 0 false f.fhash none) s
    else s
  match r with
  | some (k, r) => if !r.isProg && (r.state == 2 || r.state == 4 || r.state == 5) then delRegion s k r.idx else s
  | none => s

/-- Words of ROWSTAT for a range that is no region: SWEEP of the bank that holds its first byte, where that lies in near memory (R277; DESIGN
CHOICE, log 21: a range that is not whole rows of one bank has no region's bank). -/
def nowhereWords (s : State) (part : Nat) (c : CapWord) (xl : List Xlate) : List Word :=
  match translate s part (capObj c) (capBase c) xl with
  | .place p =>
    (match rowAt p with
    | some x => [0, 0, BitVec.ofNat 32 (sweepNow s (latheOf s x.stack) x.bank).1, 0]
    | none => [0, 0, 0, 0])
  | _ => [0, 0, 0, 0]

/-- R103, R277; an away fibre first returns home (log 19). -/
def execRowstat (h : Head) (p : LatheP) (s : State) : Result :=
  issue
    { useOf h (Instr.rowstat h p).legal with
      feat := some 0, home := true, vr := if p.dm then [p.a.toNat] else []
      vw := (List.range 4).map (· + p.d.toNat) }
    (fun s b ls => firstLane (fun s f =>
      let c := capReg s f p.c.toNat
      let o := (f.val p.a.toNat).toNat
      let rights := match latheRights s b.part c rRD, latheRights s b.part c rCUT with | some e, some _ => some e | _, _ => none
      let live := p.dm && (List.range 32).any fun i => s.isLive (spadCell b (o + 16 * i))
      let first := firstTrap
        [(if p.dm then checkTag none (f.reg p.a.toNat) else none, 0), (rights, 0),
         (if p.dm && o % 16 != 0 then some cMisaligned else none, o),
         (if p.dm && decide (b.spadSize < o + 512) then some cSpadBounds else none, o)]
      match first <|> (if live then some (trapAt cBarrierClobber o) else none) with
      | some e => acted s [(f.key, e)]
      | none =>
        if p.dm && !fifoRoom s f.loc f.key.port 32 then actWait s
        else onRange s b f c (fun e => acted (rowstatPut s b p f (if e == 1 then [0, 0, 0, 0] else nowhereWords s b.part c f.xl) 0 none) []) fun s k bank row n =>
          let r := anyEntry s b.part k bank row n
          acted (rowstatPut s b p f (rowstatWords s b.part k bank row n) ((r.map doneMap).getD 0) (r.map fun r => (k, r))) []) s ls) s

/-! ### Turns -/

/-- A once cut ends when its rows are all applied or passed (R97, R311). -/
def endOnce (s : State) (stack idx : Nat) : State :=
  match (latheOf s stack).regions.find? (fun r => r.idx == idx) with
  | none => s
  | some r =>
    if r.isProg || r.stand || r.state != 1 || !(List.range r.n).all r.applied then s
    else
      let old := latheOf s stack
      latheEnds old (completeOp (setRegion s stack idx fun r => { r with state := 2 }) r.fib r.opId 2 r.ue)

/-- A cut applied to a bank row, or the row left as it is with the error noted (R92, R102). -/
def applyCut (s : State) (stack : Nat) (r : Region) (row : Nat) : State :=
  let a := rowCell stack r.bank row
  if s.ue a Config.rowBytes then
    setRegion s stack r.idx fun r => { r with uerow := if r.ue then r.uerow else row - r.row, ue := true }
  else s.write a Config.rowBytes (cutRow r.func r.fmt r.sat r.ca r.cb (s.read a Config.rowBytes))

/-- The turn of a row in one region (R97, R103, R311). A once cut that save mode's rows have brought to a bank with another sweep position takes the rows
that come out of its turn order as done in its map (R109, R361; DESIGN CHOICE, log 21: no rule gives DONE and the map after that). -/
def turnIn (stack row : Nat) (s : State) (r : Region) : State :=
  if r.isProg || !r.covers r.bank row then s
  else if !r.stand && r.state == 1 then
    let i := row - r.row
    let s := if r.applied i then s else applyCut s stack r row
    endOnce (setRegion s stack r.idx fun r =>
      if (r.start + r.done) % r.n == i then { r with done := r.done + 1 } else { r with dmap := if r.applied i then r.dmap else setIns i r.dmap }) stack r.idx
  else if !r.stand && r.state == 2 && decide (r.done < r.n) then
    -- complete by its done map: the sweep still passes the rows that are left (R311)
    setRegion s stack r.idx fun r => { r with done := r.done + 1 }
  else if r.state == 3 then
    -- a pass begins at START
    if r.done == 0 && row - r.row != r.start then s
    else
      let s := applyCut s stack r row
      let t := setRegion s stack r.idx fun r =>
        if r.done + 1 < r.n then { r with done := r.done + 1 }
        else if r.passes == 1 then { r with done := r.n, passes := 0, state := 5 }
        else { r with done := 0, passes := r.passes - 1 }
      if r.n ≤ r.done + 1 && r.passes == 1 then latheEnds (latheOf s stack) t else t
  else s

/-- R94, R97, R101: the next row of a bank is restored once its turn has come. In save mode the turns of banks that hold regions stand still, and those
of other banks go on (`sweepNow`; DESIGN CHOICE, log 21: R109 says only that no cut is applied). -/
def execRowRestore (stack bank : Nat) (s : State) : Result :=
  let l := latheOf s stack
  let d := mapGet l.turnAt bank (tRow l bank)
  if l.save || decide (64 * s.now < d) || decide (16 ≤ stack) || decide (Config.banksPerStack ≤ bank) then .next s
  else
    let row := mapGet l.sweep bank 0
    let s := (l.regions.filter (fun r => r.bank == bank)).foldl (turnIn stack row) s
    .next (setLathe s stack fun l =>
      { l with sweep := mapPut bank ((row + 1) % Config.rowsPerBank) l.sweep
               turnAt := mapPut bank (d + tRow l bank) l.turnAt
               waits := l.waits.filter (fun w => !(w.1 == bank && w.2.1 == row)), workAt := s.now })

/-- R99: a wait on a pending row has reached T_pf: the row is activated once and its done-map bit set, in save mode too (R109). -/
def execPullForward (stack entry row : Nat) (s : State) : Result :=
  let l := latheOf s stack
  match l.regions.find? (fun r => r.idx == entry) with
  | none => .next s
  | some r =>
    if !r.held || !r.pendingAt r.bank row || !l.waits.any (fun w => w.1 == r.bank && w.2.1 == row && decide (w.2.2 ≤ s.now)) then .next s
    else
      let s := setRegion (applyCut s stack r row) stack entry fun r => { r with dmap := setIns (row - r.row) r.dmap }
      let s := setLathe s stack fun l => { l with waits := l.waits.filter (fun w => !(w.1 == r.bank && w.2.1 == row)), workAt := s.now }
      .next (endOnce s stack entry)

/-- R95: a stack crosses 85 °C. -/
def execTemperatureChange (stack hot : Nat) (s : State) : Result :=
  let l := latheOf s stack
  if l.hot == (hot != 0) || decide (16 ≤ stack) then .next s
  else
    let s := (List.range Config.banksPerStack).foldl (fun s b => settleBank s stack b) s
    let s := setLathe s stack fun l =>
      { (l.holdBoost fun _ => hot != 0) with
        hot := hot != 0
        deferred := if hot != 0 then [] else (List.range Config.banksPerStack).filter (oncePending l) }
    .next ((List.range Config.banksPerStack).foldl (fun s b => hasten s stack b) s)

/-! ### Watchdog and save mode -/

/-- R104, R375: the watchdog resets a sequencer that has made no progress for WDLATHE microseconds while it has work. A cut that is complete or
exhausted and has not been read stays as it is, STATE 2 or 5 (DESIGN CHOICE, log 21: R104 speaks of every registered cut). -/
def execSequencerWatchdogReset (stack : Nat) (s : State) : Result :=
  let l := latheOf s stack
  let wd := sysGet s monPart 0x4005 % 2 ^ 32 * Config.cycles1us
  if wd == 0 || l.save || !hasWork l || decide (s.now < l.workAt + wd) then .next s
  else
    let ends := l.regions.filter fun r => r.isProg || (!r.stand && r.state == 1)
    let s := ends.foldl (fun s r => completeOp s r.fib r.opId 2 true) s
    let s := setLathe s stack fun l =>
      { l with
        regions := (l.regions.filter (fun r => !r.isProg)).map fun r =>
          if r.state == 1 || r.state == 3 then { r with state := 4, aborted := true } else r
        progs := [], waits := [], workAt := s.now
        lastStep := (l.regions.filter fun r => r.isProg && r.running).foldl (fun m r => mapPut (rangeKey r.bank r.row r.n) r.step m) l.lastStep }
    .next (postHost (latheEnds l s) 2 0xFF stack 0)

/-- Rows 0xFE00 to 0xFFFF of bank 0 of a stack (R109). -/
def saveCell (stack row : Nat) : Nat := rowCell stack 0 row

/-- Words of a program slot. -/
def slotWords (l : Lathe) (i : Nat) : List Word := ((l.progs.find? (fun p => p.1 == i)).map (·.2.2)).getD []

/-- Fields of widths packed from the lowest bit. -/
def packFields : List (Nat × Nat) → Nat
  | [] => 0
  | (w, v) :: r => v % 2 ^ w + 2 ^ w * packFields r

/-- Fields of widths taken from the lowest bit. -/
def unpackFields : List Nat → Nat → List Nat
  | [], _ => []
  | w :: r, v => v % 2 ^ w :: unpackFields r (v / 2 ^ w)

/-- Widths of the fields of a region-table entry's 64 bytes in the save area, from bit 0 (R109; log 20). -/
def entryWidths : List Nat :=
  [1, 4, 32, 11, 16, 13, 4, 3, 1, 32, 32, 1, 1, 16, 3, 12, 13, 1, 12, 1, 3, 11, 2, 11, 64, 64, 1, 4, 32, 32, 32, 8, 7, 1, 8, 3]

/-- Queue position of a program in its bank (R109). -/
def queuePos (l : Lathe) (r : Region) : Nat := (l.regions.filter fun x => x.isProg && x.bank == r.bank && decide (x.order < r.order)).length

/-- A region-table entry as its 64 bytes; bit 0 marks an entry in use (R109; log 20). -/
def entryBits (l : Lathe) (r : Region) : Nat :=
  packFields (entryWidths.zip
    [1, r.part, r.obj, r.bank, r.row, r.n, r.func, r.fmt, r.sat.toNat, r.ca.toNat, r.cb.toNat, r.stand.toNat, r.held.toNat, r.passes, r.state,
     r.start, r.done, r.ue.toNat, r.uerow, r.aborted.toNat, r.boost, r.fib.core, r.fib.port, r.fib.ctx, r.blk, r.opId, r.isProg.toNat,
     r.slot, r.px, r.py, r.pz, queuePos l r, r.sub, r.running.toNat, r.step, r.floor])

/-- The entry that 64 bytes and a done map hold; none where it is not in use. -/
def entryOf (idx v dm : Nat) : Option Region :=
  let x := fun (i : Nat) => (unpackFields entryWidths v).getD i 0
  if x 0 == 0 then none
  else some
    { idx := idx, part := x 1, obj := x 2, bank := x 3, row := x 4, n := x 5, func := x 6, fmt := x 7, sat := x 8 == 1
      ca := BitVec.ofNat 32 (x 9), cb := BitVec.ofNat 32 (x 10), stand := x 11 == 1, held := x 12 == 1, passes := x 13, state := x 14
      start := x 15, done := x 16, dmap := (List.range 4096).filter (fun i => dm.testBit i), ue := x 17 == 1, uerow := x 18
      aborted := x 19 == 1, boost := x 20, fib := { core := x 21, port := x 22, ctx := x 23 }, blk := x 24, opId := x 25, isProg := x 26 == 1
      slot := x 27, px := x 28, py := x 29, pz := x 30, order := x 31, sub := x 32, running := x 33 == 1, step := x 34, floor := x 35 }

/-- Row 0xFEA0: two bits of boost for each bank, then W in ms, T_pf of each partition in ns, a bit for each bank whose lengthening of W is
deferred, and the partition of each program slot plus one (R109; log 20). -/
def lastRow (s : State) (l : Lathe) : Nat :=
  let banks := List.range Config.banksPerStack
  packFields (banks.map (fun b => (2, match boostOf l b with | 4 => 2 | 2 => 1 | _ => 0)) ++ [(16, if l.hot then 16 else 32)]
    ++ (List.range 9).map (fun p => (16, sysGet s p 0x0004)) ++ banks.map (fun b => (1, (l.deferred.contains b).toNat))
    ++ (List.range 16).map (fun i => (4, ((l.progs.find? (fun p => p.1 == i)).map (fun p => p.2.1 + 1)).getD 0)))

/-- The sequencer's state in the reserved rows, zero elsewhere (R109). -/
def saveRows (s : State) (stack : Nat) : State :=
  let l := latheOf s stack
  let lo := saveCell stack 0xFE00
  let out := fun (a : Nat) => decide (a < lo) || decide (lo + 512 * Config.rowBytes ≤ a)
  let m := s.mem.filter (fun c => out c.1)
  let m := l.regions.foldl (fun m r => writeMem m (lo + 64 * r.idx) (entryBits l r) 64) m
  let m := l.regions.foldl (fun m r => writeMem m (saveCell stack 0xFE10 + 512 * r.idx) (doneMap r) 512) m
  let m := (List.range 16).foldl (fun m i =>
    ((slotWords l i).zipIdx).foldl (fun m x => writeMem m (saveCell stack (0xFE90 + i) + 4 * x.2) x.1.toNat 4) m) m
  { s with
    mem := writeMem m (saveCell stack 0xFEA0) (lastRow s l) 1024, capTags := s.capTags.filter out
    redTags := s.redTags.filter (fun x => out x.1), redFlags := s.redFlags.filter out }

/-- Steps of a saved program up to its END. -/
def savedSteps (s : State) (a : Nat) : Nat → Nat → List Word
  | 0, _ => []
  | n + 1, i =>
    let w := BitVec.ofNat 32 (s.read (a + 4 * i) 4)
    if w.toNat / 2 ^ 28 == 0 then [w] else w :: savedSteps s a n (i + 1)

/-- A region-table entry as the reserved rows hold it; a program's queue position is its place among those of its bank (R109). -/
def savedEntry (s : State) (stack i : Nat) : Option Region :=
  entryOf i (s.read (saveCell stack 0xFE00 + 64 * i) 64) (s.read (saveCell stack 0xFE10 + 512 * i) 512)

/-- A program slot as the reserved rows hold it; none where it holds no program (R109; log 20). -/
def savedSlot (s : State) (stack slots i : Nat) : Option (Nat × Nat × List Word) :=
  let p := slots / 16 ^ i % 16
  if p == 0 then none else some (i, p - 1, savedSteps s (saveCell stack (0xFE90 + i)) 256 0)

/-- Entries in use in the reserved rows that the sequencer has not held since save mode began: those of a partition that has been moved to this stack
(R361). -/
def comers (s : State) (stack : Nat) (l : Lathe) : List Region :=
  ((List.range 256).filter fun i => !(l.kept ++ l.regions).any (fun r => r.idx == i)).filterMap (savedEntry s stack)

/-- An entry as the restore leaves it: as the rows hold it, or as it is where it has changed since they were written, a program of them in its place of
the queue. -/
def restored (s : State) (stack : Nat) (l : Lathe) (r : Region) : Option Region :=
  if l.kept.contains r then savedEntry s stack r.idx
  else some (if r.isProg && l.kept.any (fun x => x.idx == r.idx) then { r with order := queuePos { l with regions := l.kept } r } else r)

/-- The sequencer takes its state back from the reserved rows, and with it entries and slots in use there that it has not held, such as those of a
partition that has been moved to this stack (R109, R361). What has changed since it wrote the rows stays as it is: the lathe's instructions
act on its tables in save mode as ever, and so do R99's pull-forward, a change of temperature and the end of a kernel's cuts (DESIGN CHOICE,
log 21: R109 is silent on them). W follows the stack's temperature as it is; where the rows hold a shorter one, its lengthening for the once
cuts that they bring is deferred (R95, R109). -/
def loadRows (s : State) (stack : Nat) (l : Lathe) : Lathe :=
  let last := s.read (saveCell stack 0xFEA0) 1024 / 2 ^ (2 * Config.banksPerStack)
  let tail := last / 2 ^ (16 + 16 * 9)
  let slots := tail / 2 ^ Config.banksPerStack
  let come := comers s stack l
  let short := fun (b : Nat) => (tail.testBit b || last % 2 ^ 16 == 16) && come.any (fun r => r.oncePending && r.bank == b)
  { l with
    regions := l.regions.filterMap (restored s stack l) ++ come
    progs := (l.progs.filterMap fun x => if l.keptProgs.contains x then savedSlot s stack slots x.1 else some x)
      ++ ((List.range 16).filter fun i => !(l.keptProgs ++ l.progs).any (fun x => x.1 == i)).filterMap (savedSlot s stack slots)
    deferred := l.deferred.filter (fun b => !l.keptDeferred.contains b || tail.testBit b)
      ++ (List.range Config.banksPerStack).filter (fun b => !l.hot && !l.deferred.contains b && short b)
    kept := [], keptProgs := [], keptDeferred := [] }

/-- R109: the sequencer writes its state to the reserved rows and enters save mode. -/
def execSaveModeEnter (stack : Nat) (s : State) : Result :=
  if (latheOf s stack).save || decide (16 ≤ stack) then .next s
  else .next (setLathe (saveRows s stack) stack fun l =>
    { l with save := true, kept := l.regions, keptProgs := l.progs, keptDeferred := l.deferred })

/-- R109: the rows are written back and save mode ends; turns that fell due meanwhile come now. -/
def execSaveModeRestore (stack : Nat) (s : State) : Result :=
  let l := latheOf s stack
  if l.save then
    let s := (distinct (l.turnAt.map (·.1) ++ (comers s stack l).map (·.bank))).foldl (fun s b => settleBank s stack b) s
    let l := latheOf s stack
    .next (latheEnds l (setLathe s stack fun l =>
      { (loadRows s stack l) with save := false, turnAt := l.turnAt.map fun x => (x.1, max x.2 (64 * s.now)), workAt := s.now }))
  else .next s

end Sys2Proof.Machine
end

