-- ==== Sys2Proof/Machine/RowPrograms.lean ====
section
/-!
DEFINITION. Row programs: ROWPROG and ROWOP, and the steps of a running program (R102, R106 to R108, R275, R276).
-/
namespace Sys2Proof.Machine

/-! ### Steps -/

def stepOpc (w : Word) : Nat := w.toNat / 2 ^ 28
def stepSel (w : Word) (k : Nat) : Nat := w.toNat / 2 ^ (21 - 7 * k) % 2 ^ 7

/-- Space and index of a selector (R106). -/
def selSpace (x : Nat) : Nat := x / 32
def selIdx (x : Nat) : Nat := x % 32

/-- An illegal selector (R106). -/
def selBad (x : Nat) : Bool := selSpace x == 0 && decide (10 ≤ selIdx x)

/-- C0 or C1. -/
def selConst (x : Nat) : Bool := selSpace x == 0 && decide (selIdx x < 2)

/-- An operand that MAJ may name: D0, D1, T0 to T3 (R107). -/
def selMaj (x : Nat) : Bool := x == 2 || x == 4 || (6 ≤ x && decide (x ≤ 9))

/-- A step that ROWPROG rejects (R107). -/
def stepBad (w : Word) : Bool :=
  let a := stepSel w 0
  let b := stepSel w 1
  let c := stepSel w 2
  w.toNat % 2 ^ 7 != 0
  || (match stepOpc w with
      | 0 => a != 0 || b != 0 || c != 0
      | 1 => selBad a || selBad b || selConst b || c != 0
      | 2 => !selMaj a || !selMaj b || !selMaj c
      | _ => true)

/-- Step words from the scratchpad up to the first END, at most `n`; `lim` words lie in the allocation (R275). The flag says that the
steps run past the allocation. -/
def readSteps (s : State) (a lim : Nat) : Nat → Nat → List Word × Bool
  | 0, _ => ([], false)
  | n + 1, i =>
    if lim ≤ i then ([], true)
    else
      let w := BitVec.ofNat 32 (s.read (a + 4 * i) 4)
      if stepOpc w == 0 then ([w], false) else (let q := readSteps s a lim n (i + 1); (w :: q.1, q.2))

/-- Index of the first bad step, or of the step after the last where there is no END (R275). -/
def badStep (ws : List Word) : Option Nat :=
  match (ws.zipIdx.find? (fun x => stepBad x.1)).map (·.2) with
  | some i => some i
  | none => if (ws.getLast?).any (fun w => stepOpc w == 0) then none else some (ws.length % 256)

/-- R275. -/
def execRowprog (h : Head) (p : LatheP) (s : State) : Result :=
  let d := p.d.toNat
  let slot := p.slot.toNat
  issue { useOf h (Instr.rowprog h p).legal with feat := some 0, home := true, vr := [p.a.toNat], vw := [d] }
    (fun s b ls => firstLane (fun s f =>
      let c := capReg s f p.c.toNat
      let o := (f.val p.a.toNat).toNat
      let steps := readSteps s (spadCell b o) ((b.spadSize - o) / 4) 256 0
      let first := firstTrap
        [(checkTag none (f.reg p.a.toNat), 0), (latheRights s b.part c rCUT, 0), (if o % 4 != 0 then some cMisaligned else none, o),
         (if steps.2 then some cSpadBounds else none, o)]
      match first with
      | some e => acted s [(f.key, e)]
      | none =>
        if f.reading || ownPending s f true 0 o (4 * steps.1.length) then actWait s
        else if s.ue (spadCell b o) (4 * steps.1.length) then acted s [(f.key, trapAt cDataUe o)]
        else if (match objName s b.part (capObj c) with | .local _ => false | _ => true) then acted (putStatus s f d 1 0) []
        else match translate s b.part (capObj c) (capBase c) f.xl with
        | .miss => awaitPages s b f (capObj c) [capBase c]
        | .unres e => parkRange s b f (capObj c) [(e, capBase c)]
        | .ended => acted (putStatus s f d 1 0) []
        | .place q =>
          match rowAt q with
          | none => acted (putStatus s f d 1 0) []
          | some x =>
            if asleep s x.stack then actWait (noteWait s q) else
            let s := touch s q
            let busy := (latheOf s x.stack).regions.any (fun r => r.isProg && r.slot == slot)
            match badStep steps.1 with
            | some i => acted (putStatus s f d 8 i) []
            | none =>
              if slotDenied s x.stack b.part slot then acted (putStatus s f d 10 0) []
              else if busy then acted (putStatus s f d 4 0) []
              else
                let s := setLathe s x.stack fun l => { l with progs := l.progs.filter (fun y => y.1 != slot) ++ [(slot, b.part, steps.1)] }
                acted (putStatus s f d 0 0) []) s ls) s

/-- Operand rows, from the region's first, that a program names (R106). -/
def operandRows (ws : List Word) (x y z : Nat) : List Nat :=
  ws.flatMap fun w =>
    ((if stepOpc w == 1 then [stepSel w 0, stepSel w 1] else []).filter (fun q => selSpace q != 0)).map fun q =>
      (match selSpace q with | 1 => x | 2 => y | _ => z) + selIdx q

/-- R276, R108. Bits [31:4] of the slot's register are ignored (DESIGN CHOICE, log 21: R276 calls them reserved and names no error). A program that
names no operand row has the subarray of row X, wherever that row is (DESIGN CHOICE, log 21: R106 gives it none). -/
def execRowop (h : Head) (p : LatheP) (s : State) : Result :=
  let d := p.d.toNat
  issue { useOf h (Instr.rowop h p).legal with feat := some 0, home := true, vw := [d] }
    (fun s b ls => firstLane (fun s f =>
      let c := capReg s f p.c.toNat
      match latheRights s b.part c (rCUT + rWR) with
      | some e => acted s [(f.key, trapF e)]
      | none =>
        if !drained s f then actWait s
        else onRange s b f c (fun e => acted (putStatus s f d e 0) []) fun s k bank row n =>
          let l := latheOf s k
          let w := fun i => (uni s f (p.s.toNat + i)).toNat
          let slot := w 3 % 16
          let prog := slotWords l slot
          let rows := operandRows prog (w 0) (w 1) (w 2)
          let reach := ([w 0, w 1, w 2] ++ rows).map fun r => subarrayOf (row + r)
          let busy := l.regions.any fun r => r.bank == bank && (if r.isProg then reach.contains r.sub else meets row n r.row r.n)
          if busy then acted (putStatus s f d 4 0) []
          else match freeEntry s k b.part with
          | none => acted (putStatus s f d 5 0) []
          | some i =>
            if slotDenied s k b.part slot then acted (putStatus s f d 10 0) []
            else if prog.isEmpty then acted (putStatus s f d 9 0) []
            else if rows.any (fun r => decide (n ≤ r)) || decide (1 < (distinct (rows.map fun r => subarrayOf (row + r))).length) then
              acted (putStatus s f d 3 0) []
            else if 63 ≤ f.rowCount then actWait s
            else
              let r : Region :=
                { Region.blank i b.part (canonObj (capObj c)) bank row n with
                  isProg := true, slot := slot, px := w 0, py := w 1, pz := w 2, order := s.seq + 256, fib := f.key, blk := b.id, opId := s.seq
                  sub := subarrayOf (row + rows.headD (w 0)) }
              let s := addRegion (settleBank s.fresh k bank) k r
              acted (putStatus (setFibre s f.key fun g => g.addOp r.opId 2) f d 0 0) []) s ls) s

/-! ### A program runs -/

/-- Cell of compute row `k` of a subarray: 0 D0, 1 D1, 2 to 5 T0 to T3 (log 1). -/
def computeCell (stack : Nat) (r : Region) (k : Nat) : Nat :=
  Config.rowBase + (((stack * Config.banksPerStack + r.bank) * 128 + r.sub) * 8 + k) * Config.rowBytes

/-- Cell of a selected row and whether its port is negated; none for C0 and C1. -/
def selCell (stack : Nat) (r : Region) (q : Nat) : Option (Nat × Bool) :=
  match selSpace q with
  | 0 =>
    (match selIdx q with
    | 0 | 1 => none
    | 2 => some (computeCell stack r 0, false)
    | 3 => some (computeCell stack r 0, true)
    | 4 => some (computeCell stack r 1, false)
    | 5 => some (computeCell stack r 1, true)
    | k => some (computeCell stack r (k - 4), false))
  | 1 => some (rowCell stack r.bank (r.row + r.px + selIdx q), false)
  | 2 => some (rowCell stack r.bank (r.row + r.py + selIdx q), false)
  | _ => some (rowCell stack r.bank (r.row + r.pz + selIdx q), false)

/-- All ones in a row. -/
def onesRow : Nat := 2 ^ 8192 - 1

/-- Value read through a selector (R106). -/
def selRead (s : State) (stack : Nat) (r : Region) (q : Nat) : Nat :=
  match selCell stack r q with
  | none => if selIdx q == 1 then onesRow else 0
  | some (a, neg) => let v := s.read a Config.rowBytes; if neg then onesRow - v else v

/-- Value written through a selector; the row's ECC is recomputed (R107, R108). -/
def selWrite (s : State) (stack : Nat) (r : Region) (q v : Nat) : State :=
  match selCell stack r q with
  | none => s
  | some (a, neg) =>
    let s := s.write a Config.rowBytes (if neg then onesRow - v else v)
    { s with ueMarks := s.ueMarks.filter (fun g => decide (g < a) || decide (a + Config.rowBytes ≤ g)) }

/-- Bitwise majority. -/
def majority (a b c : Nat) : Nat := (a &&& b) ||| (a &&& c) ||| (b &&& c)

/-- One step of a program (R107). -/
def doStep (s : State) (stack : Nat) (r : Region) (w : Word) : State :=
  match stepOpc w with
  | 1 => selWrite s stack r (stepSel w 1) (selRead s stack r (stepSel w 0))
  | _ =>
    let v := majority (selRead s stack r (stepSel w 0)) (selRead s stack r (stepSel w 1)) (selRead s stack r (stepSel w 2))
    selWrite (selWrite (selWrite s stack r (stepSel w 0) v) stack r (stepSel w 1) v) stack r (stepSel w 2) v

/-- The program of a bank that runs, or the first in its queue (R108). -/
def bankHead (l : Lathe) (bank : Nat) : Option Region :=
  let ps := l.regions.filter fun r => r.isProg && r.bank == bank
  (ps.find? (·.running)) <|> (sortBy (fun (r : Region) => r.order) ps).head?

/-- R106 to R108: a bank's program begins, or executes one step, or ends at END. -/
def execRowProgramStep (stack bank : Nat) (s : State) : Result :=
  let l := latheOf s stack
  match bankHead l bank with
  | none => .next s
  | some r =>
    if l.save then .next s
    else
      let busy := setLathe s stack fun l => { l with workAt := s.now }
      if !r.running then .next (setRegion busy stack r.idx fun r => { r with running := true })
      else
        let w := (slotWords l r.slot).getD r.step 0
        if stepOpc w == 0 then
          let s := setLathe busy stack fun l => { l with lastStep := mapPut (rangeKey r.bank r.row r.n) r.step l.lastStep }
          .next (completeOp (delRegion s stack r.idx) r.fib r.opId 2 false)
        else .next (setRegion (doStep busy stack r w) stack r.idx fun r => { r with step := r.step + 1 })

end Sys2Proof.Machine
end

