-- ==== Sys2Proof/Machine/Convert.lean ====
section
/-!
DEFINITION. Transcendental functions, division, conversion, E2M1X blocks, classification and tags (R285 to R292).
-/
namespace Sys2Proof.Machine

/-! ### Functions of R286 -/

/-- The eight functions and division: interlocked, on operands of the tag that FMT names (R285, R286; the functions' values are those
of `transV`, log 10). -/
def transAct (fn : TransFn) (h : Head) (p : TransP) (legal : Bool) (s : State) : Result :=
  let div := fn == .div
  let t := fmt3Tag p.fmt.toNat
  issue { useOf h legal with vr := if div then [p.a.toNat, p.b.toNat] else [p.a.toNat], vw := [p.d.toNat] }
    (fun s _ ls => regAct none
      (fun f => minCodes [checkTag (tagIs t) (f.reg p.a.toNat), if div then checkTag (tagIs t) (f.reg p.b.toNat) else none])
      (fun f => [.reg p.d.toNat
        { val := transResult fn p.fmt.toNat (rmOf p.rm.toNat) p.sat p.ftz (f.val p.a.toNat) (f.val p.b.toNat), tag := t }]) s ls) s

/-- R286: 1/a. -/
def execFrcp (h : Head) (p : TransP) (s : State) : Result := transAct .rcp h p (Instr.frcp h p).legal s

/-- R286: 1/√a. -/
def execFrsq (h : Head) (p : TransP) (s : State) : Result := transAct .rsq h p (Instr.frsq h p).legal s

/-- R286: √a. -/
def execFsqrt (h : Head) (p : TransP) (s : State) : Result := transAct .sqrt h p (Instr.fsqrt h p).legal s

/-- R286: 2^a. -/
def execFex2 (h : Head) (p : TransP) (s : State) : Result := transAct .ex2 h p (Instr.fex2 h p).legal s

/-- R286: log2 a. -/
def execFlg2 (h : Head) (p : TransP) (s : State) : Result := transAct .lg2 h p (Instr.flg2 h p).legal s

/-- R286: sin(π·a). -/
def execFsin (h : Head) (p : TransP) (s : State) : Result := transAct .sin h p (Instr.fsin h p).legal s

/-- R286: cos(π·a). -/
def execFcos (h : Head) (p : TransP) (s : State) : Result := transAct .cos h p (Instr.fcos h p).legal s

/-- R286: tanh a. -/
def execFtanh (h : Head) (p : TransP) (s : State) : Result := transAct .tanh h p (Instr.ftanh h p).legal s

/-- R286: a/b. -/
def execFdiv (h : Head) (p : TransP) (s : State) : Result := transAct .div h p (Instr.fdiv h p).legal s

/-! ### Conversion -/

/-- A destination of several elements is a source too (R287). -/
def cvtReadsD (p : FcvtP) : Bool := decide (1 < cvtElems p.df.toNat)

/-- R287. -/
def execFcvt (h : Head) (p : FcvtP) (s : State) : Result :=
  let a := p.a.toNat
  let d := p.d.toNat
  issue { useOf h (Instr.fcvt h p).legal with vr := if cvtReadsD p then [a, d] else [a], vw := [d] }
    (fun s _ ls => regAct (some 4)
      (fun f => minCodes [checkTag (tagIs (cvtTag p.sf.toNat)) (f.reg a),
        if cvtReadsD p then checkTag (tagIs (cvtTag p.df.toNat)) (f.reg d) else none])
      (fun f => [.reg d { val := cvtResult p (f.val a) (f.val d), tag := cvtTag p.df.toNat }]) s ls) s

/-! ### Blocks -/

/-- Element that the participant at a lane position supplies, +0 without one (R289). -/
def packElem (a : Nat) (ls : List Fibre) (j : Nat) : FVal :=
  match laneAt ls j with
  | some f => decF false .f32 (f.val a).toNat
  | none => .fin false 0 0

/-- Registers that FPACK writes in every participant (R289). -/
def packOut (p : BlkP) (ls : List Fibre) : List PendDest :=
  let q := fpackBlock p.spx p.hr.toNat ((List.range 32).map (packElem p.a.toNat ls))
  (List.range 4).map (fun i => .reg (p.d.toNat + i)
      { val := BitVec.ofNat 32 (packNibbles ((q.2.drop (8 * i)).take 8)), tag := tE2m1x8 })
    ++ [.reg p.h.toNat { val := BitVec.ofNat 32 q.1, tag := tBlkhdr }]

/-- R289. -/
def execFpack (h : Head) (p : BlkP) (s : State) : Result :=
  let chk := fun (f : Fibre) => checkTag (tagIs tF32) (f.reg p.a.toNat)
  issue { useOf h (Instr.fpack h p).legal with
      vr := [p.a.toNat], vw := (List.range 4).map (· + p.d.toNat) ++ [p.h.toNat] }
    (fun s _ ls => regAct none chk (fun _ => packOut p (ls.filter (fun f => (chk f).isNone))) s ls) s

/-- R290. -/
def execFunpk (h : Head) (p : BlkP) (s : State) : Result :=
  let es := (List.range 4).map (· + p.a.toNat)
  issue { useOf h (Instr.funpk h p).legal with vr := es ++ [p.h.toNat], vw := [p.d.toNat] }
    (fun s _ ls => regAct none
      (fun f => minCodes (checkTag (tagIs tBlkhdr) (f.reg p.h.toNat) :: es.map fun r => checkTag (tagIs tE2m1x8) (f.reg r)))
      (fun f => [.reg p.d.toNat { val := funpkElem (f.val (p.a.toNat + f.lane / 8)) (f.val p.h.toNat) f.lane, tag := tF32 }]) s ls) s

/-! ### Classes and tags -/

/-- R291. -/
def execFclass (h : Head) (p : FclassP) (s : State) : Result :=
  let fmt := p.fmt.toNat
  issue { useOf h (Instr.fclass h p).legal with vr := [p.a.toNat], vw := [p.d.toNat], pw := if p.pv then [p.pd.toNat] else [] }
    (fun s _ ls => regAct (some 2) (fun f => checkTag (tagIs (fclassTag fmt)) (f.reg p.a.toNat))
      (fun f =>
        let cs := fclassCodes fmt (f.val p.a.toNat)
        .reg p.d.toNat { val := BitVec.ofNat 32 (packNibbles cs), tag := tI32 }
          :: (if p.pv then [.pred p.pd.toNat (cs.any (fun c => c == 0 || c == 7 || c == 8))] else [])) s ls) s

/-- R292. -/
def execTagset (h : Head) (p : TagsetP) (s : State) : Result :=
  issue { useOf h (Instr.tagset h p).legal with vw := [p.d.toNat] }
    (fun s _ ls => regAct (some 2) (fun _ => none) (fun _ => [.tag p.d.toNat p.tag]) s ls) s

/-! ### Tile registers' tags -/

/-- Number of tile register `m` of a block among all tiles of the package. -/
def tileNo (b : Block) (m : Nat) : Nat := 16 * b.id + m

/-- A tile that nothing has written: +0 tagged RAW (log 7). -/
def Tile.zero (n : Nat) : Tile := { no := n, tag := tRaw, els := List.replicate 4096 0, usedAt := 0, usedBy := 0 }

def tileOf (s : State) (n : Nat) : Tile := findD (fun t => t.no == n) (Tile.zero n) s.tiles

def setTile (s : State) (n : Nat) (g : Tile → Tile) : State :=
  { s with tiles := upsert (fun t => t.no == n) (Tile.zero n) g s.tiles }

/-- A higher port has accessed the tile in this cycle: an access of a lower one, which would come before it, waits for the next cycle (R304). -/
def tileLate (s : State) (port n : Nat) : Bool :=
  let t := tileOf s n
  t.usedAt == s.now + 1 && decide (port < t.usedBy)

/-- A batch of a port accesses the tile in this cycle (R304). -/
def useTile (s : State) (port n : Nat) : State := setTile s n fun t => { t with usedAt := s.now + 1, usedBy := port }

/-- The port of the lanes that act. -/
def portOfLanes (ls : List Fibre) : Nat := (ls.head?.map (·.key.port)).getD 0

/-- R292: the tag of a register, or of a tile, without a wait. -/
def execTagget (h : Head) (p : TaggetP) (s : State) : Result :=
  let a := p.a.toNat
  issue { useOf h (Instr.tagget h p).legal with
      vr := if p.tm then [] else [a], vw := [p.d.toNat], tiles := if p.tm then [a] else [], home := p.tm }
    (fun s b ls => regAct (some 2) (fun _ => none)
      (fun f => [.reg p.d.toNat { val := ((if p.tm then (tileOf s (tileNo b a)).tag else (f.reg a).tag) : BitVec 4).setWidth 32, tag := tI32 }]) s ls) s

end Sys2Proof.Machine
end

