-- ==== Sys2Proof/Machine/Tiles.lean ====
section
/-!
DEFINITION. Parameter blocks of MXOP and the tile-access instructions (R294, R295, R300 to R304).
-/
namespace Sys2Proof.Machine

/-! ### Parameter blocks -/

/-- `n` bits of a number from bit `lo`. -/
def bitsAt (v lo n : Nat) : Nat := v / 2 ^ lo % 2 ^ n

/-- A list of words as a number, the first lowest. -/
def natOf : List Word → Nat
  | [] => 0
  | w :: ws => w.toNat + 2 ^ 32 * natOf ws

/-- A parameter block's 512 bits (R294). -/
def MxEntry.blkBits (e : MxEntry) : Nat := natOf e.params

def mxCt (v : Nat) : Nat := bitsAt v 0 4
def mxBt (v : Nat) : Nat := bitsAt v 4 4
def mxBsrc (v : Nat) : Nat := bitsAt v 8 2
def mxAfmt (v : Nat) : Nat := bitsAt v 10 2
def mxRung (v r : Nat) : Nat := bitsAt v (12 + 4 * r) 4
def mxTb (v : Nat) : Bool := v.testBit 24
def mxIxp (v : Nat) : Bool := v.testBit 25
def mxWv (v : Nat) : Bool := v.testBit 27
def mxWsp (v : Nat) : Bool := v.testBit 28
def mxK (v : Nat) : Nat := 64 * (bitsAt v 32 6 + 1)
def mxSpm (v : Nat) : Nat := bitsAt v 38 2
def mxSpn (v : Nat) : Nat := bitsAt v 40 5
def mxCexp (v : Nat) : Nat := bitsAt v 45 5
def mxHr (v : Nat) : Nat := bitsAt v 50 2
def mxBcap (v : Nat) : Nat := bitsAt v 52 4
def mxWcap (v : Nat) : Nat := bitsAt v 56 4
def mxIxoff (v : Nat) : Nat := bitsAt v 64 32
def mxAoff (v : Nat) : Nat := bitsAt v 96 32
def mxAstride (v : Nat) : Nat := bitsAt v 128 32
def mxSmoff (v : Nat) : Nat := bitsAt v 160 32
def mxBaroff (v : Nat) : Nat := bitsAt v 192 32
def mxBnoff (v : Nat) : Nat := bitsAt v 224 32
def mxBwoff (v : Nat) : Nat := bitsAt v 256 64
/-- Budget of a rung: 0 saturation, 1 underflow, 2 cancellation. -/
def mxBudget (v r k : Nat) : Nat := bitsAt v (320 + 48 * r + 16 * k) 16

/-- M of N:M; 0 when dense. -/
def mxM (v : Nat) : Nat := if mxSpm v == 0 then 0 else 2 * 2 ^ mxSpm v

/-- Rungs of the ladder. -/
def mxRungs (v : Nat) : Nat := if mxRung v 1 == 0 then 1 else if mxRung v 2 == 0 then 2 else 3

def mxInt8 (v : Nat) : Bool := mxRung v 0 == 6

/-- Place of a rung format in the widening order (R141). -/
def rungClass (f : Nat) : Nat := match f with | 1 => 1 | 2 | 3 => 2 | 4 | 5 => 3 | _ => 4

/-- Bytes of a wide element. -/
def wideBytes (afmt : Nat) : Nat := match afmt with | 0 => 4 | 3 => 1 | _ => 2

/-- Bytes of a narrow B tile (R296). -/
def narrowTile (f : Nat) : Nat := match f with | 1 => 2560 | 4 | 5 => 8192 | _ => 4096

/-- Bytes of a wide B tile (R296). -/
def wideTile (afmt : Nat) : Nat := 4096 * wideBytes afmt

/-- A rung's three budgets are 0. -/
def noBudget (v r : Nat) : Bool := (List.range 3).all fun k => mxBudget v r k == 0

/-- A malformed parameter block (R295). The budgets of a rung that is none, headroom without an E2M1X rung, and the cancellation exponent and
budgets of an INT8 ladder, whose steps are never counted, are fields whose condition does not hold (R141 to R143). -/
def mxMalformed (v : Nat) : Bool :=
  let r0 := mxRung v 0
  let r1 := mxRung v 1
  let r2 := mxRung v 2
  let n := mxRungs v
  let bs := mxBsrc v
  bitsAt v 26 1 != 0 || bitsAt v 29 3 != 0 || bitsAt v 60 4 != 0 || bitsAt v 464 48 != 0
  || decide (6 < r0) || decide (6 < r1) || decide (6 < r2) || r0 == 0 || (r1 == 0 && r2 != 0) || bs == 3
  || (r1 != 0 && decide (rungClass r1 ≤ rungClass r0)) || (r2 != 0 && decide (rungClass r2 ≤ rungClass r1))
  || (n != 1 && (r0 == 6 || r1 == 6 || r2 == 6)) || ((mxAfmt v == 3) != (n == 1 && r0 == 6))
  || (decide (1 < n) && bs != 2 && !mxWv v) || (mxWv v && (n == 1 || bs == 2))
  || (bs == 2 && (mxK v != 64 || r0 == 6))
  || (mxSpm v == 0 && (mxSpn v != 0 || mxSmoff v != 0))
  || (mxSpm v != 0 && (decide (mxSpn v < mxM v / 4) || decide (mxM v ≤ mxSpn v)))
  || decide (24 < mxCexp v)
  || (r1 == 0 && !noBudget v 1) || (r2 == 0 && !noBudget v 2) || (r0 == 6 && (mxCexp v != 0 || !noBudget v 0))
  || (r0 != 1 && r1 != 1 && r2 != 1 && mxHr v != 0)
  || (bs != 2 && mxBt v != 0) || (bs == 2 && mxBnoff v != 0) || (bs != 1 && mxBcap v != 0)
  || ((!mxWv v || mxWsp v) && mxWcap v != 0) || (!mxWv v && (mxWsp v || mxBwoff v != 0))
  || (mxWsp v && decide (2 ^ 32 ≤ mxBwoff v)) || (mxIxp v && mxIxoff v != 0)
  || mxIxoff v % 16 != 0 || mxAoff v % 16 != 0 || mxAstride v % 16 != 0 || mxBaroff v % 16 != 0

/-! ### Tile access -/

/-- Uncommitted operations of a block that name a tile register; as their accumulator alone where `acc` (R136, R304). -/
def tileBusy (s : State) (b : Block) (m : Nat) (acc : Bool) : Bool :=
  (engineOf s b.cluster).entries.any fun e =>
    e.blk == b.id && (mxCt e.blkBits == m || (!acc && mxBsrc e.blkBits == 2 && mxBt e.blkBits == m))

/-- First element that an index names (R301). -/
def elemAt (w : Word) : Nat := w.toNat % 4096

/-- Elements of MXRD and MXWR. -/
def elemCount (p : MxElemP) : Nat := if p.w4 then 4 else 1

def elemRegs (p : MxElemP) : List Nat := (List.range (elemCount p)).map (· + p.d.toNat)

/-- Footprint of a tile-access instruction. -/
def tileUse (h : Head) (legal : Bool) (m : Nat) : Use := { useOf h legal with mx := true, home := true, tiles := [m] }

/-- A lane's checks of its index, its sources and the tile (R301). -/
def elemChk (p : MxElemP) (t : Tile) (srcs : List Nat) (f : Fibre) : Option Nat :=
  minCodes [checkRegs f (p.a.toNat :: srcs), if p.w4 && elemAt (f.val p.a.toNat) % 4 != 0 then some cMisaligned else none,
    if t.tag == tInvalid then some cTagInvalid else none]

/-- The tile holds an access back: an operation of the engine that names it, or a higher port's access of the same cycle (R136, R304). -/
def tileHeld (s : State) (b : Block) (m : Nat) (ls : List Fibre) : Bool := tileBusy s b m false || tileLate s (portOfLanes ls) (tileNo b m)

/-- R301. -/
def execMxrd (h : Head) (p : MxElemP) (s : State) : Result :=
  let m := p.m.toNat
  issue { tileUse h (Instr.mxrd h p).legal m with vr := [p.a.toNat], vw := elemRegs p }
    (fun s b ls =>
      if tileHeld s b m ls then actWait s
      else
        let t := tileOf s (tileNo b m)
        regAct none (elemChk p t [])
          (fun f => (List.range (elemCount p)).map fun k =>
            .reg (p.d.toNat + k) { val := t.els.getD (elemAt (f.val p.a.toNat) + k) 0, tag := t.tag })
          (if ls.isEmpty then s else useTile s (portOfLanes ls) (tileNo b m)) ls) s

/-- Elements written by one lane of MXWR. -/
def writeElems (p : MxElemP) (els : List Word) (f : Fibre) : List Word :=
  (List.range (elemCount p)).foldl (fun l k => l.set (elemAt (f.val p.a.toNat) + k) (f.val (p.d.toNat + k))) els

/-- Tag of a tile that registers of these tags were written into (R301). -/
def commonTag (ts : List (BitVec 4)) : BitVec 4 :=
  match ts with
  | [] => tRaw
  | t :: r => if r.all (· == t) then t else tRaw

/-- R301. -/
def execMxwr (h : Head) (p : MxElemP) (s : State) : Result :=
  let m := p.m.toNat
  issue { tileUse h (Instr.mxwr h p).legal m with vr := p.a.toNat :: elemRegs p }
    (fun s b ls =>
      if tileHeld s b m ls then actWait s
      else
        let chk := elemChk p (tileOf s (tileNo b m)) (elemRegs p)
        let ok := ls.filter (fun f => (chk f).isNone)
        let s := if ok.isEmpty then s else setTile (useTile s (portOfLanes ls) (tileNo b m)) (tileNo b m) fun t =>
          { t with els := ok.foldl (writeElems p) t.els, tag := commonTag (ok.flatMap fun f => (elemRegs p).map fun r => (f.reg r).tag) }
        acted s (trapsOf chk ls)) s

/-- R302. -/
def execMxclr (h : Head) (p : MxclrP) (s : State) : Result :=
  let m := p.m.toNat
  issue (tileUse h (Instr.mxclr h p).legal m)
    (fun s b ls =>
      if ls.isEmpty then acted s []
      else if tileHeld s b m ls then actWait s
      else acted (useTile (setTile s (tileNo b m) fun t => Tile.zero t.no) (portOfLanes ls) (tileNo b m)) []) s

/-- R303. -/
def execMxstat (h : Head) (p : MxstatP) (s : State) : Result :=
  issue { useOf h (Instr.mxstat h p).legal with mx := true, home := true, vw := [p.d.toNat, p.d.toNat + 1] }
    (fun s b ls => regAct none (fun _ => none)
      (fun _ =>
        let x : BitVec 64 := match p.sel.toNat with
          | 0 => b.replay.bits
          | 1 => ((kernel? s b.kernel).map (fun k => k.replay.bits)).getD 0
          | _ => s.pkgReplay.bits
        [.reg p.d.toNat { val := loWord x, tag := tI64lo }, .reg (p.d.toNat + 1) { val := hiWord x, tag := tI64hi }]) s ls) s

end Sys2Proof.Machine
end

