-- ==== Sys2Proof/Machine/Matrix.lean ====
section
/-!
DEFINITION. The matrix engine: MXOP at issue (R293 to R299), operands (R137 to R140, R296), narrowing and monitors (R142, R143), the
accumulation (R81 to R83), passes, replay and commit (R14, R135, R143 to R146, R379), and the engine's reset (R305, R376).
-/
namespace Sys2Proof.Machine

/-! ### At issue -/

/-- Index vector of a parameter block from its 128 bytes. -/
def indexVec (x : Nat) : List Nat := (List.range 64).map fun i => bitsAt x (16 * i) 16

/-- Local offset one past the last byte of a tile row of A. -/
def rowEnd (v entry : Nat) : Nat := mxAoff v + entry * mxAstride v + mxK v * wideBytes (mxAfmt v)

/-- The barrier granule of an operation. -/
def mxBar (b : Block) (v : Nat) : Nat := granOf (spadCell b (mxBaroff v))

/-- Local offset of the first scratchpad range outside the allocation, in the order of R293's table. -/
def mxSpadBad (s : State) (b : Block) (v : Nat) : Option Nat :=
  let out := fun (lo n : Nat) => decide (b.spadSize < lo + n)
  if !mxIxp v && out (mxIxoff v) 128 then some (mxIxoff v)
  else match (if mxIxp v then [] else indexVec (s.read (spadCell b (mxIxoff v)) 128)).find? (fun e => decide (b.spadSize < rowEnd v e)) with
  | some e => some (mxAoff v + e * mxAstride v)
  | none =>
    if mxSpm v != 0 && out (mxSmoff v) (8 * mxK v) then some (mxSmoff v)
    else if mxBsrc v == 0 && out (mxBnoff v) (mxK v / 64 * narrowTile (mxRung v 0)) then some (mxBnoff v)
    else if mxWsp v && out (mxBwoff v) (mxK v / 64 * wideTile (mxAfmt v)) then some (mxBwoff v)
    else none

/-- Bounds and rights of a range that B takes through a capability (R293, R54, R66). -/
def mxCapChk (c : CapWord) (off : Int) (n : Nat) (ok : Bool) : Option Nat :=
  if c == 0 then some cCapRights
  else if off < 0 || (capLimit c : Int) + 1 < off + n then some cCapBounds
  else if capRights c &&& rRD != rRD || !ok then some cCapRights
  else none

/-- Checks of a well-read parameter block, each with its INFO (R293, R354). -/
def mxChk (s : State) (b : Block) (f : Fibre) (v : Nat) : List (Option Nat × Nat) :=
  if mxMalformed v then [(some cIllegalOp, 0)]
  else
    let bs := mxBsrc v
    let bc := capReg s f (mxBcap v)
    let wc := capReg s f (mxWcap v)
    let n := mxK v / 64
    let share := b.tileN ≤ mxCt v || (bs == 2 && decide (b.tileN ≤ mxBt v))
    let wo := (BitVec.ofNat 64 (mxBwoff v)).toInt
    [(if spadCheck b (mxBaroff v) 16 == none && s.isLive (mxBar b v) then none else some cIllegalOp, 0),
     (if share then some cWindowRange else none, 0),
     (if share then none else checkTag (tagIs (if mxInt8 v then tI32 else tF32)) { val := 0, tag := (tileOf s (tileNo b (mxCt v))).tag }, 0),
     (if share || bs != 2 then none else checkTag (tagIs tF32) { val := 0, tag := (tileOf s (tileNo b (mxBt v))).tag }, 0),
     ((mxSpadBad s b v).map (fun _ => cSpadBounds), (mxSpadBad s b v).getD 0),
     (if bs == 1 then mxCapChk bc (mxBnoff v) (n * narrowTile (mxRung v 0)) (objName s b.part (capObj bc) == .weight (b.cluster / 48)) else none,
      infoOf ((capBase bc : Int) + mxBnoff v)),
     (if mxWv v && !mxWsp v then
        mxCapChk wc wo (n * wideTile (mxAfmt v)) (match objName s b.part (capObj wc) with | .weight _ | .window => false | _ => true)
      else none, infoOf ((capBase wc : Int) + wo))]

/-- A reservation entry for an operation (R135). -/
def mxEntry (s : State) (b : Block) (f : Fibre) (idx v : Nat) : MxEntry :=
  { idx := idx, blk := b.id, fib := f.key, fid := f.fid, pc := f.pc, opId := s.seq, issue := s.now, prio := b.prio
    params := wordsN v 16, bcap := capReg s f (mxBcap v), wcap := capReg s f (mxWcap v)
    index := if mxIxp v then [] else indexVec (s.read (spadCell b (mxIxoff v)) 128)
    hurt := !mxIxp v && s.ue (spadCell b (mxIxoff v)) 128
    needPort := mxIxp v, active := false, shadow := [], keep := [], rung := 0, pass := 0, acc := [], satN := 0, undN := 0, canN := 0
    nonfin := false, replays := 0, granted := false, lastGrant := s.now, activeAt := s.now, waits := [], xl := [] }

/-- The tile registers that an operation names (R294). -/
def mxTiles (b : Block) (v : Nat) : List Nat := tileNo b (mxCt v) :: if mxBsrc v == 2 then [tileNo b (mxBt v)] else []

/-- R293, R134 to R137, R299. The reads that are made at issue come after the fibre's earlier loads and atomics (R160, R163, R169). An operation
whose barrier already has PENDING = 2^24 - 1 waits before issue (DESIGN CHOICE, log 21: R134 is silent), and one that fails a check traps
before it waits for a busy tile B (DESIGN CHOICE, log 21: R136 and R293 do not order the two). -/
def execMxop (h : Head) (p : RegP) (s : State) : Result :=
  let a := p.a.toNat
  issue { useOf h (Instr.mxop h p).legal with mx := true, home := true, vr := [a] }
    (fun s b ls => firstLane (fun s f =>
      let o := (f.val a).toNat
      let v := s.read (spadCell b o) 64
      match firstTrap [(checkTag none (f.reg a), 0), (if b.spadSize < o + 64 then some cSpadBounds else none, o)] with
      | some e => acted s [(f.key, e)]
      | none =>
        if f.reading || ownPending s f true 0 o 64 || (!mxIxp v && ownPending s f true 0 (mxIxoff v) 128) then actWait s
        else match firstTrap ((if o % 64 != 0 then some cMisaligned else none, o)
            :: (if s.ue (spadCell b o) 64 then [(some cDataUe, o)] else mxChk s b f v)) with
        | some e => acted s [(f.key, e)]
        | none =>
          let used := (engineOf s b.cluster).entries.map (·.idx)
          match lowestFree used 32 with
          | none => actWait s
          | some i =>
            if 63 ≤ f.counter 1 || (mxBsrc v == 2 && tileBusy s b (mxBt v) true) || (mxTiles b v).any (tileLate s f.key.port)
                || decide (2 ^ 24 - 1 ≤ (barObj s (mxBar b v)).pending) then actWait s
            else
              let e := mxEntry s b f i v
              let s := setEngine ((mxTiles b v).foldl (fun s t => useTile s f.key.port t) s.fresh) b.cluster fun g =>
                { g with entries := g.entries ++ [e] }
              acted (setFibre (pendingUp s (mxBar b v) 1) f.key fun g => g.addOp e.opId 1) []) s ls) s

/-! ### Operands -/

/-- Index of the element at row `i`, column `j` of a tile in Z-order (R140). -/
def zIndex (i j : Nat) : Nat :=
  16 * ((List.range 4).map fun k => j / 4 / 2 ^ k % 2 * 4 ^ k + i / 4 / 2 ^ k % 2 * 2 * 4 ^ k).sum + 4 * (i % 4) + j % 4

/-- Row and column of an element index of a tile in Z-order (R140). -/
def zPos (x : Nat) : Nat × Nat :=
  let l := x / 16
  (4 * ((List.range 4).map fun k => l / (2 * 4 ^ k) % 2 * 2 ^ k).sum + x / 4 % 4, 4 * ((List.range 4).map fun k => l / 4 ^ k % 2 * 2 ^ k).sum + x % 4)

/-- Index of B's element (k, j) in its tile (R296). -/
def bIndex (tb : Bool) (k j : Nat) : Nat := if tb then zIndex j (k % 64) else zIndex (k % 64) j

/-- Float format of a wide format code. -/
def wideFmt (afmt : Nat) : FloatFmt := match afmt with | 0 => .f32 | 1 => .bf16 | _ => .f16

/-- Float format of a rung code other than E2M1X and INT8. -/
def rungFmt (r : Nat) : FloatFmt := match r with | 2 => .e4m3 | 3 => .e5m2 | 4 => .bf16 | _ => .f16

/-- Thirty-two elements along K: values, scale, and what the monitors count (R142, R143). -/
structure Strip where
  vals : List FVal
  scale : FVal
  sat : Nat
  und : Nat
  non : Bool
deriving DecidableEq, Repr

def oneV : FVal := .fin false 1 0
def zeroV : FVal := .fin false 0 0

/-- Narrowing of 32 wide values, each with whether it is kept (R142, R143). -/
def narrowStrip (rung hr : Nat) (xs : List (FVal × Bool)) : Strip :=
  let ys := xs.map fun x => if x.2 then x.1 else zeroV
  let non := ys.any nonFinite
  let tally := fun (q : FVal → Bool) => (ys.filter (fun y => !nonFinite y && q y)).length
  if rung == 1 then
    if non then { vals := ys.map (fun _ => .nan), scale := .nan, sat := 0, und := 0, non := true }
    else
      let big := ys.foldl (fun (m : FVal) x => if ltV m (absV x) then absV x else m) zeroV
      let sc := if isZeroV big then 0 else max (-126) (min 127 (log2Mag big - 2 + (hr : Int)))
      let code := fun y => e2m1Code (scaleV (-sc) y)
      { vals := ys.map fun y => e2m1Val none (code y), scale := scaleV sc oneV
        sat := tally fun y => !ltV (absV (scaleV (-sc) y)) (.fin false 7 0)
        und := tally fun y => !isZeroV y && code y == 0
        non := false }
  else
    let g := rungFmt rung
    let cv := fun y => decF false g (roundF .rne true false g y)
    { vals := ys.map cv, scale := oneV
      sat := tally fun y => nonFinite (decF false g (roundF .rne false false g y))
      und := tally fun y => !isZeroV y && isZeroV (cv y)
      non := non }

/-- Strip `bk` of tile row `i` of A, from the shadow (R138, R142). -/
def aStrip (v : Nat) (e : MxEntry) (i bk : Nat) : Strip :=
  let at' := i * mxK v + 32 * bk
  narrowStrip (mxRung v e.rung) (mxHr v)
    ((List.range 32).map fun t => (decF false (wideFmt (mxAfmt v)) (e.shadow.getD (at' + t) 0), e.keep.getD (at' + t) true))

/-- Number of `n` bytes of which byte `x` lies at cell `at' x`. -/
def readBy (s : State) (at' : Nat → Nat) (x : Nat) : Nat → Nat
  | 0 => 0
  | n + 1 => (memGet s.mem (at' x)).toNat + 256 * readBy s at' (x + 1) n

/-- Cell of a byte of the narrow copy of B, from BNOFF (R296, R66). -/
def narrowCell (b : Block) (v : Nat) (e : MxEntry) (x : Nat) : Nat :=
  if mxBsrc v == 0 then spadCell b (mxBnoff v + x)
  else Config.weightBase + b.cluster / 48 * 2 ^ 32 + capBase e.bcap + mxBnoff v + x

/-- Object offset of a byte of B's wide copy. -/
def wideOff (v : Nat) (e : MxEntry) (x : Nat) : Nat := ((capBase e.wcap : Int) + (BitVec.ofNat 64 (mxBwoff v)).toInt + x).toNat

/-- Cell of a byte of B's wide copy, from the places its entry holds (R58, R296). -/
def wideCell (b : Block) (v : Nat) (e : MxEntry) (x : Nat) : Nat :=
  if mxWsp v then spadCell b (mxBwoff v + x)
  else
    let o := wideOff v e x
    (((e.xl.find? (fun y => y.page == o / 4096 * 4096)).bind (·.place)).getD 0) + o % 4096

/-- The rung reads B's narrow copy as stored. -/
def storedB (v : Nat) (e : MxEntry) : Bool := mxBsrc v != 2 && e.rung == 0

/-- Strip `bk` of column `j` of B (R142, R296). -/
def bStrip (s : State) (b : Block) (v : Nat) (e : MxEntry) (j bk : Nat) : Strip :=
  let rung := mxRung v e.rung
  let ks := (List.range 32).map (· + 32 * bk)
  if mxBsrc v == 2 then
    let t := tileOf s (tileNo b (mxBt v))
    narrowStrip rung (mxHr v) (ks.map fun k =>
      (decF false .f32 (t.els.getD (if mxTb v then 64 * j + k % 64 else 64 * (k % 64) + j) 0).toNat, true))
  else if storedB v e then
    let tile := bk / 2 * narrowTile rung
    let cell := narrowCell b v e
    if rung == 1 then
      let hd := readBy s cell (tile + 2048 + 4 * (2 * j + bk % 2)) 4
      let code := fun k => let x := bIndex (mxTb v) k j; (readBy s cell (tile + x / 2) 1) / 16 ^ (x % 2) % 16
      { vals := ks.map fun k => if blkMalformed hd then .nan else e2m1Val (blkSpecial hd) (code k)
        scale := if blkMalformed hd then .nan else blkScale hd, sat := 0, und := 0, non := false }
    else
      let n := narrowTile rung / 4096
      { vals := ks.map fun k => decF false (rungFmt rung) (readBy s cell (tile + n * bIndex (mxTb v) k j) n)
        scale := oneV, sat := 0, und := 0, non := false }
  else
    let n := wideBytes (mxAfmt v)
    narrowStrip rung (mxHr v) (ks.map fun k =>
      (decF false (wideFmt (mxAfmt v)) (readBy s (wideCell b v e) (bk / 2 * wideTile (mxAfmt v) + n * bIndex (mxTb v) k j) n), true))

/-! ### One pass -/

/-- One accumulation step (R81): the new accumulator, and whether the cancellation monitor counts it (R143). -/
def accStep (c : Nat) (x y : Strip) (acc : Word) : Word × Bool :=
  let p := (x.vals.zip y.vals).foldl (fun q z => addV .rne q (mulV z.1 z.2)) zeroV
  let t := mulV (mulV p x.scale) y.scale
  let a := decF false .f32 acc.toNat
  let r := roundF .rne false false .f32 (addV .rne a t)
  let n := decF false .f32 r
  let m := if ltV (absV a) (absV t) then absV t else absV a
  (BitVec.ofNat 32 r, !nonFinite n && c != 0 && ltV (absV n) (scaleV (-(c : Int)) m))

/-- The pass that consumes the 64 values of K numbered `g`. A sparse pass covers M/N times 64 values of K; where its end falls within 64 values
that R143 keeps in one pass, the pass that covers the last of them consumes them all (R13, R143; DESIGN CHOICE, log 21: R13 does not say
how K is divided where 64 M/N does not divide it, and the count is then rounded up). -/
def passOf (v g : Nat) : Nat := if mxSpm v == 0 then g else ((g + 1) * mxSpn v + mxM v - 1) / mxM v - 1

/-- Passes of an operation's rung: K/64 dense, M/N times fewer sparse, rounded up (R13; log 21). -/
def passCount (v : Nat) : Nat := passOf v (mxK v / 64 - 1) + 1

/-- Strips along K that pass `p` consumes (R143). -/
def passStrips (v p : Nat) : List Nat := (List.range (mxK v / 32)).filter fun bk => passOf v (bk / 2) == p

/-- Clocks of a pass at step 0 (R13). -/
def passClocks (v : Nat) (e : MxEntry) : Nat := match mxRung v e.rung with | 1 => 16 | 4 | 5 => 64 | _ => 32

/-- One float strip along K in all 64 by 64 accumulators. -/
def floatStrip (s : State) (b : Block) (v : Nat) (e : MxEntry) (bk : Nat) : MxEntry :=
  let as := (List.range 64).map fun i => aStrip v e i bk
  let bs := (List.range 64).map fun j => bStrip s b v e j bk
  let rs := ((as.flatMap fun x => bs.map fun y => (x, y)).zip e.acc).map fun z => accStep (mxCexp v) z.1.1 z.1.2 z.2
  { e with
    acc := rs.map (·.1)
    satN := e.satN + (as.map (·.sat)).sum + (bs.map (·.sat)).sum
    undN := e.undN + (as.map (·.und)).sum + (bs.map (·.und)).sum
    canN := e.canN + (rs.filter (·.2)).length
    nonfin := e.nonfin || as.any (·.non) || bs.any (·.non) }

/-- One INT8 strip (R83). -/
def intStrip (s : State) (b : Block) (v : Nat) (e : MxEntry) (bk : Nat) : MxEntry :=
  let ks := (List.range 32).map (· + 32 * bk)
  let byte := fun (n : Nat) => (BitVec.ofNat 8 n).toInt
  let a := fun (i k : Nat) => if e.keep.getD (i * mxK v + k) true then byte (e.shadow.getD (i * mxK v + k) 0) else 0
  let bv := fun (j k : Nat) => byte (readBy s (narrowCell b v e) (k / 64 * 4096 + bIndex (mxTb v) k j) 1)
  let sums := (List.range 64).flatMap fun i => (List.range 64).map fun j => (ks.map fun k => a i k * bv j k).sum
  { e with acc := (sums.zip e.acc).map fun z => z.2 + BitVec.ofInt 32 z.1 }

/-- The work of the pass at hand. -/
def doPass (s : State) (b : Block) (v : Nat) (e : MxEntry) : MxEntry :=
  (passStrips v e.pass).foldl (fun e bk => if mxInt8 v then intStrip s b v e bk else floatStrip s b v e bk) e

/-- Pages of the wide copy that the pass at hand reads. -/
def widePages (v : Nat) (e : MxEntry) : List Nat :=
  if mxBsrc v == 2 || e.rung == 0 || mxWsp v then []
  else
    let n := wideTile (mxAfmt v)
    distinct ((passStrips v e.pass).flatMap fun bk =>
      let lo := wideOff v e (bk / 2 * n) / 4096
      (List.range (wideOff v e (bk / 2 * n + n - 1) / 4096 + 1 - lo)).map fun i => (lo + i) * 4096)

/-- Some byte of B that the pass at hand reads holds an uncorrectable error (R298). -/
def passUe (s : State) (b : Block) (v : Nat) (e : MxEntry) : Bool :=
  if mxBsrc v == 2 then false
  else
    let n := if storedB v e then narrowTile (mxRung v e.rung) else wideTile (mxAfmt v)
    let cell := if storedB v e then narrowCell b v e else wideCell b v e
    (passStrips v e.pass).any fun bk => (List.range (n / 16)).any fun i =>
      s.ue (cell (bk / 2 * n + 16 * i)) 1 || s.ue (cell (bk / 2 * n + 16 * i + 15)) 1

/-! ### Entries -/

def setMx (s : State) (c i : Nat) (g : MxEntry → MxEntry) : State :=
  setEngine s c fun x => { x with entries := x.entries.map fun e => if e.idx == i then g e else e }

/-- The entry's end: PENDING of its barrier, its counter, its reservation (R145, R298). -/
def endMx (s : State) (b : Block) (e : MxEntry) (err : Bool) : State :=
  let s := setEngine s b.cluster fun x =>
    { x with entries := x.entries.filter (fun y => y.idx != e.idx), starving := if x.starving == some e.idx then none else x.starving }
  let s := forget s fun w => w == .mx b.cluster e.idx
  deliver (completeOp (pendingDown s (mxBar b e.blkBits)) e.fib e.opId 1 err)

/-- One more commit in a set of counters (R146). -/
def Replay.add (r : Replay) (n : Nat) (ex : Bool) : Replay :=
  { tiles := BitVec.ofNat 24 (min (2 ^ 24 - 1) (r.tiles.toNat + 1))
    replays := BitVec.ofNat 24 (min (2 ^ 24 - 1) (r.replays.toNat + n))
    exhausted := BitVec.ofNat 16 (min (2 ^ 16 - 1) (r.exhausted.toNat + ex.toNat)) }

/-- The tile commits (R145, R146, R89). -/
def commitMx (s : State) (b : Block) (e : MxEntry) (ex : Bool) : State :=
  let v := e.blkBits
  let s := setTile s (tileNo b (mxCt v)) fun t => { t with els := e.acc, tag := if mxInt8 v then tI32 else tF32 }
  let s := setBlock s b.id fun b => { b with replay := b.replay.add e.replays ex }
  let s := setKernel s b.kernel fun k => { k with replay := k.replay.add e.replays ex }
  endMx { s with pkgReplay := s.pkgReplay.add e.replays ex } b e false

/-- The order in which entries are served: priority, issue, index (R135). -/
def mxRank (e : MxEntry) : Nat := ((7 - e.prio) * 2 ^ 64 + e.issue) * 32 + e.idx

/-- An earlier entry of the block that an entry's accumulator must wait for (R135, R304; log 19). -/
def mxBlocked (es : List MxEntry) (e : MxEntry) : Bool :=
  es.any fun x => x.blk == e.blk && decide (x.opId < e.opId)
    && (mxCt x.blkBits == mxCt e.blkBits || (mxBsrc x.blkBits == 2 && mxBt x.blkBits == mxCt e.blkBits))

/-- `n` words taken from the messages of an operand port, oldest first (R297). -/
def takeWords : Nat → List (List Word) → List Word × List (List Word)
  | _, [] => ([], [])
  | n, m :: r =>
    if n == 0 then ([], m :: r)
    else if m.length ≤ n then (let q := takeWords (n - m.length) r; (m ++ q.1, q.2))
    else (m.take n, m.drop n :: r)

/-- Thirty-two words of the operand port become the entry's index vector (R297). -/
def takePort (s : State) (b : Block) (e : MxEntry) : State :=
  let q := takeWords 32 b.opPort
  let s := setBlock s b.id fun b => { b with opPort := q.2 }
  setMx s b.cluster e.idx fun e => { e with needPort := false, index := q.1.flatMap fun w => [w.toNat % 65536, w.toNat / 65536] }

/-- Keep masks of the elements of A, row by row (R139, R296); none where a mask keeps more than N. -/
def keepMask (s : State) (b : Block) (v : Nat) : Option (List Bool) :=
  let m := mxM v
  if m == 0 then some []
  else
    let x := s.read (spadCell b (mxSmoff v)) (8 * mxK v)
    let groups := (List.range (64 * mxK v / m)).map fun g => bitsAt x (g * m) m
    if groups.any (fun g => decide (mxSpn v < popcN g m)) then none
    else some (groups.flatMap fun g => (List.range m).map fun t => g.testBit t)

/-- Wide codes of A, row by row (R137, R296). -/
def gatherA (s : State) (b : Block) (v : Nat) (e : MxEntry) : List Nat :=
  let n := wideBytes (mxAfmt v)
  e.index.flatMap fun x => (List.range (mxK v)).map fun k => s.read (spadCell b (mxAoff v + x * mxAstride v + n * k)) n

/-- Scratchpad bytes of A or the metadata hold an uncorrectable error, or those of the index vector did when it was read (R17, R298). -/
def gatherUe (s : State) (b : Block) (v : Nat) (e : MxEntry) : Bool :=
  e.hurt || (mxSpm v != 0 && s.ue (spadCell b (mxSmoff v)) (8 * mxK v))
    || e.index.any fun x => s.ue (spadCell b (mxAoff v + x * mxAstride v)) (mxK v * wideBytes (mxAfmt v))

/-- The acting fibre's earlier accesses have performed (R169, R299). -/
def mxReady (s : State) (e : MxEntry) : Bool :=
  !((fibre? s e.fib).any (fun f => f.blk == e.blk && f.outs.any (fun o => o.kind != .cut && decide (o.id < e.opId))))
    && !(storesOf s e.fib).any (fun y => y.blk == e.blk && decide (y.id < e.opId))

/-- R138, R135, R297, R298: an entry takes its index vector, or becomes active with its rows in a shadow. A waiting entry that cannot become active
yet (its fibre's earlier accesses are outstanding, its index vector has not come, its block is stopped) is passed over by entries after it (DESIGN
CHOICE, log 21: R135 does not say whether it keeps its turn). -/
def execGatherComplete (cluster entry : Nat) (s : State) : Result :=
  let g := engineOf s cluster
  match g.entries.find? (fun e => e.idx == entry) with
  | none => .next s
  | some e =>
    match block? s e.blk with
    | none => .next s
    | some b =>
      let v := e.blkBits
      if e.active || b.frozen then .next s
      else if e.needPort then
        if g.entries.any (fun x => x.blk == e.blk && x.needPort && decide (x.opId < e.opId)) || decide ((b.opPort.map List.length).sum < 32) then .next s
        else .next (takePort s b e)
      else
        let ready := fun (x : MxEntry) => !x.active && !x.needPort && !mxBlocked g.entries x && !(block? s x.blk).any Block.frozen
        if !ready e || !mxReady s e || decide (2 ≤ (g.entries.filter (·.active)).length)
            || g.entries.any (fun x => ready x && mxReady s x && decide (mxRank x < mxRank e)) then .next s
        else if e.index.any (fun x => decide (b.spadSize < rowEnd v x)) || gatherUe s b v e then .next (endMx s b e true)
        else match keepMask s b v with
        | none => .next (endMx s b e true)
        | some keep =>
          .next (setMx s cluster entry fun e =>
            { e with active := true, activeAt := s.now, lastGrant := s.now, shadow := gatherA s b v e, keep := keep
                     acc := (tileOf s (tileNo b (mxCt v))).els })

/-! ### Passes -/

/-- Cycles of a partition's ramp (R379, R381). -/
def rampCycles (s : State) (part : Nat) : Nat := 4 * (sysGet s part 0x0401 % 65536)

/-- The engine holds an entry of a kernel. -/
def hasEntry (s : State) (g : Engine) (k : Nat) : Bool := g.entries.any fun e => (block? s e.blk).any (·.kernel == k)

/-- Effective step of a cluster's engine, with an entry of a kernel next: the ramp-down of the last kernel to end there, or the highest of the ramps of
the kernels from their first passes there on. Before the kernel's own first pass, where R379 defines no t, its ramp stands at its beginning; a
kernel's pass counts as its last on the cluster while the engine holds no entry of it (R379; DESIGN CHOICE, log 21). -/
def effStep (s : State) (g : Engine) (k part : Nat) : Nat :=
  let r := rampCycles s part
  let ended := g.lastPass.filter fun x => x.1 != k && !hasEntry s g x.1 && decide (s.now < x.2 + r)
  let down := (ended.map fun x => 8 * (s.now - x.2) / r).foldl (fun (m : Option Nat) y => some (min y (m.getD y))) none
  let begun := (g.firstPass.filter fun x => decide (s.now < x.2 + r)).map fun x => 7 - 8 * (s.now - x.2) / r
  let up := if r != 0 && !g.firstPass.any (·.1 == k) then 7 else begun.foldl max 0
  max g.step (down.getD up)

/-- What an entry's wide pages are: all placed, some missing, or some unresolved with a cause. -/
def pagesOf (s : State) (b : Block) (v : Nat) (e : MxEntry) : List (Nat × Tr) :=
  (widePages v e).map fun p => (p, translate s b.part (capObj e.wcap) p e.xl)

/-- The pass at hand reads B's narrow copy in a weight store that the directory has reclaimed (R132). -/
def narrowGone (s : State) (b : Block) (e : MxEntry) : Bool :=
  mxBsrc e.blkBits == 1 && storedB e.blkBits e && isReclaimed s b.part (capObj e.bcap)

/-- An entry waits for the supervisor on unresolved pages of an object, given with their causes (R298, R344). -/
def holdMx (s : State) (b : Block) (e : MxEntry) (obj : Nat) (pages : List (Nat × Nat)) : State :=
  let t := pages.foldl (fun t x =>
    holdEntry t b.part obj x.1 x.2 3 false (4 * b.cluster) 0 e.idx 0 e.pc e.fid e.blk (.mx b.cluster e.idx)) s
  setMx t b.cluster e.idx fun e => { e with waits := (List.range pages.length).map (· + s.seq) }

/-- Pages of waiting replays: walks begun, a fault entry held for each unresolved page, places kept (R298, R58, R342, R344). An operation whose
wide copy lies in an ended window of another device ends with an error (R319). -/
def fetchPages (s : State) (b : Block) (e : MxEntry) : State :=
  let v := e.blkBits
  let ps := pagesOf s b v e
  let miss := ps.filter (fun x => x.2 == .miss)
  if narrowGone s b e then holdMx s b e (capObj e.bcap) [((capBase e.bcap + mxBnoff v) / 4096 * 4096, fReclaimed)]
  else if ps.any (fun x => x.2 == .ended) then endMx s b e true
  else if !miss.isEmpty then
    miss.foldl (fun s x => joinWalk s (portOfCore (4 * b.cluster)) b.part (capObj e.wcap) x.1 (.mx b.cluster e.idx)) s
  else match ps.filterMap (fun x => match x.2 with | .unres c => some (x.1, c) | _ => none) with
  | y :: ys => holdMx s b e (capObj e.wcap) (y :: ys)
  | [] =>
    setMx s b.cluster e.idx fun e =>
      { e with xl := ps.filterMap fun x => match x.2 with
          | .place a => some { obj := canonObj (capObj e.wcap), page := x.1, place := some a, cause := 0, rx := false, top := 0 }
          | _ => none }

/-- The entry's pass can begin. -/
def passReady (s : State) (b : Block) (e : MxEntry) : Bool :=
  e.active && e.waits.isEmpty && !narrowGone s b e && (widePages e.blkBits e).all fun p => e.xl.any fun x => x.page == p && x.place.isSome

/-- An entry has waited for a pass so long that it goes ahead of all others (R135). -/
def starvedAt (now : Nat) (g : Engine) (e : MxEntry) : Bool := g.starving == some e.idx || decide (e.lastGrant + 16384 ≤ now)

/-- R14, R135, R379: the engine's next pass slot: credit, then a grant or an idle slot; pages of replays are sought. Of several entries that have
gone 16384 cycles without a pass the one granted or made active longest ago is first, then the first of the table (DESIGN CHOICE, log 21: R135
does not say which). -/
def execPassSlot (cluster : Nat) (s : State) : Result :=
  let g := engineOf s cluster
  if g.entries.any (·.granted) || decide (s.now < g.slotAt) then .next s
  else
    let s := (g.entries.filter (fun e => e.active && e.waits.isEmpty && !(block? s e.blk).any Block.frozen)).foldl (init := s) (fun s e =>
      match block? s e.blk with
      | some b => if passReady s b e then s else fetchPages s b e
      | none => s)
    let g := engineOf s cluster
    let cand := g.entries.filter fun e => (block? s e.blk).any fun b => !b.frozen && passReady s b e
    match (sortBy (fun (e : MxEntry) => e.lastGrant) (cand.filter (starvedAt s.now g)) ++ sortBy mxRank cand).head? with
    | none => .next s
    | some e =>
      match block? s e.blk with
      | none => .next s
      | some b =>
        let c := g.credit + 8 - effStep s g b.kernel b.part
        if 8 ≤ c then
          let s := setEngine s cluster fun g =>
            { g with credit := c - 8, starving := none
                     firstPass := if g.firstPass.any (fun x => x.1 == b.kernel) then g.firstPass else mapPut b.kernel s.now g.firstPass }
          .next (setMx s cluster e.idx fun e => { e with granted := true, lastGrant := s.now })
        else .next (setEngine s cluster fun g => { g with credit := c, slotAt := s.now + passClocks e.blkBits e })

/-- R135: an active entry that has been granted no pass for 16 384 cycles is next. -/
def execPassStarvation (cluster : Nat) (s : State) : Result :=
  let g := engineOf s cluster
  if g.starving.isSome then .next s
  else match sortBy (fun (e : MxEntry) => e.lastGrant) (g.entries.filter fun e =>
      e.active && !e.granted && !(block? s e.blk).any Block.frozen && decide (e.lastGrant + 16384 ≤ s.now)) with
  | [] => .next s
  | e :: _ => .next (setEngine s cluster fun g => { g with starving := some e.idx })

/-- A count passes its budget; none passes 0xFFFF (R141, R144). -/
def passes (count budget : Nat) : Bool := budget != 0xFFFF && decide (budget < count)

/-- What follows a pass: the next pass, the next rung, or the commit (R143 to R145). -/
def judgePass (s : State) (b : Block) (e : MxEntry) : State :=
  let v := e.blkBits
  let top := decide (mxRungs v ≤ e.rung + 1)
  let past := passes e.satN (mxBudget v e.rung 0) || passes e.undN (mxBudget v e.rung 1) || passes e.canN (mxBudget v e.rung 2)
  if !top && (past || e.nonfin) then
    setMx s b.cluster e.idx fun _ =>
      { e with rung := e.rung + 1, pass := 0, acc := (tileOf s (tileNo b (mxCt v))).els, satN := 0, undN := 0, canN := 0
               nonfin := false, replays := e.replays + 1, granted := false, xl := [] }
  else if passCount v ≤ e.pass + 1 then commitMx s b e (top && past)
  else setMx s b.cluster e.idx fun _ => { e with pass := e.pass + 1, granted := false, xl := [] }

/-- Cells of the wide copy that the pass reads, one in each row or more (R57, R99). -/
def wideRows (b : Block) (v : Nat) (e : MxEntry) : List Nat :=
  if (widePages v e).isEmpty then []
  else
    let n := wideTile (mxAfmt v)
    (passStrips v e.pass).flatMap fun bk =>
      ((List.range (n / 1024)).map (fun i => bk / 2 * n + 1024 * i) ++ [bk / 2 * n + n - 1]).map (wideCell b v e)

/-- R143 to R146: the granted pass ends, its clocks having gone by (R13). -/
def execPassEnd (cluster : Nat) (s : State) : Result :=
  let g := engineOf s cluster
  match g.entries.find? (·.granted) with
  | none => .next s
  | some e =>
    match block? s e.blk with
    | none => .next s
    | some b =>
      let v := e.blkBits
      let rows := wideRows b v e
      if s.now < e.lastGrant + passClocks v e then .next s
      else if rows.any (rowWaits s) then .next (rows.foldl (fun s a => if rowWaits s a then noteWait s a else s) s)
      else
        let s := rows.foldl touch (setEngine s cluster fun g =>
          { g with lastEnd := s.now, slotAt := s.now, lastPass := mapPut b.kernel s.now g.lastPass })
        if passUe s b v e then .next (endMx s b e true) else .next (judgePass s b (doPass s b v e))

/-! ### Reset -/

/-- Blocks that an engine's reset affects (R305). -/
def affected (g : Engine) (b : Block) : Bool :=
  b.cluster == g.cluster && (b.tileN != 0 || g.entries.any (fun e => e.blk == b.id))

/-- The effects of an engine's reset on one affected block (R305). -/
def loseEngine (s : State) (b : Block) : State :=
  let es := (engineOf s b.cluster).entries.filter (fun e => e.blk == b.id)
  let s := (List.range b.tileN).foldl (fun s m => setTile s (tileNo b m) fun t => { t with tag := tInvalid }) s
  let s := es.foldl (fun s e => endMx s b e true) s
  let s := setBlock s b.id fun b => { b with opPort := [] }
  -- a fibre that waits at an MX instruction traps at this moment (R300)
  let waits := fun (f : Fibre) => f.run == .waiting .retry && f.atMx && f.transit == .none && !stoppedIn s b f
  deliver { s with fibres := s.fibres.map fun f =>
    if f.blk == b.id && f.run != .exited then
      { f with lost := true, run := if waits f then .waiting (.trapping cEngineLost 0) else f.run }
    else f }

/-- R305, R376: the watchdog resets an engine that has ended no pass for WDENG microseconds while it holds an active entry. -/
def execEngineWatchdogReset (cluster : Nat) (s : State) : Result :=
  let g := engineOf s cluster
  let wd := sysGet s monPart 0x4005 / 2 ^ 32 * Config.cycles1us
  if wd == 0 || !g.entries.any (fun e => e.active && decide (max g.lastEnd e.activeAt + wd ≤ s.now)) then .next s
  else
    let s := (s.blocks.filter (affected g)).foldl loseEngine s
    let s := setEngine s cluster fun g => { g with credit := 0, starving := none }
    let own := clusterOwner s cluster
    .next (postHost s 3 (if own < 8 then own else 0xFF) cluster 0)

end Sys2Proof.Machine
end

