-- ==== Sys2Proof/Machine/Streams.lean ====
section
/-!
DEFINITION. The streamer: CPY, CPYM, CPYT and CPYX at issue (R257, R258, R262 to R265) and the granules their commands write (R259 to
R261, R347).
-/
namespace Sys2Proof.Machine

/-! ### Command blocks -/

def Copy.bits (c : Copy) : Nat := natOf c.words

def cyScap (v : Nat) : Nat := bitsAt v 24 4
def cyDcap (v : Nat) : Nat := bitsAt v 20 4
def cySsp (v : Nat) : Bool := v.testBit 19
def cyDsp (v : Nat) : Bool := v.testBit 18
def cySc (v : Nat) : Nat := bitsAt v 15 3
def cyDef (v : Nat) : Bool := v.testBit 13
def cyBv (v : Nat) : Bool := v.testBit 12
def cySrc (v : Nat) : Nat := bitsAt v 64 64
def cyDst (v : Nat) : Nat := bitsAt v 128 64
def cyBar (v : Nat) : Nat := bitsAt v 192 32
def cyKey (v : Nat) : Nat := bitsAt v 224 16
/-- Word `i` of SPEC, i from 8 (R258). -/
def cyWord (v i : Nat) : Nat := bitsAt v (32 * i) 32

/-- Members of CPYM's mask, ascending (R263). -/
def cyMembers (v : Nat) : List Nat := (List.range 64).filter fun g => (bitsAt v 288 64).testBit g

def cySlice (v : Nat) : Bool := v.testBit 352

/-- Element bytes, mode, rows, columns of CPYT (R264). -/
def cyEsz (v : Nat) : Nat := 2 ^ bitsAt v 260 2
def cyMode (v : Nat) : Nat := bitsAt v 256 3
def cyRows (v : Nat) : Nat := cyWord v 9
def cyCols (v : Nat) : Nat := cyWord v 10
def cySstride (v : Nat) : Nat := cyWord v 11
def cyDstride (v : Nat) : Nat := cyWord v 12

/-- Shape of a side of a command: rows of contiguous bytes at a stride (R262 to R264). -/
structure Shape where
  rows : Nat
  rb : Nat
  stride : Nat
deriving DecidableEq, Repr

/-- One past the last byte of a shape, from its first. -/
def Shape.size (x : Shape) : Nat := (x.rows - 1) * x.stride + x.rb

/-- Destination of a command; `kind` 0 CPY, 1 CPYM (one member's part), 2 CPYT, 3 CPYX. -/
def dstShape (kind v : Nat) : Shape :=
  let e := cyEsz v
  let r := cyRows v
  let c := cyCols v
  if kind == 1 then { rows := 1, rb := if cySlice v then cyWord v 8 / (cyMembers v).length else cyWord v 8, stride := 0 }
  else if kind != 2 then { rows := 1, rb := cyWord v 8, stride := 0 }
  else match cyMode v with
  | 0 | 2 => { rows := r, rb := c * e, stride := cyDstride v }
  | 3 => { rows := c, rb := r * e, stride := cyDstride v }
  | 4 => { rows := 8 * e, rb := c / 8, stride := cyDstride v }
  | _ => { rows := 1, rb := r * c * e, stride := 0 }

/-- Source of a command. -/
def srcShape (kind v : Nat) : Shape :=
  let e := cyEsz v
  let r := cyRows v
  let c := cyCols v
  if kind != 2 then { rows := 1, rb := cyWord v 8, stride := 0 }
  else match cyMode v with
  | 0 | 1 | 3 => { rows := r, rb := c * e, stride := cySstride v }
  | 5 => { rows := 8 * e, rb := c / 8, stride := cySstride v }
  | _ => { rows := 1, rb := r * c * e, stride := 0 }

/-- LEN of CPY, CPYM and CPYX is malformed (R262, R263). -/
def lenBad (v : Nat) : Bool := let n := cyWord v 8; n < 16 || n % 16 != 0 || decide (0xFFFFFFF0 < n)

/-- SPEC of CPYT is malformed (R264). -/
def specBad (v : Nat) : Bool :=
  let e := cyEsz v
  let r := cyRows v
  let c := cyCols v
  let m := cyMode v
  bitsAt v 259 1 != 0 || bitsAt v 262 26 != 0 || decide (5 < m) || bitsAt v 260 2 == 3
  || r == 0 || decide (65535 < r) || c == 0 || decide (65535 < c) || cySstride v % 16 != 0 || cyDstride v % 16 != 0
  || bitsAt v 416 96 != 0
  || (match m with
      | 0 => c * e % 16 != 0
      | 1 => r % 64 != 0 || c % 64 != 0 || cyDstride v != 0
      | 2 => r % 64 != 0 || c % 64 != 0 || cySstride v != 0
      | 3 => r * e % 16 != 0
      | 4 => r != 1 || c % 128 != 0 || decide (cyDstride v < c / 8)
      | _ => r != 1 || c % 128 != 0 || decide (cySstride v < c / 8))

/-- An object id that names another device. -/
def isRemote (s : State) (part : Nat) (c : CapWord) : Bool :=
  match objName s part (capObj c) with | .remote _ _ => true | _ => false

/-- Object offset, or local offset, of the first byte of a side. -/
def sideOff (sp : Bool) (c : CapWord) (x : Nat) : Int := if sp then (x : Int) else (capBase c : Int) + (BitVec.ofNat 64 x).toInt

/-- The command block is malformed (R258, R262 to R265). -/
def cyMalformed (s : State) (b : Block) (kind v : Nat) (sc dc : CapWord) : Bool :=
  let dst := dstShape kind v
  let rs := !cySsp v && isRemote s b.part sc
  let rd := !cyDsp v && isRemote s b.part dc
  bitsAt v 0 12 != 0 || v.testBit 14 || bitsAt v 28 36 != 0 || bitsAt v 240 16 != 0
  || decide (6 ≤ cySc v) || (cySsp v && cyScap v != 0) || (cyDsp v && cyDcap v != 0) || (!cyBv v && cyBar v != 0)
  || cyBar v % 16 != 0 || cySrc v % 16 != 0 || cyDst v % 16 != 0
  || sideOff (cySsp v) sc (cySrc v) % 16 != 0 || sideOff (cyDsp v) dc (cyDst v) % 16 != 0
  || (match kind with
      | 0 => lenBad v || bitsAt v 288 224 != 0 || rs || rd
      | 1 => lenBad v || bitsAt v 353 159 != 0 || !cyDsp v || rs || (cyMembers v).isEmpty || b.gang.isNone
             || (cySlice v && cyWord v 8 % (16 * (cyMembers v).length) != 0)
      | 2 => specBad v || rs || rd
      | _ => lenBad v || bitsAt v 288 224 != 0 || rs == rd || cySc v != 5)
  || (cyBv v && cyDsp v && decide (cyDst v < cyBar v + 16) && decide (cyBar v < cyDst v + dst.size))

/-- Checks of one side through its capability, each with its INFO (R257, R52, R54, R66, R354). -/
def sideChk (s : State) (b : Block) (sp : Bool) (c : CapWord) (x n need : Nat) : List (Option Nat × Nat) :=
  let o := (BitVec.ofNat 64 x).toInt
  let info := infoOf ((capBase c : Int) + o)
  if sp then [(if b.spadSize < x + n then some cSpadBounds else none, x)]
  else if c == 0 then [(some cCapRights, info)]
  else
    [(if o < 0 || (capLimit c : Int) + 1 < o + n then some cCapBounds else none, info),
     (if capRights c &&& need != need then some cCapRights else none, info),
     (match objName s b.part (capObj c) with | .weight _ | .window => some cCapRights | _ => none, info)]

/-- Checks of a well-read command block, each with its INFO (R257, R263, R333, R354). -/
def cyChk (s : State) (b : Block) (f : Fibre) (kind v : Nat) : List (Option Nat × Nat) :=
  let sc := capReg s f (cyScap v)
  let dc := capReg s f (cyDcap v)
  let size := ((b.gang.bind (gang? s)).map (fun g => g.members.length)).getD 0
  let range := match kernel? s b.kernel with
    | some k => decide (k.pFirst ≤ f.fid) && decide (f.fid < k.pFirst + k.pCount)
    | none => false
  if cyMalformed s b kind v sc dc then [(some cIllegalOp, 0)]
  else
    sideChk s b (cySsp v) sc (cySrc v) (srcShape kind v).size rRD ++ sideChk s b (cyDsp v) dc (cyDst v) (dstShape kind v).size rWR
      ++ [(if cyBv v && decide (b.spadSize < cyBar v + 16) then some cSpadBounds else none, cyBar v),
          (if kind == 1 && (cyMembers v).any (fun g => decide (size ≤ g)) then some cSpadBounds else none, cyDst v),
          (if range then none else some cCopyRights, 0)]

/-- The barrier granule of a command's own allocation. -/
def cyBarCell (b : Block) (v : Nat) : Nat := granOf (spadCell b (cyBar v))

/-- A deferred command that finds a held token of its key takes it (R261). -/
def takeToken (s : State) (b : Block) (key : Nat) : State × Bool :=
  match s.tokens.find? (fun t => t.blk == b.id && t.key == key) with
  | some t => ({ s with tokens := s.tokens.erase t }, true)
  | none => (s, false)

/-- CPY, CPYM, CPYT and CPYX at issue (R257). -/
def copyAct (kind : Nat) (h : Head) (p : RegP) (legal : Bool) (s : State) : Result :=
  let a := p.a.toNat
  issue { useOf h legal with home := true, vr := [a] }
    (fun s b ls => firstLane (fun s f =>
      let o := (f.val a).toNat
      let v := s.read (spadCell b o) 64
      match firstTrap [(checkTag none (f.reg a), 0), (if b.spadSize < o + 64 then some cSpadBounds else none, o)] with
      | some e => acted s [(f.key, e)]
      | none =>
        if f.reading || ownPending s f true 0 o 64 then actWait s
        else match firstTrap ((if o % 64 != 0 then some cMisaligned else none, o)
            :: (if s.ue (spadCell b o) 64 then [(some cDataUe, o)] else cyChk s b f kind v)) with
        | some e => acted s [(f.key, e)]
        | none =>
          let mine := s.copies.filter (fun c => c.cluster == b.cluster)
          let counts := cyBv v && kind != 1 && s.isLive (cyBarCell b v)
          match lowestFree (mine.map (·.slot)) queueSize with
          | none => actWait s
          | some i =>
            if 63 ≤ f.counter 0 || (counts && decide (2 ^ 24 - 1 ≤ (barObj s (cyBarCell b v)).pending)) then actWait s
            else
              let q := if cyDef v then takeToken s b (cyKey v) else (s, true)
              let c : Copy :=
                { cluster := b.cluster, id := s.seq, slot := i, kind := kind, blk := b.id, fib := f.key, fid := f.fid, pc := f.pc
                  opId := s.seq, words := wordsN v 16, scap := if cySsp v then 0 else capReg s f (cyScap v)
                  dcap := if cyDsp v then 0 else capReg s f (cyDcap v), started := q.2, index := 0, waits := [], xl := [] }
              let s := { q.1.fresh with copies := s.copies ++ [c] }
              let s := if counts then pendingUp s (cyBarCell b v) 1 else s
              acted (setFibre s f.key fun g => g.addOp c.opId 0) []) s ls) s

/-- R262. -/
def execCpy (h : Head) (p : RegP) (s : State) : Result := copyAct 0 h p (Instr.cpy h p).legal s

/-- R263. -/
def execCpym (h : Head) (p : RegP) (s : State) : Result := copyAct 1 h p (Instr.cpym h p).legal s

/-- R264. -/
def execCpyt (h : Head) (p : RegP) (s : State) : Result := copyAct 2 h p (Instr.cpyt h p).legal s

/-- R265. -/
def execCpyx (h : Head) (p : RegP) (s : State) : Result := copyAct 3 h p (Instr.cpyx h p).legal s

/-! ### Granules -/

/-- Granules a command writes, and the offset of the `i`-th from the destination's first byte (R259, R264). -/
def Shape.grans (x : Shape) : Nat := if x.rb ≤ x.stride || x.rows ≤ 1 then x.rows * (x.rb / 16) else x.size / 16

def Shape.gran (x : Shape) (i : Nat) : Nat :=
  if x.rb ≤ x.stride || x.rows ≤ 1 then i / (x.rb / 16) * x.stride + i % (x.rb / 16) * 16 else 16 * i

/-- Granules of a whole command; CPYM's slices one after another (R263). -/
def copyGrans (kind v : Nat) : Nat :=
  if kind == 1 && cySlice v then cyWord v 8 / 16 else (dstShape kind v).grans

/-- Rows of a destination that hold a byte at an offset, with the place in the row. -/
def Shape.rowsAt (x : Shape) (t : Nat) : List (Nat × Nat) :=
  if x.rows ≤ 1 then [(0, t)]
  else if x.rb ≤ x.stride then [(t / x.stride, t % x.stride)]
  else (List.range x.rows).filterMap fun r => if r * x.stride ≤ t && decide (t < r * x.stride + x.rb) then some (r, t - r * x.stride) else none

/-- Eight bits of a byte at an offset. -/
def byteBits (o : Nat) : List (Nat × Nat) := (List.range 8).map fun k => (o, k)

/-- Source bits of byte `q` of destination row `r`, from the source's first byte (R264). -/
def srcBits (kind v r q : Nat) : List (Nat × Nat) :=
  let e := cyEsz v
  let c := cyCols v
  if kind != 2 then byteBits q
  else match cyMode v with
  | 0 => byteBits (r * cySstride v + q)
  | 1 =>
    let tile := q / (4096 * e)
    let p := zPos (q % (4096 * e) / e)
    byteBits ((tile / (c / 64) * 64 + p.1) * cySstride v + (tile % (c / 64) * 64 + p.2) * e + q % e)
  | 2 =>
    let j := q / e
    byteBits ((r / 64 * (c / 64) + j / 64) * (4096 * e) + zIndex (r % 64) (j % 64) * e + q % e)
  | 3 => byteBits (q / e * cySstride v + r * e + q % e)
  | 4 => (List.range 8).map fun k => ((8 * q + k) * e + r / 8, r % 8)
  | _ => (List.range 8).map fun k => ((8 * (q % e) + k) * cySstride v + q / e / 8, q / e % 8)

/-- Source bits of each of the 16 bytes of granule `i`, one list for each row that claims the byte. -/
def granBits (kind v i : Nat) : List (List (List (Nat × Nat))) :=
  (List.range 16).map fun k =>
    if kind == 1 && cySlice v then [byteBits (16 * i + k)]
    else
      let x := dstShape kind v
      (x.rowsAt (x.gran i + k)).map fun y => srcBits kind v y.1 y.2

/-- Blocks and destination offsets of granule `i`: its own block, or the members that receive it (R263). -/
def granDests (s : State) (b : Block) (c : Copy) (i : Nat) : List (Nat × Nat) :=
  let v := c.bits
  let own := fun (g : Nat) => (memberBlock s b g).getD noBlock
  if c.kind != 1 then [(b.id, (dstShape c.kind v).gran i)]
  else if cySlice v then
    let per := (dstShape 1 v).rb / 16
    [(own ((cyMembers v).getD (i / per) 0), i % per * 16)]
  else (cyMembers v).map fun g => (own g, 16 * i)

/-- Barrier cells that a command's end signals, by the granules written: CPYM's receivers whose part is complete (`all`: or whose part
is not) (R258, R263). -/
def copyBars (s : State) (b : Block) (c : Copy) (m : Nat) : List Nat :=
  let v := c.bits
  if !cyBv v then []
  else if c.kind != 1 then [cyBarCell b v]
  else (((memberBlock s b m).bind (block? s)).map fun x => cyBarCell x v).toList

/-- The streamer's reads through a port, of pages of an object. -/
def copyTr (s : State) (b : Block) (c : Copy) (cap : CapWord) (off : Nat) : Tr :=
  translate s b.part (capObj cap) off c.xl

def setCopy (s : State) (id : Nat) (g : Copy → Copy) : State :=
  { s with copies := s.copies.map fun c => if c.id == id then g c else c }

/-- Members of CPYM whose part ends with `n` granules written, or does not. -/
def partsDone (c : Copy) (n : Nat) : List Nat :=
  let v := c.bits
  let ms := cyMembers v
  if c.kind != 1 then []
  else if cySlice v then ms.take (n / ((dstShape 1 v).rb / 16))
  else if copyGrans 1 v ≤ n then ms else []

/-- The barriers of a command or of members' parts count down. -/
def signalBars (s : State) (b : Block) (c : Copy) (ms : List Nat) : State :=
  (if c.kind == 1 then ms.flatMap (copyBars s b c) else copyBars s b c 0).foldl pendingDown s

/-- The command leaves the queue: its counter, with an error where it is killed (R259, R260). -/
def endCopy (s : State) (c : Copy) (err : Bool) : State :=
  completeOp (forget { s with copies := s.copies.filter (fun x => x.id != c.id) } fun w => w == .copy c.id) c.fib c.opId 0 err

/-- A command ends with BAD_COPY (R260, R347). -/
def killCopy (s : State) (b : Block) (c : Copy) (obj : Nat) : State :=
  let left := (cyMembers c.bits).filter fun m => !(partsDone c c.index).contains m
  let s := fillFault (signalBars s b c left) c.blk obj c.pc c.fid 2 (exited s c.fib c.blk c.fid)
  reap (endCopy s c true)

/-- Its accesses before the command have performed (R169), and a deferred command has its token (R261). -/
def copyReady (s : State) (c : Copy) : Bool :=
  c.started && c.waits.isEmpty
    && !((fibre? s c.fib).any (fun f => f.blk == c.blk && f.outs.any (fun o => o.kind != .cut && decide (o.id < c.id))))
    && !(storesOf s c.fib).any (fun y => y.blk == c.blk && decide (y.id < c.id))

/-- The source bits of a byte, where all the rows that claim it name the same. -/
def oneSource (l : List (List (Nat × Nat))) : Option (List (Nat × Nat)) :=
  match l with
  | [] => none
  | x :: xs => if xs.all (· == x) then some x else none

/-- Value of one byte: its bits, or a free value where elements of the tensor that come from different places claim it (R264, log 13). -/
def copyByte (s : State) (cell : Nat → Nat) (i : Nat) (l : List (List (Nat × Nat))) : Nat :=
  match oneSource l with
  | some bs => ((bs.zipIdx).map fun x => ((memGet s.mem (cell x.1.1)).toNat / 2 ^ x.1.2 % 2) * 2 ^ x.2).sum
  | none => (Config.freeValue 8 (s.freeCtr + i)).toNat

/-- A granule of the destination as cells: one for each receiver, with whether it is a scratchpad's (R259, R263). -/
def dstCells (s : State) (b : Block) (c : Copy) (i : Nat) : List Nat :=
  (granDests s b c i).filterMap fun d => (block? s d.1).map fun x => spadCell x (cyDst c.bits + d.2)

/-- One granule is written at the cells (R259, R55, R63, R173). -/
def putGran (sp : Bool) (v : Nat) (s : State) (a : Nat) : State :=
  if sp then fillGran (healGran (spadWrite s a 16 v) a 16) a true else healGran (s.write a 16 v) a 16

/-- After granule `i`: the index moves on, parts and the command complete (R259, R260, R263). -/
def afterGran (s : State) (b : Block) (c : Copy) : State :=
  let n := c.index + 1
  let s := setCopy s c.id fun x => { x with index := n, xl := [] }
  let new := (partsDone c n).filter fun m => !(partsDone c c.index).contains m
  if copyGrans c.kind c.bits ≤ n then reap (endCopy (signalBars s b c new) c false)
  else if c.kind == 1 then signalBars s b c new else s

/-- A request for a page joins the requests of a command: those for one page are one, a write where any of them is (R344). -/
def joinPage (l : List ((Nat × CapWord × Bool) × Nat)) (x : (Nat × CapWord × Bool) × Nat) : List ((Nat × CapWord × Bool) × Nat) :=
  let same := fun (y : (Nat × CapWord × Bool) × Nat) => canonObj (capObj y.1.2.1) == canonObj (capObj x.1.2.1) && y.1.1 / 4096 == x.1.1 / 4096
  if l.any same then l.map fun y => if same y then ((y.1.1, y.1.2.1, y.1.2.2 || x.1.2.2), y.2) else y else l ++ [x]

/-- A command waits for the supervisor: one entry for each of its unresolved pages (R260, R344). It keeps no translation meanwhile (R350). -/
def holdCopy (s : State) (b : Block) (c : Copy) (l : List ((Nat × CapWord × Bool) × Nat)) : State :=
  let l := l.foldl joinPage []
  let t := l.foldl (fun t x =>
    holdEntry t b.part (capObj x.1.2.1) x.1.1 x.2 2 x.1.2.2 (4 * c.cluster) 0 c.slot 0 c.pc c.fid c.blk (.copy c.id)) s
  setCopy t c.id fun y => { y with waits := (List.range l.length).map (· + s.seq), xl := [] }

/-- Object offset of the granule that a command writes next, on a destination that is no scratchpad's. -/
def copyDoff (c : Copy) : Nat := (sideOff (cyDsp c.bits) c.dcap (cyDst c.bits)).toNat + (dstShape c.kind c.bits).gran c.index

/-- A path to another device (log 15): the numbers from 64 on are those to devices. -/
def unreachable (s : State) (cap : CapWord) : Bool :=
  decide (2 ^ 31 ≤ capObj cap) && s.pathsDown.contains (64 + capObj cap / 2 ^ 21 % 1024)

/-- R259, R260: the streamer writes the next granule of a command; no granule of a gang while a member is saved (R357). -/
def execCopyGranuleWrite (cluster op : Nat) (s : State) : Result :=
  match s.copies.find? (fun c => c.cluster == cluster && c.id == op) with
  | none => .next s
  | some c =>
    match block? s c.blk with
    | none => .next s
    | some b =>
      if b.frozen || (c.kind == 1 && gangAway s b) || !copyReady s c then .next s
      else
        let v := c.bits
        let bits := granBits c.kind v c.index
        let sbase := (sideOff (cySsp v) c.scap (cySrc v)).toNat
        let offs := distinct ((bits.flatMap fun l => l.flatMap id).map fun x => sbase + x.1)
        let spages := if cySsp v then [] else distinct (offs.map fun o => o / 4096 * 4096)
        let doff := copyDoff c
        let asks := (spages.map fun p => (p, c.scap, false)) ++ (if cyDsp v then [] else [(doff, c.dcap, true)])
        let trs := asks.map fun x => (x, copyTr s b c x.2.1 x.1)
        let miss := trs.filter (fun x => x.2 == .miss)
        if (!cySsp v && unreachable s c.scap) || (!cyDsp v && unreachable s c.dcap) then
          .next (deliver (killCopy s b c (capObj (if !cySsp v && unreachable s c.scap then c.scap else c.dcap))))
        else if trs.any (fun x => x.2 == .ended) then
          .next (deliver (killCopy s b c (((trs.find? (fun x => x.2 == .ended)).map fun x => capObj x.1.2.1).getD 0)))
        else if !miss.isEmpty then
          .next (miss.foldl (fun s x => joinWalk s (portOfCore (4 * cluster)) b.part (capObj x.1.2.1) x.1.1 (.copy c.id)) s)
        else match trs.filterMap (fun x => match x.2 with | .unres e => some (x.1, e) | _ => none) with
        | y :: ys => .next (holdCopy s b c (y :: ys))
        | [] =>
          let placeOf := fun (x : Nat) (cap : CapWord) => match copyTr s b c cap x with | .place a => a | _ => 0
          let cell := fun (o : Nat) => if cySsp v then spadCell b (cySrc v + o) else placeOf (sbase + o) c.scap
          let dsts := if cyDsp v then dstCells s b c c.index else [placeOf doff c.dcap]
          let srcs := offs.map fun o => cell (o - sbase)
          if (srcs ++ dsts).any (rowWaits s) then .next ((srcs ++ dsts).foldl (fun s a => if rowWaits s a then noteWait s a else s) s)
          else if srcs.any (fun a => s.ue a 1) then .next (deliver (killCopy s b c (if cySsp v then 0 else capObj c.scap)))
          else if cyDsp v && dsts.any s.isLive then .next (deliver (killCopy s b c 0))
          else if !cyDsp v && dsts.any (farLive s) then .next (deliver (killCopy s b c (capObj c.dcap)))
          else
            let s := (srcs ++ dsts).foldl touch s
            let x := ((bits.zipIdx).map fun y => copyByte s cell y.2 y.1 * 256 ^ y.2).sum
            let s := if bits.any (fun l => (oneSource l).isNone) then { s with freeCtr := s.freeCtr + 16 } else s
            .next (deliver (afterGran (dsts.foldl (putGran (cyDsp v) x) s) b c))

end Sys2Proof.Machine
end

