-- ==== Sys2Proof/Machine/Retire.lean ====
section
/-!
DEFINITION. The end of work: blocks, gangs and kernels (R28, R39, R335, R397).
-/
namespace Sys2Proof.Machine

/-! ### Blocks -/

/-- A user-level block of a partition is resident (R388, R397; log 19). -/
def userResident (s : State) (part : Nat) : Bool := s.blocks.any fun b => b.part == part && b.level == 0

/-- A block leaves its cluster: its parts, bins, tokens, tiles, fibres and slots; open chunks are written with the last (R397). -/
def removeBlock (s : State) (b : Block) : State :=
  let mine := fun (core bp : Nat) => (part? s core bp).any (fun q => q.blk == b.id)
  let s := { s with
    ports := s.ports.map fun p => { p with bins := p.bins.filter fun x => !mine p.core x.bp }
    parts := s.parts.filter (fun q => q.blk != b.id)
    blocks := s.blocks.filter (fun x => x.id != b.id)
    tokens := s.tokens.filter (fun t => t.blk != b.id)
    tiles := s.tiles.filter (fun t => t.no / 16 != b.id)
    fibres := s.fibres.filter (fun f => f.blk != b.id) }
  let s := cleanSlots s
  let s := noteIdle s b.cluster
  if userResident s b.part then s else closeChunks s b.part

/-- Every block of the kernel has been admitted and has retired (R28). -/
def Kernel.over (k : Kernel) : Bool := decide (k.total ≤ k.nextBlk) && k.liveBlks == 0

/-- A kernel whose last block has retired has completed after those that completed before: it goes to the end of the list (R335). -/
def overLast (s : State) (kid : Nat) : State :=
  match kernel? s kid with
  | some k => if k.over then { s with kernels := s.kernels.filter (fun x => x.id != kid) ++ [k] } else s
  | none => s

/-- A block retires: its opens end, its window ends, its resources return (R28, R126, R319). -/
def retireBlock (s : State) (b : Block) : State :=
  let s := (s.parts.filter (fun q => q.blk == b.id)).foldl (fun s q => dropOpens s b.part q) s
  let s := removeBlock s b
  let s := { s with windows := s.windows.map fun w => if w.blk == b.id then { w with ended := true } else w }
  fenceDue (overLast (setKernel s b.kernel fun k => { k with liveBlks := k.liveBlks - 1 }) b.kernel)

/-- An asynchronous operation of a block has not completed (R28). -/
def asyncLeft (s : State) (b : Block) : Bool :=
  s.copies.any (fun c => c.blk == b.id) || (engineOf s b.cluster).entries.any (fun e => e.blk == b.id)
    || s.ldas.any (fun x => x.blk == b.id) || s.msgs.any (fun m => m.blk == b.id)
    || s.lathes.any (fun l => l.regions.any fun r => r.blk == b.id && (r.isProg || (!r.stand && r.state == 1)))
    || s.leftCuts.any (fun c => c.blk == b.id)

/-- Unperformed stores of a block. -/
def blockStores (s : State) (blk : Nat) : List Store :=
  ((s.ports.flatMap (·.fifo)) ++ s.feStores).filter (fun x => x.blk == blk)

/-- A block has nothing left to do: no fibre, no store or atomic that has not performed (R28, R39, R237, R347). -/
def blockOver (s : State) (b : Block) : Bool :=
  (aliveOf s b.id).isEmpty && !s.fibres.any (fun f => f.blk == b.id && !f.outs.isEmpty) && (blockStores s b.id).isEmpty && !asyncLeft s b
    && (b.killed || b.faults.isEmpty)

/-- R28, R39: a block with nothing left retires, once nothing holds back the chunks that the last of its partition writes (R99, R397); a member of a
gang is done. -/
def execBlockRetire (blk : Nat) (s : State) : Result :=
  match block? s blk with
  | none => .next s
  | some b =>
    if b.done || !blockOver s b then .next s
    else if b.gang.isSome then .next (setBlock s blk fun b => { b with done := true })
    else match closeHeld s b.part [b.id] with
    | some a => .next (noteWait s a)
    | none => .next (retireBlock s b)

/-- R39: a gang retires when every member is done. -/
def execGangRetire (gang : Nat) (s : State) : Result :=
  match gang? s gang with
  | none => .next s
  | some g =>
    if g.members.all (fun m => (block? s m).any (·.done)) then
      let bs := g.members.filterMap (block? s)
      match bs.head?.bind fun b => closeHeld s b.part g.members with
      | some a => .next (noteWait s a)
      | none =>
        let s := bs.foldl retireBlock (leaveRound s g)
        .next { s with gangs := s.gangs.filter (fun x => x.id != gang) }
    else .next s

/-! ### Kernels -/

/-- Kernels that have completed, in the order in which they did (R335). -/
def overKernels (s : State) : List Kernel := s.kernels.filter Kernel.over

/-- R335, R382: the completion word is written and the kernel is no more, and its energy counter with it; completion words are written in the
order in which the kernels complete. A row or a sleeping stack holds the write back (R99, R377). -/
def execKernelComplete (kid : Nat) (s : State) : Result :=
  match kernel? s kid with
  | none => .next s
  | some k =>
    if !k.over || (overKernels s).head?.any (fun x => x.id != kid) then .next s
    else
      let a := (queueOf s k.part k.queue).doneAddr.toNat
      let cell := if k.part == monPart then a else Config.hostBase + a
      if !mapped cell then .fault (.noSuchAddress cell)
      else if rowWaits s cell then .next (noteWait s cell)
      else
        let s := (touch s cell).write cell 8 k.doneVal.toNat
        .next { s with kernels := s.kernels.filter (fun x => x.id != kid) }

end Sys2Proof.Machine
end

