-- ==== Sys2Proof/Machine/Launch.lean ====
section
/-!
DEFINITION. Launch queues and packets (R324 to R329, R382): tail writes, decoding of packets, errors, ageing.
-/
namespace Sys2Proof.Machine

/-! ### What the command processor reads -/

/-- Bytes of one page of an object, which the port translates from its TLBs or from the tables as they stand (R341); an uncorrectable error, and a
table where no memory is, count as unresolvable (R328). A row or a sleeping stack holds the read back (R99, R102, R377). -/
def cpPage (s : State) (part obj off n : Nat) : CodeRes :=
  let get := fun (a : Nat) =>
    match spanHeld s a n with
    | some x => .held x
    | none => if s.ue a n then .unres fTableError else .bytes (s.read a n)
  let name := objName s part obj
  match name, translate s part obj off [] with
  | .weight _, _ | .window, _ => .unres fNoObject
  | _, .place a => get a
  | _, .unres c => .unres c
  | .local id, .miss =>
    (match walkWaits s part id off, walkTables s part id off with
    | some a, _ => .held a
    | none, .ok p _ _ => get (p + off % 4096)
    | none, .bad c => .unres c
    | none, .nowhere _ => .unres fTableError)
  | _, _ => .unres fNoObject

/-- What a read of `n` bytes of one page by the command processor leaves: the port keeps its walk, and the stacks of the tables and of the page have
had a request (R341, R377). -/
def cpTouch (s : State) (part obj off n : Nat) : State :=
  match objName s part obj, translate s part obj off [] with
  | .local id, .miss =>
    let s := (walkCells s part id off).foldl touch ((walkTlb s part id (off / 4096 * 4096) 0).elim s (putTlb s))
    (match walkTables s part id off with | .ok p _ _ => (rowSpan (p + off % 4096) n).foldl touch s | _ => s)
  | _, .place a => (rowSpan a n).foldl touch s
  | _, _ => s

/-- `n` bytes of an object from an offset, page by page. -/
def cpRead (s : State) (part obj : Nat) : Nat → Nat → Nat → CodeRes
  | 0, _, _ => .bytes 0
  | fuel + 1, off, n =>
    let k := min n (4096 - off % 4096)
    match cpPage s part obj off k with
    | .bytes v =>
      if k == n then .bytes v
      else match cpRead s part obj fuel (off + k) (n - k) with
        | .bytes w => .bytes (v + 256 ^ k * w)
        | r => r
    | r => r

/-- R327: a root capability's image. A weight store is an object of fixed length that no table lists (R66; log 19). -/
def rootCap (s : State) (part : Nat) (c : CapWord) : Bool :=
  c == 0 || (capRes c == 0 &&
    match objName s part (capObj c) with
    | .local id => (match descOf s part id with | .ok d => decide (capBase c + capLimit c ≤ descLenM1 d) | _ => false)
    | .weight _ => decide (capBase c + capLimit c ≤ Config.weightBytes - 1)
    | _ => false)

/-! ### The launch packet (R326) -/

def pkType (v : Nat) : Nat := bitsAt v 0 4
def pkWin (v : Nat) : Nat := 8 * (bitsAt v 8 3 + 1)
def pkParts (v : Nat) : Nat := bitsAt v 11 2
def pkFibres (v : Nat) : Nat := bitsAt v 13 14
def pkSpadk (v : Nat) : Nat := bitsAt v 27 9
def pkTiles (v : Nat) : Nat := bitsAt v 36 5
def pkGang (v : Nat) : Nat := bitsAt v 41 7
def pkVote (v : Nat) : Nat := bitsAt v 64 16
def pkPfirst (v : Nat) : Nat := bitsAt v 101 13
def pkPcount (v : Nat) : Nat := bitsAt v 114 14
def pkEntry (v : Nat) : Nat := bitsAt v 192 44
def pkUcnt (v : Nat) : Nat := bitsAt v 236 9
def pkLiveoff (v : Nat) : Nat := bitsAt v 256 44
def pkLiven (v : Nat) : Nat := bitsAt v 300 7
def pkCcnt (v : Nat) : Nat := bitsAt v 307 5
def pkArgcap (v : Nat) : CapWord := BitVec.ofNat 128 (bitsAt v 384 128)
def pkCodecap (v : Nat) : CapWord := BitVec.ofNat 128 (bitsAt v 512 128)

/-- A reserved field is not zero (R326). -/
def pkReserved (v : Nat) : Bool :=
  bitsAt v 640 1408 != 0 || bitsAt v 312 8 != 0 || bitsAt v 245 11 != 0 || bitsAt v 176 16 != 0 || bitsAt v 96 5 != 0 || bitsAt v 5 2 != 0

/-- A field is out of its range (R326, R328). -/
def pkBad (v : Nat) : Bool :=
  pkParts v == 3 || pkFibres v == 0 || decide (8192 < pkFibres v) || decide (16 < pkTiles v) || decide (256 < pkSpadk v)
    || pkGang v == 1 || decide (64 < pkGang v) || decide (8192 < pkPfirst v + pkPcount v) || pkEntry v % 2 != 0 || pkLiveoff v % 16 != 0
    || decide (16 < pkCcnt v) || decide (256 < pkUcnt v) || decide (64 < pkLiven v)

/-- Bytes of the argument block that the counts name (R327). -/
def argBytes (v : Nat) : Nat := if pkUcnt v == 0 then 16 * pkCcnt v else 256 + 4 * pkUcnt v

/-- Images of the argument block (R327). -/
def argCaps (v a : Nat) : List CapWord := (List.range (pkCcnt v)).map fun k => BitVec.ofNat 128 (bitsAt a (128 * k) 128)
def argUnis (v a : Nat) : List Word := (List.range (pkUcnt v)).map fun j => BitVec.ofNat 32 (bitsAt a (2048 + 32 * j) 32)

/-- What such a read leaves, page by page. -/
def cpLeave (s : State) (part obj : Nat) : Nat → Nat → Nat → State
  | 0, _, _ => s
  | fuel + 1, off, n =>
    let k := min n (4096 - off % 4096)
    let s := cpTouch s part obj off k
    if k == n then s else cpLeave s part obj fuel (off + k) (n - k)

/-- What decoding a packet gives: an error of R328, the argument block, or a cell that holds a read of the processor back. -/
inductive Judged where
  | err (code : Nat)
  | args (a : Nat)
  | held (addr : Nat)
deriving DecidableEq, Repr

/-- Root capabilities judged by their objects' descriptors: `good` where all of them are right (R327). -/
def judgeCaps (s : State) (part : Nat) (cs : List CapWord) (good : Judged) : Judged :=
  match descHeld s part (cs.map capObj) with
  | some a => .held a
  | none => if cs.all (rootCap s part) then good else .err 4

/-- The argument block and its images (R327, R328). -/
def judgeArgs (s : State) (part v : Nat) : Judged :=
  if argBytes v == 0 then .args 0
  else match cpRead s part (capObj (pkArgcap v)) 2 (capBase (pkArgcap v)) (argBytes v) with
  | .bytes a => judgeCaps s part (argCaps v a) (.args a)
  | .held a => .held a
  | _ => .err 7

/-- R328: a LAUNCH packet's fields, in the order in which they are checked. -/
def judgeLaunch (s : State) (part v : Nat) : Judged :=
  let code := pkCodecap v
  let arg := pkArgcap v
  let named := argBytes v != 0
  if pkBad v then .err 3
  else if (working s part).length < pkGang v then .err 6
  else if pkVote v != 0 && !Config.voteGroup part (pkVote v) then .err 8
  else if capRights code &&& rEX == 0 || (named && (capRights arg &&& rRD == 0 || decide (capLimit arg + 1 < argBytes v))) then .err 4
  else judgeCaps s part (if named then [code, arg] else [code]) (judgeArgs s part v)

/-- The kernel of a packet (R326, R327). -/
def kernelOf (s : State) (part q index v a : Nat) : Kernel :=
  { id := s.seq, part := part, queue := q, index := index, code := pkCodecap v, entry := BitVec.ofNat 44 (pkEntry v), fibres := pkFibres v
    partsN := 2 ^ pkParts v, win := pkWin v, tilesN := pkTiles v, spadK := pkSpadk v, gangN := pkGang v
    gx := bitsAt v 128 16 + 1, gy := bitsAt v 144 16 + 1, gz := bitsAt v 160 16 + 1, binTimer := bitsAt v 48 16
    pFirst := pkPfirst v, pCount := pkPcount v, sbchk := v.testBit 7, ord := v.testBit 4
    esend := BitVec.ofNat 8 (bitsAt v 80 8), eacc := BitVec.ofNat 8 (bitsAt v 88 8), voteGrp := pkVote v
    liveN := pkLiven v, liveOff := BitVec.ofNat 44 (pkLiveoff v), doneVal := BitVec.ofNat 64 (bitsAt v 320 64)
    caps := argCaps v a ++ List.replicate (16 - pkCcnt v) 0, unis := argUnis v a ++ List.replicate (256 - pkUcnt v) 0
    nextBlk := 0, liveBlks := 0, replay := Replay.zero, trial := none, energy := 0, after := (queueOf s part q).last }

/-! ### Queues -/

/-- The queue exists: 32 of each partition, four of the monitor (R324, R382). -/
def isQueueNo (part q : Nat) : Bool := decide (part < 8 ∧ q < 32) || (part == monPart && decide (q < 4))

/-- Slots of a ring (R324). -/
def LQueue.slots (q : LQueue) : Nat := 2 ^ max 4 q.logn.toNat

/-- A packet waits to be decoded (R325). -/
def LQueue.pending (q : LQueue) : Bool := q.en && !q.halt && q.tail.any (fun t => t != q.head)

/-- TAIL is too far on (R325). -/
def LQueue.overrun (q : LQueue) : Bool := q.tail.any fun t => decide (q.slots < (t - q.head).toNat)

/-- The packet at HEAD. -/
def packetAt (s : State) (q : LQueue) : CodeRes :=
  cpRead s q.part (q.ring.toNat / 2 ^ 32) 2 (q.ring.toNat % 2 ^ 32 + 256 * (q.head.toNat % q.slots)) 256

/-- What reading the packet at HEAD leaves (R341, R377). -/
def packetTouch (s : State) (q : LQueue) : State :=
  cpLeave s q.part (q.ring.toNat / 2 ^ 32) 2 (q.ring.toNat % 2 ^ 32 + 256 * (q.head.toNat % q.slots)) 256

/-- Ageing interval in cycles (R323). -/
def tAge (s : State) (part : Nat) : Nat := sysGet s part 0x0000 * Config.cycles1us

/-- A queue begins to wait, or has had a block admitted: its ageing starts anew (R329). -/
def LQueue.ageAnew (q : LQueue) (now t : Nat) : LQueue := { q with reached := 0, waitAt := now + t, reachAt := now }

/-- Ageing steps by cycle `now`, at an interval of `t` (R329). -/
def LQueue.stepsBy (q : LQueue) (now t : Nat) : Nat := if now < q.waitAt then q.reached else q.reached + (now - q.waitAt) / t + 1

/-- Effective priority in cycle `now` (R329). -/
def LQueue.eff (q : LQueue) (now t : Nat) : Nat := min 7 (q.prio.toNat + q.stepsBy now t)

/-- The cycle in which a queue reached its effective priority (R329). -/
def LQueue.effAt (q : LQueue) (now t : Nat) : Nat :=
  let j := q.eff now t - q.prio.toNat
  if j ≤ q.reached then q.reachAt else q.waitAt + (j - q.reached - 1) * t

/-- The ageing steps by cycle `now` are noted (R329). -/
def LQueue.noteSteps (q : LQueue) (now t : Nat) : LQueue :=
  if now < q.waitAt then q
  else { q with reached := q.stepsBy now t, waitAt := q.waitAt + ((now - q.waitAt) / t + 1) * t, reachAt := q.effAt now t }

/-- Host cell of a queue's tail line (R324). -/
def LQueue.tailCell (q : LQueue) : Nat := Config.hostBase + q.tailAddr.toNat

/-- A queue that sees a TAIL too far past HEAD halts with OVERRUN (R325, R328). -/
def seeTail (s : State) (part q : Nat) : State :=
  let x := queueOf s part q
  if x.en && !x.halt && x.overrun then haltQueue s part q x.head 5 else s

/-- R325: the host writes TAIL to a queue's tail line, and every enabled queue that watches the line sees it. -/
def execTailLineSnoop (part queue value : Nat) (s : State) : Result :=
  if !isQueueNo part queue || part == monPart then .next s
  else
    let cell := (queueOf s part queue).tailCell
    let s := s.write cell 4 value
    let sees := fun (q : LQueue) => q.part != monPart && q.en && q.tailCell == cell
    let s := { s with queues := s.queues.map fun q => if sees q then { q with tail := some (BitVec.ofNat 32 value) } else q }
    .next ((s.queues.filter sees).foldl (fun s q => seeTail s q.part q.q) s)

/-- R325 to R328: the packet at HEAD is decoded, unless it is a NOP. A queue of a partition whose clusters are all fenced halts as it begins to
wait (R385). -/
def execLaunchPacket (part queue : Nat) (s : State) : Result :=
  let q := queueOf s part queue
  if !isQueueNo part queue || !q.pending then .next s
  else if q.overrun then .next (haltQueue s part queue q.head 5)
  else match packetAt s q with
  | .bytes v =>
    if pkType v == 0 then .next s
    else if 2 ≤ pkType v then .next (haltQueue s part queue q.head 1)
    else if pkReserved v then .next (haltQueue s part queue q.head 2)
    else match judgeLaunch s part v with
    | .err e => .next (haltQueue s part queue q.head e)
    | .held a => .next (noteWait s a)
    | .args a =>
      let s := if argBytes v == 0 then s else cpLeave s part (capObj (pkArgcap v)) 2 (capBase (pkArgcap v)) (argBytes v)
      let s := touchDescs (packetTouch s q) part ([pkCodecap v, pkArgcap v] ++ argCaps v a |>.map capObj)
      let waits := (headKernel s part queue).isSome
      let k := kernelOf s part queue q.head.toNat v a
      let s := setQueue { s.fresh with kernels := s.kernels ++ [k] } part queue fun x =>
        { (if waits then x else x.ageAnew s.now (tAge s part)) with head := x.head + 1, last := some k.id }
      .next (haltFenced s part)
  | .held a => .next (noteWait s a)
  | _ => .next (haltQueue s part queue q.head 7)

/-- R326, R328: a NOP packet at HEAD. -/
def execNopPacket (part queue : Nat) (s : State) : Result :=
  let q := queueOf s part queue
  if !isQueueNo part queue || !q.pending || q.overrun then .next s
  else match packetAt s q with
  | .bytes v =>
    if pkType v != 0 then .next s
    else if pkReserved v then .next (haltQueue s part queue q.head 2)
    else .next (setQueue (packetTouch s q) part queue fun x => { x with head := x.head + 1 })
  | _ => .next s

/-- R329: a waiting queue's effective priority rises. It is a function of the cycle (`LQueue.eff`); the event notes its steps. -/
def execAgeingStep (part queue : Nat) (s : State) : Result :=
  let q := queueOf s part queue
  if (headKernel s part queue).isNone || decide (7 ≤ q.prio.toNat + q.reached) || decide (s.now < q.waitAt) then .next s
  else .next (setQueue s part queue fun x => x.noteSteps s.now (tAge s part))

end Sys2Proof.Machine
end

