-- ==== Sys2Proof/Machine/Admit.lean ====
section
/-!
DEFINITION. Admission: where a block fits (R24, R330), the queue that is served (R329 to R332), blocks and gangs placed (R24, R25, R39,
R61, R331).
-/
namespace Sys2Proof.Machine

/-! ### Room -/

/-- Contexts in use on a core, as ports and indices. -/
def ctxsOf (s : State) (core : Nat) : List (Nat × Nat) :=
  (s.fibres.filter (fun f => f.key.core == core)).map fun f => (f.key.port, f.key.ctx)

/-- A context for each fibre of a list of (number, port, lane position); none where one has none (R22, R24). Of a port's free contexts of the lane
position it is the lowest (DESIGN CHOICE, log 21: R24 and R330 name the port and the lane alone). -/
def seatFibres : List (Nat × Nat) → List (Nat × Nat × Nat) → Option (List (Nat × Nat × Nat))
  | _, [] => some []
  | used, (f, port, lane) :: r =>
    match (List.range (Config.ctxPerPort / 32)).find? (fun m => !used.contains (port, 32 * m + lane)) with
    | none => none
    | some m => (seatFibres ((port, 32 * m + lane) :: used) r).map ((f, port, 32 * m + lane) :: ·)

/-- Ports and lane positions of the initial fibres of part `i` of `p` (R24). -/
def initialFibres (n p i : Nat) : List (Nat × Nat × Nat) :=
  ((List.range n).filter (fun f => f / 32 % p == i)).map fun f => (f, f / 32 / p % 4, f % 32)

/-- A block part's place: core, slot, contexts of its fibres. -/
structure Seat where
  core : Nat
  bp : Nat
  fibs : List (Nat × Nat × Nat)
deriving DecidableEq, Repr

/-- The slot of a block part on a core and the contexts of its fibres, when there is room (R330, R385). -/
def seatPart (s : State) (core : Nat) (fibs : List (Nat × Nat × Nat)) : Option Seat :=
  if s.fenced.contains (coreUnit core) then none
  else match lowestFree ((s.parts.filter (fun q => q.core == core)).map (·.bp)) 64, seatFibres (ctxsOf s core) fibs with
  | some bp, some fs => some { core := core, bp := bp, fibs := fs }
  | _, _ => none

/-- The parts of a block on the lowest cores with room, in ascending order (R24, R330). -/
def seatParts (s : State) (n p : Nat) : List Nat → Nat → Option (List Seat)
  | [], i => if p ≤ i then some [] else none
  | c :: cs, i =>
    if p ≤ i then some []
    else match seatPart s c (initialFibres n p i) with
    | some x => (seatParts s n p cs (i + 1)).map (x :: ·)
    | none => seatParts s n p cs i

/-- The lowest free range of a cluster's scratchpad, in units of 4 KiB (R330). -/
def freeSpad (s : State) (cluster size : Nat) : Option Nat :=
  let held := s.blocks.filter (fun b => b.cluster == cluster)
  ((List.range 256).map (· * 4096)).find? fun a =>
    decide (a + size ≤ Config.spadBytes) && held.all (fun b => size == 0 || b.spadSize == 0 || !overlaps a size b.spadAt b.spadSize)

/-- Where a block goes on a cluster. -/
structure Place where
  cluster : Nat
  id : Nat
  spadAt : Nat
  seats : List Seat
deriving DecidableEq, Repr

/-- Block slot, scratchpad and tiles of a cluster, when free (R330). -/
def clusterRoom (s : State) (cluster size tiles : Nat) : Option (Nat × Nat) :=
  let held := s.blocks.filter (fun b => b.cluster == cluster)
  if Config.tilesPerEngine < (held.map (·.tileN)).sum + tiles then none
  else match lowestFree (held.map (fun b => b.id % 256)) 256, freeSpad s cluster size with
  | some i, some a => some (256 * cluster + i, a)
  | _, _ => none

/-- A block of a kernel on a cluster, when it fits (R330). -/
def fitOn (s : State) (k : Kernel) (cluster : Nat) : Option Place :=
  match clusterRoom s cluster (k.spadK * 4096) k.tilesN, seatParts s k.fibres k.partsN ((List.range 4).map (4 * cluster + ·)) 0 with
  | some (i, a), some ss => some { cluster := cluster, id := i, spadAt := a, seats := ss }
  | _, _ => none

/-! ### Whose turn it is -/

/-- Clusters that a block or gang of a kernel needs. -/
def Kernel.need (k : Kernel) : Nat := max 1 k.gangN

/-- Places of the next block or gang: the lowest-numbered clusters that fit, but for reserved ones (R330, R331). -/
def fitsAt (s : State) (k : Kernel) (reserved : List Nat) : Option (List Place) :=
  let ps := (((working s k.part).filter (fun c => !reserved.contains c)).filterMap (fitOn s k)).take k.need
  if ps.length == k.need then some ps else none

/-- An ORD kernel waits for the queue's previous kernel to complete (R326, R332). -/
def ordReady (s : State) (k : Kernel) : Bool := !k.ord || k.after.all fun i => (kernel? s i).all Kernel.over

/-- The machine without the blocks that are resident on a cluster. -/
def emptied (s : State) (cluster : Nat) : State :=
  { s with
    blocks := s.blocks.filter (fun b => b.cluster != cluster)
    parts := s.parts.filter (fun p => p.core / 4 != cluster)
    fibres := s.fibres.filter (fun f => f.key.core / 4 != cluster) }

/-- Clusters that a queue reserves: the lowest ones that would fit once the blocks resident there retired (R330, R331). -/
def chosen (s : State) (k : Kernel) : List Nat :=
  let cs := ((working s k.part).filter fun c => (fitOn (emptied s c) k c).isSome).take k.need
  if cs.length == k.need then cs else []

/-- Waiting queues of a partition in the order of R329. -/
def waitingQueues (s : State) (part : Nat) : List LQueue :=
  let t := tAge s part
  sortBy (fun (q : LQueue) => ((7 - q.eff s.now t) * 2 ^ 80 + q.effAt s.now t) * 32 + q.q)
    (s.queues.filter fun q => q.part == part && (headKernel s part q.q).isSome)

/-- The first queue that fits, with its places; a queue at 7 that does not fit reserves its clusters (R329). -/
def chooseQueue (s : State) (part : Nat) : List LQueue → List Nat → Option (LQueue × Kernel × List Place)
  | [], _ => none
  | q :: qs, reserved =>
    match headKernel s part q.q with
    | none => chooseQueue s part qs reserved
    | some k =>
      if !ordReady s k then chooseQueue s part qs reserved
      else match fitsAt s k reserved with
      | some ps => some (q, k, ps)
      | none => chooseQueue s part qs (if q.eff s.now (tAge s part) == 7 then reserved ++ chosen s k else reserved)

/-! ### Placing -/

/-- The allocation reads as zero, empty, undamaged, and holds no barrier (R61). -/
def clearSpad (s : State) (lo n : Nat) : State :=
  let out := fun (a : Nat) => decide (a < lo) || decide (lo + n ≤ a)
  { s with mem := s.mem.filter (fun c => out c.1), fullBits := s.fullBits.filter out, liveBits := s.liveBits.filter out
           ueMarks := s.ueMarks.filter out }

/-- Exit latency of a unit's power state, in cycles (R377). -/
def exitLatency (u st : Nat) : Nat := if st == 0 then 0 else if u < Config.clusterCount then (if st == 1 then 100 else 12000) else 6000

/-- Level at which a queue admits (R321, R382). -/
def admitLevel (s : State) (part q : Nat) : Nat := if part == monPart then 2 else if (sysGet s monPart (0x4010 + part)).testBit q then 1 else 0

/-- Batches of a part's initial fibres, run by run (R24). -/
def placeRuns (s : State) (x : Seat) (now next : Nat) : State :=
  (distinct (x.fibs.map fun f => f.1 / 32)).foldl (fun s j =>
    let fs := x.fibs.filter (fun f => f.1 / 32 == j)
    match fs with
    | [] => s
    | f :: _ => placeBatch s x.core f.2.1 (fs.map fun f => keyOf x.core f.2.1 f.2.2) now next) s

/-- A new block (R38, R321, R330). -/
def blockAt (s : State) (k : Kernel) (p : Place) (gang : Option Nat) (member : Nat) : Block :=
  { id := p.id, kernel := k.id, gang := gang, member := member
    x := k.nextBlk % k.gx, y := k.nextBlk / k.gx % k.gy, z := k.nextBlk / (k.gx * k.gy), part := k.part, queue := k.queue
    level := admitLevel s k.part k.queue, prio := (queueOf s k.part k.queue).prio.toNat, spadAt := p.spadAt, spadSize := k.spadK * 4096
    tileN := k.tilesN, bars := List.replicate 16 NBar.zero, faults := [], fovf := false, replay := Replay.zero
    lsst := { esend := k.esend, eacc := k.eacc, nf := false, vkill := false, runf := 0, rovf := 0 }, opPort := []
    killed := false, done := false, pre := false, preAt := 0, dbg := false, held := false, lsq := false }

/-- A new block part (R25, R330). -/
def partFor (k : Kernel) (b : Block) (x : Seat) (i : Nat) : Part :=
  { core := x.core, bp := x.bp, blk := b.id, rel := i, s := k.unis, c := k.caps, opens := 0, sbchk := k.sbchk, dtag := 0, inq := []
    was := none }

/-- A part's initial fibres (R19, R24). -/
def fibresAt (k : Kernel) (b : Block) (x : Seat) (now : Nat) : List Fibre :=
  x.fibs.map fun f => newFibre b (keyOf x.core f.2.1 f.2.2) x.bp f.1 k.entry (zeroRegs k.win) now

/-- A block of a kernel is placed; a cluster in a deeper power state first leaves it (R24, R25, R61, R330, R377). -/
def placeIn (s : State) (k : Kernel) (p : Place) (gang : Option Nat) (member : Nat) : State :=
  let b := blockAt s k p gang member
  let next := s.now + exitLatency p.cluster (mapGet s.power p.cluster 0)
  let s := clearSpad s (Config.spadBase + p.cluster * Config.spadBytes + p.spadAt) b.spadSize
  let s := { s with
    blocks := s.blocks ++ [b]
    parts := s.parts ++ p.seats.zipIdx.map fun x => partFor k b x.1 x.2
    fibres := s.fibres ++ p.seats.flatMap fun x => fibresAt k b x s.now
    power := mapDel p.cluster s.power
    idleAt := mapDel p.cluster s.idleAt }
  p.seats.foldl (fun s x => placeRuns s x s.now next) s

/-- The queue has had a block or gang of a kernel admitted (R329). -/
def admitted (s : State) (q : LQueue) (k : Kernel) : State :=
  let s := setKernel s k.id fun x => { x with nextBlk := x.nextBlk + 1, liveBlks := x.liveBlks + k.need }
  setQueue s q.part q.q fun x => x.ageAnew s.now (tAge s q.part)

/-- R329, R330: the admitter places a block. -/
def execAdmitBlock (part queue : Nat) (s : State) : Result :=
  match chooseQueue s part (waitingQueues s part) [] with
  | none => .next s
  | some (q, k, ps) =>
    if q.q != queue || k.gangN != 0 then .next s
    else .next (ps.foldl (fun s p => placeIn s k p none 0) (admitted s q k))

/-- R39, R331: the admitter places a gang. -/
def execAdmitGang (part queue : Nat) (s : State) : Result :=
  match chooseQueue s part (waitingQueues s part) [] with
  | none => .next s
  | some (q, k, ps) =>
    if q.q != queue || k.gangN == 0 then .next s
    else
      let no := fun {α : Type} (x : α) => List.replicate k.gangN x
      let g : Gang :=
        { id := s.seq, kernel := k.id, members := ps.map (·.id), killed := no false, votes := no none, voteDom := false, voteFwd := none, voteKill := false
          syncs := no false }
      let s := { (admitted s q k).fresh with gangs := s.gangs ++ [g] }
      .next (ps.zipIdx.foldl (fun s x => placeIn s k x.1 (some g.id) x.2) s)

end Sys2Proof.Machine
end

