-- ==== Sys2Proof/Machine/Control.lean ====
section
/-!
DEFINITION. Control transfers (R216 to R218) and fibre instructions (R220 to R224).
-/
namespace Sys2Proof.Machine

/-- A halfword displacement from a program counter, modulo 2^44 (R216, log 16). -/
def jumpBy {w : Nat} (pc : BitVec 44) (d : BitVec w) : BitVec 44 := pc + (d.signExtend 44 <<< 1)

/-- Target of RET and JMP: bits [43:1] of a pair, times 2 (R217). -/
def pairTarget (f : Fibre) (a : Nat) : BitVec 44 :=
  ((pairOf (f.val a) (f.val (a + 1))).extractLsb' 0 44) &&& ~~~1#44

/-- A control transfer: fates of the guard-true lanes, and whether some lane of BRA or BRX goes backward (R35, R217). -/
def transfer (s : State) (fates : List (FKey × Fate)) (back : Bool) : Acted :=
  { acted s fates with branch := true, renew := back }

/-- R217. -/
def execBra (h : Head) (p : BraP) (s : State) : Result :=
  issue (useOf h (Instr.bra h p).legal)
    (fun s _ ls => transfer s (ls.map fun f => (f.key, .go (jumpBy f.pc p.disp)))
      (ls.any fun f => decide ((jumpBy f.pc p.disp).toNat < f.pc.toNat))) s

/-- Outcome of one lane of BRX (R218). -/
inductive BrxRes where
  | fate (x : Fate)
  | unres (cause : Nat) (off : Nat)
  | miss (off : Nat)
  | held (addr : Nat)
deriving DecidableEq, Repr

/-- Program counter of the batch that issues. -/
def curPc (s : State) : BitVec 44 := ((s.cur.bind fun c => (lanesOf s c).head?).map (·.pc)).getD 0

/-- Offset of the jump table in the code object (R218). -/
def brxTable (p : BrxP) (pc : BitVec 44) : Int := (pc.toNat : Int) + 2 * p.toff.toInt

/-- One lane of BRX (R218): `t` is the table's offset in the code object. -/
def brxLane (s : State) (b : Block) (p : BrxP) (t : Int) (f : Fibre) : BrxRes :=
  let i := (f.val p.a.toNat).toNat
  let c := codeCap s b f
  match checkTag none (f.reg p.a.toNat) with
  | some e => .fate (trapF e)
  | none =>
    let e := t + 4 * (i : Int)
    if p.nm1.toNat < i || e < 0 || !inCode c e.toNat 4 then .fate (trapAt cCapBounds i)
    else match codeRead s b.part (capObj c) e.toNat 4 f.xl with
      | .bytes v => .fate (.go (jumpBy f.pc (BitVec.ofNat 32 v)))
      | .unres c => .unres c e.toNat
      | .miss o => .miss o
      | .held a => .held a

/-- R218. A misaligned table is no legal instruction, in any lane (R197). Lanes whose words lie on pages that do not resolve park as one fragment, with
an entry for each page (R58, R344). -/
def execBrx (h : Head) (p : BrxP) (s : State) : Result :=
  issue { useOf h ((Instr.brx h p).legal && brxTable p (curPc s) % 4 == 0) with vr := [p.a.toNat] }
    (fun s b ls =>
      let res := ls.map fun f => (f, brxLane s b p (brxTable p f.pc) f)
      match (res.filterMap fun x => match x.2 with | .held a => some a | _ => none).head? with
      | some a => actWait (noteWait (touch s a) a)
      | none =>
      let miss := res.filterMap fun x => match x.2 with | .miss o => some (x.1, o) | _ => none
      if !miss.isEmpty then
        actWait (miss.foldl (fun s x => joinWalk s (portOfCore x.1.loc) b.part (capObj (codeCap s b x.1)) x.2 (.fibre x.1.key)) s)
      else
      let bad := res.filterMap fun x => match x.2 with
        | .unres c o => some (({ f := x.1, obj := capObj (codeCap s b x.1), off := o } : Req), c)
        | _ => none
      let pages := dedup (bad.map fun x => (x.1.obj, x.1.off / 4096))
      let fates := res.filterMap fun x => match x.2 with
        | .fate y => some (x.1.key, y)
        | .unres _ _ => some (x.1.key, .unres ((List.range pages.length).map (· + s.seq)))
        | _ => none
      let back := res.any fun x => match x.2 with | .fate (.go q) => decide (q.toNat < x.1.pc.toNat) | _ => false
      transfer (holdPages s b.part false bad pages) fates back) s

/-- R217. -/
def execCall (h : Head) (p : CallP) (s : State) : Result :=
  let d := p.d.toNat
  issue { useOf h (Instr.call h p).legal with vw := [d, d + 1] }
    (fun s _ ls =>
      let ret := fun (f : Fibre) => (f.pc + 8).setWidth 64
      transfer
        (onLanes s ls fun f => (f.writeNow (.reg d { val := loWord (ret f), tag := tRaw })).writeNow
          (.reg (d + 1) { val := hiWord (ret f), tag := tRaw }))
        (ls.map fun f => (f.key, .go (jumpBy f.pc p.disp))) false) s

/-- RET and JMP (R217). -/
def pairJump (u : Use) (a : Nat) (s : State) : Result :=
  issue { u with vr := [a, a + 1] }
    (fun s _ ls =>
      transfer s (ls.map fun f => (f.key,
        match checkRegs f [a, a + 1] with | some e => trapF e | none => .go (pairTarget f a))) false) s

/-- R217. -/
def execRet (h : Head) (p : RegP) (s : State) : Result := pairJump (useOf h (Instr.ret h p).legal) p.a.toNat s

/-- R217. -/
def execJmp (h : Head) (p : RegP) (s : State) : Result := pairJump (useOf h (Instr.jmp h p).legal) p.a.toNat s

/-- R220, R26, R27, R29; a release at core scope (log 19). -/
def execSpawn (h : Head) (p : SpawnP) (s : State) : Result :=
  let a := p.a.toNat
  issue { useOf h (Instr.spawn h p).legal with vr := [a], pw := [p.pd.toNat], home := true }
    (fun s b ls =>
      let timer := ((kernel? s b.kernel).map (·.binTimer)).getD 256
      if !ls.all (drained s) then actWait s else
      let r := laneAct (fun s f =>
        match checkTag none (f.reg a) with
        | some e => (s, some (trapF e))
        | none =>
          let q := spawnOne s b timer f (jumpBy f.pc p.disp) (f.reg a)
          (setFibre q.1 f.key fun g => g.writeNow (.pred p.pd.toNat q.2), none)) s ls
      { r with s := ls.foldl (fun s f => launchZero s f.key.core f.key.port) r.s }) s

/-- R28. -/
def execExit (h : Head) (s : State) : Result :=
  issue (useOf h (Instr.exit h).legal)
    (fun s _ ls => acted (ls.foldl (fun s f => exitFibre s f.key) s) (ls.map fun f => (f.key, .gone))) s

/-- R32; an away fibre sends its arrival home (R118). -/
def execJoin (h : Head) (s : State) : Result :=
  issue (useOf h (Instr.join h).legal)
    (fun s _ ls =>
      let js := ls.filter (fun f => !f.joins.isEmpty)
      acted (onLanes s js fun f => { f with run := .joining, transit := if f.away then .joinArrival else .none })
        (js.map fun f => (f.key, .leave (f.pc + 8) 0))) s

/-- R221, R35. -/
def execYieldOp (h : Head) (s : State) : Result :=
  issue (useOf h (Instr.yieldOp h).legal) (fun s _ ls => { acted s [] with renew := !ls.isEmpty }) s

/-- R222. A once cut that a CUTREG of the lane has yet to enter counts with the row counter, which rises when it is entered (R97, R310). -/
def execWaitc (h : Head) (p : WaitcP) (s : State) : Result :=
  issue { useOf h (Instr.waitc h p).legal with mx := p.cls == 1 }
    (fun s _ ls =>
      let count := fun (f : Fibre) => if p.cls == 2 then f.rowCount else f.counter p.cls.toNat
      if ls.all (fun f => decide (count f ≤ p.n.toNat)) then acted s [] else actWait s) s

/-- Guard-false lanes of the batch wait with it when some lane of `ls` waits for others (R223, R306, R307). -/
def waitTogether (s : State) (ls : List Fibre) : State :=
  if ls.any (fun f => ((fibre? s f.key).map (·.run.collective)).getD false) then holdMates s ls else s

/-- R223, R118; a release (log 19). -/
def execBar (h : Head) (p : BarP) (s : State) : Result :=
  let id := p.id.toNat
  issue { useOf h (Instr.bar h p).legal with home := p.cnt }
    (fun s _ ls =>
      let r := released s ls (if ls.any (·.away) then 4 else 2)
      if !r.2 then actWait r.1 else
      let a := laneAct (fun s f =>
        let n := ((block? s f.blk).map (fun b => barOf b id)).getD NBar.zero
        let v := (uni s f p.s.toNat).toNat
        if p.cnt && n.arrived == 0 && (v == 0 || decide (8192 < v)) then (s, some (trapF cIllegalOp))
        else if f.away then
          (setFibre s f.key fun g => { g with transit := .barArrival, run := .waiting (.bar id n.phase.toNat) }, none)
        else (barArrive s f.key f.blk id (if p.cnt then some v else none), none)) r.1 ls
      { a with s := waitTogether a.s ls }) s

/-- R224. -/
def execUtrap (h : Head) (p : CodeP) (s : State) : Result :=
  issue (useOf h (Instr.utrap h p).legal) (fun s _ ls => acted s (trapAll ls cUserTrap p.code.toNat false)) s

/-- R224. -/
def execBkpt (h : Head) (p : CodeP) (s : State) : Result :=
  issue (useOf h (Instr.bkpt h p).legal) (fun s _ ls => acted s (trapAll ls cBreakpoint p.code.toNat false)) s

/-- A MARK code counted as progress of a trial of the block's kernel (R392). -/
def countMark (s : State) (b : Block) (code : Nat) : State :=
  let m := sysGet s b.part 0x0520
  if ((kernel? s b.kernel).bind (·.trial)).isSome && decide (m % 65536 ≤ code) && decide (code ≤ m / 65536 % 65536) then
    setPartn s b.part fun x => { x with pcount := x.pcount + 1 }
  else s

/-- R224, R391, R392. -/
def execMark (h : Head) (p : CodeP) (s : State) : Result :=
  issue (useOf h (Instr.mark h p).legal)
    (fun s b ls => firstLane (fun s f => acted (countMark (traceWrite s b f 0 p.code.toNat 0) b p.code.toNat) []) s ls) s

end Sys2Proof.Machine
end

