-- ==== Sys2Proof/Machine/Stops.lean ====
section
/-!
DEFINITION. Pre-emption (R356 to R359), stops for debugging (R389), and what PSTAT and DSTAT read (R365, R388).
-/
namespace Sys2Proof.Machine

/-! ### Pre-emption -/

/-- A block that a supervisor may name: one of its partition; the monitor's may name any. -/
def ownBlock (s : State) (part id : Nat) : Option Block :=
  (block? s id).bind fun b => if b.part == part || part == monPart then some b else none

/-- A stopped fibre, back before an instruction that a restore executes again (R357). -/
def Fibre.rewind (f : Fibre) : Fibre :=
  { f with pc := f.waitPc, owe := 0, run := .ready, slot := none, outs := f.outs.filter (fun o => o.fe == 0 || o.kind != .load) }

/-- Waits that are given up: LDL.fe, STL.fe and RECV.wait (R357). -/
def Run.again : Run → Bool
  | .waiting (.fe _) | .waiting (.recv ..) => true
  | _ => false

/-- A store of STL.fe that has not performed. -/
def Store.isFe (x : Store) : Bool := x.kind == .stl 1

/-- A store of a fibre that waits at an STL.fe is taken back, and what it fed to the fibre's store hash with it (R357, R395). -/
def dropFeStores (s : State) (k : FKey) : State :=
  let keep := fun (x : Store) => !(x.fib == k && x.isFe)
  let s' := { s with ports := s.ports.map (fun p => { p with fifo := p.fifo.filter keep }), feStores := s.feStores.filter keep }
  match (storesOf s k).find? Store.isFe with
  | some x => setFibre s' k fun f => { f with fhash := x.hash }
  | none => s'

/-- A move that waits for a guest slot is withdrawn: the fibre stands before the moving instruction (R359). -/
def Fibre.withdraw (f : Fibre) : Fibre :=
  match f.move with
  | none => f
  | some _ => { f with move := none, transit := .none, own := none, run := .ready, slot := none }

/-- One fibre of a pre-empted block stops, out of its batch, whose lanes in masked handlers go on (R356, R357, R359). -/
def stopFibre (s : State) (k : FKey) : State :=
  match fibre? s k with
  | none => s
  | some f =>
    let s := if f.run.again then dropFeStores (setFibre s k Fibre.rewind) k else s
    let s := if f.away && (match f.run with | .parked (.unresolved _) => true | _ => false) then forget s fun w => w == .fibre k else s
    setFibre s k fun f => { f.withdraw.recall with slot := none }

/-- Fibres of a pre-empted block that are to stop (R356). -/
def stopping (s : State) (b : Block) : List Fibre := (aliveOf s b.id).filter fun f => !f.tm || f.expired

/-- Every fibre of a pre-empted block that is to stop does what stopping asks of it, once more after each change. -/
def stopAll (s : State) (b : Block) : State := cleanSlots ((stopping s b).foldl (fun s f => stopFibre s f.key) s)

/-- Pre-emption of one block is requested (R356). -/
def preempt (s : State) (id : Nat) : State :=
  match block? s id with
  | none => s
  | some b =>
    if b.pre then s
    else
      let s := setBlock s id fun b => { b with pre := true, preAt := s.now, lsq := false }
      stopAll s { b with pre := true }

/-- Members of a block's gang, or the block alone (R356, R372). -/
def gangOf (s : State) (b : Block) : List Nat := ((b.gang.bind (gang? s)).map (·.members)).getD [b.id]

/-- PREQ with GO (R356, R365). -/
def requestStop (s : State) (part id : Nat) : State :=
  match ownBlock s part id with
  | none => s
  | some b => (gangOf s b).foldl preempt s

/-- A lane has left TM = 0 in a block that is being pre-empted: it stops at this boundary (R366). -/
def stopNow (s : State) (b : Block) (ks : List FKey) : State :=
  if b.pre then ks.foldl stopFibre s else s

/-- A fibre has stopped, its loads performed (R356). -/
def fibreStopped (f : Fibre) : Bool :=
  f.outs.isEmpty && f.guest.isNone && f.transit == .none && f.counter 3 == 0 && f.counter 4 == 0
    && (!f.tm || f.expired || (match f.run with | .parked _ | .joining => true | _ => false))

/-- The block a message is for. -/
def MsgKind.dest : MsgKind → Nat
  | .radd blk .. => blk
  | .send blk .. => blk
  | .esend blk _ => blk

/-- A pre-empted block has stopped (R356). -/
def blockStopped (s : State) (b : Block) : Bool :=
  b.pre && (aliveOf s b.id).all fibreStopped && !s.fibres.any (fun f => f.blk == b.id && f.run == .exited && !f.outs.isEmpty)
    && !s.leftCuts.any (fun c => c.blk == b.id)
    && !(engineOf s b.cluster).entries.any (fun e => e.blk == b.id && e.granted)
    && !s.ldas.any (fun x => x.blk == b.id) && !s.msgs.any (fun m => (m.blk == b.id && m.opId != 0) || m.kind.dest == b.id)
    && !(blockStores s b.id).any (fun x => match x.kind with | .radd .. => true | _ => false)

/-- PSTAT of a block (R365). -/
def pstat (s : State) (part id : Nat) : Nat :=
  match ownBlock s part id with
  | none => 3
  | some b => if blockStopped s b then 2 else if b.pre then 1 else 0

/-- R356: a write of PREQ; with GO the block, or every member of its gang, is pre-empted. -/
def writePreq (s : State) (part value : Nat) : State :=
  let s := sysPut s part 0x0304 (value % 2 ^ 17)
  if value.testBit 17 then requestStop s part (value % 2 ^ 17) else s

/-- R356. -/
def execPreq (part value : Nat) (s : State) : Result := .next (writePreq s part value)

/-- R356: a masked handler has had H cycles since the request. -/
def execHandlerBudgetExpiry (core port ctx : Nat) (s : State) : Result :=
  match fibre? s (keyOf core port ctx) with
  | none => .next s
  | some f =>
    match block? s f.blk with
    | none => .next s
    | some b =>
      if b.pre && f.tm && !f.expired && f.run != .exited && decide (b.preAt + sysGet s b.part 0x0303 ≤ s.now) then
        .next (cleanSlots (stopFibre (setFibre s f.key fun g => { g with expired := true }) f.key))
      else .next s

/-! ### Stops of DSTOP -/

/-- The batches of a block: lanes by slot, in slot order. -/
def batchesOf (s : State) (b : Block) : List (List Fibre) :=
  (s.slots.map fun x => lanesOf s { core := x.core, port := x.port, slot := x.idx }).filter
    fun l => l.head?.any (fun f => f.blk == b.id)

/-- GO: every fibre of the block stops at its boundary, with a STOP record for each batch (R389, R391). -/
def debugGo (s : State) (part id : Nat) : State :=
  match ownBlock s part id with
  | none => s
  | some b =>
    if b.dbg then s
    else
      let s := setBlock s id fun b => { b with dbg := true }
      (batchesOf s b).foldl (fun s l => match l with | f :: _ => traceWrite s b f 2 0 0 | [] => s) s

/-- RESUME (R389). -/
def debugRelease (s : State) (part id : Nat) : State :=
  match ownBlock s part id with
  | none => s
  | some _ => setBlock s id fun b => { b with dbg := false }

/-- A write of DSTOP: GO, then RESUME (R388, R389; log 19). -/
def writeDstop (s : State) (part value : Nat) : State :=
  let id := value % 2 ^ 17
  let s := sysPut s part 0x0500 id
  let s := if value.testBit 17 then debugGo s part id else s
  if value.testBit 18 then debugRelease s part id else s

/-- A fibre of a stopped block stands at an instruction boundary, or stays as it is: one that waits at an instruction it has issued does
not (R389). -/
def Fibre.atBoundary (f : Fibre) : Bool :=
  match f.run with
  | .waiting .retry => true
  | .waiting _ => f.away
  | _ => true

/-- DSTAT of a block: 2 once every fibre has stopped (R388, R389). -/
def dstat (s : State) (part id : Nat) : Nat :=
  match ownBlock s part id with
  | none => 3
  | some b => if !b.dbg then 0 else if (aliveOf s b.id).all Fibre.atBoundary then 2 else 1

/-- R389. -/
def execDebugStop (part value : Nat) (s : State) : Result :=
  if value.testBit 17 then .next (writeDstop s part value) else .next s

/-- R389. -/
def execDebugResume (part value : Nat) (s : State) : Result :=
  if value.testBit 18 then .next (writeDstop s part value) else .next s

end Sys2Proof.Machine
end

