-- ==== Sys2Proof/Machine/Registers.lean ====
section
/-!
DEFINITION. System registers (R322 to R324, R348, R364, R365, R381 to R383, R388): which numbers are assigned, what they read, and what
a write of each does, with SYSRD and SYSWR and the events that stand for single writes.
-/
namespace Sys2Proof.Machine

/-! ### The map (R322) -/

/-- A chapter assigns the number. -/
def sysAssigned (n : Nat) : Bool :=
  let within := fun (lo hi : Nat) => decide (lo ≤ n) && decide (n ≤ hi)
  within 0x0000 0x0004 || (within 0x0100 0x01FF && decide (n % 8 < 6)) || within 0x0200 0x0205 || within 0x0210 0x021F || within 0x0300 0x0306
    || within 0x0308 0x030F || within 0x0400 0x0401 || within 0x0500 0x0502 || within 0x0504 0x0517 || within 0x0520 0x0522
    || within 0x0528 0x052D || within 0x0530 0x0547 || within 0x4000 0x4008 || within 0x4010 0x4017
    || (within 0x4040 0x405F && decide (n % 8 < 6)) || within 0x4060 0x4061

/-- Every field of the register is read-only (R364). -/
def sysReadOnly (n : Nat) : Bool :=
  let within := fun (lo hi : Nat) => decide (lo ≤ n) && decide (n ≤ hi)
  within 0x0001 0x0002 || (within 0x0100 0x01FF && n % 8 == 5) || within 0x0202 0x0203 || within 0x0210 0x021F || n == 0x0305
    || within 0x0308 0x030F || n == 0x0501 || n == 0x0506 || within 0x0521 0x0522 || within 0x052C 0x052D || within 0x0530 0x053F
    || n == 0x4000 || n == 0x4008 || (within 0x4040 0x405F && n % 8 == 5)

/-- Level that a register's range needs (R322). -/
def sysLevel (n : Nat) : Nat := if 0x4000 ≤ n && decide (n < 0x8000) then 2 else 1

/-- Partition whose copy a register is: the issuer's, or the monitor's own for its range. -/
def sysPart (part n : Nat) : Nat := if 0x4000 ≤ n then monPart else part

/-- Number under which the launch-queue registers that a monitor fibre sees below 0x4000 are held: they admit nothing (log 19). -/
def shadowPart : Nat := 9

/-- Queue that a register number belongs to (R324, R382). -/
def queueNo (part n : Nat) : Nat × Nat :=
  if 0x4000 ≤ n then (monPart, (n - 0x4040) / 8) else (if part == monPart then shadowPart else part, (n - 0x0100) / 8)

/-- A queue's register `i` (R324, R382). -/
def LQueue.read (q : LQueue) (i : Nat) : Nat :=
  match i with
  | 0 => q.ring.toNat
  | 1 => q.en.toNat * 2 ^ 7 + q.prio.toNat * 2 ^ 4 + q.logn.toNat
  | 2 => q.tailAddr.toNat
  | 3 => q.head.toNat
  | 4 => q.doneAddr.toNat
  | _ => q.stat

/-- Number of the register that holds comparator word `i` of the core that DCSEL names (R388). -/
def cmpNo (s : State) (part i : Nat) : Nat := 0x20000 + 16 * sysGet s part 0x0502 + i

/-- 64 bits of a 256-bit record. -/
def quarter (x : BitVec 256) (i : Nat) : Nat := (x.extractLsb' (64 * i) 64).toNat

/-- A slot of a block's fault record as its 128 bits (R347). -/
def FaultRec.bits (r : FaultRec) : BitVec 128 :=
  r.obj ++ r.pc ++ r.fid ++ r.code ++ BitVec.ofBool r.gone ++ 0#34

/-- Block that BFSEL names (R348). -/
def bfBlock (s : State) (part : Nat) : Option Block := ownBlock s part (sysGet s part 0x0204)

/-- What a register reads in a fibre of a partition (R364). -/
def sysRead (s : State) (part : Nat) (f : Fibre) (n : Nat) : Nat :=
  let p := partnOf s part
  let blk := sysGet s part 0x0500
  if 0x0100 ≤ n && decide (n < 0x0200) || 0x4040 ≤ n && decide (n < 0x4060) then
    (queueOf s (queueNo part n).1 (queueNo part n).2).read (n % 8)
  else if 0x0210 ≤ n && decide (n ≤ 0x021F) then
    match (bfBlock s part).bind (fun b => b.faults[(n - 0x0210) / 2]?) with
    | some r => r.bits.toNat / 2 ^ (64 * (n % 2)) % 2 ^ 64
    | none => 0
  else if 0x0308 ≤ n && decide (n ≤ 0x030B) then quarter ((f.trec.map TrapRec.bits).getD 0) (n - 0x0308)
  else if 0x030C ≤ n && decide (n ≤ 0x030F) then quarter p.latch (n - 0x030C)
  else if 0x0508 ≤ n && decide (n ≤ 0x0517) then sysGet s part (cmpNo s part (n - 0x0508))
  else if 0x0530 ≤ n && decide (n ≤ 0x053F) then
    match ownBlock s part blk with
    | some b => (barOf b (n - 0x0530)).phase.toNat * 2 ^ 32 + (barOf b (n - 0x0530)).arrived % 2 ^ 14
    | none => 0
  else match n with
  | 0x0202 => (p.faults.filter (fun e => e.posted && !e.popped)).length
  | 0x0203 => p.reclaims.length
  | 0x0205 => match bfBlock s part with | some b => b.fovf.toNat * 16 + b.faults.length | none => 0
  | 0x0305 => pstat s part (sysGet s part 0x0304)
  | 0x0306 => p.tovf.toNat * 2 ^ 9 + p.tlog.length
  | 0x0501 => dstat s part blk
  | 0x0505 => sysGet s part 0x0505 + p.trDrops.toNat * 2 ^ 8
  | 0x0506 => p.trTail.toNat
  | 0x0521 => p.pcount.toNat
  | 0x0522 => p.dcount.toNat
  | 0x052B => p.rrUsed.toNat * 2 ^ 32 + p.rrBad.toNat * 4 + p.rrFull.toNat * 2 + p.rrDiv.toNat
  | 0x052C => f.dbcause.toNat
  | 0x052D => f.fhash.toNat
  | _ => sysGet s (sysPart part n) n

/-! ### Writes -/

/-- A read of TLOG0 first moves the oldest log record into the latch (R365). -/
def latchLog (s : State) (part : Nat) : State :=
  setPartn s part fun p =>
    match p.tlog with
    | r :: rs => { p with latch := r.bits, tlog := rs }
    | [] => { p with latch := 0 }

/-- A write of QCTL (R324): RESUME clears HALT; a queue newly enabled has its tail line read (R325); an effective priority that changes with
PRIO is reached now (R329); a queue that still waits where every cluster is fenced halts again (R385). -/
def writeQctl (s : State) (part q v : Nat) : State :=
  let x := queueOf s part q
  let on := v.testBit 7
  let tail := if on && !x.en && part != monPart then some (BitVec.ofNat 32 (s.read x.tailCell 4)) else x.tail
  let t := tAge s part
  let s := setQueue s part q fun x =>
    let x := x.noteSteps s.now t
    let y := { x with logn := BitVec.ofNat 4 v, prio := BitVec.ofNat 3 (v / 2 ^ 4), en := on, halt := x.halt && !v.testBit 8, tail := tail }
    { y with reachAt := if y.eff s.now t == x.eff s.now t then x.reachAt else s.now }
  let s := if v.testBit 8 then haltFenced s part else s
  let s := if on && !x.en then seeTail s part q else s
  if on && decide (part < 8) then { s with everEnabled := true } else s

/-- A write of a monitor queue's TAIL (R325, R382). -/
def writeTail (s : State) (q v : Nat) : State :=
  seeTail (setQueue s monPart q fun x => { x with tailAddr := BitVec.ofNat 64 (v % 2 ^ 32), tail := some (BitVec.ofNat 32 v) }) monPart q

/-- A write of TAGE: a new interval holds from the next ageing step of each queue, those before it being noted; 0 is ignored (R323, R329). -/
def writeTage (s : State) (part v : Nat) : State :=
  if v % 2 ^ 16 == 0 then s
  else
    let s := { s with queues := s.queues.map fun q => if q.part == part then q.noteSteps s.now (tAge s part) else q }
    sysPut s part 0x0000 (v % 2 ^ 16)

/-- A write of a queue's register `i` (R324, R382). -/
def writeQueue (s : State) (part q i v : Nat) : State :=
  let x := queueOf s part q
  match i with
  | 0 => if x.en then s else setQueue s part q fun x => { x with ring := BitVec.ofNat 64 v }
  | 1 => writeQctl s part q v
  | 2 =>
    if part == monPart then writeTail s q v
    else if x.en then s else setQueue s part q fun x => { x with tailAddr := BitVec.ofNat 64 v }
  | 3 => if x.en && !x.halt then s else setQueue s part q fun x => { x with head := BitVec.ofNat 32 v }
  | 4 => if x.en then s else setQueue s part q fun x => { x with doneAddr := BitVec.ofNat 64 v }
  | _ => s

/-- A write of BFSTAT: ACK empties the record (R347, R348). -/
def writeBfstat (s : State) (part v : Nat) : State :=
  match bfBlock s part with
  | some b => if v.testBit 5 then setBlock s b.id fun b => { b with faults := [], fovf := false } else s
  | none => s

/-- A write of TCODE1: the pair is checked, and a failing one reads as null (R365). -/
def writeTcode1 (s : State) (part v : Nat) : State :=
  let c := BitVec.ofNat 128 (sysGet s part 0x0301 + 2 ^ 64 * v)
  let s := touchDescs s part [capObj c]
  if rootCap s part c then sysPut s part 0x0302 (v % 2 ^ 64) else sysPut (sysPut s part 0x0301 0) part 0x0302 0

/-- A write of TRCTL: EN = 1 clears DROPS and TAIL (R388). -/
def writeTrctl (s : State) (part v : Nat) : State :=
  let s := sysPut s part 0x0505 (v / 2 ^ 40 % 2 * 2 ^ 40 + v % 2 ^ 5)
  if v.testBit 40 then setPartn s part fun p => { p with trDrops := 0, trTail := 0 } else s

/-- A write of RRCTL; with replay the first chunk of each object becomes current (R388, R394, R397; log 19). -/
def writeMode (s : State) (part v : Nat) : State :=
  let mode := v % 4
  if mode == 0 then sysPut (if rrMode s part == 1 then closeChunks s part else s) part 0x0528 0
  else if mode == 3 || userResident s part then s
  else
    let t := setPartn (sysPut s part 0x0528 mode) part fun p =>
      { p with rrUsed := 0, rrFull := false, rrBad := false, rrOpen := [], rrCur := [], rrDone := [] }
    if mode == 2 then (List.range 8).foldl (fun t j => meetChunk t part j 0) t else t

/-- A write of FEATACCEPT, before any partition's queue has been enabled (R383). -/
def writeFeatures (s : State) (v : Nat) : State :=
  if s.everEnabled then s else sysPut s monPart 0x4001 (v % 2 ^ 4 &&& sysGet s monPart 0x4000)

/-- The byte of the ownership map at an index (R374). -/
def ownByte (s : State) (i : Nat) : Nat := s.read (sysGet s monPart 0x4002 + i) 1

/-- Granules of the ownership map (R374). -/
def ownCells (s : State) : List Nat := gransOf (sysGet s monPart 0x4002) 400

/-- A byte of the ownership map lies where no memory is. -/
def ownHole (s : State) : Option Nat :=
  ((List.range 400).map (sysGet s monPart 0x4002 + ·)).find? (fun a => !mapped a)

/-- The ownership map is read and applied (R374); a partition left with fenced clusters alone halts its waiting queues (R385). -/
def applyOwners (s : State) : State :=
  let s := (ownCells s).foldl touch s
  let s := { s with
    owners := (List.range Config.clusterCount).map fun c => (c, ownByte s c)
    serves := (List.range Config.stackCount).map fun k => (k, ownByte s (Config.clusterCount + k)) }
  (List.range 9).foldl haltFenced s

/-- A write of HMSTAT: HEAD, and OVF by writing 1 (R381; log 19). -/
def writeHmstat (s : State) (v : Nat) : State :=
  let x := sysGet s monPart 0x4007
  let head := v / 2 ^ 32 % 2 ^ 8
  let ovf := x / 2 ^ 40 % 2 == 1 && !v.testBit 40
  let s := if head == x / 2 ^ 32 % 2 ^ 8 then s else sysPut s monPart 0x30000 ((x % 2 ^ 32 + 256 - head) % 256)
  sysPut s monPart 0x4007 (ovf.toNat * 2 ^ 40 + head * 2 ^ 32 + x % 2 ^ 32)

/-- A write of a register number that is no queue's, by its fields (R323, R348, R365, R381, R388). -/
def writeReg (s : State) (part n v : Nat) : State :=
  let put := fun (w : Nat) => sysPut s (sysPart part n) n (v % 2 ^ w)
  if 0x0508 ≤ n && decide (n ≤ 0x0517) then
    sysPut s part (cmpNo s part (n - 0x0508)) (if n % 2 == 0 then v % 2 ^ 45 / 2 * 2 else v % 2 ^ 64)
  else if 0x0540 ≤ n && decide (n ≤ 0x0547) then (if userResident s part then s else put 32)
  else if 0x4010 ≤ n && decide (n ≤ 0x4017) then put 32
  else match n with
  | 0x0000 => writeTage s part v
  | 0x0003 => put 16
  | 0x0004 => if decide (250 ≤ v % 2 ^ 15) && decide (v % 2 ^ 15 ≤ 32000) then put 15 else s
  | 0x0200 | 0x0300 | 0x0301 | 0x0504 | 0x0529 | 0x4002 | 0x4005 | 0x4006 | 0x4060 => put 64
  | 0x0201 | 0x4061 => put 31
  | 0x0204 => put 17
  | 0x0205 => writeBfstat s part v
  | 0x0302 => writeTcode1 s part v
  | 0x0303 | 0x0400 | 0x0507 | 0x0520 | 0x052A => put 32
  | 0x0304 => writePreq s part v
  | 0x0306 => if v.testBit 9 then setPartn s part fun p => { p with tovf := false } else s
  | 0x0401 => put 16
  | 0x0500 => writeDstop s part v
  | 0x0502 => put 11
  | 0x0505 => writeTrctl s part v
  | 0x0528 => writeMode s part v
  | 0x052B => setPartn s part fun p => { p with rrBad := p.rrBad && !v.testBit 2, rrDiv := p.rrDiv && !v.testBit 0 }
  | 0x4001 => writeFeatures s v
  | 0x4003 => if v.testBit 0 then applyOwners s else s
  | 0x4004 => sysPut s monPart 0x4004 (min 3000 (v % 2 ^ 12))
  | 0x4007 => writeHmstat s v
  | _ => s

/-- A write of a system register (R364). -/
def sysWrite (s : State) (part n v : Nat) : State :=
  if 0x0100 ≤ n && decide (n < 0x0200) || 0x4040 ≤ n && decide (n < 0x4060) then
    writeQueue s (queueNo part n).1 (queueNo part n).2 (n % 8) v
  else writeReg s part n v

/-- A write reads an address that no memory has: the ownership map's. -/
def writeHole (s : State) (n v : Nat) : Option Nat := if n == 0x4003 && v.testBit 0 then ownHole s else none

/-- A cell that a write reads and that a row or a sleeping stack holds back: of the ownership map, of a handler code object's descriptor, of the
replay log, which MODE 0 also writes (R99, R102, R377, R397). -/
def writeHeld (s : State) (part n v : Nat) : Option Nat :=
  match n with
  | 0x4003 => if v.testBit 0 then (ownCells s).find? (rowWaits s) else none
  | 0x0302 => descHeld s part [capObj (BitVec.ofNat 128 (sysGet s part 0x0301 + 2 ^ 64 * v))]
  | 0x0528 =>
    if v % 4 == 2 && !userResident s part then (List.range 8).findSome? fun j => chunkHeld s part j (sysGet s part 0x052A) 0
    else if v % 4 == 0 && rrMode s part == 1 then logHeld s part (partnOf s part).rrOpen.length
    else none
  | _ => none

/-- A write that nothing holds back, or a wait. -/
def whenRead (s : State) (part n v : Nat) (t : State) : Result :=
  match writeHeld s part n v with
  | some a => .next (noteWait s a)
  | none => .next t

/-! ### SYSRD and SYSWR -/

/-- Use of SYSRD or SYSWR (R322, R362 to R364). -/
def sysUse (h : Head) (p : SysregP) (legal : Bool) : Use :=
  { useOf h (legal && sysAssigned p.srn.toNat) with priv := sysLevel p.srn.toNat, home := true }

/-- Registers that SYSRD or SYSWR names. -/
def sysRegs (p : SysregP) : List Nat := if p.us then [] else [p.v.toNat, p.v.toNat + 1]

/-- R322, R362, R364, R365. -/
def execSysrd (h : Head) (p : SysregP) (s : State) : Result :=
  let n := p.srn.toNat
  let v := p.v.toNat
  issue { sysUse h p (Instr.sysrd h p).legal with vw := sysRegs p }
    (fun s b ls =>
      let s := if n == 0x030C && !ls.isEmpty then latchLog s b.part else s
      let x := fun (f : Fibre) => BitVec.ofNat 64 (sysRead s b.part f n)
      if p.us then firstLane (fun s f => acted (setUnis s f p.s.toNat [loWord (x f), hiWord (x f)]) []) s ls
      else regAct none (fun _ => none)
        (fun f => [.reg v { val := loWord (x f), tag := tI64lo }, .reg (v + 1) { val := hiWord (x f), tag := tI64hi }]) s ls) s

/-- R322, R362, R364, R365: a release at package scope, then the write; no other port issues later in its cycle. -/
def execSyswr (h : Head) (p : SysregP) (s : State) : Result :=
  let n := p.srn.toNat
  issue { sysUse h p ((Instr.syswr h p).legal && !sysReadOnly n) with vr := sysRegs p }
    (fun s b ls => firstLane (fun s f =>
      match checkRegs f (sysRegs p) with
      | some e => acted s [(f.key, trapF e)]
      | none =>
        let r := released s [f] 4
        if !r.2 then actWait r.1
        else
          let v := (if p.us then uniPair s f p.s.toNat else pairOf (f.val p.v.toNat) (f.val (p.v.toNat + 1))).toNat
          match writeHole r.1 n v, writeHeld r.1 b.part n v with
          | some a, _ => { acted s [] with hole := some a }
          | none, some a => actWait (noteWait r.1 a)
          | none, none => acted { (sysWrite r.1 b.part n v) with sysAt := s.now + 1 } []) s ls) s

/-! ### Single writes and reads as events -/

/-- R324: a write of QCTL with RESUME. -/
def execQueueResume (part queue value : Nat) (s : State) : Result :=
  if isQueueNo part queue && value.testBit 8 then .next (writeQctl s part queue value) else .next s

/-- R382. -/
def execMonitorQueueTail (queue value : Nat) (s : State) : Result :=
  if queue < 4 then .next (writeTail s queue value) else .next s

/-- R365. -/
def execTcode1 (part value : Nat) (s : State) : Result := whenRead s part 0x0302 value (writeTcode1 s part value)

/-- R365. -/
def execTlog0 (part : Nat) (s : State) : Result := .next (latchLog s part)

/-- R347, R348. -/
def execBfstatAck (part value : Nat) (s : State) : Result := .next (writeBfstat s part value)

/-- The monitor assigns a stack's frames, region-table entries or program slots, by naming those denied to a partition, or a partition's quota
of directory entries (R122, R374; the form of the assignment is log 7's): `x` holds what at [1:0], the stack at [5:2], the partition at [8:6],
and from bit 9 the first frame in 32 bits and the count of frames, which as 0 gives all of the stack's back, or the mask or quota. -/
def assign (s : State) (x : Nat) : State :=
  let part := x / 2 ^ 6 % 8
  let stack := x / 4 % 16
  let n := x / 2 ^ 9
  match x % 4 with
  | 0 => setPartn s part fun p =>
    { p with denied := if n / 2 ^ 32 == 0 then p.denied.filter (fun d => d.1 != stack) else p.denied ++ [(stack, n % 2 ^ 32, n / 2 ^ 32)] }
  | 1 => sysPut s part (0x32000 + stack) (n % 2 ^ 256)
  | 2 => sysPut s part (0x31000 + stack) (n % 2 ^ 16)
  | _ => setPartn s part fun p => { p with quota := min n 65536 }

/-- R374; bits from 64 on stand for the monitor's assignments beside the register (log 7). -/
def execOwnapply (value : Nat) (s : State) : Result :=
  if 2 ^ 64 ≤ value then .next (assign s (value / 2 ^ 64))
  else match writeHole s 0x4003 value with
  | some a => .fault (.noSuchAddress a)
  | none => whenRead s monPart 0x4003 value (sysWrite s monPart 0x4003 value)

/-- R383. -/
def execFeataccept (value : Nat) (s : State) : Result := .next (writeFeatures s value)

/-- R388, R391. -/
def execTraceEnable (part value : Nat) (s : State) : Result :=
  if value.testBit 40 then .next (writeTrctl s part value) else .next s

/-- R388, R393, R397. -/
def execRecordMode (part value : Nat) (s : State) : Result :=
  if value % 4 == 1 then .next (writeMode s part value) else .next s

/-- R388, R394, R397. -/
def execReplayMode (part value : Nat) (s : State) : Result :=
  if value % 4 == 2 then whenRead s part 0x0528 value (writeMode s part value) else .next s

/-- R388, R394. -/
def execModeOff (part value : Nat) (s : State) : Result :=
  if value % 4 == 0 then whenRead s part 0x0528 value (writeMode s part value) else .next s

end Sys2Proof.Machine
end

