-- ==== Sys2Proof/Machine/Supervisor.lean ====
section
/-!
DEFINITION. Instructions of the device runtime: leaving handlers (R366), fault and reclamation queues (R346, R367, R368), translation
caches (R369), pages (R349, R350, R370), kills (R372), trials (R373).
-/
namespace Sys2Proof.Machine

/-- Use of a privileged instruction (R362). -/
def supUse (h : Head) (legal : Bool) : Use := { useOf h legal with priv := 1, home := true }

/-- The acting lane's predicate. -/
def putPred (s : State) (f : Fibre) (pd : Nat) (b : Bool) : State := setFibre s f.key fun g => g.writeNow (.pred pd b)

/-- A status register receives its code (R362). -/
def putCode (s : State) (f : Fibre) (st : BitVec 8) (code : Nat) : State := setUni s f st.toNat (BitVec.ofNat 32 code)

/-- Uniform register `i` of a group. -/
def groupWord (s : State) (f : Fibre) (base : BitVec 8) (i : Nat) : Nat := (uni s f (base.toNat + i)).toNat

/-! ### Fragments that a name gives (R366, R372) -/

/-- Fibre of a name BLOCK, FID among those a supervisor may name. -/
def namedFibre (s : State) (part blk fid : Nat) : Option Fibre :=
  (ownBlock s part blk).bind fun b => s.fibres.find? fun f => f.blk == b.id && f.fid == fid && f.run != .exited

/-- A logged fibre waits for TRET or HALTB (R366). -/
def Fibre.logged (f : Fibre) : Bool := f.run == .parked .trap && f.logRec.isSome

/-- Fibres of the parked fragment of a fibre: those logged with it, or those parked on the same pages or name. -/
def fragment (s : State) (f : Fibre) : List Fibre :=
  match f.run with
  | .parked .trap => s.fibres.filter fun g => g.blk == f.blk && g.logged && g.frag == f.frag
  | .parked (.unresolved es) =>
    if es.isEmpty then [f] else s.fibres.filter fun g => g.blk == f.blk && g.run == f.run
  | .parked (.name _) =>
    s.fibres.filter fun g => g.blk == f.blk && g.run == f.run && g.pc == f.pc && g.joins == f.joins && g.loc == f.loc && g.key.port == f.key.port
  | _ => []

/-- Records of fibres leave their partition's trap log (R366, R372). -/
def dropLog (s : State) (fs : List Fibre) : State :=
  let recs := fs.filterMap (·.logRec)
  { s with partns := s.partns.map fun p => { p with tlog := p.tlog.filter (fun r => !recs.contains r) } }

/-- TRET with FR = 1 (R366). -/
def resumeFragment (s : State) (part blk fid : Nat) : State :=
  match namedFibre s part blk fid with
  | none => s
  | some f =>
    if !f.logged then s
    else
      let fs := fragment s f
      let s := setFibres (dropLog s fs) (fs.map (·.key)) Fibre.resumeLogged
      match block? s f.blk with
      | some b => stopNow s b (fs.map (·.key))
      | none => s

/-- R353, R366. -/
def execTret (h : Head) (p : FrP) (s : State) : Result :=
  issue (supUse h (Instr.tret h p).legal)
    (fun s b ls =>
      if p.fr then firstLane (fun s f => acted (resumeFragment s b.part (groupWord s f p.s 0 % 2 ^ 17) (groupWord s f p.s 1 % 2 ^ 13)) []) s ls
      else
        let hs := ls.filter (·.inHandler)
        let fates := ls.map fun f => (f.key, match f.trec with | some r => Fate.back r.resume | none => trapF cIllegalOp)
        acted (stopNow (onLanes s hs Fibre.leave) b (hs.map (·.key))) fates) s

/-- R366. -/
def execTmask (h : Head) (p : TmaskP) (s : State) : Result :=
  issue (supUse h (Instr.tmask h p).legal)
    (fun s b ls =>
      let s := onLanes s ls fun f => { f with tm := p.m }
      acted (if p.m then s else stopNow s b (ls.map (·.key))) []) s

/-! ### Fault and reclamation queues -/

/-- R367, R344. -/
def execFqpop (h : Head) (p : PopP) (s : State) : Result :=
  issue { supUse h (Instr.fqpop h p).legal with pw := [p.pd.toNat] }
    (fun s b ls => firstLane (fun s f =>
      match (partnOf s b.part).faults.find? (fun e => e.posted && !e.popped) with
      | none => acted (putPred s f p.pd.toNat false) []
      | some e =>
        let s := setPartn s b.part fun q => { q with faults := q.faults.map fun x => if x.eid == e.eid then { x with popped := true } else x }
        acted (putPred (setUnis s f p.s.toNat (wordsN e.bits.toNat 8)) f p.pd.toNat true) []) s ls) s

/-- A reclamation slot is free: the deferred reclamations are judged again, the oldest first; those without room stay deferred (R132, R348). -/
def nextDeferred (s : State) (part : Nat) : State :=
  ((partnOf s part).deferred).foldl (fun s d => reclaimCheck s part (d.toNat % 2 ^ 32)) (setPartn s part fun q => { q with deferred := [] })

/-- R367, R132. -/
def execPrack (h : Head) (p : PopP) (s : State) : Result :=
  issue { supUse h (Instr.prack h p).legal with pw := [p.pd.toNat] }
    (fun s b ls => firstLane (fun s f =>
      match (partnOf s b.part).reclaims with
      | [] => acted (putPred s f p.pd.toNat false) []
      | r :: rs =>
        let s := nextDeferred (setPartn s b.part fun q => { q with reclaims := rs }) b.part
        acted (putPred (setUnis s f p.s.toNat (wordsN r.toNat 4)) f p.pd.toNat true) []) s ls) s

/-- An entry of a parked fibre is resolved; with its last one the fibre is ready (R58, R346). -/
def Fibre.resolve (f : Fibre) (eid : Nat) : Fibre :=
  match f.run with
  | .parked (.unresolved es) =>
    if es.contains eid then
      let rest := es.filter (· != eid)
      { f with run := if rest.isEmpty then .ready else .parked (.unresolved rest), xl := [] }
    else f
  | _ => f

/-- A fibre that waited for entry `a` waits for entry `b` in its place. -/
def Fibre.reposted (f : Fibre) (a b : Nat) : Fibre :=
  match f.run with
  | .parked (.unresolved es) => { f with run := .parked (.unresolved (es.map fun x => if x == a then b else x)) }
  | _ => f

/-- Cause for which the page of an entry still does not resolve (R346): for the entry of an owner lookup that of the lookup alone, which examines no
page (R313). -/
def stillUnres (s : State) (part : Nat) (e : FaultEntry) : Option Nat :=
  if e.look then (match ownerOf s part (e.core.toNat / 96) e.obj.toNat e.poff.toNat with | .unres c => some c | _ => none)
  else match translate s part e.obj.toNat e.poff.toNat [] with
  | .unres c => some c
  | .miss => (match walkTables s part (canonObj e.obj.toNat) e.poff.toNat with | .bad c => some c | _ => none)
  | _ => none

/-- An entry is posted anew, under the number `s.seq`, for a page that still does not resolve (R346). -/
def repost (s : State) (part : Nat) (e : FaultEntry) (cause : Nat) : State :=
  setPartn s.fresh part fun q =>
    { q with faults := q.faults ++ [{ e with eid := s.seq, ident := 0, posted := false, popped := false, cause := BitVec.ofNat 4 cause }] }

/-- What waited for entry `a` waits for entry `b` in its place, or no more. -/
def swapWait (a : Nat) (b : Option Nat) (ws : List Nat) : List Nat :=
  match b with
  | some b => ws.map fun x => if x == a then b else x
  | none => ws.filter (· != a)

/-- A resolved entry: its waiter runs translation again; where the page still does not resolve, a new entry takes the entry's place. A store runs it
as it performs (R346). -/
def resolveEntry (s : State) (part : Nat) (e : FaultEntry) : State :=
  let cause := stillUnres s part e
  let new := cause.map fun _ => s.seq
  let t := match cause with | some c => repost s part e c | none => s
  match e.waiter with
  | .fibre _ =>
    { t with fibres := t.fibres.map fun f => match new with | some n => f.reposted e.eid n | none => f.resolve e.eid }
  | .store id => { s with ports := s.ports.map fun p => { p with fifo := p.fifo.map fun x => if x.id == id then { x with entry := none, xl := none } else x } }
  | .copy id => setCopy t id fun c => { c with waits := swapWait e.eid new c.waits, xl := [] }
  | .mx c i => setMx t c i fun y => { y with waits := swapWait e.eid new y.waits, xl := [] }
  | .remote _ => s

/-- An unresolvable entry: a fragment stays parked, a store is lost, a copy ends, a fetch ends its operation (R346). -/
def failEntry (s : State) (e : FaultEntry) : State :=
  match e.waiter with
  | .fibre _ => s
  | .store id => { s with ports := s.ports.map fun p => { p with fifo := p.fifo.map fun x => if x.id == id then { x with entry := none, lost := true } else x } }
  | .copy id =>
    match (s.copies.find? (fun c => c.id == id)).bind fun c => (block? s c.blk).map fun b => (c, b) with
    | some (c, b) => deliver (killCopy s b c e.obj.toNat)
    | none => s
  | .mx c i =>
    match ((engineOf s c).entries.find? (fun y => y.idx == i)).bind fun y => (block? s y.blk).map fun b => (y, b) with
    | some (y, b) => endMx s b y true
    | none => s
  | .remote _ => s

/-- R346, R368. -/
def execFqres (h : Head) (p : FqresP) (s : State) : Result :=
  issue { supUse h (Instr.fqres h p).legal with pw := [p.pd.toNat] }
    (fun s b ls => firstLane (fun s f =>
      let r := released s [f] 4
      if !r.2 then actWait r.1
      else
        let s := r.1
        match (partnOf s b.part).faults.find? (fun e => e.posted && e.ident == groupWord s f p.s 0 % 2 ^ 12) with
        | none => acted (putPred s f p.pd.toNat false) []
        | some e =>
          let s := setPartn s b.part fun q => { q with faults := q.faults.filter (fun x => x.eid != e.eid) }
          acted (putPred (if p.bad then failEntry s e else resolveEntry s b.part e) f p.pd.toNat true) []) s ls) s

/-! ### Translation caches -/

/-- A TLB entry that TLBINV matches (R369). -/
def tlbMatch (mode obj page : Nat) (t : Tlb) : Bool :=
  mode == 0 || (t.obj == obj && (mode == 1 || (decide (t.lo ≤ page * 4096) && decide (page * 4096 < t.hi))))

/-- Reclaimed ids whose descriptors are no longer valid may be given out again (R132; log 19). -/
def freshIds (s : State) (part mode obj : Nat) : State :=
  { s with dirObjs := s.dirObjs.filter fun d =>
      !(d.part == part && d.reclaimed && (mode == 0 || d.obj == obj) && (match descOf s part d.obj with | .bad c => c == fNoObject | _ => false)) }

/-- Region-table entries over objects whose descriptors a TLBINV finds without V are freed, their cuts aborted (R105). -/
def freeInvalid (s : State) (part mode obj : Nat) : State :=
  let os := distinct ((s.lathes.flatMap (·.regions)).filterMap fun r => if r.part == part && (mode == 0 || r.obj == obj) then some r.obj else none)
  (os.filter fun o => match descOf s part o with | .bad c => c == fNoObject | _ => false).foldl (fun s o => freeRegions s part o) s

/-- Objects whose descriptors a TLBINV reads: reclaimed ones, and those of regions (R105, R132). -/
def tlbObjs (s : State) (part mode obj : Nat) : List Nat :=
  ((s.dirObjs.filter fun d => d.part == part && d.reclaimed).map (·.obj) ++ (s.lathes.flatMap (·.regions)).filterMap fun r =>
    if r.part == part then some r.obj else none).filter fun o => mode == 0 || o == obj

/-- R343, R369: a release; then the walks begun before end; then matching entries are gone. A descriptor that it reads may hold it back (R99,
R377). -/
def execTlbinv (h : Head) (p : TlbinvP) (s : State) : Result :=
  issue (supUse h (Instr.tlbinv h p).legal)
    (fun s b ls => firstLane (fun s f =>
      let r := released s [f] 4
      if !r.2 then actWait r.1
      else
        let s := r.1
        let limit := f.mark.getD s.seq
        if s.walks.any (fun w => w.part == b.part && decide (w.id < limit)) then
          actWait (if f.mark.isSome then s else setFibre s.fresh f.key fun g => { g with mark := some s.seq })
        else
          let obj := canonObj (groupWord s f p.s 0)
          let os := tlbObjs s b.part p.mode.toNat obj
          match descHeld s b.part os with
          | some a => actWait (noteWait s a)
          | none =>
            let s := touchDescs s b.part os
            let s := { s with tlbs := s.tlbs.filter fun t => !(t.part == b.part && tlbMatch p.mode.toNat obj (groupWord s f p.s 1) t) }
            acted (deliver (freeInvalid (freshIds s b.part p.mode.toNat obj) b.part p.mode.toNat obj)) []) s ls) s

/-! ### Pages -/

/-- What OBJSET finds for a page: its descriptor, the extent, the page entry's address; a status; an address no memory has. -/
inductive PageRes where
  | page (id d : Nat) (e : Ext) (pte : Nat)
  | status (code : Nat)
  | nowhere (addr : Nat)
deriving DecidableEq, Repr

/-- The page entry of a page of an object (R340, R370); a damaged entry, or one whose reserved bits are not zero, gives no page (R6; DESIGN
CHOICE, log 21: R370 has no code of its own for it). -/
def pageOf (s : State) (part obj page : Nat) : PageRes :=
  match objName s part obj with
  | .local id =>
    (match descOf s part id, extentOf s part id (page * 4096) with
    | .nowhere a, _ => .nowhere a
    | _, .nowhere a => .nowhere a
    | .ok d, .found e =>
      let q := d / 2 ^ 128 % 2 ^ 64 + 8 * page
      if !e.paged || e.kind == 2 then .status 6
      else if !mapped q then .nowhere q
      else if s.ue q 8 || s.read q 8 / 2 ^ 44 % 2 ^ 14 != 0 || s.read q 8 % 2 ^ 12 != 0 then .status 6
      else .page id d e q
    | _, _ => .status 6)
  | _ => .status 6

/-- A table that OBJSET reads to find a page holds it back (R99, R102, R377). -/
def pageHeld (s : State) (part obj page : Nat) : Option Nat :=
  match objName s part obj with
  | .local id => walkWaits s part id (page * 4096)
  | _ => none

/-- Rows of a page carry a registered cut or row program (R90). -/
def pageLocked (s : State) (a : Nat) : Bool :=
  (List.range 4).any fun i =>
    match rowAt (a + 1024 * i) with
    | some x => (latheOf s x.stack).regions.any fun r => r.covers x.bank x.row || (r.isProg && r.bank == x.bank && r.sub == subarrayOf x.row)
    | none => false

/-- A memory whose frames serve a partition (R374; log 19): a stack that the ownership map gives it; the second tier serves all. -/
def servesPart (s : State) (part kind unit : Nat) : Bool :=
  kind != 0 || stackServes s unit part

/-- A frame of a stack that the monitor has given to others (R374). -/
def frameDenied (s : State) (part kind unit frame : Nat) : Bool :=
  kind == 0 && (partnOf s part).denied.any fun d => d.1 == unit && decide (d.2.1 ≤ frame) && decide (frame < d.2.1 + d.2.2)

/-- A frame of the rows 0xFE00 to 0xFFFF of bank 0, in which a stack's save mode keeps the region table and which are never allocatable (R109). -/
def saveFrame (kind frame : Nat) : Bool := kind == 0 && decide (0x3F80 ≤ frame) && decide (frame < 0x4000)

/-- Frame that MOVE names (R370): none where it is outside its memory or the partition, or never allocatable. -/
def targetFrame (s : State) (part frame mem : Nat) : Option Nat :=
  let kind := mem / 16 % 16
  let unit := mem % 16
  if decide (2 ≤ kind) || !servesPart s part kind unit || frameDenied s part kind unit frame || saveFrame kind frame then none
  else physPlace kind unit (frame * 4096)

/-- A write translated to a page earlier has not performed (R350): a store's, an atomic's, or a command's of its next granule. -/
def pageInUse (s : State) (part id page a : Nat) : Bool :=
  let names := fun (x : Xlate) => canonObj x.obj == id && x.page == page * 4096 && x.place.isSome
  s.ports.any (fun p => p.fifo.any fun x => x.part == part && x.xl.any names)
    || s.copies.any (fun c => (block? s c.blk).any (fun b => b.part == part) && c.xl.any names && !cyDsp c.bits
        && canonObj (capObj c.dcap) == id && copyDoff c / 4096 == page)
    || s.fibres.any (fun f => f.outs.any fun o => o.kind == .atom && !o.spad && decide (a ≤ o.addr) && decide (o.addr < a + 4096))

/-- A page's 4 KiB copied with its capability tags (R55, R350). -/
def movePage (s : State) (a b : Nat) : State :=
  let old := s
  let s := s.write b 4096 0
  let gs := (List.range 256).filter fun i => old.capTags.contains (a + 16 * i)
  { s with
    mem := (List.range 4096).foldl (fun m i => memPut m (b + i) (memGet old.mem (a + i))) s.mem
    capTags := gs.foldl (fun l i => setIns (b + 16 * i) l) s.capTags
    ueMarks := s.ueMarks.filter fun g => decide (g < b) || decide (b + 4096 ≤ g) }

/-- OBJSET on a page found (R370). -/
def objsetOn (s : State) (part op frame mem : Nat) (d : Nat) (e : Ext) (pte : Nat) : State × Nat :=
  let x := s.read pte 8
  let src := physPlace e.kind e.unit (x / 2 ^ 12 % 2 ^ 32 * 4096)
  let ue := src.any fun a => s.ue a 4096
  let low := x % 2 ^ 58 + x / 2 ^ 62 * 2 ^ 62
  if op == 0 && x / 2 ^ 62 % 2 == 0 then (s, 1)
  else if op == 1 && !descCmpOk d then (s, 2)
  else if src.any (pageLocked s) then (s, 3)
  else match op with
  | 0 =>
    (match src, targetFrame s part frame mem with
    | some a, some b => if ue then (s, 5) else (movePage s a b, 0)
    | _, _ => (s, 4))
  | 1 =>
    if ue then (s, 5)
    else ({ (s.write pte 8 (low + 2 ^ 61 + (Config.freeValue 3 s.freeCtr).toNat * 2 ^ 58)) with freeCtr := s.freeCtr + 1 }, 0)
  | _ => if ue then (s, 5) else (s.write pte 8 low, 0)

/-- The page of MOVE still has accesses translated earlier (R350). -/
def moveWaits (s : State) (part op id : Nat) (e : Ext) (pte page : Nat) : Bool :=
  op == 0 && (physPlace e.kind e.unit (s.read pte 8 / 2 ^ 12 % 2 ^ 32 * 4096)).any (pageInUse s part id page)

/-- A cell that OBJSET reads or writes and that holds an access back: of the page, of the frame that MOVE names (R99, R102, R377). -/
def objsetHeld (s : State) (part op frame mem : Nat) (e : Ext) (pte : Nat) : Option Nat :=
  let src := physPlace e.kind e.unit (s.read pte 8 / 2 ^ 12 % 2 ^ 32 * 4096)
  let dst := if op == 0 then targetFrame s part frame mem else none
  let rows := (src.toList ++ dst.toList).flatMap fun a => (List.range 4).map (a + 1024 * ·)
  if src.any (pageLocked s) then none else rows.find? (rowWaits s)

/-- The stacks of those cells have had a request (R377). -/
def objsetTouch (s : State) (part op frame mem id : Nat) (e : Ext) (pte page : Nat) : State :=
  let src := physPlace e.kind e.unit (s.read pte 8 / 2 ^ 12 % 2 ^ 32 * 4096)
  let dst := if op == 0 then targetFrame s part frame mem else none
  (walkCells s part id (page * 4096) ++ src.toList ++ dst.toList).foldl touch s

/-- R349, R350, R370. -/
def execObjset (h : Head) (p : ObjsetP) (s : State) : Result :=
  issue (supUse h (Instr.objset h p).legal)
    (fun s b ls => firstLane (fun s f =>
      let w := groupWord s f p.s
      let op := p.op.toNat
      match pageHeld s b.part (w 0) (w 1), pageOf s b.part (w 0) (w 1) with
      | some a, _ => actWait (noteWait s a)
      | none, .nowhere a => { acted s [] with hole := some a }
      | none, .status c => acted (putCode s f p.st c) []
      | none, .page id d e pte =>
        if moveWaits s b.part op id e pte (w 1) then actWait s
        else match objsetHeld s b.part op (w 2) (w 3) e pte with
        | some a => actWait (noteWait s a)
        | none =>
          let r := objsetOn (objsetTouch s b.part op (w 2) (w 3) id e pte (w 1)) b.part op (w 2) (w 3) d e pte
          acted (putCode r.1 f p.st r.2) []) s ls) s

/-! ### Kills -/

/-- Operations at which a killed fibre waits do not perform: STL.fe, and an ATOM, RED or RADD that the order gate holds (R372, R398; log 19). -/
def dropHeld (s : State) (f : Fibre) : State :=
  let s := dropFeStores s f.key
  if f.run == .waiting .gate then
    let keep := fun (x : Store) => !(x.fib == f.key && x.pc == f.waitPc && (match x.kind with | .red .. | .radd .. => true | _ => false))
    setFibre { s with ports := s.ports.map fun p => { p with fifo := p.fifo.filter keep } } f.key fun g =>
      { g with outs := g.outs.filter fun o => !(o.kind == .atom && o.pc == f.waitPc) }
  else s

/-- Fibres are killed: they exit, and their records leave the trap log (R28, R372). -/
def killFibres (s : State) (fs : List Fibre) : State :=
  cleanSlots (fs.foldl (fun s f => exitFibre (dropHeld s f) f.key) (dropLog s fs))

/-- A command of a killed block ends as killed, with no slot of the fault record (R260, R372). -/
def endKilled (s : State) (b : Block) (c : Copy) : State :=
  let left := (cyMembers c.bits).filter fun m => !(partsDone c c.index).contains m
  endCopy (signalBars s b c left) c true

/-- A block is killed (R372, R154). -/
def killBlock (s : State) (id : Nat) : State :=
  match block? s id with
  | none => s
  | some b =>
    let s := killFibres s (aliveOf s id)
    let s := (s.copies.filter (fun c => c.blk == id)).foldl (fun s c => endKilled s b c) s
    let s := ((engineOf s b.cluster).entries.filter (fun e => e.blk == id)).foldl (fun s e => endMx s b e true) s
    let s := setBlock s id fun b => { b with killed := true }
    let s := match b.gang with
      | some g => setGang s g fun g => { g with killed := g.killed.set b.member true }
      | none => s
    deliver (reap s)

/-- R372. -/
def execHaltb (h : Head) (p : FrP) (s : State) : Result :=
  issue (supUse h (Instr.haltb h p).legal)
    (fun s b ls =>
      match ls with
      | [] => acted s []
      | f :: _ =>
        let blk := groupWord s f p.s 0 % 2 ^ 17
        let t :=
          if p.fr then
            match namedFibre s b.part blk (groupWord s f p.s 1 % 2 ^ 13) with
            | some g => deliver (killFibres s (fragment s g))
            | none => s
          else match ownBlock s b.part blk with
            | some x => (gangOf s x).foldl killBlock s
            | none => s
        -- lanes of the issuing batch may be among the killed
        acted t ((curLanes s).filterMap fun (g : Fibre) =>
          if (fibre? t g.key).all (fun (x : Fibre) => x.run == .exited) then some (g.key, Fate.gone) else none)) s

/-! ### Trials -/

/-- R373, R392. -/
def execTrial (h : Head) (p : TrialP) (s : State) : Result :=
  issue (supUse h (Instr.trial h p).legal)
    (fun s b ls => firstLane (fun s f =>
      let w := groupWord s f p.s
      let on := (w 3).testBit 31
      match ownBlock s b.part (w 0 % 2 ^ 17) with
      | none => acted (putCode s f p.st (if on && (decide (w 2 ≤ w 1) || w 1 % 2 != 0 || w 2 % 2 != 0) then 1 else 2)) []
      | some x =>
        if !on then acted (putCode (setKernel s x.kernel fun k => { k with trial := none }) f p.st 0) []
        else if decide (w 2 ≤ w 1) || w 1 % 2 != 0 || w 2 % 2 != 0 then acted (putCode s f p.st 1) []
        else if ((kernel? s x.kernel).bind (·.trial)).isSome then acted (putCode s f p.st 3) []
        else
          let s := setKernel s x.kernel fun k => { k with trial := some (w 1, w 2, w 3 % 2 ^ 16) }
          acted (putCode (setPartn s x.part fun q => { q with pcount := 0, dcount := 0 }) f p.st 0) []) s ls) s

end Sys2Proof.Machine
end

