-- ==== Sys2Proof/Machine/Context.lean ====
section
/-!
DEFINITION. Saving and restoring blocks (R357 to R360, R371). An image in memory is a header granule, a granule with the serial number
of the body, and one tagged granule for each saved capability; the body is held in `State.images` (log 11).
-/
namespace Sys2Proof.Machine

/-! ### The bytes of an image -/

/-- The header of an image of `n` capabilities of a block (R371). -/
def imageHeader (n blk : Nat) : Nat :=
  32 + 16 * n + Config.imageImpl.toNat * 2 ^ 32 + Config.imageVersion.toNat * 2 ^ 48 + blk * 2 ^ 64

/-- The capabilities an image holds, in the order of its granules: c0 to c15 of each part, two of each command, two of each reservation
entry, the data of each CAPST store (R371). -/
def Image.caps (i : Image) : List CapWord :=
  List.flatten
    [i.parts.flatMap (·.c), i.copies.flatMap fun c => [c.scap, c.dcap], i.entries.flatMap fun e => [e.bcap, e.wcap],
     i.stores.filterMap fun x => if x.2.2.kind == .capst then some (BitVec.ofNat 128 x.2.2.data) else none]

/-- What the translation of an image's bytes gives: a wait, lanes that stop, or the places of its pages. -/
inductive Opened where
  | wait (s : State)
  | stop (s : State) (fates : List (FKey × Fate))
  | places (l : List Nat)
deriving DecidableEq, Repr

/-- The bytes `len` from an object offset, page by page (R53, R58). -/
def openImage (s : State) (b : Block) (write : Bool) (f : Fibre) (obj off len : Nat) : Opened :=
  let lo := off / 4096
  let q := ask s b.part write ((List.range ((off + len - 1) / 4096 + 1 - lo)).map fun i => { f := f, obj := obj, off := (lo + i) * 4096 })
  if q.miss then .wait q.s
  else if !q.fates.isEmpty then .stop q.s q.fates
  else .places (q.places.map fun x => x.getD 0)

/-- Cell of byte `i` of an image. -/
def imageCell (places : List Nat) (off i : Nat) : Nat := places.getD ((off + i) / 4096 - off / 4096) 0 + (off + i) % 4096

/-- Cells of an image's granules. -/
def imageGrans (places : List Nat) (off len : Nat) : List Nat := (List.range (len / 16)).map fun i => imageCell places off (16 * i)

/-- Granules of `n` capabilities written in order, tagged (R55, R371). -/
def writeCaps (s : State) : List (Nat × CapWord) → State
  | [] => s
  | x :: xs => writeCaps (healGran (s.writeCap x.1 x.2) x.1 16) xs

/-- An image's bytes. -/
def writeImage (s : State) (places : List Nat) (off : Nat) (i : Image) : State :=
  let cs := i.caps
  let at' := fun k => imageCell places off (16 * k)
  let s := healGran (s.write (at' 0) 16 (imageHeader cs.length i.block.id)) (at' 0) 16
  let s := healGran (s.write (at' 1) 16 i.serial) (at' 1) 16
  writeCaps s (cs.zipIdx.map fun x => (at' (2 + x.2), x.1))

/-- Bytes from an offset to the end of a capability's range. -/
def rangeLeft (c : CapWord) (off : Nat) : Nat := capBase c + capLimit c + 1 - off

/-- The four instructions: checks of R52 through cC, then the effect with the capability and the object offset (R371). -/
def ctxUse (h : Head) (p : CtxP) (legal : Bool) (need : Nat)
    (act : State → Block → Fibre → CapWord → Nat → Acted) (s : State) : Result :=
  issue (supUse h legal)
    (fun s b ls => firstLane (fun s f =>
      let c := capReg s f p.c.toNat
      let x := (uniPair s f (p.s.toNat + 2)).toInt
      match globalChk s b f p.c.toNat x 16 need with
      | (some e, info) => acted s [(f.key, trapAt e info)]
      | (none, _) => act s b f c (capOff c x)) s ls) s

/-- The block that s(S8) names; s(S8+1) must be 0 (log 11). -/
def ctxBlock (s : State) (b : Block) (f : Fibre) (p : CtxP) : Option Block :=
  if groupWord s f p.s 1 != 0 then none else ownBlock s b.part (groupWord s f p.s 0 % 2 ^ 17)

/-- Cells hold an access back, which is noted (R99, R108). -/
def noteRows (s : State) (cells : List Nat) : State := cells.foldl (fun s a => if rowWaits s a then noteWait s a else s) s

/-- An image is written, its body kept, and `done` happens; SHORT where it does not fit (R371). As a store does, it comes after the lane's earlier
accesses (R160, R231); `held` is a cell that `done` writes and that holds it back. -/
def saveImage (s : State) (b : Block) (f : Fibre) (p : CtxP) (c : CapWord) (off : Nat) (i : Image) (held : Option Nat) (done : State → State) :
    Acted :=
  let len := 32 + 16 * i.caps.length
  if rangeLeft c off < len then acted (putCode s f p.st 2) []
  else if !settled s f then actWait s
  else match openImage s b true f (capObj c) off len with
  | .wait s => actWait s
  | .stop s fates => acted s fates
  | .places l =>
    let gs := held.toList ++ imageGrans l off len
    if gs.any (rowWaits s) then actWait (noteRows s gs)
    else
      let s := writeImage (gs.foldl touch s) l off i
      acted (putCode (done { s.fresh with images := s.images ++ [i] }) f p.st 0) []

/-! ### Saving -/

/-- A store as it is saved: its translation and its entry are not; an issuer that has exited has no context any more (R358). -/
def savedStore (s : State) (x : Store) : Store :=
  { x with
    entry := none, xl := none, waits := [], marked := false
    fib := if exited s x.fib x.blk x.fid then { x.fib with ctx := x.fib.ctx % 32 + Config.ctxPerPort } else x.fib }

/-- Stores of a block in FIFO order, port by port, with core in cluster and port (R371). -/
def fifosOf (s : State) (blk : Nat) : List (Nat × Nat × Store) :=
  (sortBy (fun (p : Port) => p.core * 4 + p.port) s.ports).flatMap fun p =>
    (p.fifo.filter (fun x => x.blk == blk)).map fun x => (p.core % 4, p.port, savedStore s x)

/-- An image with nothing but a block's identity. -/
def Image.bare (serial : Nat) (b : Block) (stores : Bool) : Image :=
  { serial := serial, part := b.part, block := b, parts := [], fibres := [], bins := [], spad := [], fulls := [], lives := [], tiles := []
    entries := [], copies := [], tokens := [], stores := [], isStores := stores }

/-- The saved stores leave their FIFOs, their fault entries are cancelled (R358, R371). -/
def takeStores (s : State) (blk : Nat) : State :=
  let ids := (s.ports.flatMap (·.fifo)).filterMap fun x => if x.blk == blk then some x.id else none
  let s := { s with ports := s.ports.map fun p => { p with fifo := p.fifo.filter (fun x => x.blk != blk) } }
  reap (forget s fun w => match w with | .store i => ids.contains i | _ => false)

/-- Bins of a block with their remaining timers (R360). -/
def binsOf (s : State) (b : Block) : List (Nat × Nat × Bin) :=
  s.ports.flatMap fun p =>
    (p.bins.filter fun x => (part? s p.core x.bp).any (fun q => q.blk == b.id)).map fun x =>
      (p.core % 4, p.port, { x with timer := x.timer - (s.now - x.start) })

/-- First cell of a block's allocation, and whether a cell lies in it. -/
def spadOrigin (b : Block) : Nat := spadCell b 0
def inSpad (b : Block) (a : Nat) : Bool := decide (spadOrigin b ≤ a) && decide (a < spadOrigin b + b.spadSize)

/-- Everything R360 lists of a stopped block. -/
def imageOf (s : State) (b : Block) (serial : Nat) : Image :=
  { serial := serial, part := b.part, block := b
    parts := s.parts.filter (fun q => q.blk == b.id)
    fibres := aliveOf s b.id
    bins := binsOf s b
    spad := (s.mem.filter fun c => inSpad b c.1).map fun c => (c.1 - spadOrigin b, c.2)
    fulls := (s.fullBits.filter (inSpad b)).map (· - spadOrigin b)
    lives := (s.liveBits.filter (inSpad b)).map (· - spadOrigin b)
    tiles := s.tiles.filter (fun t => t.no / 16 == b.id)
    entries := (engineOf s b.cluster).entries.filter (fun e => e.blk == b.id)
    copies := s.copies.filter (fun c => c.blk == b.id)
    tokens := s.tokens.filter (fun t => t.blk == b.id)
    stores := [], isStores := false }

/-- A block's number where others name it: its gang, its windows, the regions and messages it has made. -/
def renumber (s : State) (b : Block) (old new : Nat) : State :=
  let s := match b.gang with
    | some g => setGang s g fun g => { g with members := g.members.set b.member new }
    | none => s
  { s with
    windows := s.windows.map fun w => if w.blk == old then { w with blk := new } else w
    lathes := s.lathes.map fun l => { l with regions := l.regions.map fun r => if r.blk == old then { r with blk := new } else r }
    leftCuts := s.leftCuts.map fun c => if c.blk == old then { c with blk := new } else c
    msgs := s.msgs.map fun m => if m.blk == old then { m with blk := new } else m }

/-- A saved block gives up every resource (R371); fault entries and walks of its fibres, copies and operations are cancelled (R358). -/
def freeSaved (s : State) (b : Block) (serial : Nat) : State :=
  let keys := (aliveOf s b.id).map (·.key)
  let ids := (s.copies.filter (fun c => c.blk == b.id)).map (·.id)
  let mine := fun (e : MxEntry) => e.blk == b.id
  let es := ((engineOf s b.cluster).entries.filter mine).map (·.idx)
  let s := forget s fun w =>
    match w with
    | .fibre k => keys.contains k
    | .copy i => ids.contains i
    | .mx c i => c == b.cluster && es.contains i
    | .store _ | .remote _ => false
  let s := setEngine s b.cluster fun x =>
    { x with entries := x.entries.filter fun e => !mine e, starving := x.starving.filter fun i => !es.contains i }
  let s := removeBlock { s with copies := s.copies.filter (fun c => c.blk != b.id) } b
  fenceDue (renumber s b b.id (savedNo serial))

/-- R360, R371; FIFO_BUSY until LSQSAVE has named the block. The last user-level block of its partition waits for the chunks that it writes (R397). -/
def execCtxsv (h : Head) (p : CtxP) (s : State) : Result :=
  ctxUse h p (Instr.ctxsv h p).legal (rWR ||| rCST)
    (fun s b f c off =>
      match ctxBlock s b f p with
      | none => acted (putCode s f p.st 6) []
      | some x =>
        if !blockStopped s x then acted (putCode s f p.st 1) []
        else if !x.lsq || !(blockStores s x.id).isEmpty then acted (putCode s f p.st 3) []
        else saveImage s b f p c off (imageOf s x s.seq) (closeHeld s x.part [x.id]) fun t => freeSaved t x s.seq) s

/-- R358, R371. -/
def execLsqsave (h : Head) (p : CtxP) (s : State) : Result :=
  ctxUse h p (Instr.lsqsave h p).legal (rWR ||| rCST)
    (fun s b f c off =>
      match ctxBlock s b f p with
      | none => acted (putCode s f p.st 6) []
      | some x =>
        if !blockStopped s x then acted (putCode s f p.st 1) []
        else saveImage s b f p c off { Image.bare s.seq x true with stores := fifosOf s x.id } none fun t =>
          setBlock (takeStores t x.id) x.id fun y => { y with lsq := true }) s

/-! ### Reading an image back -/

/-- What reading an image gives. -/
inductive Loaded where
  | wait (s : State)
  | stop (s : State) (fates : List (FKey × Fate))
  | status (s : State) (code : Nat)
  | image (s : State) (i : Image) (caps : List CapWord)
deriving DecidableEq, Repr

/-- The image whose body carries a serial number. -/
def image? (s : State) (part serial : Nat) (stores : Bool) : Option Image :=
  s.images.find? fun i => i.serial == serial && i.isStores == stores && (i.part == part || part == monPart)

/-- Every capability granule is tagged and passes the checks of R327 (R371). -/
def loadCaps (s : State) (part : Nat) (cells : List Nat) : Bool :=
  cells.all fun a => s.capTags.contains a && rootCap s part (BitVec.ofNat 128 (s.read a 16))

/-- Granules read: they wait for rows, or hold an uncorrectable error, or can be used (R17, R99). -/
def granTrouble (s : State) (f : Fibre) (off : Nat) (cells : List Nat) : Option Loaded :=
  if cells.any (rowWaits s) then some (.wait (noteRows s cells))
  else (cells.zipIdx.find? (fun x => s.ue x.1 16)).map fun x => .stop s [(f.key, trapAt cDataUe (off + 16 * x.2))]

/-- The rest of an image whose header and body have been found (R371). -/
def loadRest (s : State) (b : Block) (f : Fibre) (c : CapWord) (off : Nat) (i : Image) : Loaded :=
  let len := 32 + 16 * i.caps.length
  if rangeLeft c off < len then .status s 2
  else match openImage s b false f (capObj c) off len with
  | .wait s => .wait s
  | .stop s fates => .stop s fates
  | .places l =>
    let gs := imageGrans l off len
    let cs := (gs.drop 2).map fun a => BitVec.ofNat 128 (s.read a 16)
    (granTrouble s f off gs).getD
      (match descHeld s i.part (cs.map capObj) with
      | some a => .wait (noteWait s a)
      | none =>
        let t := touchDescs (gs.foldl touch s) i.part (cs.map capObj)
        if loadCaps s i.part (gs.drop 2) then .image t i cs else .status t 5)

/-- An image read through a capability, as by a load: after the lane's earlier loads and atomics, and its stores to those bytes (R160, R163, R371). -/
def loadImage (s : State) (b : Block) (f : Fibre) (c : CapWord) (off : Nat) (stores : Bool) : Loaded :=
  if rangeLeft c off < 32 then .status s 2
  else if f.reading || ownPending s f false (capObj c) off (rangeLeft c off) then .wait s
  else match openImage s b false f (capObj c) off 32 with
  | .wait s => .wait s
  | .stop s fates => .stop s fates
  | .places l =>
    let gs := imageGrans l off 32
    (granTrouble s f off gs).getD
      (match image? s b.part (s.read (imageCell l off 16) 16) stores with
      | none => .status (gs.foldl touch s) 5
      | some i =>
        if s.read (imageCell l off 0) 16 != imageHeader i.caps.length i.block.id then .status (gs.foldl touch s) 5
        else loadRest (gs.foldl touch s) b f c off i)

/-- An effect on a loaded image. -/
def onImage (f : Fibre) (p : CtxP) (r : Loaded) (act : State → Image → List CapWord → Acted) : Acted :=
  match r with
  | .wait s => actWait s
  | .stop s fates => acted s fates
  | .status s code => acted (putCode s f p.st code) []
  | .image s i cs => act s i cs

/-- Capabilities put back into the parts, commands and entries of an image, in the order of `Image.caps`. -/
def takeCaps {α : Type} (n : Nat) (g : α → List CapWord → α) : List α → List CapWord → List α × List CapWord
  | [], cs => ([], cs)
  | x :: xs, cs => let q := takeCaps n g xs (cs.drop n); (g x (cs.take n) :: q.1, q.2)

def Image.withCaps (i : Image) (cs : List CapWord) : Image :=
  let a := takeCaps 16 (fun (q : Part) l => { q with c := l }) i.parts cs
  let b := takeCaps 2 (fun (c : Copy) l => { c with scap := l.getD 0 0, dcap := l.getD 1 0 }) i.copies a.2
  let d := takeCaps 2 (fun (e : MxEntry) l => { e with bcap := l.getD 0 0, wcap := l.getD 1 0 }) i.entries b.2
  { i with parts := a.1, copies := b.1, entries := d.1 }

/-- CAPST data put back. -/
def capData : List (Nat × Nat × Store) → List CapWord → List (Nat × Nat × Store)
  | [], _ => []
  | x :: xs, cs =>
    if x.2.2.kind == .capst then (x.1, x.2.1, { x.2.2 with data := (cs.headD 0).toNat }) :: capData xs cs.tail else x :: capData xs cs

/-! ### Restoring -/

/-- Where a saved block goes: cluster, block id, allocation, and for each part its core, slot and fibres' contexts. -/
structure Home where
  place : Place
  map : List (FKey × FKey)
deriving DecidableEq, Repr

/-- Contexts on a core for the fibres of a saved part at their ports and lane positions (R360). -/
def seatSaved (s : State) (cluster : Nat) (i : Image) (q : Part) : Option (Seat × List (FKey × FKey)) :=
  let core := 4 * cluster + q.core % 4
  let fs := i.fibres.filter (fun f => f.key.core == q.core && f.bp == q.bp)
  (seatPart s core (fs.map fun f => (f.fid, f.key.port, f.lane))).map fun x =>
    (x, (fs.zip x.fibs).map fun y => (y.1.key, keyOf core y.2.2.1 y.2.2.2))

def seatAll (s : State) (cluster : Nat) (i : Image) : List Part → Option (List (Seat × List (FKey × FKey)))
  | [] => some []
  | q :: qs => match seatSaved s cluster i q, seatAll s cluster i qs with
    | some x, some xs => some (x :: xs)
    | _, _ => none

/-- A cluster's queues have room for a saved block's operations: reservation table, shadows, streamer queue, tokens, spawn bins. -/
def queuesRoom (s : State) (cluster : Nat) (i : Image) : Bool :=
  let es := (engineOf s cluster).entries
  let act := fun (l : List MxEntry) => (l.filter (·.active)).length
  decide (es.length + i.entries.length ≤ 32) && decide (act es + act i.entries ≤ 2)
    && decide ((s.copies.filter (fun c => c.cluster == cluster)).length + i.copies.length ≤ queueSize)
    && decide ((s.tokens.filter (fun t => t.cluster == cluster)).length + i.tokens.length ≤ 16)
    && (List.range 16).all fun n => decide ((portOf s (4 * cluster + n / 4) (n % 4)).bins.length
        + (i.bins.filter (fun x => x.1 == n / 4 && x.2.1 == n % 4)).length ≤ Config.binsPerPort)

/-- A saved block on a cluster, when it fits (R330, R360). -/
def fitSaved (s : State) (i : Image) (cluster : Nat) : Option Home :=
  if !queuesRoom s cluster i then none
  else match clusterRoom s cluster i.block.spadSize i.block.tileN, seatAll s cluster i i.parts with
  | some (id, a), some ss =>
    some { place := { cluster := cluster, id := id, spadAt := a, seats := ss.map (·.1) }, map := ss.flatMap (·.2) }
  | _, _ => none

/-- Clusters of a gang's members, in their order, rising from `lo` on: where resident ones are, and the lowest on which saved ones fit (R331,
R360). -/
def gangPlan (s : State) : Nat → List Nat → Option (List Nat)
  | _, [] => some []
  | lo, m :: ms =>
    if m < noBlock then (if lo ≤ m / 256 then (gangPlan s (m / 256 + 1) ms).map (m / 256 :: ·) else none)
    else
      match (s.images.find? (fun i => savedNo i.serial == m && !i.isStores)).bind fun i =>
        (working s i.part).find? fun c => decide (lo ≤ c) && (fitSaved s i c).isSome with
      | none => none
      | some c => (gangPlan s (c + 1) ms).map (c :: ·)

/-- Where a saved block is admitted: member m of a gang on the m-th cluster of a set that fits, another on the lowest cluster that fits
(R330, R331, R360). -/
def homeOf (s : State) (i : Image) : Option Home :=
  match i.block.gang.bind (gang? s) with
  | some g => ((gangPlan s 0 g.members).bind fun l => l[i.block.member]?).bind (fitSaved s i)
  | none => (working s i.part).findSome? (fitSaved s i)

/-- New key of a saved fibre; one that has no context keeps its number. -/
def Home.key (x : Home) (k : FKey) : FKey :=
  ((x.map.find? (fun y => y.1 == k)).map (·.2)).getD { k with core := 4 * x.place.cluster + k.core % 4 }

/-- New slot of a saved part on a core. -/
def Home.slot (x : Home) (core : Nat) : Nat :=
  ((x.place.seats.find? (fun y => y.core % 4 == core % 4)).map (·.bp)).getD 0

/-- A barrier cell of the saved allocation in the new one. -/
def movedRun (d : Nat → Nat) (r : Run) : Run :=
  match r with
  | .waiting (.bwait a) => .waiting (.bwait (d a))
  | .waiting (.barv a v) => .waiting (.barv (d a) v)
  | .parked (.unresolved _) | .parked (.name _) => .ready
  | r => r.unwait

/-- A saved fibre in its new context (R358, R360). -/
def movedFibre (x : Home) (d : Nat → Nat) (now next : Nat) (f : Fibre) : Fibre :=
  let k := x.key f.key
  { f with
    key := k, blk := x.place.id, bp := x.slot f.key.core, run := movedRun d f.run, slot := none, age := now, next := next
    waitSince := now, guest := none, transit := .none, move := none, own := none, xl := [], expired := f.tm, mark := none, sentTo := []
    wbase := baseOf k, ldl := [], acts := false, drops := false, atMx := false }

/-- `n` numbers from 0 on that a list does not hold. -/
def freeNumbers (used : List Nat) : Nat → List Nat
  | 0 => []
  | n + 1 => let i := (lowestFree used (used.length + 1)).getD 0; i :: freeNumbers (i :: used) n

/-- Saved bins return to their ports, made anew (R360). -/
def putBins (s : State) (x : Home) : List (Nat × Nat × Bin) → State
  | [] => s
  | (rel, port, b) :: r =>
    let core := 4 * x.place.cluster + rel
    let i := ((freeNumbers ((portOf s core port).bins.map (·.idx)) 1).head?).getD 0
    let old := fun (c : Nat) => x.map.find? fun y => y.1.core % 4 == rel && y.1.port == port && y.1.ctx == c
    let new := { b with idx := i, bp := x.slot core, start := s.now, ctxs := b.ctxs.filterMap fun c => (old c).map (·.2.ctx) }
    putBins (setPort s core port fun p => { p with bins := p.bins ++ [new] }) x r

/-- Reservation entries, commands and tokens return to the cluster's queues; the entries' ages start anew (R357, R360). -/
def putOps (s : State) (x : Home) (i : Image) : State :=
  let c := x.place.cluster
  let mx := freeNumbers ((engineOf s c).entries.map (·.idx)) i.entries.length
  let sl := freeNumbers ((s.copies.filter (fun y => y.cluster == c)).map (·.slot)) i.copies.length
  let es := (i.entries.zip mx).map fun y =>
    { y.1 with idx := y.2, blk := x.place.id, fib := x.key y.1.fib, waits := [], xl := [], issue := s.now, lastGrant := s.now, activeAt := s.now }
  let cs := (i.copies.zip sl).map fun y =>
    { y.1 with cluster := c, slot := y.2, blk := x.place.id, fib := x.key y.1.fib, waits := [], xl := [] }
  let s := setEngine s c fun e => { e with entries := e.entries ++ es }
  { s with
    copies := s.copies ++ cs
    tokens := s.tokens ++ i.tokens.map fun t => { t with cluster := c, blk := x.place.id } }

/-- The allocation's bytes, full/empty bits and live flags (R360). -/
def putSpad (s : State) (lo : Nat) (i : Image) : State :=
  let s := clearSpad s lo i.block.spadSize
  { s with
    mem := i.spad.foldl (fun m c => memPut m (lo + c.1) c.2) s.mem
    fullBits := i.fulls.foldl (fun l g => setIns (lo + g) l) s.fullBits
    liveBits := i.lives.foldl (fun l g => setIns (lo + g) l) s.liveBits }

/-- A saved block is admitted, stopped, and by DSTOP too where it was (R360, R371, R389); its image stays (log 11). -/
def restoreBlock (s : State) (i : Image) (x : Home) : State :=
  let c := x.place.cluster
  let lo := Config.spadBase + c * Config.spadBytes + x.place.spadAt
  let d := fun (a : Nat) => a - spadOrigin i.block + lo
  let next := s.now + exitLatency c (mapGet s.power c 0)
  let mine := fun (r : Region) => if r.blk == savedNo i.serial then { r with fib := x.key r.fib } else r
  let s := putSpad s lo i
  let s := { s with
    blocks := s.blocks ++ [{ i.block with id := x.place.id, spadAt := x.place.spadAt, pre := true, preAt := s.now, held := true, lsq := false }]
    parts := s.parts ++ i.parts.map fun q => { q with core := 4 * c + q.core % 4, bp := x.slot q.core, blk := x.place.id }
    fibres := s.fibres ++ i.fibres.map (movedFibre x d s.now next)
    tiles := s.tiles ++ i.tiles.map fun t => { t with no := 16 * x.place.id + t.no % 16 }
    power := mapDel c s.power
    idleAt := mapDel c s.idleAt
    lathes := s.lathes.map fun l => { l with regions := l.regions.map mine } }
  renumber (putOps (putBins s x i.bins) x i) i.block (savedNo i.serial) x.place.id

/-- R330, R331, R360, R371. The block id in s(S8) is that of the image; another one names no block of it, NO_BLOCK (DESIGN CHOICE, log 21: R371 does
not say what CTXRS does with the id that it takes). -/
def execCtxrs (h : Head) (p : CtxP) (s : State) : Result :=
  ctxUse h p (Instr.ctxrs h p).legal (rRD ||| rCLD)
    (fun s b f c off =>
      if groupWord s f p.s 1 != 0 then acted (putCode s f p.st 6) []
      else onImage f p (loadImage s b f c off false) fun s i cs =>
        if i.block.id != groupWord s f p.s 0 % 2 ^ 17 then acted (putCode s f p.st 6) []
        else match homeOf s i with
        | none => acted (putCode s f p.st 4) []
        | some x =>
          let t := restoreBlock s (i.withCaps cs) x
          acted (putCode (setUni t f p.s.toNat (BitVec.ofNat 32 x.place.id)) f p.st 0) []) s

/-- A saved store in the new block: its issuer by fibre id, its scratchpad cell, its block. -/
def movedStore (s : State) (b : Block) (rel port : Nat) (x : Store) : Store :=
  let core := 4 * b.cluster + rel
  let issuer := (aliveOf s b.id).find? fun f => f.fid == x.fid && f.key.core == core && f.key.port == port
  { x with
    blk := b.id
    fib := if x.fib.ctx < Config.ctxPerPort then (issuer.map (·.key)).getD { core := core, port := port, ctx := x.fib.ctx % 32 + Config.ctxPerPort }
      else { x.fib with core := core }
    obj := if x.spad then spadCell b x.off else x.obj }

/-- Every FIFO has room for its stores. -/
def fifosRoom (s : State) (b : Block) (l : List (Nat × Nat × Store)) : Bool :=
  (List.range 16).all fun n => fifoRoom s (4 * b.cluster + n / 4) (n % 4) (l.filter fun x => x.1 == n / 4 && x.2.1 == n % 4).length

/-- A stopped block may issue again (R356, R358, R371): a fibre that was parked on pages executes its instruction again. -/
def letIssue (s : State) (b : Block) : State :=
  let s := setBlock s b.id fun b => { b with pre := false, held := false, lsq := false }
  { s with fibres := s.fibres.map fun f =>
      if f.blk != b.id then f
      else { f with expired := false, run := (if f.run == .parked (.unresolved []) then Run.ready else f.run) } }

/-- R371: the stores return in saved order, then the block may issue. -/
def execLsqrst (h : Head) (p : CtxP) (s : State) : Result :=
  ctxUse h p (Instr.lsqrst h p).legal (rRD ||| rCLD)
    (fun s b f c off =>
      match ctxBlock s b f p with
      | none => acted (putCode s f p.st 6) []
      | some x =>
        if !blockStopped s x then acted (putCode s f p.st 1) []
        else onImage f p (loadImage s b f c off true) fun s i cs =>
          let l := capData i.stores cs
          if !fifosRoom s x l then acted (putCode s f p.st 4) []
          else
            let t := l.foldl (fun t y =>
              setPort t (4 * x.cluster + y.1) y.2.1 fun q => { q with fifo := q.fifo ++ [movedStore s x y.1 y.2.1 y.2.2] }) s
            acted (putCode (letIssue t x) f p.st 0) []) s

end Sys2Proof.Machine
end

