-- ==== Sys2Proof/Machine/Device.lean ====
section
/-!
DEFINITION. Power (R377, R378), refresh of the weight store (R67), and what reaches the device from outside or from its supervisors'
own engines: fencing (R385), reset and bring-up (R386, R387), the host (R98, R325), other devices (R57, R317, R319), paths (R12),
writes of the weight store (R66), errors (R17), scratchpad windows (R317).
-/
namespace Sys2Proof.Machine

/-! ### Power -/

/-- Throttle steps of engines changed (R378). -/
def mapSteps (s : State) (g : Engine → Nat) : State :=
  { s with engines := s.engines.map fun e => { e with step := g e } }

/-- R378: a power average over 1 ms, in watts. It raises the steps of clusters with an active entry above PLIM; when averages have
stayed below PLIM less 5% for 1 ms, it lowers each step. -/
def execPowerLimitStep (average : Nat) (s : State) : Result :=
  let limit := sysGet s monPart 0x4004
  let ms := 1000 * Config.cycles1us
  if limit < average then
    .next { mapSteps s (fun e => if e.entries.any (·.active) then min 7 (e.step + 1) else e.step) with belowSince := none }
  else if 100 * average < 95 * limit then
    match s.belowSince with
    | none => .next { s with belowSince := some s.now }
    | some t => if s.now < t + ms then .next s else .next { mapSteps s (fun e => e.step - 1) with belowSince := some s.now }
  else .next { s with belowSince := none }

/-- Partitions that a unit serves, the monitor's own among them (R374, R377). -/
def servedBy (s : State) (u : Nat) : List Nat :=
  (List.range 9).filter fun p =>
    if u < Config.clusterCount then clusterOwner s u == ownerCode p else p < 8 && (mapGet s.serves (u - Config.clusterCount) 0).testBit p

/-- A unit bears an exit latency of `ns`: no partition it serves has a smaller LTR (R377). -/
def tolerates (s : State) (u ns : Nat) : Bool := (servedBy s u).all fun p => decide (ns ≤ sysGet s p 0x0400)

/-- The unit's conditions have held for 1 µs (R377): of a cluster no resident block, and no guest (log 19); of a stack no request, no registered
cut and no program; a request that waits for the unit to wake keeps it from a deeper state. -/
def unitIdle (s : State) (u : Nat) : Bool :=
  !unitHeld s u && !(unitAsleep s u && s.idleAt.any (·.1 == u))
    && (if u < Config.clusterCount then !s.fibres.any (fun f => f.loc / 4 == u) && decide (mapGet s.idleAt u 0 + Config.cycles1us ≤ s.now)
        else (latheOf s (u - Config.clusterCount)).regions.isEmpty
          && decide (mapGet s.reqAt (u - Config.clusterCount) 0 + Config.cycles1us ≤ s.now))

/-- A cluster's engine in C2, which holds nothing: its credit is that of its reset (R14, R377). -/
def loseCredit (s : State) (u d : Nat) : State :=
  if u < Config.clusterCount && d == 2 then
    { s with engines := s.engines.map fun e => if e.cluster == u then { e with credit := 0, starving := none } else e }
  else s

/-- Deepest state that an idle unit may enter (R377). -/
def deepest (s : State) (u : Nat) : Nat :=
  if u < Config.clusterCount then (if tolerates s u 3000 then 2 else if tolerates s u 25 then 1 else 0)
  else if u < Config.clusterCount + Config.stackCount && tolerates s u 1500 then 1 else 0

/-- R377: an idle unit enters the deepest state it may. -/
def execPowerStateEntry (unit : Nat) (s : State) : Result :=
  let d := deepest s unit
  if unitIdle s unit && decide (mapGet s.power unit 0 < d) then
    .next (loseCredit { s with power := mapPut unit d s.power, idleAt := mapDel unit s.idleAt } unit d)
  else .next s

/-- R377: a unit that a request has reached, a stack's or a billet's at a cluster, leaves its state after the exit latency; a block that is
admitted wakes its cluster too (`placeIn`). -/
def execPowerStateExit (unit : Nat) (s : State) : Result :=
  match (if unitAsleep s unit then s.idleAt.find? (fun x => x.1 == unit) else none) with
  | some x =>
    if s.now < x.2 + exitLatency unit (mapGet s.power unit 0) then .next s
    else .next
      { s with
        power := mapDel unit s.power
        idleAt := if unit < Config.clusterCount then mapPut unit s.now s.idleAt else mapDel unit s.idleAt
        reqAt := if unit < Config.clusterCount then s.reqAt else mapPut (unit - Config.clusterCount) s.now s.reqAt }
  | none => .next s

/-! ### The weight store -/

/-- R67: the refresh window of a die's weight store has moved on, a bank every 160 cycles. The schedule itself is a function of the cycle
(`wrefOf`); the event notes where it stands. -/
def execWeightRefreshWindow (die : Nat) (s : State) : Result :=
  let w := wrefOf s die
  if s.wrefBank.contains (die, w) || decide (8 ≤ die) then .next s
  else .next { s with wrefBank := s.wrefBank.filter (fun x => x.1 != die) ++ [(die, w)] }

/-- A capability that names a die's weight store. -/
def namesStore (s : State) (part die : Nat) (c : CapWord) : Bool := c != 0 && objName s part (capObj c) == .weight die

/-- A kernel has a block on a die, or a fibre there as a guest. -/
def onDie (s : State) (die : Nat) (k : Kernel) : Bool :=
  s.blocks.any fun b => b.kernel == k.id && (b.cluster / 48 == die || s.fibres.any (fun f => f.blk == b.id && f.loc / 192 == die))

/-- A block holds a capability for a die's weight store: in a register, in a reservation entry, or carried by a guest or by a fibre that waits for a
guest slot. -/
def blockHolds (s : State) (die : Nat) (b : Block) : Bool :=
  s.parts.any (fun q => q.blk == b.id && q.c.any (namesStore s b.part die))
    || (engineOf s b.cluster).entries.any (fun e => e.blk == b.id && (namesStore s b.part die e.bcap || namesStore s b.part die e.wcap))
    || s.fibres.any (fun f => f.blk == b.id && (f.guest.any (fun g => g.caps.any fun c => namesStore s b.part die c.2)
        || f.move.any (fun m => m.caps.any fun c => namesStore s b.part die c.2)))

/-- A resident kernel on a die holds a capability for its weight store, in its packet or in a block wherever that is (R66). -/
def storeHeld (s : State) (die : Nat) : Bool :=
  s.kernels.any fun k => onDie s die k &&
    (k.caps.any (namesStore s k.part die) || s.blocks.any (fun b => b.kernel == k.id && blockHolds s die b))

/-- R66: a supervisor's streamer writes a granule of a weight store; the command faults, and writes nothing, while a resident kernel
holds a capability for the store. -/
def execWeightStoreWrite (die off value : Nat) (s : State) : Result :=
  if decide (8 ≤ die) || decide (Config.weightBytes ≤ off) || off % 16 != 0 || storeHeld s die then .next s
  else
    let a := Config.weightBase + die * 2 ^ 32 + off
    .next (healGran (s.write a 16 value) a 16)

/-! ### Windows -/

/-- R317: the supervisor makes a window over local offsets of a resident block. -/
def execScratchpadWindow (blk obj wb wl : Nat) (s : State) : Result :=
  match block? s blk with
  | none => .next s
  | some b =>
    if wb % 16 != 0 || wl % 16 != 0 || wl == 0 || decide (b.spadSize < wb + wl) || obj == 0 || decide (2 ^ 21 ≤ obj)
        || s.windows.any (fun w => w.part == b.part && w.obj == obj && !w.ended) then .next s
    else .next { s with
      windows := s.windows.filter (fun w => !(w.part == b.part && w.obj == obj)) ++
        [{ part := b.part, obj := obj, blk := blk, wb := wb, wl := wl, ended := false }] }

/-! ### Fencing, errors, paths -/

/-- R385: a unit is fenced, at once, or when what it holds is gone. -/
def execUnitFence (unit : Nat) (s : State) : Result :=
  if s.fenced.contains unit || decide (Config.clusterCount + Config.stackCount + Config.coreCount ≤ unit) then .next s
  else if unitHeld s unit then .next { s with fencePend := setIns unit s.fencePend }
  else .next (fenceUnit s unit)

/-- An outstanding load, atomic or query of a living fibre reads a granule: its fibre may issue later instructions, and an error that appeared there
now could not be reported precisely (R17, R351; log 9). -/
def readPast (s : State) (g : Nat) : Bool :=
  s.fibres.any fun f => f.run != .exited && f.outs.any fun o => o.kind != .cut && (gransOf o.addr o.w).contains g

/-- R17: the granule of a cell comes to hold an uncorrectable error, once no outstanding request of a living fibre reads it (log 9). -/
def execUncorrectableError (addr : Nat) (s : State) : Result :=
  if mapped addr && !readPast s (granOf addr) then .next { s with ueMarks := setIns (granOf addr) s.ueMarks } else .next s

/-- R12: a path goes down or comes up. Numbers from 64 on are the paths to devices (log 15). -/
def execPathStateChange (path up : Nat) (s : State) : Result :=
  .next { s with pathsDown := setPut path (up == 0) s.pathsDown }

/-! ### The host -/

/-- The bytes lie within one line of 64 bytes. -/
def oneLine (a n : Nat) : Bool := n != 0 && decide (a % 64 + n ≤ 64)

/-- R98, R99, R351: a host read or write of up to 64 bytes of device memory, once the link is trained, which is step 1 of R386. A read changes nothing
here. -/
def execHostAccess (write addr n value : Nat) (s : State) : Result :=
  if s.bootStep < 2 || decide (Config.hostBase ≤ addr) || !oneLine addr n then .next s
  else if !mapped addr then .fault (.noSuchAddress addr)
  else if rowWaits s addr then .next (noteWait s addr)
  else if write == 0 then .next (touch s addr)
  else
    let s := touch s addr
    let gs := gransOf addr n
    let whole := fun (g : Nat) => decide (addr ≤ g) && decide (g + 16 ≤ addr + n)
    if gs.any (fun g => s.ueMarks.contains g && !whole g) then .next s
    else .next { (s.write addr n value) with ueMarks := s.ueMarks.filter fun g => !gs.contains g }

/-! ### Other devices -/

/-- A window that an object names. -/
def window? (s : State) (part obj : Nat) : Option Window := s.windows.find? fun w => w.part == part && w.obj == obj

/-- Access of another device to a live window: 0 reads; 1 stores; 2 stores as a release at domain scope; 3 writes a CPYX granule
(R317). A live barrier granule is not written. -/
def windowAccess (s : State) (b : Block) (w : Window) (kind off n value : Nat) : State :=
  let a := spadCell b (w.wb + off)
  if decide (w.wl < off + n) || kind == 0 || decide (4 ≤ kind) || s.isLive (granOf a) then s
  else if partialUe s a n then s
  else
    let t := healGran (spadWrite s a n value) a n
    if kind == 1 then t else fillGran t (granOf a) true

/-- Access of another device to memory: 0 reads; 1 and 2 store; 3 writes a granule; 4 an atomic, 5 a reduction, 6 a remote add, whose
operation, format and exponent are the number's higher bits; 7 stores a capability, which a device's registers hold only well formed (R51, R55,
R57, R237, R239, R267). -/
def memoryAccess (s : State) (a kind n value : Nat) : State :=
  let op := kind / 8
  match kind % 8 with
  | 0 => s
  | 4 => if s.ue a n then s else s.write a n (atomNew (op % 16) (8 * n) (s.read a n) (value % 2 ^ (8 * n)) (value / 2 ^ 64))
  | 5 => if s.ue a n then s else (redApply s a n (op % 8) (op / 8 % 8) value).1
  | 6 => if s.ue a 4 then s else s.write a 4 (raddNew (op % 4) (s.read a 4) value (BitVec.ofNat 8 (op / 4)))
  | 7 =>
    let c := BitVec.ofNat 128 value
    if capRes c != 0 || decide (2 ^ 44 ≤ capBase c + capLimit c) then s else healGran (s.writeCap a c) a 16
  | _ => if partialUe s a n then s else healGran (s.write a n value) a n

/-- Widths of a kind of access. -/
def remoteWidth (kind off n : Nat) : Bool :=
  let k := kind % 8
  let granule := decide (k = 3 ∨ k = 7)
  (if granule then n == 16 else if k == 6 then n == 4 else if k == 4 then n == 4 || n == 8
    else n == 1 || n == 2 || n == 4 || n == 8 || n == 16) && off % n == 0


/-- What another device makes known of a window object of its own (R317, R319; log 15): 0 it is a new window, 1 it has ended, 2 a granule has become
a live barrier, 3 it is one no more. -/
def farNews (s : State) (what dev obj off : Nat) : State :=
  let old := (s.fars.find? (fun x => x.dev == dev && x.obj == obj)).getD { dev := dev, obj := obj, ended := false, live := [] }
  let new := match what with
    | 1 => { old with ended := true }
    | 2 => { old with live := setIns (granOf off) old.live }
    | 3 => { old with live := old.live.filter (· != granOf off) }
    | _ => { old with ended := false, live := [] }
  { s with fars := s.fars.filter (fun x => !(x.dev == dev && x.obj == obj)) ++ [new] }

/-- R57, R317, R319, R341: an access of another device to an object of a partition arrives and is performed; one that misses the port's TLBs joins a
walk, and the event makes it again; one to a window whose block is saved waits for it (log 11). Kinds from 2^16 on are no accesses: device `part`
makes something known of its object (log 15). -/
def execRemoteDeviceRequest (kind part obj off w value : Nat) (s : State) : Result :=
  if 2 ^ 16 ≤ kind then .next (farNews s (kind % 4) part obj off)
  else if !remoteWidth kind off w || decide (2 ^ 21 ≤ obj) then .next s
  else match window? s part obj with
  | some x =>
    if x.ended then .next (remoteUnresolved s part obj off fWindowEnded kind)
    else if isReclaimed s part obj then .next (remoteUnresolved s part obj off fReclaimed kind)
    else
      (match block? s x.blk with
      | some b => .next (deliver (windowAccess s b x kind off w value))
      | none => .next s)
  | none =>
    match translate s part obj off [] with
    | .miss => .next (joinWalk s 0 part obj off (.remote kind))
    | .unres c => .next (remoteUnresolved s part obj off c kind)
    | .ended => .next (remoteUnresolved s part obj off fWindowEnded kind)
    | .place a => if rowWaits s a then .next (noteWait s a) else .next (memoryAccess (touch s a) a kind w value)

/-! ### Reset and bring-up -/

/-- A cell of host memory or of another device: a reset of this device leaves it as it is. -/
def outside (a : Nat) : Bool := (decide (Config.hostBase ≤ a) && decide (a < Config.weightBase)) || decide (Config.remoteBase ≤ a)

/-- The device in reset (R386): its state is that of `State.reset`; memory outside it, and the model's own order of moves, stay. -/
def resetState (s : State) : State :=
  { State.reset with
    agenda := s.agenda, focus := s.focus, turn := s.turn, cur := s.cur, seq := s.seq, freeCtr := s.freeCtr
    mem := s.mem.filter (fun c => outside c.1)
    capTags := s.capTags.filter outside
    ueMarks := s.ueMarks.filter outside
    redTags := s.redTags.filter (fun x => outside x.1)
    redFlags := s.redFlags.filter outside
    fars := s.fars }

/-- Failure codes of a step of bring-up (R387). For a failure of steps 1, 5 and 6 the table has no code: any number stands for it (log 22). -/
def bootCode (step code : Nat) : Bool :=
  match step with
  | 1 | 5 | 6 => true
  | 2 => code == 0x0201 || code == 0x0202
  | 3 => decide (0x0301 ≤ code) && decide (code ≤ 0x0304)
  | 4 => code == 0x0401
  | _ => false

/-- The monitor kernel has trapped before step 4: the program counter and the cause (R387). -/
def monTrap (s : State) : Option (BitVec 44 × BitVec 8) :=
  if s.bootStep != 3 then none
  else (s.fibres.filter fun f => (block? s f.blk).any (·.part == monPart)).findSome? fun f =>
    (f.trec <|> f.logRec).map fun r => (r.pc, r.cause)

/-- A code can be the failure of the step that bring-up has reached; where the monitor kernel has trapped it is MONITOR_FAULT, and only there. -/
def bootFails (s : State) (code : Nat) : Bool :=
  bootCode s.bootStep code && (s.bootStep != 3 || (code == 0x0303) == (monTrap s).isSome)

/-- CODE and DETAIL of a failure (R387): the fields that the table gives a code, `detail` being what the machine cannot tell; where it gives no code,
both are free values (log 22). -/
def bootReport (s : State) (code detail : Nat) : BitVec 16 × BitVec 64 :=
  if s.bootStep == 1 || s.bootStep == 5 || s.bootStep == 6 then (Config.freeValue 16 s.freeCtr, Config.freeValue 64 (s.freeCtr + 1))
  else
    (BitVec.ofNat 16 code,
     match code with
     | 0x0301 => BitVec.ofNat 64 (min detail (Config.banksPerStack - 1))
     | 0x0302 | 0x0401 => 0
     | 0x0303 => (match monTrap s with | some x => BitVec.ofNat 64 (x.1.toNat * 2 ^ 8 + x.2.toNat) | none => 0)
     | 0x0304 => BitVec.ofNat 64 (detail % 2 ^ 8)
     | _ => BitVec.ofNat 64 detail)

/-- The 32 bits at offset 0x0C of the boot status capability, its detail beside them (R387). -/
def Dvsec.bits (d : Dvsec) : BitVec 32 := BitVec.ofBool d.done ++ BitVec.ofBool d.fail ++ 0#6 ++ d.step ++ 0#4 ++ d.code

/-- The boot status capability's 32 bytes as a number (R387): the extended capability header, the two DVSEC headers with the vendor's number, the
length of 32 bytes and the ID 0x00A1, then the registers. The headers' layout is PCI Express's own (PRESUMED, log 22). -/
def Dvsec.bytes (d : Dvsec) : BitVec 256 :=
  (0#64 ++ d.detail ++ d.bits ++ (0#16 ++ 0x00A1#16) ++ (32#12 ++ Config.dvsecRevision ++ Config.vendorId) ++ Config.extCapHeader : BitVec 256)

/-- What the host reads of the capability's word at an offset, a multiple of 4: nothing while the link is not up, at step 1 (R387). -/
def configRead (s : State) (off : Nat) : Option Word :=
  if s.bootStep < 2 || decide (32 ≤ off) then none else some (s.dvsec.bytes.extractLsb' (8 * off) 32)

/-- Bring-up has stopped, or stops at a trap of the monitor kernel: nothing acts until the failure is recorded, and then nothing but a reset, the
device being in reset (R386, R387). -/
def bootStopped (s : State) : Bool := s.dvsec.fail || (monTrap s).isSome

/-- The next step of bring-up is reached; DONE with the end of step 4 (R386, R387). -/
def nextStep (s : State) : State :=
  if bootStopped s || decide (6 ≤ s.bootStep) then s
  else
    let n := s.bootStep + 1
    { s with bootStep := n, dvsec := { s.dvsec with step := BitVec.ofNat 4 n, done := decide (5 ≤ n) } }

/-- Bring-up fails at the step it has reached: the host message where the ring is set, the status, and the device stays in reset (R386). -/
def bootFail (s : State) (code detail : Nat) : State :=
  if s.dvsec.fail || !bootFails s code then s
  else
    let step := s.bootStep
    let r := bootReport s code detail
    { resetState (postHost s 6 0xFF 0 0) with
      bootStep := step, freeCtr := s.freeCtr + 2
      dvsec := { done := decide (5 ≤ step), fail := true, step := BitVec.ofNat 4 step, code := r.1, detail := r.2 } }
/-- R386, R387: reset and the steps of bring-up, by `what`: 0 the device is reset and step 1 begins; 1 the next step is reached; 2 the step
fails with code `a` and detail `b`; 3 in step 3 the boot ROM writes `b` to monitor register `a`; 4 in step 3 it places the granule `b` at
address `a` of stack 0. -/
def execDeviceReset (what a b : Nat) (s : State) : Result :=
  match what with
  | 0 => .next (nextStep (resetState s))
  | 1 => .next (nextStep s)
  | 2 => .next (bootFail s a b)
  | 3 =>
    if s.bootStep != 3 || bootStopped s || !sysAssigned a || decide (a < 0x4000) then .next s
    else match writeHole s a b with
    | some x => .fault (.noSuchAddress x)
    | none => whenRead s monPart a b (sysWrite s monPart a b)
  | 4 =>
    if s.bootStep != 3 || bootStopped s || a % 16 != 0 || decide (Config.nearBytes ≤ a) then .next s
    else if rowWaits s a then .next (noteWait s a)
    else .next ((touch s a).write a 16 b)
  | _ => .next s

end Sys2Proof.Machine
end

