-- ==== Sys2Proof/Machine/FormA.lean ====
section
/-!
DEFINITION. Meanings of the 32-bit lane operations (R186), rounding RNE with FTZ and SAT off; what each computes is R204, R283 or R284.
-/
namespace Sys2Proof.Machine

/-- R204. -/
def execAddFormA (f : FormA) (s : State) : Result := op6A .add f s

/-- R204. -/
def execSubFormA (f : FormA) (s : State) : Result := op6A .sub f s

/-- R204. -/
def execMulFormA (f : FormA) (s : State) : Result := op6A .mul f s

/-- R204. -/
def execMulhSFormA (f : FormA) (s : State) : Result := op6A .mulhS f s

/-- R204. -/
def execMulhZFormA (f : FormA) (s : State) : Result := op6A .mulhZ f s

/-- R204. -/
def execMadFormA (f : FormA) (s : State) : Result := op6A .mad f s

/-- R204. -/
def execMinSFormA (f : FormA) (s : State) : Result := op6A .minS f s

/-- R204. -/
def execMinZFormA (f : FormA) (s : State) : Result := op6A .minZ f s

/-- R204. -/
def execMaxSFormA (f : FormA) (s : State) : Result := op6A .maxS f s

/-- R204. -/
def execMaxZFormA (f : FormA) (s : State) : Result := op6A .maxZ f s

/-- R204. -/
def execAndFormA (f : FormA) (s : State) : Result := op6A .and f s

/-- R204. -/
def execOrFormA (f : FormA) (s : State) : Result := op6A .or f s

/-- R204. -/
def execXorFormA (f : FormA) (s : State) : Result := op6A .xor f s

/-- R204. -/
def execAndnFormA (f : FormA) (s : State) : Result := op6A .andn f s

/-- R204. -/
def execShlFormA (f : FormA) (s : State) : Result := op6A .shl f s

/-- R204. -/
def execShrFormA (f : FormA) (s : State) : Result := op6A .shr f s

/-- R204. -/
def execSarFormA (f : FormA) (s : State) : Result := op6A .sar f s

/-- R204. -/
def execRotlFormA (f : FormA) (s : State) : Result := op6A .rotl f s

/-- R204. -/
def execClzFormA (f : FormA) (s : State) : Result := op6A .clz f s

/-- R204. -/
def execPopcFormA (f : FormA) (s : State) : Result := op6A .popc f s

/-- R204. -/
def execBrevFormA (f : FormA) (s : State) : Result := op6A .brev f s

/-- R204. -/
def execBfxFormA (f : FormA) (s : State) : Result := op6A .bfx f s

/-- R204. -/
def execBfiFormA (f : FormA) (s : State) : Result := op6A .bfi f s

/-- R204. -/
def execSelFormA (f : FormA) (s : State) : Result := op6A .sel f s

/-- R204. -/
def execMovFormA (f : FormA) (s : State) : Result := op6A .mov f s

/-- R204. -/
def execDivSFormA (f : FormA) (s : State) : Result := op6A .divS f s

/-- R204. -/
def execDivZFormA (f : FormA) (s : State) : Result := op6A .divZ f s

/-- R204. -/
def execRemSFormA (f : FormA) (s : State) : Result := op6A .remS f s

/-- R204. -/
def execRemZFormA (f : FormA) (s : State) : Result := op6A .remZ f s

/-- R204. -/
def execAbsFormA (f : FormA) (s : State) : Result := op6A .abs f s

/-- R204. -/
def execNegFormA (f : FormA) (s : State) : Result := op6A .neg f s

/-- R204. -/
def execAddsatSFormA (f : FormA) (s : State) : Result := op6A .addsatS f s

/-- R283. -/
def execFaddFormA (f : FormA) (s : State) : Result := op6A .fadd f s

/-- R283. -/
def execFsubFormA (f : FormA) (s : State) : Result := op6A .fsub f s

/-- R283. -/
def execFmulFormA (f : FormA) (s : State) : Result := op6A .fmul f s

/-- R283. -/
def execFfmaFormA (f : FormA) (s : State) : Result := op6A .ffma f s

/-- R283. -/
def execFminFormA (f : FormA) (s : State) : Result := op6A .fmin f s

/-- R283. -/
def execFmaxFormA (f : FormA) (s : State) : Result := op6A .fmax f s

/-- R283. -/
def execFabsFormA (f : FormA) (s : State) : Result := op6A .fabs f s

/-- R283. -/
def execFnegFormA (f : FormA) (s : State) : Result := op6A .fneg f s

/-- R283. -/
def execFcpsgnFormA (f : FormA) (s : State) : Result := op6A .fcpsgn f s

/-- R284. -/
def execHadd2FormA (f : FormA) (s : State) : Result := op6A .hadd2 f s

/-- R284. -/
def execHsub2FormA (f : FormA) (s : State) : Result := op6A .hsub2 f s

/-- R284. -/
def execHmul2FormA (f : FormA) (s : State) : Result := op6A .hmul2 f s

/-- R284. -/
def execHfma2FormA (f : FormA) (s : State) : Result := op6A .hfma2 f s

/-- R284. -/
def execHmin2FormA (f : FormA) (s : State) : Result := op6A .hmin2 f s

/-- R284. -/
def execHmax2FormA (f : FormA) (s : State) : Result := op6A .hmax2 f s

/-- R283. -/
def execIdot4FormA (f : FormA) (s : State) : Result := op6A .idot4 f s

/-- R283. -/
def execQdot4FormA (f : FormA) (s : State) : Result := op6A .qdot4 f s

/-- R283. -/
def execF2iFormA (f : FormA) (s : State) : Result := op6A .f2i f s

/-- R283. -/
def execI2fFormA (f : FormA) (s : State) : Result := op6A .i2f f s

/-- R283. -/
def execFfloorFormA (f : FormA) (s : State) : Result := op6A .ffloor f s

/-- R283. -/
def execFceilFormA (f : FormA) (s : State) : Result := op6A .fceil f s

/-- R283. -/
def execFtruncFormA (f : FormA) (s : State) : Result := op6A .ftrunc f s

/-- R283. -/
def execFrintFormA (f : FormA) (s : State) : Result := op6A .frint f s

/-- R283. -/
def execFscaleFormA (f : FormA) (s : State) : Result := op6A .fscale f s

end Sys2Proof.Machine
end

