-- ==== Sys2Proof/Machine/FormH.lean ====
section
/-!
DEFINITION. Meanings of the 16-bit lane operations (R184, R185), each the form A operation of the same name on its aliased operands.
-/
namespace Sys2Proof.Machine

/-- R204. -/
def execMovFormH (f : FormH) (s : State) : Result := op6H .mov f s

/-- R204. -/
def execAddFormH (f : FormH) (s : State) : Result := op6H .add f s

/-- R204. -/
def execSubFormH (f : FormH) (s : State) : Result := op6H .sub f s

/-- R204. -/
def execMulFormH (f : FormH) (s : State) : Result := op6H .mul f s

/-- R204. -/
def execAndFormH (f : FormH) (s : State) : Result := op6H .and f s

/-- R204. -/
def execOrFormH (f : FormH) (s : State) : Result := op6H .or f s

/-- R204. -/
def execXorFormH (f : FormH) (s : State) : Result := op6H .xor f s

/-- R204. -/
def execShlFormH (f : FormH) (s : State) : Result := op6H .shl f s

/-- R204. -/
def execShrFormH (f : FormH) (s : State) : Result := op6H .shr f s

/-- R204. -/
def execSarFormH (f : FormH) (s : State) : Result := op6H .sar f s

/-- R204. -/
def execMinSFormH (f : FormH) (s : State) : Result := op6H .minS f s

/-- R204. -/
def execMaxSFormH (f : FormH) (s : State) : Result := op6H .maxS f s

/-- R283. -/
def execFaddFormH (f : FormH) (s : State) : Result := op6H .fadd f s

/-- R283. -/
def execFmulFormH (f : FormH) (s : State) : Result := op6H .fmul f s

/-- R283. -/
def execFminFormH (f : FormH) (s : State) : Result := op6H .fmin f s

/-- R283. -/
def execFmaxFormH (f : FormH) (s : State) : Result := op6H .fmax f s

end Sys2Proof.Machine
end

