-- ==== Sys2Proof/Machine/FormI.lean ====
section
/-!
DEFINITION. Meanings of the 64-bit lane operations with an immediate (R193).
-/
namespace Sys2Proof.Machine

/-- R204. -/
def execAddFormI (h : Head) (f : OpI) (s : State) : Result := op6I .add h f s

/-- R204. -/
def execSubFormI (h : Head) (f : OpI) (s : State) : Result := op6I .sub h f s

/-- R204. -/
def execMulFormI (h : Head) (f : OpI) (s : State) : Result := op6I .mul h f s

/-- R204. -/
def execMulhSFormI (h : Head) (f : OpI) (s : State) : Result := op6I .mulhS h f s

/-- R204. -/
def execMulhZFormI (h : Head) (f : OpI) (s : State) : Result := op6I .mulhZ h f s

/-- R204. -/
def execMadFormI (h : Head) (f : OpI) (s : State) : Result := op6I .mad h f s

/-- R204. -/
def execMinSFormI (h : Head) (f : OpI) (s : State) : Result := op6I .minS h f s

/-- R204. -/
def execMinZFormI (h : Head) (f : OpI) (s : State) : Result := op6I .minZ h f s

/-- R204. -/
def execMaxSFormI (h : Head) (f : OpI) (s : State) : Result := op6I .maxS h f s

/-- R204. -/
def execMaxZFormI (h : Head) (f : OpI) (s : State) : Result := op6I .maxZ h f s

/-- R204. -/
def execAndFormI (h : Head) (f : OpI) (s : State) : Result := op6I .and h f s

/-- R204. -/
def execOrFormI (h : Head) (f : OpI) (s : State) : Result := op6I .or h f s

/-- R204. -/
def execXorFormI (h : Head) (f : OpI) (s : State) : Result := op6I .xor h f s

/-- R204. -/
def execAndnFormI (h : Head) (f : OpI) (s : State) : Result := op6I .andn h f s

/-- R204. -/
def execShlFormI (h : Head) (f : OpI) (s : State) : Result := op6I .shl h f s

/-- R204. -/
def execShrFormI (h : Head) (f : OpI) (s : State) : Result := op6I .shr h f s

/-- R204. -/
def execSarFormI (h : Head) (f : OpI) (s : State) : Result := op6I .sar h f s

/-- R204. -/
def execRotlFormI (h : Head) (f : OpI) (s : State) : Result := op6I .rotl h f s

/-- R204. -/
def execBfxFormI (h : Head) (f : OpI) (s : State) : Result := op6I .bfx h f s

/-- R204. -/
def execBfiFormI (h : Head) (f : OpI) (s : State) : Result := op6I .bfi h f s

/-- R204. -/
def execSelFormI (h : Head) (f : OpI) (s : State) : Result := op6I .sel h f s

/-- R204. -/
def execMovFormI (h : Head) (f : OpI) (s : State) : Result := op6I .mov h f s

/-- R204. -/
def execDivSFormI (h : Head) (f : OpI) (s : State) : Result := op6I .divS h f s

/-- R204. -/
def execDivZFormI (h : Head) (f : OpI) (s : State) : Result := op6I .divZ h f s

/-- R204. -/
def execRemSFormI (h : Head) (f : OpI) (s : State) : Result := op6I .remS h f s

/-- R204. -/
def execRemZFormI (h : Head) (f : OpI) (s : State) : Result := op6I .remZ h f s

/-- R204. -/
def execAddsatSFormI (h : Head) (f : OpI) (s : State) : Result := op6I .addsatS h f s

/-- R283. -/
def execFscaleFormI (h : Head) (f : OpI) (s : State) : Result := op6I .fscale h f s

end Sys2Proof.Machine
end

