-- ==== Sys2Proof/Machine/FormX.lean ====
section
/-!
DEFINITION. Meanings of the 64-bit lane operations with rounding control, uniform operands and lane sources (R191, R192).
-/
namespace Sys2Proof.Machine

/-- R204. -/
def execAddFormX (h : Head) (f : OpX) (s : State) : Result := op6X .add h f s

/-- R204. -/
def execSubFormX (h : Head) (f : OpX) (s : State) : Result := op6X .sub h f s

/-- R204. -/
def execMulFormX (h : Head) (f : OpX) (s : State) : Result := op6X .mul h f s

/-- R204. -/
def execMulhSFormX (h : Head) (f : OpX) (s : State) : Result := op6X .mulhS h f s

/-- R204. -/
def execMulhZFormX (h : Head) (f : OpX) (s : State) : Result := op6X .mulhZ h f s

/-- R204. -/
def execMadFormX (h : Head) (f : OpX) (s : State) : Result := op6X .mad h f s

/-- R204. -/
def execMinSFormX (h : Head) (f : OpX) (s : State) : Result := op6X .minS h f s

/-- R204. -/
def execMinZFormX (h : Head) (f : OpX) (s : State) : Result := op6X .minZ h f s

/-- R204. -/
def execMaxSFormX (h : Head) (f : OpX) (s : State) : Result := op6X .maxS h f s

/-- R204. -/
def execMaxZFormX (h : Head) (f : OpX) (s : State) : Result := op6X .maxZ h f s

/-- R204. -/
def execAndFormX (h : Head) (f : OpX) (s : State) : Result := op6X .and h f s

/-- R204. -/
def execOrFormX (h : Head) (f : OpX) (s : State) : Result := op6X .or h f s

/-- R204. -/
def execXorFormX (h : Head) (f : OpX) (s : State) : Result := op6X .xor h f s

/-- R204. -/
def execAndnFormX (h : Head) (f : OpX) (s : State) : Result := op6X .andn h f s

/-- R204. -/
def execShlFormX (h : Head) (f : OpX) (s : State) : Result := op6X .shl h f s

/-- R204. -/
def execShrFormX (h : Head) (f : OpX) (s : State) : Result := op6X .shr h f s

/-- R204. -/
def execSarFormX (h : Head) (f : OpX) (s : State) : Result := op6X .sar h f s

/-- R204. -/
def execRotlFormX (h : Head) (f : OpX) (s : State) : Result := op6X .rotl h f s

/-- R204. -/
def execClzFormX (h : Head) (f : OpX) (s : State) : Result := op6X .clz h f s

/-- R204. -/
def execPopcFormX (h : Head) (f : OpX) (s : State) : Result := op6X .popc h f s

/-- R204. -/
def execBrevFormX (h : Head) (f : OpX) (s : State) : Result := op6X .brev h f s

/-- R204. -/
def execBfxFormX (h : Head) (f : OpX) (s : State) : Result := op6X .bfx h f s

/-- R204. -/
def execBfiFormX (h : Head) (f : OpX) (s : State) : Result := op6X .bfi h f s

/-- R204. -/
def execSelFormX (h : Head) (f : OpX) (s : State) : Result := op6X .sel h f s

/-- R204. -/
def execMovFormX (h : Head) (f : OpX) (s : State) : Result := op6X .mov h f s

/-- R204. -/
def execDivSFormX (h : Head) (f : OpX) (s : State) : Result := op6X .divS h f s

/-- R204. -/
def execDivZFormX (h : Head) (f : OpX) (s : State) : Result := op6X .divZ h f s

/-- R204. -/
def execRemSFormX (h : Head) (f : OpX) (s : State) : Result := op6X .remS h f s

/-- R204. -/
def execRemZFormX (h : Head) (f : OpX) (s : State) : Result := op6X .remZ h f s

/-- R204. -/
def execAbsFormX (h : Head) (f : OpX) (s : State) : Result := op6X .abs h f s

/-- R204. -/
def execNegFormX (h : Head) (f : OpX) (s : State) : Result := op6X .neg h f s

/-- R204. -/
def execAddsatSFormX (h : Head) (f : OpX) (s : State) : Result := op6X .addsatS h f s

/-- R283. -/
def execFaddFormX (h : Head) (f : OpX) (s : State) : Result := op6X .fadd h f s

/-- R283. -/
def execFsubFormX (h : Head) (f : OpX) (s : State) : Result := op6X .fsub h f s

/-- R283. -/
def execFmulFormX (h : Head) (f : OpX) (s : State) : Result := op6X .fmul h f s

/-- R283. -/
def execFfmaFormX (h : Head) (f : OpX) (s : State) : Result := op6X .ffma h f s

/-- R283. -/
def execFminFormX (h : Head) (f : OpX) (s : State) : Result := op6X .fmin h f s

/-- R283. -/
def execFmaxFormX (h : Head) (f : OpX) (s : State) : Result := op6X .fmax h f s

/-- R283. -/
def execFabsFormX (h : Head) (f : OpX) (s : State) : Result := op6X .fabs h f s

/-- R283. -/
def execFnegFormX (h : Head) (f : OpX) (s : State) : Result := op6X .fneg h f s

/-- R283. -/
def execFcpsgnFormX (h : Head) (f : OpX) (s : State) : Result := op6X .fcpsgn h f s

/-- R284. -/
def execHadd2FormX (h : Head) (f : OpX) (s : State) : Result := op6X .hadd2 h f s

/-- R284. -/
def execHsub2FormX (h : Head) (f : OpX) (s : State) : Result := op6X .hsub2 h f s

/-- R284. -/
def execHmul2FormX (h : Head) (f : OpX) (s : State) : Result := op6X .hmul2 h f s

/-- R284. -/
def execHfma2FormX (h : Head) (f : OpX) (s : State) : Result := op6X .hfma2 h f s

/-- R284. -/
def execHmin2FormX (h : Head) (f : OpX) (s : State) : Result := op6X .hmin2 h f s

/-- R284. -/
def execHmax2FormX (h : Head) (f : OpX) (s : State) : Result := op6X .hmax2 h f s

/-- R283. -/
def execIdot4FormX (h : Head) (f : OpX) (s : State) : Result := op6X .idot4 h f s

/-- R283. -/
def execQdot4FormX (h : Head) (f : OpX) (s : State) : Result := op6X .qdot4 h f s

/-- R283. -/
def execF2iFormX (h : Head) (f : OpX) (s : State) : Result := op6X .f2i h f s

/-- R283. -/
def execI2fFormX (h : Head) (f : OpX) (s : State) : Result := op6X .i2f h f s

/-- R283. -/
def execFfloorFormX (h : Head) (f : OpX) (s : State) : Result := op6X .ffloor h f s

/-- R283. -/
def execFceilFormX (h : Head) (f : OpX) (s : State) : Result := op6X .fceil h f s

/-- R283. -/
def execFtruncFormX (h : Head) (f : OpX) (s : State) : Result := op6X .ftrunc h f s

/-- R283. -/
def execFrintFormX (h : Head) (f : OpX) (s : State) : Result := op6X .frint h f s

/-- R283. -/
def execFscaleFormX (h : Head) (f : OpX) (s : State) : Result := op6X .fscale h f s

end Sys2Proof.Machine
end

