-- ==== Sys2Proof/Machine/Lane.lean ====
section
/-!
DEFINITION. Comparisons, predicate operations, cross-lane operations and UMOV (R205 to R215).
-/
namespace Sys2Proof.Machine

/-! ### Comparisons -/

/-- Operand pair or word of a comparison's B. -/
def cmpB (s : State) (p : CmpP) (f : Fibre) (k : Nat) : VReg :=
  if p.bu then { val := uni s f (p.b.toNat + k), tag := tRaw } else f.reg (p.b.toNat + k)

/-- Registers of a comparison. -/
def cmpUse (h : Head) (p : CmpP) (legal pair : Bool) : Use :=
  let a := if pair then [p.a.toNat, p.a.toNat + 1] else [p.a.toNat]
  let b := if p.bu then [] else if pair then [p.b.toNat, p.b.toNat + 1] else [p.b.toNat]
  { useOf h legal with vr := a ++ b, pr := [p.q.toNat], pw := [p.pd.toNat], home := p.bu }

/-- Predicate of a comparison (R207). -/
def cmpOut (p : CmpP) (f : Fibre) (c : Bool) : List PendDest :=
  [.pred p.pd.toNat (boolOp p.bop.toNat c (f.pred p.q.toNat != p.qn))]

/-- Integer operands of ICMP by format: I32, U32, I64, U64. -/
def icmpVal (fmt : Nat) (lo hi : Word) : Int :=
  match fmt with
  | 0 => lo.toInt
  | 1 => lo.toNat
  | 2 => (pairOf lo hi).toInt
  | _ => (pairOf lo hi).toNat

/-- R207. -/
def execIcmp (h : Head) (p : CmpP) (s : State) : Result :=
  let fmt := p.fmt.toNat
  let pair := decide (2 ≤ fmt)
  let tag := fun (k : Nat) => if pair then (if k == 0 then tagIs tI64lo else tagIs tI64hi) else tagIs tI32
  let ks := if pair then [0, 1] else [0]
  issue (cmpUse h p (Instr.icmp h p).legal pair)
    (fun s _ ls => regAct (some 2)
      (fun f => minCodes (ks.flatMap fun k => [checkTag (tag k) (f.reg (p.a.toNat + k)), checkTag (tag k) (cmpB s p f k)]))
      (fun f => cmpOut p f (icmpRel p.cc.toNat (icmpVal fmt (f.val p.a.toNat) (f.val (p.a.toNat + 1)))
        (icmpVal fmt (cmpB s p f 0).val (cmpB s p f 1).val))) s ls) s

/-- Element of FCMP: the register, or one half by H. -/
def fcmpVal (fmt : Nat) (h : Bool) (x : Word) : FVal :=
  decF false (fmt3 fmt) (if fmt == 0 then x.toNat else halfOf x h.toNat)

/-- R207. -/
def execFcmp (h : Head) (p : CmpP) (s : State) : Result :=
  let fmt := p.fmt.toNat
  issue (cmpUse h p (Instr.fcmp h p).legal false)
    (fun s _ ls => regAct (some 2)
      (fun f => minCodes [checkTag (tagIs (fmt3Tag fmt)) (f.reg p.a.toNat), checkTag (tagIs (fmt3Tag fmt)) (cmpB s p f 0)])
      (fun f => cmpOut p f (fcmpCond p.cc.toNat (fcmpVal fmt p.h (f.val p.a.toNat)) (fcmpVal fmt p.h (cmpB s p f 0).val))) s ls) s

/-! ### Predicates -/

/-- R208. -/
def execPcomb (h : Head) (p : PcombP) (s : State) : Result :=
  let r := List.range (p.nm1.toNat + 1)
  let span := fun (x : BitVec 7) => r.map (· + x.toNat)
  issue { useOf h (Instr.pcomb h p).legal with pr := span p.px ++ span p.py ++ span p.pz, pw := span p.pd }
    (fun s _ ls => regAct (some 2) (fun _ => none)
      (fun f => r.map fun i => .pred (p.pd.toNat + i)
        (pcombBit p.f1 p.f0 (f.pred (p.px.toNat + i)) (f.pred (p.py.toNat + i)) (f.pred (p.pz.toNat + i)))) s ls) s

/-- R209. -/
def execPtov (h : Head) (p : PredVecP) (s : State) : Result :=
  let ps := (List.range 32).map (· + p.pb.toNat)
  issue { useOf h (Instr.ptov h p).legal with pr := ps, vw := [p.v.toNat] }
    (fun s _ ls => regAct (some 2) (fun _ => none)
      (fun f => [.reg p.v.toNat
        { val := (List.range 32).foldl (fun w j => if f.pred (p.pb.toNat + j) then w ||| (1#32 <<< j) else w) 0, tag := tRaw }]) s ls) s

/-- R209. -/
def execVtop (h : Head) (p : PredVecP) (s : State) : Result :=
  let ps := (List.range 32).map (· + p.pb.toNat)
  issue { useOf h (Instr.vtop h p).legal with vr := [p.v.toNat], pw := ps, home := true }
    (fun s _ ls => regAct (some 2) (fun f => checkTag none (f.reg p.v.toNat))
      (fun f => (List.range 32).filterMap fun j =>
        if (uni s f p.sm.toNat).getLsbD j then some (.pred (p.pb.toNat + j) ((f.val p.v.toNat).getLsbD j)) else none) s ls) s

/-- R210. -/
def execPsurv (h : Head) (p : PsurvP) (s : State) : Result :=
  let mode := p.mode.toNat
  issue { useOf h (Instr.psurv h p).legal with
      pr := [p.ps.toNat], pw := if mode < 3 then [p.pd.toNat] else [], vw := if mode < 3 then [] else [p.d.toNat] }
    (fun s _ ls =>
      let yes := ls.filter (fun f => f.pred p.ps.toNat != p.psn)
      let n := ls.length
      let c := yes.length
      let out := fun (_ : Fibre) =>
        if mode < 3 then [PendDest.pred p.pd.toNat (psurvTest mode c (psurvK p.k.toNat n))]
        else if mode == 3 then [.reg p.d.toNat { val := laneMask yes, tag := tI32 }]
        else [.reg p.d.toNat { val := BitVec.ofNat 32 (c + 256 * n), tag := tI32 }]
      regAct none (fun _ => none) out s ls) s

/-! ### Across lanes -/

/-- Bit of a lane position in a lane's own mask value; every lane counts where there is no mask (R211, R214). -/
def inGroup (gv : Bool) (gm : Nat) (f : Fibre) (j : Nat) : Bool := !gv || (f.val gm).getLsbD j

/-- Value a lane of SHFL receives: the source lane's A, or the fill; a lane whose own bit is clear in its own mask neither receives nor
delivers (R211, R36). -/
def shflGot (p : ShflP) (ls : List Fibre) (f : Fibre) : VReg :=
  let fill : VReg := if p.xf then { val := 0, tag := tRaw } else f.reg p.a.toNat
  match (srcLane p.xm.toNat p.xk.toNat f).bind (laneAt ls) with
  | some g =>
    if inGroup p.gv p.gm.toNat f f.lane && inGroup p.gv p.gm.toNat f g.lane && inGroup p.gv p.gm.toNat g g.lane then g.reg p.a.toNat
    else fill
  | none => fill

/-- R211. -/
def execShfl (h : Head) (p : ShflP) (s : State) : Result :=
  let gm := p.gm.toNat
  let xm := p.xm.toNat
  let xk := p.xk.toNat
  let a := p.a.toNat
  issue { useOf h (Instr.shfl h p).legal with
      vr := [a] ++ (if p.gv then [gm] else []) ++ (if xm == 1 then [xk] else []), vw := [p.d.toNat] }
    (fun s _ ls => regAct none
      (fun f => minCodes [checkTag none (shflGot p ls f), if p.gv then checkTag none (f.reg gm) else none,
        if xm == 1 then checkTag none (f.reg xk) else none])
      (fun f => [.reg p.d.toNat (shflGot p ls f)]) s ls) s

/-- R212, R36. A lane that traps at its key still sets its bit in the masks of the lanes with an equal key (DESIGN CHOICE, log 21: R36, R86 and R212
do not say). -/
def execMatchOp (h : Head) (p : MatchP) (s : State) : Result :=
  let rs := if p.k64 then [p.a.toNat, p.a.toNat + 1] else [p.a.toNat]
  issue { useOf h (Instr.matchOp h p).legal with vr := rs, vw := [p.d.toNat] }
    (fun s _ ls => regAct none (fun f => checkRegs f rs)
      (fun f => [.reg p.d.toNat
        { val := laneMask (ls.filter fun g => rs.map g.val == rs.map f.val), tag := tI32 }]) s ls) s

/-- Format of a REDUX float operation. -/
def reduxTag (op fmt : Nat) : Option (BitVec 4) :=
  if op < 5 then some tI32 else if op < 8 then none else some (fmt3Tag fmt)

/-- One float step of a reduction on codes (R84, R214). SAT is accepted with every OP and acts in OP 0 alone (DESIGN CHOICE, log 21: R213 gives it
no meaning for the others and does not say that it is ignored). -/
def reduxF (op : Nat) (f : FloatFmt) (rm : Rm) (ftz : Bool) (x y : Nat) : Nat :=
  let a := decF ftz f x
  let b := decF ftz f y
  roundF rm false ftz f (match op with | 8 => addV rm a b | 9 => minMaxV false a b | _ => minMaxV true a b)

/-- One step of a reduction (R84, R214). -/
def reduxStep (p : ReduxP) (x y : Word) : Word :=
  let rm := rmOf p.rm.toNat
  match p.op.toNat with
  | 0 => wrapSat p.sat (x.toInt + y.toInt)
  | 1 => if x.toInt ≤ y.toInt then x else y
  | 2 => if x.toNat ≤ y.toNat then x else y
  | 3 => if x.toInt ≤ y.toInt then y else x
  | 4 => if x.toNat ≤ y.toNat then y else x
  | 5 => x &&& y
  | 6 => x ||| y
  | 7 => x ^^^ y
  | op =>
    if p.fmt == 0 then BitVec.ofNat 32 (reduxF op .f32 rm p.ftz x.toNat y.toNat)
    else
      let f := fmt3 p.fmt.toNat
      packHalves (reduxF op f rm p.ftz (halfOf x 0) (halfOf y 0)) (reduxF op f rm p.ftz (halfOf x 1) (halfOf y 1))

/-- The first participant's value as a reduction of it alone gives it: of a float operation, a NaN is the canonical one, and with FTZ a
subnormal is the zero of its sign (R72, R79). -/
def reduxFirst (p : ReduxP) (x : Word) : Word :=
  if p.op.toNat < 8 then x
  else
    let one := fun (f : FloatFmt) (c : Nat) => roundF (rmOf p.rm.toNat) false p.ftz f (decF p.ftz f c)
    if p.fmt == 0 then BitVec.ofNat 32 (one .f32 x.toNat)
    else packHalves (one (fmt3 p.fmt.toNat) (halfOf x 0)) (one (fmt3 p.fmt.toNat) (halfOf x 1))

/-- Reduction of values in ascending lane position (R84). -/
def reduxAll (p : ReduxP) : List Word → Word
  | [] => 0
  | x :: xs => xs.foldl (reduxStep p) (reduxFirst p x)

/-- Result tag over a set (R214). -/
def reduxRTag (p : ReduxP) (set : List VReg) : BitVec 4 :=
  match reduxTag p.op.toNat p.fmt.toNat with
  | some t => t
  | none =>
    match set with
    | [] => tRaw
    | x :: xs => if xs.all (fun y => y.tag == x.tag) then x.tag else tRaw

/-- REDUX and SCAN (R214, R36): a lane whose own bit is clear is in no lane's set (log 19); with `scan`, only the lanes at or below the
lane's own position combine. -/
def reduxAct (p : ReduxP) (scan : Bool) (s : State) (ls : List Fibre) : Acted :=
  let a := p.a.toNat
  let gm := p.gm.toNat
  let check := fun (f : Fibre) => minCodes
    [checkTag (reduxTag p.op.toNat p.fmt.toNat) (f.reg a), if p.gv then checkTag none (f.reg gm) else none]
  let ok := ls.filter (fun f => (check f).isNone)
  regAct none check
    (fun f =>
      if inGroup p.gv gm f f.lane then
        let set := ok.filter (fun g => inGroup p.gv gm g g.lane && inGroup p.gv gm f g.lane)
        let part := if scan then set.filter (fun g => decide (g.lane ≤ f.lane)) else set
        [.reg p.d.toNat { val := reduxAll p (part.map (fun g => g.val a)), tag := reduxRTag p (set.map (fun g => g.reg a)) }]
      else [.reg p.d.toNat (if p.xf then { val := 0, tag := tRaw } else f.reg a)]) s ls

/-- Registers of REDUX and SCAN. -/
def reduxUse (h : Head) (p : ReduxP) (legal : Bool) : Use :=
  { useOf h legal with vr := [p.a.toNat] ++ (if p.gv then [p.gm.toNat] else []), vw := [p.d.toNat] }

/-- R214. -/
def execRedux (h : Head) (p : ReduxP) (s : State) : Result :=
  issue (reduxUse h p (Instr.redux h p).legal) (fun s _ ls => reduxAct p false s ls) s

/-- R214. -/
def execScan (h : Head) (p : ReduxP) (s : State) : Result :=
  issue (reduxUse h p (Instr.scan h p).legal) (fun s _ ls => reduxAct p true s ls) s

/-- R215. -/
def execUmov (h : Head) (p : UmovP) (s : State) : Result :=
  let v := p.v.toNat
  let sn := p.s.toNat
  let u := useOf h (Instr.umov h p).legal
  match p.dir.toNat with
  | 0 => issue { u with vw := [v], home := true }
      (fun s _ ls => regAct (some 2) (fun _ => none) (fun f => [.reg v { val := uni s f sn, tag := tRaw }]) s ls) s
  | 1 => issue { u with vr := [v], home := true }
      (fun s _ ls =>
        let traps := trapsOf (fun f => checkTag none (f.reg v)) ls
        match ls.head? with
        | some f => acted (if (checkTag none (f.reg v)).isNone then setUni s f sn (f.val v) else s) traps
        | none => acted s traps) s
  | _ => issue { u with home := true }
      (fun s _ ls => firstLane (fun s f => acted (setUni s f sn (p.imm.signExtend 32)) []) s ls) s

end Sys2Proof.Machine
end

