-- ==== Sys2Proof/Machine/Dispatch.lean ====
section
/-!
DEFINITION. `exec`: one arm for each constructor of `Instr`, each a direct call of that instruction's meaning.
-/
namespace Sys2Proof.Machine

def exec (i : Instr) (s : State) : Host.Outcome State Fault Refusal :=
  match i with
  | .movFormH f => Sys2Proof.Machine.execMovFormH f s
  | .addFormH f => Sys2Proof.Machine.execAddFormH f s
  | .subFormH f => Sys2Proof.Machine.execSubFormH f s
  | .mulFormH f => Sys2Proof.Machine.execMulFormH f s
  | .andFormH f => Sys2Proof.Machine.execAndFormH f s
  | .orFormH f => Sys2Proof.Machine.execOrFormH f s
  | .xorFormH f => Sys2Proof.Machine.execXorFormH f s
  | .shlFormH f => Sys2Proof.Machine.execShlFormH f s
  | .shrFormH f => Sys2Proof.Machine.execShrFormH f s
  | .sarFormH f => Sys2Proof.Machine.execSarFormH f s
  | .minSFormH f => Sys2Proof.Machine.execMinSFormH f s
  | .maxSFormH f => Sys2Proof.Machine.execMaxSFormH f s
  | .faddFormH f => Sys2Proof.Machine.execFaddFormH f s
  | .fmulFormH f => Sys2Proof.Machine.execFmulFormH f s
  | .fminFormH f => Sys2Proof.Machine.execFminFormH f s
  | .fmaxFormH f => Sys2Proof.Machine.execFmaxFormH f s
  | .addFormA f => Sys2Proof.Machine.execAddFormA f s
  | .subFormA f => Sys2Proof.Machine.execSubFormA f s
  | .mulFormA f => Sys2Proof.Machine.execMulFormA f s
  | .mulhSFormA f => Sys2Proof.Machine.execMulhSFormA f s
  | .mulhZFormA f => Sys2Proof.Machine.execMulhZFormA f s
  | .madFormA f => Sys2Proof.Machine.execMadFormA f s
  | .minSFormA f => Sys2Proof.Machine.execMinSFormA f s
  | .minZFormA f => Sys2Proof.Machine.execMinZFormA f s
  | .maxSFormA f => Sys2Proof.Machine.execMaxSFormA f s
  | .maxZFormA f => Sys2Proof.Machine.execMaxZFormA f s
  | .andFormA f => Sys2Proof.Machine.execAndFormA f s
  | .orFormA f => Sys2Proof.Machine.execOrFormA f s
  | .xorFormA f => Sys2Proof.Machine.execXorFormA f s
  | .andnFormA f => Sys2Proof.Machine.execAndnFormA f s
  | .shlFormA f => Sys2Proof.Machine.execShlFormA f s
  | .shrFormA f => Sys2Proof.Machine.execShrFormA f s
  | .sarFormA f => Sys2Proof.Machine.execSarFormA f s
  | .rotlFormA f => Sys2Proof.Machine.execRotlFormA f s
  | .clzFormA f => Sys2Proof.Machine.execClzFormA f s
  | .popcFormA f => Sys2Proof.Machine.execPopcFormA f s
  | .brevFormA f => Sys2Proof.Machine.execBrevFormA f s
  | .bfxFormA f => Sys2Proof.Machine.execBfxFormA f s
  | .bfiFormA f => Sys2Proof.Machine.execBfiFormA f s
  | .selFormA f => Sys2Proof.Machine.execSelFormA f s
  | .movFormA f => Sys2Proof.Machine.execMovFormA f s
  | .divSFormA f => Sys2Proof.Machine.execDivSFormA f s
  | .divZFormA f => Sys2Proof.Machine.execDivZFormA f s
  | .remSFormA f => Sys2Proof.Machine.execRemSFormA f s
  | .remZFormA f => Sys2Proof.Machine.execRemZFormA f s
  | .absFormA f => Sys2Proof.Machine.execAbsFormA f s
  | .negFormA f => Sys2Proof.Machine.execNegFormA f s
  | .addsatSFormA f => Sys2Proof.Machine.execAddsatSFormA f s
  | .faddFormA f => Sys2Proof.Machine.execFaddFormA f s
  | .fsubFormA f => Sys2Proof.Machine.execFsubFormA f s
  | .fmulFormA f => Sys2Proof.Machine.execFmulFormA f s
  | .ffmaFormA f => Sys2Proof.Machine.execFfmaFormA f s
  | .fminFormA f => Sys2Proof.Machine.execFminFormA f s
  | .fmaxFormA f => Sys2Proof.Machine.execFmaxFormA f s
  | .fabsFormA f => Sys2Proof.Machine.execFabsFormA f s
  | .fnegFormA f => Sys2Proof.Machine.execFnegFormA f s
  | .fcpsgnFormA f => Sys2Proof.Machine.execFcpsgnFormA f s
  | .hadd2FormA f => Sys2Proof.Machine.execHadd2FormA f s
  | .hsub2FormA f => Sys2Proof.Machine.execHsub2FormA f s
  | .hmul2FormA f => Sys2Proof.Machine.execHmul2FormA f s
  | .hfma2FormA f => Sys2Proof.Machine.execHfma2FormA f s
  | .hmin2FormA f => Sys2Proof.Machine.execHmin2FormA f s
  | .hmax2FormA f => Sys2Proof.Machine.execHmax2FormA f s
  | .idot4FormA f => Sys2Proof.Machine.execIdot4FormA f s
  | .qdot4FormA f => Sys2Proof.Machine.execQdot4FormA f s
  | .f2iFormA f => Sys2Proof.Machine.execF2iFormA f s
  | .i2fFormA f => Sys2Proof.Machine.execI2fFormA f s
  | .ffloorFormA f => Sys2Proof.Machine.execFfloorFormA f s
  | .fceilFormA f => Sys2Proof.Machine.execFceilFormA f s
  | .ftruncFormA f => Sys2Proof.Machine.execFtruncFormA f s
  | .frintFormA f => Sys2Proof.Machine.execFrintFormA f s
  | .fscaleFormA f => Sys2Proof.Machine.execFscaleFormA f s
  | .addFormX h f => Sys2Proof.Machine.execAddFormX h f s
  | .subFormX h f => Sys2Proof.Machine.execSubFormX h f s
  | .mulFormX h f => Sys2Proof.Machine.execMulFormX h f s
  | .mulhSFormX h f => Sys2Proof.Machine.execMulhSFormX h f s
  | .mulhZFormX h f => Sys2Proof.Machine.execMulhZFormX h f s
  | .madFormX h f => Sys2Proof.Machine.execMadFormX h f s
  | .minSFormX h f => Sys2Proof.Machine.execMinSFormX h f s
  | .minZFormX h f => Sys2Proof.Machine.execMinZFormX h f s
  | .maxSFormX h f => Sys2Proof.Machine.execMaxSFormX h f s
  | .maxZFormX h f => Sys2Proof.Machine.execMaxZFormX h f s
  | .andFormX h f => Sys2Proof.Machine.execAndFormX h f s
  | .orFormX h f => Sys2Proof.Machine.execOrFormX h f s
  | .xorFormX h f => Sys2Proof.Machine.execXorFormX h f s
  | .andnFormX h f => Sys2Proof.Machine.execAndnFormX h f s
  | .shlFormX h f => Sys2Proof.Machine.execShlFormX h f s
  | .shrFormX h f => Sys2Proof.Machine.execShrFormX h f s
  | .sarFormX h f => Sys2Proof.Machine.execSarFormX h f s
  | .rotlFormX h f => Sys2Proof.Machine.execRotlFormX h f s
  | .clzFormX h f => Sys2Proof.Machine.execClzFormX h f s
  | .popcFormX h f => Sys2Proof.Machine.execPopcFormX h f s
  | .brevFormX h f => Sys2Proof.Machine.execBrevFormX h f s
  | .bfxFormX h f => Sys2Proof.Machine.execBfxFormX h f s
  | .bfiFormX h f => Sys2Proof.Machine.execBfiFormX h f s
  | .selFormX h f => Sys2Proof.Machine.execSelFormX h f s
  | .movFormX h f => Sys2Proof.Machine.execMovFormX h f s
  | .divSFormX h f => Sys2Proof.Machine.execDivSFormX h f s
  | .divZFormX h f => Sys2Proof.Machine.execDivZFormX h f s
  | .remSFormX h f => Sys2Proof.Machine.execRemSFormX h f s
  | .remZFormX h f => Sys2Proof.Machine.execRemZFormX h f s
  | .absFormX h f => Sys2Proof.Machine.execAbsFormX h f s
  | .negFormX h f => Sys2Proof.Machine.execNegFormX h f s
  | .addsatSFormX h f => Sys2Proof.Machine.execAddsatSFormX h f s
  | .faddFormX h f => Sys2Proof.Machine.execFaddFormX h f s
  | .fsubFormX h f => Sys2Proof.Machine.execFsubFormX h f s
  | .fmulFormX h f => Sys2Proof.Machine.execFmulFormX h f s
  | .ffmaFormX h f => Sys2Proof.Machine.execFfmaFormX h f s
  | .fminFormX h f => Sys2Proof.Machine.execFminFormX h f s
  | .fmaxFormX h f => Sys2Proof.Machine.execFmaxFormX h f s
  | .fabsFormX h f => Sys2Proof.Machine.execFabsFormX h f s
  | .fnegFormX h f => Sys2Proof.Machine.execFnegFormX h f s
  | .fcpsgnFormX h f => Sys2Proof.Machine.execFcpsgnFormX h f s
  | .hadd2FormX h f => Sys2Proof.Machine.execHadd2FormX h f s
  | .hsub2FormX h f => Sys2Proof.Machine.execHsub2FormX h f s
  | .hmul2FormX h f => Sys2Proof.Machine.execHmul2FormX h f s
  | .hfma2FormX h f => Sys2Proof.Machine.execHfma2FormX h f s
  | .hmin2FormX h f => Sys2Proof.Machine.execHmin2FormX h f s
  | .hmax2FormX h f => Sys2Proof.Machine.execHmax2FormX h f s
  | .idot4FormX h f => Sys2Proof.Machine.execIdot4FormX h f s
  | .qdot4FormX h f => Sys2Proof.Machine.execQdot4FormX h f s
  | .f2iFormX h f => Sys2Proof.Machine.execF2iFormX h f s
  | .i2fFormX h f => Sys2Proof.Machine.execI2fFormX h f s
  | .ffloorFormX h f => Sys2Proof.Machine.execFfloorFormX h f s
  | .fceilFormX h f => Sys2Proof.Machine.execFceilFormX h f s
  | .ftruncFormX h f => Sys2Proof.Machine.execFtruncFormX h f s
  | .frintFormX h f => Sys2Proof.Machine.execFrintFormX h f s
  | .fscaleFormX h f => Sys2Proof.Machine.execFscaleFormX h f s
  | .addFormI h f => Sys2Proof.Machine.execAddFormI h f s
  | .subFormI h f => Sys2Proof.Machine.execSubFormI h f s
  | .mulFormI h f => Sys2Proof.Machine.execMulFormI h f s
  | .mulhSFormI h f => Sys2Proof.Machine.execMulhSFormI h f s
  | .mulhZFormI h f => Sys2Proof.Machine.execMulhZFormI h f s
  | .madFormI h f => Sys2Proof.Machine.execMadFormI h f s
  | .minSFormI h f => Sys2Proof.Machine.execMinSFormI h f s
  | .minZFormI h f => Sys2Proof.Machine.execMinZFormI h f s
  | .maxSFormI h f => Sys2Proof.Machine.execMaxSFormI h f s
  | .maxZFormI h f => Sys2Proof.Machine.execMaxZFormI h f s
  | .andFormI h f => Sys2Proof.Machine.execAndFormI h f s
  | .orFormI h f => Sys2Proof.Machine.execOrFormI h f s
  | .xorFormI h f => Sys2Proof.Machine.execXorFormI h f s
  | .andnFormI h f => Sys2Proof.Machine.execAndnFormI h f s
  | .shlFormI h f => Sys2Proof.Machine.execShlFormI h f s
  | .shrFormI h f => Sys2Proof.Machine.execShrFormI h f s
  | .sarFormI h f => Sys2Proof.Machine.execSarFormI h f s
  | .rotlFormI h f => Sys2Proof.Machine.execRotlFormI h f s
  | .bfxFormI h f => Sys2Proof.Machine.execBfxFormI h f s
  | .bfiFormI h f => Sys2Proof.Machine.execBfiFormI h f s
  | .selFormI h f => Sys2Proof.Machine.execSelFormI h f s
  | .movFormI h f => Sys2Proof.Machine.execMovFormI h f s
  | .divSFormI h f => Sys2Proof.Machine.execDivSFormI h f s
  | .divZFormI h f => Sys2Proof.Machine.execDivZFormI h f s
  | .remSFormI h f => Sys2Proof.Machine.execRemSFormI h f s
  | .remZFormI h f => Sys2Proof.Machine.execRemZFormI h f s
  | .addsatSFormI h f => Sys2Proof.Machine.execAddsatSFormI h f s
  | .fscaleFormI h f => Sys2Proof.Machine.execFscaleFormI h f s
  | .icmp h p => Sys2Proof.Machine.execIcmp h p s
  | .fcmp h p => Sys2Proof.Machine.execFcmp h p s
  | .pcomb h p => Sys2Proof.Machine.execPcomb h p s
  | .ptov h p => Sys2Proof.Machine.execPtov h p s
  | .vtop h p => Sys2Proof.Machine.execVtop h p s
  | .psurv h p => Sys2Proof.Machine.execPsurv h p s
  | .shfl h p => Sys2Proof.Machine.execShfl h p s
  | .matchOp h p => Sys2Proof.Machine.execMatchOp h p s
  | .redux h p => Sys2Proof.Machine.execRedux h p s
  | .scan h p => Sys2Proof.Machine.execScan h p s
  | .umov h p => Sys2Proof.Machine.execUmov h p s
  | .bra h p => Sys2Proof.Machine.execBra h p s
  | .brx h p => Sys2Proof.Machine.execBrx h p s
  | .call h p => Sys2Proof.Machine.execCall h p s
  | .ret h p => Sys2Proof.Machine.execRet h p s
  | .jmp h p => Sys2Proof.Machine.execJmp h p s
  | .spawn h p => Sys2Proof.Machine.execSpawn h p s
  | .exit h => Sys2Proof.Machine.execExit h s
  | .join h => Sys2Proof.Machine.execJoin h s
  | .yieldOp h => Sys2Proof.Machine.execYieldOp h s
  | .setsr h p => Sys2Proof.Machine.execSetsr h p s
  | .waitc h p => Sys2Proof.Machine.execWaitc h p s
  | .bar h p => Sys2Proof.Machine.execBar h p s
  | .utrap h p => Sys2Proof.Machine.execUtrap h p s
  | .bkpt h p => Sys2Proof.Machine.execBkpt h p s
  | .mark h p => Sys2Proof.Machine.execMark h p s
  | .getsr h p => Sys2Proof.Machine.execGetsr h p s
  | .ld h p => Sys2Proof.Machine.execLd h p s
  | .st h p => Sys2Proof.Machine.execSt h p s
  | .ldl h p => Sys2Proof.Machine.execLdl h p s
  | .stl h p => Sys2Proof.Machine.execStl h p s
  | .ldw h p => Sys2Proof.Machine.execLdw h p s
  | .lda h p => Sys2Proof.Machine.execLda h p s
  | .atom h p => Sys2Proof.Machine.execAtom h p s
  | .red h p => Sys2Proof.Machine.execRed h p s
  | .fence h p => Sys2Proof.Machine.execFence h p s
  | .capld h p => Sys2Proof.Machine.execCapld h p s
  | .capst h p => Sys2Proof.Machine.execCapst h p s
  | .cnarrow h p => Sys2Proof.Machine.execCnarrow h p s
  | .crights h p => Sys2Proof.Machine.execCrights h p s
  | .cinfo h p => Sys2Proof.Machine.execCinfo h p s
  | .feset h p => Sys2Proof.Machine.execFeset h p s
  | .feclr h p => Sys2Proof.Machine.execFeclr h p s
  | .fetest h p => Sys2Proof.Machine.execFetest h p s
  | .binit h p => Sys2Proof.Machine.execBinit h p s
  | .barv h p => Sys2Proof.Machine.execBarv h p s
  | .bexpt h p => Sys2Proof.Machine.execBexpt h p s
  | .bwait h p => Sys2Proof.Machine.execBwait h p s
  | .send h p => Sys2Proof.Machine.execSend h p s
  | .recv h p => Sys2Proof.Machine.execRecv h p s
  | .qpoll h p => Sys2Proof.Machine.execQpoll h p s
  | .cpy h p => Sys2Proof.Machine.execCpy h p s
  | .cpym h p => Sys2Proof.Machine.execCpym h p s
  | .cpyt h p => Sys2Proof.Machine.execCpyt h p s
  | .cpyx h p => Sys2Proof.Machine.execCpyx h p s
  | .radd h p => Sys2Proof.Machine.execRadd h p s
  | .migr h p => Sys2Proof.Machine.execMigr h p s
  | .migrh h p => Sys2Proof.Machine.execMigrh h p s
  | .cutreg h p => Sys2Proof.Machine.execCutreg h p s
  | .cutdrop h p => Sys2Proof.Machine.execCutdrop h p s
  | .swpos h p => Sys2Proof.Machine.execSwpos h p s
  | .cutboost h p => Sys2Proof.Machine.execCutboost h p s
  | .rowop h p => Sys2Proof.Machine.execRowop h p s
  | .rowprog h p => Sys2Proof.Machine.execRowprog h p s
  | .rowstat h p => Sys2Proof.Machine.execRowstat h p s
  | .nopen h p => Sys2Proof.Machine.execNopen h p s
  | .nclose h p => Sys2Proof.Machine.execNclose h p s
  | .nbind h p => Sys2Proof.Machine.execNbind h p s
  | .nbindm h p => Sys2Proof.Machine.execNbindm h p s
  | .ninfo h p => Sys2Proof.Machine.execNinfo h p s
  | .nring h p => Sys2Proof.Machine.execNring h p s
  | .ntag h p => Sys2Proof.Machine.execNtag h p s
  | .mxop h p => Sys2Proof.Machine.execMxop h p s
  | .mxrd h p => Sys2Proof.Machine.execMxrd h p s
  | .mxwr h p => Sys2Proof.Machine.execMxwr h p s
  | .mxclr h p => Sys2Proof.Machine.execMxclr h p s
  | .mxstat h p => Sys2Proof.Machine.execMxstat h p s
  | .gsync h p => Sys2Proof.Machine.execGsync h p s
  | .nfvote h p => Sys2Proof.Machine.execNfvote h p s
  | .lscale h p => Sys2Proof.Machine.execLscale h p s
  | .frcp h p => Sys2Proof.Machine.execFrcp h p s
  | .frsq h p => Sys2Proof.Machine.execFrsq h p s
  | .fsqrt h p => Sys2Proof.Machine.execFsqrt h p s
  | .fex2 h p => Sys2Proof.Machine.execFex2 h p s
  | .flg2 h p => Sys2Proof.Machine.execFlg2 h p s
  | .fsin h p => Sys2Proof.Machine.execFsin h p s
  | .fcos h p => Sys2Proof.Machine.execFcos h p s
  | .ftanh h p => Sys2Proof.Machine.execFtanh h p s
  | .fcvt h p => Sys2Proof.Machine.execFcvt h p s
  | .fpack h p => Sys2Proof.Machine.execFpack h p s
  | .funpk h p => Sys2Proof.Machine.execFunpk h p s
  | .fclass h p => Sys2Proof.Machine.execFclass h p s
  | .fdiv h p => Sys2Proof.Machine.execFdiv h p s
  | .tagset h p => Sys2Proof.Machine.execTagset h p s
  | .tagget h p => Sys2Proof.Machine.execTagget h p s
  | .sysrd h p => Sys2Proof.Machine.execSysrd h p s
  | .syswr h p => Sys2Proof.Machine.execSyswr h p s
  | .tret h p => Sys2Proof.Machine.execTret h p s
  | .tmask h p => Sys2Proof.Machine.execTmask h p s
  | .fqpop h p => Sys2Proof.Machine.execFqpop h p s
  | .fqres h p => Sys2Proof.Machine.execFqres h p s
  | .tlbinv h p => Sys2Proof.Machine.execTlbinv h p s
  | .objset h p => Sys2Proof.Machine.execObjset h p s
  | .prack h p => Sys2Proof.Machine.execPrack h p s
  | .ctxsv h p => Sys2Proof.Machine.execCtxsv h p s
  | .ctxrs h p => Sys2Proof.Machine.execCtxrs h p s
  | .lsqrst h p => Sys2Proof.Machine.execLsqrst h p s
  | .lsqsave h p => Sys2Proof.Machine.execLsqsave h p s
  | .haltb h p => Sys2Proof.Machine.execHaltb h p s
  | .trial h p => Sys2Proof.Machine.execTrial h p s
  | .batcherFill core port => Sys2Proof.Machine.execBatcherFill core port s
  | .ageStarvationIssue core port => Sys2Proof.Machine.execAgeStarvationIssue core port s
  | .slotRelease core port slot => Sys2Proof.Machine.execSlotRelease core port slot s
  | .binLaunch core port bin => Sys2Proof.Machine.execBinLaunch core port bin s
  | .joinComplete blk part id => Sys2Proof.Machine.execJoinComplete blk part id s
  | .blockRetire blk => Sys2Proof.Machine.execBlockRetire blk s
  | .gangRetire gang => Sys2Proof.Machine.execGangRetire gang s
  | .kernelComplete kid => Sys2Proof.Machine.execKernelComplete kid s
  | .tailLineSnoop part queue value => Sys2Proof.Machine.execTailLineSnoop part queue value s
  | .launchPacket part queue => Sys2Proof.Machine.execLaunchPacket part queue s
  | .nopPacket part queue => Sys2Proof.Machine.execNopPacket part queue s
  | .queueResume part queue value => Sys2Proof.Machine.execQueueResume part queue value s
  | .ageingStep part queue => Sys2Proof.Machine.execAgeingStep part queue s
  | .admitBlock part queue => Sys2Proof.Machine.execAdmitBlock part queue s
  | .admitGang part queue => Sys2Proof.Machine.execAdmitGang part queue s
  | .monitorQueueTail queue value => Sys2Proof.Machine.execMonitorQueueTail queue value s
  | .storePerform core port => Sys2Proof.Machine.execStorePerform core port s
  | .loadComplete core port ctx => Sys2Proof.Machine.execLoadComplete core port ctx s
  | .ldlLaneComplete core port ctx op => Sys2Proof.Machine.execLdlLaneComplete core port ctx op s
  | .atomRmwPerform core port ctx op => Sys2Proof.Machine.execAtomRmwPerform core port ctx op s
  | .tableWalkComplete walk => Sys2Proof.Machine.execTableWalkComplete walk s
  | .faultEntryPost held => Sys2Proof.Machine.execFaultEntryPost held s
  | .ownerLookup core port ctx => Sys2Proof.Machine.execOwnerLookup core port ctx s
  | .flushMarkerGather core port op => Sys2Proof.Machine.execFlushMarkerGather core port op s
  | .ldaTransaction core port ctx op => Sys2Proof.Machine.execLdaTransaction core port ctx op s
  | .copyGranuleWrite cluster op => Sys2Proof.Machine.execCopyGranuleWrite cluster op s
  | .queueEntryArrival op => Sys2Proof.Machine.execQueueEntryArrival op s
  | .fabCompletion core port ctx => Sys2Proof.Machine.execFabCompletion core port ctx s
  | .raddArrival op => Sys2Proof.Machine.execRaddArrival op s
  | .raddGlobalApply core port => Sys2Proof.Machine.execRaddGlobalApply core port s
  | .esendUpdate op => Sys2Proof.Machine.execEsendUpdate op s
  | .voteRoundComplete gang => Sys2Proof.Machine.execVoteRoundComplete gang s
  | .syncRoundComplete gang => Sys2Proof.Machine.execSyncRoundComplete gang s
  | .billetArrival core port ctx => Sys2Proof.Machine.execBilletArrival core port ctx s
  | .guestWaitTimeout core port ctx => Sys2Proof.Machine.execGuestWaitTimeout core port ctx s
  | .billetReturn core port ctx => Sys2Proof.Machine.execBilletReturn core port ctx s
  | .arrivalMessage core port ctx => Sys2Proof.Machine.execArrivalMessage core port ctx s
  | .releaseMessage core port ctx => Sys2Proof.Machine.execReleaseMessage core port ctx s
  | .rowRestore stack bank => Sys2Proof.Machine.execRowRestore stack bank s
  | .pullForward stack entry row => Sys2Proof.Machine.execPullForward stack entry row s
  | .temperatureChange stack hot => Sys2Proof.Machine.execTemperatureChange stack hot s
  | .rowProgramStep stack bank => Sys2Proof.Machine.execRowProgramStep stack bank s
  | .sequencerWatchdogReset stack => Sys2Proof.Machine.execSequencerWatchdogReset stack s
  | .saveModeEnter stack => Sys2Proof.Machine.execSaveModeEnter stack s
  | .saveModeRestore stack => Sys2Proof.Machine.execSaveModeRestore stack s
  | .gatherComplete cluster entry => Sys2Proof.Machine.execGatherComplete cluster entry s
  | .passSlot cluster => Sys2Proof.Machine.execPassSlot cluster s
  | .passStarvation cluster => Sys2Proof.Machine.execPassStarvation cluster s
  | .passEnd cluster => Sys2Proof.Machine.execPassEnd cluster s
  | .engineWatchdogReset cluster => Sys2Proof.Machine.execEngineWatchdogReset cluster s
  | .powerLimitStep average => Sys2Proof.Machine.execPowerLimitStep average s
  | .powerStateEntry unit => Sys2Proof.Machine.execPowerStateEntry unit s
  | .powerStateExit unit => Sys2Proof.Machine.execPowerStateExit unit s
  | .weightRefreshWindow die => Sys2Proof.Machine.execWeightRefreshWindow die s
  | .preq part value => Sys2Proof.Machine.execPreq part value s
  | .handlerBudgetExpiry core port ctx => Sys2Proof.Machine.execHandlerBudgetExpiry core port ctx s
  | .tcode1 part value => Sys2Proof.Machine.execTcode1 part value s
  | .tlog0 part => Sys2Proof.Machine.execTlog0 part s
  | .bfstatAck part value => Sys2Proof.Machine.execBfstatAck part value s
  | .ownapply value => Sys2Proof.Machine.execOwnapply value s
  | .feataccept value => Sys2Proof.Machine.execFeataccept value s
  | .debugStop part value => Sys2Proof.Machine.execDebugStop part value s
  | .debugResume part value => Sys2Proof.Machine.execDebugResume part value s
  | .traceEnable part value => Sys2Proof.Machine.execTraceEnable part value s
  | .recordMode part value => Sys2Proof.Machine.execRecordMode part value s
  | .replayMode part value => Sys2Proof.Machine.execReplayMode part value s
  | .modeOff part value => Sys2Proof.Machine.execModeOff part value s
  | .scratchpadWindow blk obj wb wl => Sys2Proof.Machine.execScratchpadWindow blk obj wb wl s
  | .unitFence unit => Sys2Proof.Machine.execUnitFence unit s
  | .deviceReset what a b => Sys2Proof.Machine.execDeviceReset what a b s
  | .hostAccess write addr n value => Sys2Proof.Machine.execHostAccess write addr n value s
  | .remoteDeviceRequest kind part obj off w value => Sys2Proof.Machine.execRemoteDeviceRequest kind part obj off w value s
  | .pathStateChange path up => Sys2Proof.Machine.execPathStateChange path up s
  | .weightStoreWrite die off value => Sys2Proof.Machine.execWeightStoreWrite die off value s
  | .uncorrectableError addr => Sys2Proof.Machine.execUncorrectableError addr s

end Sys2Proof.Machine
end

