-- ==== Sys2Proof/Machine/Fast.lean ====
section
/-!
DEFINITION. Running the bytes of one instruction: `runBytes` decodes them and executes what they are (R183, R197). Beside it a twin that
never builds an `Instr` past the constructors Lean's compiled code can build, proved equal, which is what compiled code runs.
-/
namespace Sys2Proof.Machine

/-- The instruction in `k` bytes is executed; what is none traps ILLEGAL_OP (R197). -/
noncomputable def runBytes (k v : Nat) (s : State) : Result :=
  match decode (bytesLE k v) with
  | .ok (i, _) => exec i s
  | .error _ => issue { early := some cIllegalOp } (fun s _ _ => acted s []) s

/-- Instruction words as the twin reads them. -/
inductive Coded where
  | formH (o : Op6) (f : FormH)
  | formX (o : Op6) (hd : Head) (f : OpX)
  | formI (o : Op6) (hd : Head) (f : OpI)
  | other (j : Instr)

/-- Inner operation of an OP4 code (R185). -/
def ofOp4 (n : Nat) : Option Op6 :=
  match n with
  | 0 => some .mov
  | 1 => some .add
  | 2 => some .sub
  | 3 => some .mul
  | 4 => some .and
  | 5 => some .or
  | 6 => some .xor
  | 7 => some .shl
  | 8 => some .shr
  | 9 => some .sar
  | 10 => some .minS
  | 11 => some .maxS
  | 12 => some .fadd
  | 13 => some .fmul
  | 14 => some .fmin
  | 15 => some .fmax
  | _ => none

/-- The operation has a form I (R187). -/
def hasI : Op6 → Bool
  | .clz | .popc | .brev | .abs | .neg | .fadd | .fsub | .fmul | .ffma | .fmin | .fmax | .fabs | .fneg | .fcpsgn | .hadd2 | .hsub2 | .hmul2
  | .hfma2 | .hmin2 | .hmax2 | .idot4 | .qdot4 | .f2i | .i2f | .ffloor | .fceil | .ftrunc | .frint => false
  | _ => true

def readCoded (bits n : Nat) : Except DecodeError Coded :=
  match bits with
  | 16 =>
    match ofOp4 (n / 8 % 16) with
    | some o => .ok (.formH o { a := fld 4 12 n, d := fld 5 7 n, stall := fld 2 1 n })
    | none => .error .illegalOp6
  | 32 =>
    match Op6.ofCode (n / 32 % 64) with
    | some o => .ok (.other (instrA o { g := fld 3 29 n, b := fld 6 23 n, a := fld 6 17 n, d := fld 6 11 n, stall := fld 3 2 n }))
    | none => .error .illegalOp6
  | _ =>
    let h := Head.ofBits n
    let p := n / 4194304
    match n / 32 % 256 with
    | 0 =>
      match Op6.ofCode (p % 64) with
      | some o => .ok (.formX o h (.ofBits p))
      | none => .error .illegalOp6
    | 1 =>
      match Op6.ofCode (p % 64) with
      | some o => if hasI o then .ok (.formI o h (.ofBits p)) else .error .illegalOp6
      | none => .error .illegalOp6
    | c =>
      match instrWide c h p with
      | some i => .ok (.other i)
      | none => .error .illegalOp8

def Coded.legal : Coded → Bool
  | .formH _ _ => true
  | .formX o hd f => hd.wf && f.wf o
  | .formI o hd f => hd.wf && f.wf o
  | .other i => i.wellFormed

def Coded.bits : Coded → Nat × Nat
  | .formH o f => (16, f.stall.toNat * 2 + op4Of o * 8 + f.d.toNat * 128 + f.a.toNat * 4096)
  | .formX o hd f => (64, hd.toBits 0 + 4194304 * (o.code + f.toBits))
  | .formI o hd f => (64, hd.toBits 1 + 4194304 * (o.code + f.toBits))
  | .other i => encodeBits i

def Coded.exec (c : Coded) (s : State) : Result :=
  match c with
  | .formH o f => op6H o f s
  | .formX o hd f => op6X o hd f s
  | .formI o hd f => op6I o hd f s
  | .other i => Sys2Proof.Machine.exec i s

def runCoded (k v : Nat) (s : State) : Result :=
  let bad := issue { early := some cIllegalOp } (fun s _ _ => acted s []) s
  match bytesLE k v with
  | [] => bad
  | first :: bs =>
    let n := lengthOf first / 8
    if bs.length + 1 < n then bad
    else match readCoded (lengthOf first) (ofBytesLE ((first :: bs).take n)) with
    | .error _ => bad
    | .ok c => if c.legal then (if c.bits = (lengthOf first, ofBytesLE ((first :: bs).take n)) then c.exec s else bad) else bad

/-- What the twin reads is what the decoder reads, with the same checks and the same meaning. -/
structure Agrees (c : Coded) (i : Instr) : Prop where
  legal : c.legal = i.wellFormed
  bits : c.bits = encodeBits i
  exec : ∀ s, c.exec s = Sys2Proof.Machine.exec i s

theorem agrees_h (n : Nat) (f : FormH) :
    match instrH n f with
    | some i => ∃ o, ofOp4 n = some o ∧ Agrees (.formH o f) i
    | none => ofOp4 n = none := by
  match n with
  | 0 => exact ⟨.mov, rfl, rfl, rfl, fun _ => rfl⟩
  | 1 => exact ⟨.add, rfl, rfl, rfl, fun _ => rfl⟩
  | 2 => exact ⟨.sub, rfl, rfl, rfl, fun _ => rfl⟩
  | 3 => exact ⟨.mul, rfl, rfl, rfl, fun _ => rfl⟩
  | 4 => exact ⟨.and, rfl, rfl, rfl, fun _ => rfl⟩
  | 5 => exact ⟨.or, rfl, rfl, rfl, fun _ => rfl⟩
  | 6 => exact ⟨.xor, rfl, rfl, rfl, fun _ => rfl⟩
  | 7 => exact ⟨.shl, rfl, rfl, rfl, fun _ => rfl⟩
  | 8 => exact ⟨.shr, rfl, rfl, rfl, fun _ => rfl⟩
  | 9 => exact ⟨.sar, rfl, rfl, rfl, fun _ => rfl⟩
  | 10 => exact ⟨.minS, rfl, rfl, rfl, fun _ => rfl⟩
  | 11 => exact ⟨.maxS, rfl, rfl, rfl, fun _ => rfl⟩
  | 12 => exact ⟨.fadd, rfl, rfl, rfl, fun _ => rfl⟩
  | 13 => exact ⟨.fmul, rfl, rfl, rfl, fun _ => rfl⟩
  | 14 => exact ⟨.fmin, rfl, rfl, rfl, fun _ => rfl⟩
  | 15 => exact ⟨.fmax, rfl, rfl, rfl, fun _ => rfl⟩
  | n + 16 => exact rfl

theorem agrees_x (o : Op6) (hd : Head) (f : OpX) : Agrees (.formX o hd f) (instrX o hd f) := by
  cases o <;> exact ⟨rfl, rfl, fun _ => rfl⟩

theorem agrees_i (o : Op6) (hd : Head) (f : OpI) :
    match instrI o hd f with
    | some i => hasI o = true ∧ Agrees (.formI o hd f) i
    | none => hasI o = false := by
  cases o <;> first | exact ⟨rfl, rfl, rfl, fun _ => rfl⟩ | exact rfl

theorem agrees_other (i : Instr) : Agrees (.other i) i := ⟨rfl, rfl, fun _ => rfl⟩

/-- Both reads fail, or both succeed and agree. -/
inductive Same : Except DecodeError Instr → Except DecodeError Coded → Prop where
  | bad (a b : DecodeError) : Same (.error a) (.error b)
  | good (i : Instr) (c : Coded) (h : Agrees c i) : Same (.ok i) (.ok c)

theorem agrees_read_16 (n : Nat) : Same (readFields 16 n) (readCoded 16 n) := by
  have h := agrees_h (n / 8 % 16) { a := fld 4 12 n, d := fld 5 7 n, stall := fld 2 1 n }
  have e1 : readFields 16 n = match instrH (n / 8 % 16) { a := fld 4 12 n, d := fld 5 7 n, stall := fld 2 1 n } with
    | some i => .ok i
    | none => .error .illegalOp6 := rfl
  have e2 : readCoded 16 n = match ofOp4 (n / 8 % 16) with
    | some o => .ok (.formH o { a := fld 4 12 n, d := fld 5 7 n, stall := fld 2 1 n })
    | none => .error .illegalOp6 := rfl
  rw [e1, e2]
  revert h
  generalize instrH (n / 8 % 16) { a := fld 4 12 n, d := fld 5 7 n, stall := fld 2 1 n } = y
  intro h
  cases y with
  | none => rw [show ofOp4 (n / 8 % 16) = none from h]; exact .bad _ _
  | some i => obtain ⟨o, ho, ha⟩ := h; rw [ho]; exact .good _ _ ha

theorem agrees_read_32 (n : Nat) : Same (readFields 32 n) (readCoded 32 n) := by
  have e1 : readFields 32 n = match Op6.ofCode (n / 32 % 64) with
    | some o => .ok (instrA o { g := fld 3 29 n, b := fld 6 23 n, a := fld 6 17 n, d := fld 6 11 n, stall := fld 3 2 n })
    | none => .error .illegalOp6 := rfl
  have e2 : readCoded 32 n = match Op6.ofCode (n / 32 % 64) with
    | some o => .ok (.other (instrA o { g := fld 3 29 n, b := fld 6 23 n, a := fld 6 17 n, d := fld 6 11 n, stall := fld 3 2 n }))
    | none => .error .illegalOp6 := rfl
  rw [e1, e2]
  cases Op6.ofCode (n / 32 % 64) with
  | none => exact .bad _ _
  | some o => exact .good _ _ (agrees_other _)

theorem agrees_read_wide (c : Nat) (h : Head) (p : Nat) :
    Same
      (match c with
      | 0 => match Op6.ofCode (p % 64) with
        | some o => .ok (instrX o h (.ofBits p))
        | none => .error .illegalOp6
      | 1 => match (Op6.ofCode (p % 64)).bind (fun o => instrI o h (.ofBits p)) with
        | some i => .ok i
        | none => .error .illegalOp6
      | c => match instrWide c h p with
        | some i => .ok i
        | none => .error .illegalOp8)
      (match c with
      | 0 => match Op6.ofCode (p % 64) with
        | some o => .ok (.formX o h (.ofBits p))
        | none => .error .illegalOp6
      | 1 => match Op6.ofCode (p % 64) with
        | some o => if hasI o then .ok (.formI o h (.ofBits p)) else .error .illegalOp6
        | none => .error .illegalOp6
      | c => match instrWide c h p with
        | some i => .ok (.other i)
        | none => .error .illegalOp8) := by
  match c with
  | 0 =>
    cases Op6.ofCode (p % 64) with
    | none => exact .bad _ _
    | some o => exact .good _ _ (agrees_x _ _ _)
  | 1 =>
    cases Op6.ofCode (p % 64) with
    | none => exact .bad _ _
    | some o =>
      have a := agrees_i o h (.ofBits p)
      dsimp only [Option.bind_some]
      revert a
      generalize instrI o h (.ofBits p) = y
      intro a
      cases y with
      | none => rw [if_neg (by rw [show hasI o = false from a]; exact Bool.false_ne_true)]; exact .bad _ _
      | some i => rw [if_pos a.1]; exact .good _ _ a.2
  | c + 2 =>
    show Same (match instrWide (c + 2) h p with
      | some i => .ok i
      | none => .error .illegalOp8) (match instrWide (c + 2) h p with
      | some i => .ok (.other i)
      | none => .error .illegalOp8)
    cases instrWide (c + 2) h p with
    | none => exact .bad _ _
    | some i => exact .good _ _ (agrees_other _)

theorem agrees_read (b : BitVec 8) (n : Nat) : Same (readFields (lengthOf b) n) (readCoded (lengthOf b) n) := by
  unfold lengthOf
  split
  · exact agrees_read_16 n
  · split
    · exact agrees_read_32 n
    · exact agrees_read_wide (n / 32 % 256) (Head.ofBits n) (n / 4194304)

/-- The twin runs every sequence of bytes as the decoder and `exec` do. -/
@[csimp] theorem runBytes_eq_runCoded : @runBytes = @runCoded := by
  funext k v s
  unfold runBytes runCoded decode
  cases bytesLE k v with
  | nil => rfl
  | cons first bs =>
    dsimp only [List.length_cons]
    by_cases hl : bs.length + 1 < lengthOf first / 8
    · rw [if_pos hl, if_pos hl]
    · rw [if_neg hl, if_neg hl]
      have h := agrees_read first (ofBytesLE ((first :: bs).take (lengthOf first / 8)))
      unfold decodeBits
      generalize readFields (lengthOf first) (ofBytesLE ((first :: bs).take (lengthOf first / 8))) = x at h ⊢
      generalize readCoded (lengthOf first) (ofBytesLE ((first :: bs).take (lengthOf first / 8))) = y at h ⊢
      cases h with
      | bad _ _ => rfl
      | good i c a =>
        dsimp only
        rw [a.legal, a.bits, a.exec]
        by_cases hw : i.wellFormed = true
        · rw [if_pos hw, if_pos hw]
          by_cases hb : encodeBits i = (lengthOf first, ofBytesLE ((first :: bs).take (lengthOf first / 8)))
          · rw [if_pos hb, if_pos hb]
          · rw [if_neg hb, if_neg hb]
        · rw [if_neg hw, if_neg hw]

end Sys2Proof.Machine
end

