-- ==== Sys2Proof/Machine/Run.lean ====
section
/-!
DEFINITION. Running: fetch and decode of a batch's instruction (R54, R183), the batch a port issues (R35), the default choice of
what moves next (log 4), and how an instruction is placed for `State.withFetchWord` (log 8).
-/
namespace Sys2Proof.Machine

/-- What a fetch gives: an instruction's bytes (their count and value), a trap code, a page that does not resolve, a page that waits for a walk, or a
wait at a cell whose row or stack holds it back. -/
inductive Fetched where
  | bytes (k v : Nat)
  | trap (code : Nat)
  | unres (cause off : Nat)
  | miss (off : Nat)
  | held (addr : Nat)
deriving DecidableEq, Repr

/-- The capability names a weight store, or a window of this device, at which a fetch has no right (R66, R317). -/
def noCode (s : State) (part : Nat) (c : CapWord) : Bool := match objName s part (capObj c) with | .weight _ | .window => true | _ => false

/-- Fetch of the instruction at a fibre's program counter, the first lane of its batch (R54, R66, R183, R341, log 17). -/
def fetch (s : State) (b : Block) (f : Fibre) : Fetched :=
  let c := codeCap s b f
  let pc := f.pc.toNat
  if !inCode c pc 2 then .trap cCapBounds
  else if noCode s b.part c then .trap cCapRights
  else match codeRead s b.part (capObj c) pc 2 f.xl with
  | .unres e => .unres e pc
  | .miss o => .miss o
  | .held a => .held a
  | .bytes v =>
    let k := lengthOf (BitVec.ofNat 8 v) / 8
    if !inCode c pc k then .trap cCapBounds
    else match codeRead s b.part (capObj c) pc k f.xl with
    | .unres e => .unres e (pc + k - 1)
    | .miss o => .miss o
    | .held a => .held a
    | .bytes w => .bytes k w

/-- Cells of the first and the last byte of the instruction that a fibre fetches. -/
def fetchCells (s : State) (b : Block) (f : Fibre) : List Nat :=
  match fetch s b f with
  | .bytes k _ => [f.pc.toNat, f.pc.toNat + k - 1].filterMap fun o => codeCell s b.part (capObj (codeCap s b f)) o f.xl
  | _ => []

/-- The batch parks on a code page that does not resolve (log 17). -/
def parkFetch (cause off : Nat) (s : State) : Result :=
  issue {}
    (fun s b ls =>
      match ls with
      | [] => acted s []
      | f :: _ =>
        acted (holdEntry s b.part (capObj (codeCap s b f)) off cause 0 false f.loc f.key.port 0 (laneMask ls) f.pc f.fid f.blk (.fibre f.key))
          (ls.map fun g => (g.key, .unres [s.seq]))) s

/-- The batch waits for the walk of a code page, whose answer its first lane takes (R341, R342). -/
def awaitFetch (off : Nat) (s : State) : Result :=
  issue {}
    (fun s b _ =>
      match curLanes s with
      | [] => acted s []
      | f :: _ => actWait (joinWalk s (portOfCore f.loc) b.part (capObj (codeCap s b f)) off (.fibre f.key))) s

/-- The batch of a slot issues its next instruction. -/
def runSlot (c : Cur) (s : State) : Result :=
  let s := { s with cur := some c }
  match (lanesOf s c).head?.bind (fun f => (block? s f.blk).map fun b => fetch s b f) with
  | none => .next s
  | some (.bytes k v) => runBytes k v s
  | some (.trap code) => issue { early := some code } (fun s _ _ => acted s []) s
  | some (.unres cause off) => parkFetch cause off s
  | some (.miss off) => awaitFetch off s
  | some (.held a) => issue {} (fun s _ _ => actWait (noteWait s a)) s

/-- The order of a port's batches: those that have not issued for 4096 cycles, then priority, age, program counter, slot (R35). Of several that have not
issued for 4096 cycles the one whose last issue is longest ago is first, whatever its priority and age (DESIGN CHOICE, log 21: R35 is silent). -/
def slotRank (s : State) (x : Slot) : Nat :=
  let fs := lanesOf s { core := x.core, port := x.port, slot := x.idx }
  let prio := ((fs.head?.bind fun f => block? s f.blk).map (·.prio)).getD 0
  let pc := ((fs.head?).map fun f => f.pc.toNat).getD 0
  if (portOf s x.core x.port).forced == some x.idx then 0
  else if x.last + 4096 ≤ s.now then 1 + x.last
  else 1 + s.now + (((7 - prio) * 2 ^ 64 + x.age) * 2 ^ 44 + pc) * 64 + x.idx

/-- Batches of a port that may issue, in the order of R35. -/
def portOrder (s : State) (core port : Nat) : List Cur :=
  (sortBy (slotRank s) (s.slots.filter (fun x => x.core == core && x.port == port && slotReady s x))).map
    fun x => { core := x.core, port := x.port, slot := x.idx }

/-- The batch was found waiting before issue. -/
def stillWaits (s : State) (c : Cur) : Bool :=
  let fs := lanesOf s c
  !fs.isEmpty && fs.all (fun f => f.run == .waiting .retry)

/-- A batch has issued: its port issues no other in this cycle and a forced issue is over (R35), and the fetch has reached the stack of its
code (R377). `s` is the state that it issued in. -/
def issuedBy (s : State) (c : Cur) (t : State) : State :=
  let t := setPort t c.core c.port fun p =>
    { p with issued := s.now + 1, forced := if p.forced == some c.slot then none else p.forced }
  (((lanesOf s c).head?.bind fun f => (block? s f.blk).map fun b => fetchCells s b f).getD []).foldl touch t

/-- The first batch of a list that does not wait issues (R35). -/
def tryBatches (s : State) : List Cur → Result
  | [] => .next s
  | c :: cs =>
    match runSlot c s with
    | .next t => if stillWaits t c then tryBatches t cs else .next (issuedBy s c t)
    | r => r

/-- Fibres of a port that wait before issue and have lost their slot (R42). -/
def waitingLoose (s : State) (core port : Nat) : List Fibre :=
  s.fibres.filter fun f => f.slot.isNone && f.loc == core && f.key.port == port && f.run == .waiting .retry && f.canIssue s

/-- A batch that lost its slot while it waited before issue: its instruction is tried, as in a slot past the port's; where it would issue, the
fibres are loose and ready again (R42). -/
def recheck (core port : Nat) (s : State) (bid : Nat) : State :=
  let fs := (waitingLoose s core port).filter (fun f => f.bat == bid)
  let ks := fs.map (·.key)
  let c : Cur := { core := core, port := port, slot := Config.slotsPerPort }
  match runSlot c (takeSlot s c ks ((fs.head?.map (·.age)).getD 0) 0 bid) with
  | .next t =>
    if stillWaits t c then
      { setFibres t ks (fun f => { f with slot := none }) with slots := t.slots.filter (fun x => !isSlot c x), cur := s.cur }
    else setFibres s ks fun f => { f with run := .ready }
  | _ => setFibres s ks fun f => { f with run := .ready }

/-- A port issues, once in a cycle (R35), after its batches without slots have been looked at (R42); none issues in the cycle of a SYSWR that
another has issued, which takes effect after it (R364). -/
def runPort (core port : Nat) (s : State) : Result :=
  if (portOf s core port).issued == s.now + 1 || s.sysAt == s.now + 1 then .next s
  else
    let s := (distinct ((waitingLoose s core port).map (·.bat))).foldl (recheck core port) s
    tryBatches s (portOrder s core port)

/-- The event DEVICE_RESET, which alone acts on a device whose bring-up has stopped (R386). -/
def isReset : Instr → Bool
  | .deviceReset .. => true
  | _ => false

/-- One scheduled move; on a device whose bring-up has stopped, DEVICE_RESET alone (R386). -/
def runMove (m : Mover) (s : State) : Result :=
  match m with
  | .issue core port => if bootStopped s then .next s else runPort core port s
  | .event i => if bootStopped s && !isReset i then .next s else exec i s

/-! ### Placing an instruction -/

/-- Device addresses of the tables and the code that `placeWord` writes (log 8). -/
def placeTable : Nat := 0x10000
def placeExtent : Nat := 0x20000
def placeCode : Nat := 0x30000

/-- Kernel, block, block part and fibre that hold a placed instruction (log 8). -/
def placeKernel : Kernel :=
  { id := 0, part := 0, queue := 0, index := 0, code := mkCap 1 rEX 4095 0, entry := 0, fibres := 1
    partsN := 1, win := 64, tilesN := 0, spadK := 0, gangN := 0, gx := 1, gy := 1, gz := 1, binTimer := 256, pFirst := 0, pCount := 0
    sbchk := false, ord := false, esend := 0, eacc := 0, voteGrp := 0, liveN := 0, liveOff := 0, doneVal := 0, caps := [], unis := []
    nextBlk := 1, liveBlks := 1, replay := Replay.zero, trial := none, energy := 0, after := none }

def placeBlock : Block :=
  { id := 0, kernel := 0, gang := none, member := 0, x := 0, y := 0, z := 0, part := 0, queue := 0, level := 0, prio := 0
    spadAt := 0, spadSize := 0, tileN := 0, bars := List.replicate 16 NBar.zero, faults := [], fovf := false
    replay := Replay.zero, lsst := { esend := 0, eacc := 0, nf := false, vkill := false, runf := 0, rovf := 0 }, opPort := []
    killed := false, done := false, pre := false, preAt := 0, dbg := false, held := false, lsq := false }

def placePart : Part :=
  { core := 0, bp := 0, blk := 0, rel := 0, s := List.replicate 256 0, c := List.replicate 16 0, opens := 0, sbchk := false, dtag := 0
    inq := [], was := none }

def placeKey : FKey := { core := 0, port := 0, ctx := 0 }

/-- The translation of the code page that a placed instruction's fetch finds at its port (R341; log 8). -/
def placeTlb : Tlb :=
  { mport := 0, part := 0, range := true, obj := 1, lo := 0, hi := 4096, place := placeCode, cause := none, rx := false, top := 4096 }

/-- The machine with the bytes of one instruction where the one batch of port 0 of core 0 fetches next, and that port next to
issue (log 8). -/
def placeWord (s : State) (nbits w : Nat) : State :=
  let v := w % 2 ^ nbits
  let desc := 2 ^ 95 + 1 * 2 ^ 100 + placeExtent * 2 ^ 192 + 4095
  let ext := 1 * 2 ^ 64 + placeCode
  let s := s.write (placeTable + 32) 32 desc
  let s := s.write placeExtent 16 ext
  let s := s.write placeCode 8 v
  let s := sysPut (sysPut s 0 0x0200 placeTable) 0 0x0201 2
  { s with
    agenda := [{ dt := 0, mover := .issue 0 0 }]
    sysAt := 0
    tlbs := placeTlb :: s.tlbs.filter (fun t => !(t.part == 0 && t.obj == 1))
    bootStep := if bootStopped s then 6 else s.bootStep
    dvsec := { s.dvsec with fail := false }
    ueMarks := []
    kernels := placeKernel :: s.kernels.filter (fun k => k.id != 0)
    blocks := placeBlock :: s.blocks.filter (fun b => b.id != 0)
    parts := placePart :: s.parts.filter (fun p => !isPart 0 0 p && p.blk != 0)
    windows := []
    dirObjs := []
    ports := s.ports.map fun p => if p.core == 0 && p.port == 0 then { p with issued := 0 } else p
    slots := { core := 0, port := 0, idx := 0, age := s.now, last := 0, next := s.now, bid := 0 } :: s.slots.filter (fun x => x.core != 0 || x.port != 0)
    fibres := { newFibre placeBlock placeKey 0 0 0 (zeroRegs 64) s.now with slot := some 0 }
      :: s.fibres.filter (fun f => f.blk != 0 && f.key != placeKey && !(f.loc == 0 && f.key.port == 0)) }

end Sys2Proof.Machine
end

