-- ==== Sys2Proof/Machine/Default.lean ====
section
/-!
DEFINITION. What moves where the agenda names nothing (log 4): issues of the ports and the machine's own events in turn, the first
that changes the state; time passes where none does.
-/
namespace Sys2Proof.Machine

/-- The first move of a list that changes the state, or stops. -/
def firstMove (s : State) : List Mover → Option Result
  | [] => none
  | m :: ms =>
    match runMove m s with
    | .next t => if { t with cur := s.cur } = s then firstMove s ms else some (.next t)
    | r => some r

/-- Issues of the ports that hold batches, or fibres that wait before issue without a slot, those after the last one first. -/
def issueMoves (s : State) : List Mover :=
  let waits := s.fibres.filter fun f => f.slot.isNone && f.run == .waiting .retry
  let ps := distinct (s.slots.map (fun x => x.core * 4 + x.port) ++ waits.map fun f => f.loc * 4 + f.key.port)
  let n := s.focus.1 * 4 + s.focus.2
  ((ps.filter (fun p => decide (n < p))) ++ (ps.filter (fun p => decide (p ≤ n)))).map fun p => .issue (p / 4) (p % 4)

/-- Events of fibres and ports that may be due. -/
def portEvents (s : State) : List Instr :=
  let ps := distinct (s.ports.map (fun p => p.core * 4 + p.port) ++ s.slots.map (fun x => x.core * 4 + x.port)
    ++ s.fibres.map (fun f => f.loc * 4 + f.key.port))
  List.flatten
    [ps.flatMap (fun p => [Instr.storePerform (p / 4) (p % 4), Instr.raddGlobalApply (p / 4) (p % 4), Instr.batcherFill (p / 4) (p % 4),
       Instr.ageStarvationIssue (p / 4) (p % 4)]),
     s.ports.flatMap (fun p => p.bins.map (fun x => Instr.binLaunch p.core p.port x.idx)),
     s.ports.flatMap (fun p => p.gathers.map (fun g => Instr.flushMarkerGather p.core p.port g.id)),
     s.slots.map (fun x => Instr.slotRelease x.core x.port x.idx)]

/-- Events of one fibre. -/
def ofFibre (f : Fibre) (c p x : Nat) : List Instr :=
  List.flatten
    [[Instr.loadComplete c p x], if f.outs.any (·.kind == .cut) then [Instr.loadComplete c p (x + Config.ctxPerPort)] else [],
     f.outs.map (fun o => Instr.ldlLaneComplete c p x o.id),
     f.outs.map (fun o => Instr.atomRmwPerform c p x o.id),
     [Instr.ownerLookup c p x, Instr.billetArrival c p x, Instr.guestWaitTimeout c p x, Instr.billetReturn c p x,
      Instr.arrivalMessage c p x, Instr.releaseMessage c p x, Instr.handlerBudgetExpiry c p x, Instr.fabCompletion c p x],
     (f.joins.head?.map fun e => Instr.joinComplete f.blk (f.key.core % 4 * 64 + f.bp) e.1).toList]

def fibreEvents (s : State) : List Instr := s.fibres.flatMap fun f => ofFibre f f.key.core f.key.port f.key.ctx

/-- The arrival of a message of the fabric. -/
def ofMsg (m : Msg) : Instr :=
  match m.kind with
  | .radd .. => Instr.raddArrival m.id
  | .send .. => Instr.queueEntryArrival m.id
  | .esend .. => Instr.esendUpdate m.id

/-- Events of one lathe: rows of banks that hold regions. -/
def ofLathe (l : Lathe) : List Instr :=
  l.regions.flatMap fun r => List.flatten
    [[Instr.rowRestore l.stack r.bank, Instr.rowProgramStep l.stack r.bank],
     l.waits.filterMap (fun w => if r.covers w.1 w.2.1 then some (Instr.pullForward l.stack r.idx w.2.1) else none)]

/-- Events of the engines, streamers, the fabric, memory ports and lathes. -/
def engineEvents (s : State) : List Instr :=
  List.flatten
    [s.walks.map (fun w => Instr.tableWalkComplete w.id),
     s.partns.flatMap (fun p => (p.faults.filter (fun e => !e.posted)).map fun e => Instr.faultEntryPost e.eid),
     s.ldas.map (fun x => Instr.ldaTransaction x.fib.core x.fib.port x.fib.ctx x.id),
     s.copies.map (fun x => Instr.copyGranuleWrite x.cluster x.id),
     s.msgs.map ofMsg,
     s.gangs.map (fun g => Instr.voteRoundComplete g.id),
     s.gangs.map (fun g => Instr.syncRoundComplete g.id),
     s.engines.flatMap (fun e => e.entries.map (fun x => Instr.gatherComplete e.cluster x.idx)),
     s.engines.flatMap (fun e => [Instr.passEnd e.cluster, Instr.passStarvation e.cluster, Instr.passSlot e.cluster]),
     s.lathes.flatMap ofLathe,
     s.power.map (fun x => Instr.powerStateExit x.1),
     s.fencePend.map Instr.unitFence,
     s.leftCuts.map (fun x => Instr.loadComplete x.fib.core x.fib.port (x.fib.ctx + Config.ctxPerPort)),
     if s.devWrites.isEmpty then [] else [Instr.storePerform 0 4],
     if (monTrap s).isSome then [Instr.deviceReset 2 0x0303 0] else [],
     (List.range Config.dieCount).map Instr.weightRefreshWindow]

/-- Events of launches and retirement. -/
def launchEvents (s : State) : List Instr :=
  List.flatten
    [s.gangs.map (fun g => Instr.gangRetire g.id),
     s.blocks.map (fun b => Instr.blockRetire b.id),
     s.kernels.map (fun k => Instr.kernelComplete k.id),
     s.queues.flatMap (fun q => [Instr.launchPacket q.part q.q, Instr.nopPacket q.part q.q, Instr.admitBlock q.part q.q,
       Instr.admitGang q.part q.q, Instr.ageingStep q.part q.q])]

def defaultEvents (s : State) : List Mover :=
  (List.flatten [portEvents s, fibreEvents s, engineEvents s, launchEvents s]).map Mover.event

/-- The default choice: issues and events in turn, the first that changes the state (log 4). -/
def idle (s : State) : Result :=
  let a := issueMoves s
  let b := defaultEvents s
  let s := { s with now := s.now + 1, turn := s.turn + 1 }
  match firstMove s (if s.turn % 2 == 0 then b ++ a else a ++ b) with
  | some r => r
  | none => .next s

end Sys2Proof.Machine
end

