-- ==== Sys2Proof/Machine/Step.lean ====
section
/-!
DEFINITION. One step of the machine: the first move of the agenda, or the default choice where the agenda is empty (log 4); and
the placing of one instruction where the machine fetches next (log 8).
-/
namespace Sys2Proof.Machine

/-- One move (log 4). -/
def step (s : State) : Host.Outcome State Fault Refusal :=
  match s.agenda with
  | m :: ms => runMove m.mover { s with agenda := ms, now := s.now + m.dt }
  | [] => idle s

/-- An instruction stored where the next step fetches it (log 8). -/
def State.withFetchWord (s : State) (nbits w : Nat) : State := placeWord s nbits w

end Sys2Proof.Machine
end

