-- ==== Sys2Proof/Safety.lean ====
section
/-!
DEFINITION. The words in which claims speak: the invariant of a state, a batch that may issue with nothing in its way, and the state
in which a batch has gone on after an instruction with a given effect.
-/
namespace Sys2Proof.Machine

/-- The invariant of the machine's memory: its canonical form. -/
abbrev State.Inv (s : State) : Prop := Memory.wf s.mem = true

/-- Lanes whose guard is true (R190). -/
def guardTrue (g : BitVec 7) (gn : Bool) (ls : List Fibre) : List Fibre := ls.filter (fun f => f.pred g.toNat != gn)

/-- The batch `c` of a block `b`, with the lanes `ls`, may issue, and nothing stands before the effect of its instruction: every lane
is ready at one program counter, none is stopped, no comparator matches, no check for short stalls fails and no
trial delays the kernel. -/
structure Ready (s : State) (c : Cur) (b : Block) (ls : List Fibre) : Prop where
  cur : s.cur = some c
  lanes : lanesOf s c = ls
  some : ls ≠ []
  own : ∀ f ∈ ls, fibre? s f.key = .some f
  blk : ∀ f ∈ ls, block? s f.blk = .some b
  can : ∀ f ∈ ls, f.canIssue s = true
  same : ∀ f ∈ ls, ∀ g ∈ ls, f.pc = g.pc ∧ f.inHandler = g.inHandler
  cmp : comparator s b ls = none
  short : (ls.any fun f => ((partOf s f).map (·.seenCheck s.now)).getD false) = true → ∀ f ∈ ls, f.pend = []
  trial : (kernel? s b.kernel).bind (·.trial) = none

/-- Every lane is at its home core (R37). -/
abbrev AtHome (ls : List Fibre) : Prop := ∀ f ∈ ls, f.guest = none

/-- Every lane has the registers of a list in its window, and none of them waits for an outstanding result, nor, while the batch's
scratchpad completion count is not zero, is the destination of an LDL that it counts (R62, R197, R199). -/
abbrev Clear (ls : List Fibre) (rs : List Nat) : Prop :=
  ∀ f ∈ ls, (∀ v ∈ rs, v < f.regs.length) ∧ (∀ o ∈ f.outs, ∀ v ∈ o.regs, ¬ v ∈ rs)
    ∧ (f.spadLoads = true → ∀ g ∈ ls, ∀ v ∈ g.ldl, ¬ v ∈ rs)

/-- A destination written at a latency, or at once by an interlocked operation (R199, R202). -/
def Fibre.put (lat : Option Nat) (f : Fibre) (d : PendDest) : Fibre :=
  match lat with
  | some l => f.push l d
  | none => f.writeNow d

/-- The state after each lane of `gs` has written the destinations that `out` gives it. -/
def wrote (s : State) (gs : List Fibre) (lat : Option Nat) (out : Fibre → List PendDest) : State :=
  onLanes s gs fun f => (out f).foldl (Fibre.put lat) f

/-- The batch `c` with lanes `ls` has gone on: in the state `e`, which is the state before with the instruction's own effect, every lane
has advanced to the program counter `pc` gives it with distance `dist`, the batch keeps its slot and its number, and its age is the present
cycle where `renew` holds (R23, R35, R200). -/
def goTo (e : State) (c : Cur) (ls : List Fibre) (pc : Fibre → BitVec 44) (dist : Nat) (renew : Bool) : State :=
  let age := if renew then e.now else ((slot? e c).map (·.age)).getD e.now
  let bid := ((slot? e c).map (·.bid)).getD 0
  { e with
    fibres := e.fibres.map fun f =>
      if (ls.map (·.key)).contains f.key then
        { f.advance (pc f) dist (e.now + dist) with slot := some c.slot, age := age, bat := bid }
      else f
    slots := e.slots.filter (fun x => !isSlot c x)
      ++ [{ core := c.core, port := c.port, idx := c.slot, age := age, last := e.now, next := e.now + dist, bid := bid }] }

/-- The batch has gone on to the next instruction. -/
def goOn (e : State) (c : Cur) (ls : List Fibre) (len dist : Nat) (renew : Bool) : State :=
  goTo e c ls (fun f => f.pc + BitVec.ofNat 44 len) dist renew

/-- The batch has gone on past a 64-bit instruction with head `h` (R189, R200). -/
def past (e : State) (c : Cur) (ls : List Fibre) (h : Head) : State := goOn e c ls 8 (1 + h.stall.toNat) h.y

/-- A 64-bit lane operation `i` with head `h` completes: each guard-true lane writes the destinations that `out` gives it, and the
batch goes on. -/
def Writes (i : Instr) (s : State) (c : Cur) (ls : List Fibre) (h : Head) (lat : Option Nat) (out : Fibre → List PendDest) : Prop :=
  exec i s = .next (past (wrote s (guardTrue h.g h.gn ls) lat out) c ls h)

/-- The instruction `i` with head `h` completes with its effect in the state `e`. -/
def Completes (i : Instr) (s : State) (c : Cur) (ls : List Fibre) (h : Head) (e : State) : Prop :=
  exec i s = .next (past e c ls h)

/-- The effect `e` of an instruction leaves the lanes of its batch where they are: each is still a fibre, in its handler as before and not
stopped by a pre-emption, and no trial delays the batch's kernel. -/
structure Stays (e : State) (b : Block) (ls : List Fibre) : Prop where
  lanes : ∀ f ∈ ls, ∃ g, fibre? e f.key = some g ∧ g.run ≠ .exited ∧ g.inHandler = f.inHandler ∧ preStopped e g = false
  trial : (kernel? e b.kernel).bind (·.trial) = none

/-- Every lane of the batch has taken a trap at its instruction: the vector table's entry has been read where some lane can enter a handler, a
batch with an empty join stack has pushed its mask, the slot is free, and the trap is delivered to the lanes as one fragment (R30, R31, R353). -/
def trapOf (s : State) (c : Cur) (b : Block) (ls : List Fibre) (code : Nat) (info : BitVec 64) (detail : Nat) (cmp : Bool)
    (renew : Bool) : State :=
  let e := match vectorCell s b.part code ls with
    | some x => touch s x
    | none => s
  let e := if ls.all (fun f => f.joins.isEmpty) then pushAll e ls else e
  let age := if renew then e.now else ((slot? e c).map (·.age)).getD e.now
  let e := setFibres e (ls.map (·.key)) fun f => { f with slot := none, age := age, xl := [], own := none, sent := 0, mark := none, acts := false }
  takeTrap { e with slots := e.slots.filter (fun x => !isSlot c x) } b.part (ls.map (·.key)) code info detail cmp

/-- A trap of the batch with a code can be taken at once: no result is outstanding, and where the vector table's entry is read it is in a memory
and no row or sleeping stack holds the read back (R99, R102, R353, R377). -/
abbrev CanTrap (s : State) (b : Block) (ls : List Fibre) (code : Nat) : Prop :=
  (∀ f ∈ ls, f.outs = []) ∧ ∀ x, vectorCell s b.part code ls = some x → mapped x = true ∧ rowWaits s x = false

end Sys2Proof.Machine
end

