-- ==== Sys2Proof/Certificates/Slice0/Obligations.lean ====
section
/-!
DEFINITION. The statements about this machine that the provers prove. `Ready`, `Clear`, `Completes`, `Writes`, `past`, `goOn` and `goTo`
are defined in Sys2Proof.Safety.
-/

open Sys2Proof Sys2Proof.Machine

/-! ### Lane operations: forms H, A, X and I -/

/-- R186, R187, R190, R204, R282: a form A operation reads registers A, B and, where it has a third source, D of each guard-true lane
and writes its result to D at its latency; guard-false lanes write nothing; the batch goes on past 4 bytes. -/
def Obligations.FormAOperations : Prop :=
  ∀ (o : Op6) (x : FormA) (s : State) (c : Cur) (b : Block) (ls : List Fibre),
    let gs := ls.filter (fun f => f.pred x.g.toNat)
    (instrA o x).wellFormed = true → Ready s c b ls →
    Clear ls (op6Reads o x.a.toNat x.d.toNat (.vec x.b.toNat) ++ [x.d.toNat]) →
    (∀ f ∈ gs, op6Check o (f.reg x.a.toNat) (f.reg x.b.toNat) (f.reg x.d.toNat) = none) →
    exec (instrA o x) s = .next (goOn
      (wrote s gs (op6Latency o) fun f =>
        [.reg x.d.toNat (op6Result o .rne false false (f.reg x.a.toNat) (f.reg x.b.toNat) (f.reg x.d.toNat))])
      c ls 4 (1 + x.stall.toNat) false)

/-- R184, R185: a form H operation acts as the form A operation of its name on its aliased operands, without a guard, in 2 bytes. -/
def Obligations.FormHOperations : Prop :=
  ∀ (o : Op6) (op4 : Nat) (x : FormH) (i : Instr) (s : State) (c : Cur) (b : Block) (ls : List Fibre),
    let y := aliasOf o x
    op4 < 16 → op4Of o = op4 → instrH op4 x = some i → (op4 = 0 → o = .mov) → Ready s c b ls →
    Clear ls (op6Reads o y.a.toNat y.d.toNat (.vec y.b.toNat) ++ [y.d.toNat]) →
    (∀ f ∈ ls, op6Check o (f.reg y.a.toNat) (f.reg y.b.toNat) (f.reg y.d.toNat) = none) →
    exec i s = .next (goOn
      (wrote s ls (op6Latency o) fun f =>
        [.reg y.d.toNat (op6Result o .rne false false (f.reg y.a.toNat) (f.reg y.b.toNat) (f.reg y.d.toNat))])
      c ls 2 (1 + x.stall.toNat) false)

/-- R191, R192, R190: a form X operation takes B from a vector register, a uniform register of the block part or another lane, with
the rounding mode, FTZ and SAT of its fields; a lane source costs two more cycles of latency. -/
def Obligations.FormXOperations : Prop :=
  ∀ (o : Op6) (h : Head) (x : OpX) (s : State) (c : Cur) (b : Block) (ls : List Fibre),
    let gs := guardTrue h.g h.gn ls
    let src := xSrc x
    let res := fun (f : Fibre) => op6Result o (rmOf x.rm.toNat) x.sat x.ftz (f.reg x.a.toNat) (bValue s gs src f) (f.reg x.d.toNat)
    (instrX o h x).wellFormed = true → Ready s c b ls → (src.isUni = true → AtHome ls) →
    Clear ls (op6Reads o x.a.toNat x.d.toNat src ++ [x.d.toNat]) →
    (∀ f ∈ gs, src.check f = none ∧ op6Check o (f.reg x.a.toNat) (bValue s gs src f) (f.reg x.d.toNat) = none) →
    exec (instrX o h x) s = .next (past
      (wrote s gs ((op6Latency o).map (· + (if x.xm == 0 then 0 else 2))) fun f => [.reg x.d.toNat (res f)]) c ls h)

/-- R193, R190: a form I operation takes its 24-bit immediate, sign-extended, as B; MOV writes it, tagged RAW. -/
def Obligations.FormIOperations : Prop :=
  ∀ (o : Op6) (h : Head) (x : OpI) (i : Instr) (s : State) (c : Cur) (b : Block) (ls : List Fibre),
    let gs := guardTrue h.g h.gn ls
    let w : VReg := { val := x.imm.signExtend 32, tag := tRaw }
    instrI o h x = some i → i.wellFormed = true → Ready s c b ls →
    Clear ls (op6Reads o x.a.toNat x.d.toNat (.imm w.val) ++ [x.d.toNat]) →
    (∀ f ∈ gs, o ≠ .mov → op6Check o (f.reg x.a.toNat) w (f.reg x.d.toNat) = none) →
    exec i s = .next (past
      (wrote s gs (op6Latency o) fun f =>
        [.reg x.d.toNat (if o = .mov then w else op6Result o .rne false false (f.reg x.a.toNat) w (f.reg x.d.toNat))]) c ls h)

/-- Exact results of R204's rows that give an integer. -/
def exactInt (o : Op6) (a b d : Word) : Option Int :=
  let n := b.toNat
  match o with
  | .add => some (a.toInt + b.toInt)
  | .sub => some (a.toInt - b.toInt)
  | .mul => some (a.toInt * b.toInt)
  | .mulhS => some (Int.fdiv (a.toInt * b.toInt) (2 ^ 32))
  | .mulhZ => some (Int.fdiv ((a.toNat : Int) * b.toNat) (2 ^ 32))
  | .mad => some (a.toInt * b.toInt + d.toInt)
  | .minS => some (min a.toInt b.toInt)
  | .minZ => some (min a.toNat b.toNat : Nat)
  | .maxS => some (max a.toInt b.toInt)
  | .maxZ => some (max a.toNat b.toNat : Nat)
  | .shl => some (if n < 32 then (a.toNat * 2 ^ n : Nat) else 0)
  | .shr => some (if n < 32 then (a.toNat / 2 ^ n : Nat) else 0)
  | .sar => some (if n < 32 then Int.fdiv a.toInt (2 ^ n) else if a.toInt < 0 then -1 else 0)
  | .popc => some (((List.range 32).filter a.getLsbD).length : Nat)
  | .clz => some (((List.range 32).takeWhile fun j => !a.getLsbD (31 - j)).length : Nat)
  | .divS => some (if b = 0 then 0xFFFFFFFF else Int.tdiv a.toInt b.toInt)
  | .divZ => some (if b = 0 then 0xFFFFFFFF else (a.toNat / n : Nat))
  | .remS => some (if b = 0 then a.toInt else a.toInt - b.toInt * Int.tdiv a.toInt b.toInt)
  | .remZ => some (if b = 0 then a.toInt else (a.toNat % n : Nat))
  | .abs => some a.toInt.natAbs
  | .neg => some (-a.toInt)
  | .addsatS => some (max (-2 ^ 31) (min (2 ^ 31 - 1) (a.toInt + b.toInt)))
  | _ => none

/-- Bits of R204's rows that give a pattern. -/
def exactBit (o : Op6) (a b d : Word) (j : Nat) : Option Bool :=
  let pos := b.toNat % 32
  let len := min (b.toNat / 2 ^ 8 % 2 ^ 6) 32
  match o with
  | .and => some (a.getLsbD j && b.getLsbD j)
  | .or => some (a.getLsbD j || b.getLsbD j)
  | .xor => some (a.getLsbD j != b.getLsbD j)
  | .andn => some (a.getLsbD j && !b.getLsbD j)
  | .sel => some ((a.getLsbD j && d.getLsbD j) || (b.getLsbD j && !d.getLsbD j))
  | .rotl => some (a.getLsbD ((j + 32 - b.toNat % 32) % 32))
  | .brev => some (a.getLsbD (31 - j))
  | .bfx => some (decide (j < len) && a.getLsbD (pos + j))
  | .bfi => some (if pos ≤ j ∧ j < pos + len then a.getLsbD (j - pos) else d.getLsbD j)
  | .mov => some (a.getLsbD j)
  | _ => none

/-- R204, with the clamp of R203 for SAT and the tags of R87: every integer operation's value and tag, and the tags its
operands may carry; a quotient by zero is all ones
and a remainder by zero the dividend. -/
def Obligations.IntegerResults : Prop :=
  ∀ (o : Op6) (rm : Rm) (sat ftz : Bool) (a b d : VReg),
    let r := op6Result o rm sat ftz a b d
    let clamps := [Op6.add, .sub, .mul, .mad, .abs, .neg]
    (∀ x, exactInt o a.val b.val d.val = some x →
      r.val = BitVec.ofInt 32 (if sat = true ∧ (o ∈ clamps ∨ (o = .divS ∧ b.val ≠ 0)) then max (-2 ^ 31) (min (2 ^ 31 - 1) x) else x)
        ∧ r.tag = tI32)
      ∧ (∀ j x, j < 32 → exactBit o a.val b.val d.val j = some x → r.val.getLsbD j = x)
      ∧ (o ∈ [Op6.rotl, .brev, .bfx, .bfi] → r.tag = tI32) ∧ (o = .mov → r.tag = a.tag)
      ∧ (o ∈ [Op6.and, .or, .xor, .andn, .sel] →
          r.tag = if a.tag ≠ tRaw ∧ b.tag ≠ tRaw ∧ a.tag ≠ b.tag then tRaw else a.tag)
      ∧ (o ∈ [Op6.add, .sub, .mul, .mulhS, .mulhZ, .mad, .minS, .minZ, .maxS, .maxZ, .divS, .divZ, .remS, .remZ, .abs, .neg, .addsatS] →
          let fits := fun x : VReg => x.tag = tRaw ∨ x.tag = tI32
          (op6Check o a b d = none ↔ fits a ∧ (o ∈ [Op6.abs, .neg] ∨ fits b) ∧ (o = .mad → fits d)))
      ∧ (o ∈ [Op6.and, .or, .xor, .andn, .shl, .shr, .sar, .rotl, .clz, .popc, .brev, .bfx, .bfi, .sel, .mov] →
          let fits := fun x : VReg => x.tag ≠ tInvalid
          (op6Check o a b d = none ↔ fits a ∧ (o ∈ [Op6.clz, .popc, .brev, .mov] ∨ fits b) ∧ (o ∈ [Op6.bfi, .sel] → fits d)))

/-- R87, R182: an untyped operand fails only where it is tagged INVALID, and a typed one passes with its own tag or RAW, fails with
TAG_MISMATCH with any other tag but INVALID, and with TAG_INVALID there. -/
def Obligations.TagChecks : Prop :=
  ∀ (t : BitVec 4) (r : VReg), t ≠ tInvalid →
    (checkTag none r = none ↔ r.tag ≠ tInvalid)
      ∧ (r.tag = tInvalid → checkTag (some t) r = some cTagInvalid ∧ checkTag none r = some cTagInvalid)
      ∧ (r.tag = tRaw ∨ r.tag = t → r.tag ≠ tInvalid → checkTag (some t) r = none)
      ∧ (r.tag ≠ tInvalid → r.tag ≠ tRaw → r.tag ≠ t → checkTag (some t) r = some cTagMismatch)
/-! ### Comparisons, predicates, lanes, tags and conversions -/

/-- R205 to R207: ICMP and FCMP write the relation of CC, combined with the second predicate by BOP, to predicate PD. -/
def Obligations.Comparisons : Prop :=
  ∀ (h : Head) (p : CmpP) (s : State) (c : Cur) (b : Block) (ls : List Fibre),
    let gs := guardTrue h.g h.gn ls
    let A := fun (f : Fibre) (k : Nat) => f.reg (p.a.toNat + k)
    let B := fun (f : Fibre) (k : Nat) => if p.bu then ({ val := uni s f (p.b.toNat + k), tag := tRaw } : VReg) else f.reg (p.b.toNat + k)
    let out := fun (f : Fibre) (r : Bool) =>
      let q := (f.pred p.q.toNat != p.qn)
      [PendDest.pred p.pd.toNat (match p.bop.toNat with | 0 => r | 1 => r && q | 2 => r || q | _ => r != q)]
    let int := fun (f : Fibre) (X : Fibre → Nat → VReg) => match p.fmt.toNat with
      | 0 => (X f 0).val.toInt
      | 1 => ((X f 0).val.toNat : Int)
      | 2 => ((X f 1).val ++ (X f 0).val).toInt
      | _ => (((X f 1).val ++ (X f 0).val).toNat : Int)
    let rel := fun (x y : Int) => match p.cc.toNat with
      | 0 => decide (x = y) | 1 => decide (x ≠ y) | 2 => decide (x < y) | 3 => decide (x ≤ y) | 4 => decide (y < x) | _ => decide (y ≤ x)
    let elem := fun (x : VReg) => decF false (fmt3 p.fmt.toNat) (if p.fmt = 0 then x.val.toNat else halfOf x.val p.h.toNat)
    let tag := fun (k : Nat) => if p.fmt.toNat < 2 then tI32 else if k = 0 then tI64lo else tI64hi
    let ks := if p.fmt.toNat < 2 then [0] else [0, 1]
    Ready s c b ls → (p.bu = true → AtHome ls) →
    ((Instr.icmp h p).wellFormed = true →
      Clear ls (ks.map (p.a.toNat + ·) ++ (if p.bu then [] else ks.map (p.b.toNat + ·))) →
      (∀ f ∈ gs, ∀ k ∈ ks, checkTag (some (tag k)) (A f k) = none ∧ checkTag (some (tag k)) (B f k) = none) →
      Writes (.icmp h p) s c ls h (some 2) fun f => out f (rel (int f A) (int f B)))
    ∧ ((Instr.fcmp h p).wellFormed = true →
      Clear ls (p.a.toNat :: (if p.bu then [] else [p.b.toNat])) →
      (∀ f ∈ gs, checkTag (some (fmt3Tag p.fmt.toNat)) (A f 0) = none ∧ checkTag (some (fmt3Tag p.fmt.toNat)) (B f 0) = none) →
      Writes (.fcmp h p) s c ls h (some 2) fun f => out f (fcmpCond p.cc.toNat (elem (A f 0)) (elem (B f 0))))

/-- R208 to R210: PCOMB combines up to its count of consecutive predicates by two tables; PTOV gathers 32 predicates into a register, VTOP
spreads the bits of a register that a uniform mask names; PSURV counts the lanes whose predicate holds. -/
def Obligations.Predicates : Prop :=
  ∀ (h : Head) (s : State) (c : Cur) (b : Block) (ls : List Fibre),
    let gs := guardTrue h.g h.gn ls
    Ready s c b ls →
    (∀ p, (Instr.pcomb h p).wellFormed = true →
      Writes (.pcomb h p) s c ls h (some 2) fun f => (List.range (p.nm1.toNat + 1)).map fun i =>
        let x := f.pred (p.px.toNat + i)
        let y := f.pred (p.py.toNat + i)
        .pred (p.pd.toNat + i) ((if f.pred (p.pz.toNat + i) then p.f1 else p.f0).getLsbD (2 * x.toNat + y.toNat)))
    ∧ (∀ p, (Instr.ptov h p).wellFormed = true → Clear ls [p.v.toNat] →
      ∃ w : Fibre → Word, (∀ f j, j < 32 → (w f).getLsbD j = f.pred (p.pb.toNat + j))
        ∧ Writes (.ptov h p) s c ls h (some 2) fun f => [.reg p.v.toNat { val := w f, tag := tRaw }])
    ∧ (∀ p, (Instr.vtop h p).wellFormed = true → AtHome ls → Clear ls [p.v.toNat] →
      (∀ f ∈ gs, checkTag none (f.reg p.v.toNat) = none) →
      Writes (.vtop h p) s c ls h (some 2) fun f =>
        ((List.range 32).filter (uni s f p.sm.toNat).getLsbD).map fun j => .pred (p.pb.toNat + j) ((f.val p.v.toNat).getLsbD j))
    ∧ (∀ p, (Instr.psurv h p).wellFormed = true → (3 ≤ p.mode.toNat → Clear ls [p.d.toNat]) →
      let yes := gs.filter fun f => f.pred p.ps.toNat != p.psn
      let k := if p.k = 62 then gs.length / 2 + 1 else if p.k = 63 then gs.length else p.k.toNat
      Writes (.psurv h p) s c ls h none fun _ => match p.mode.toNat with
        | 0 => [.pred p.pd.toNat (decide (k ≤ yes.length))]
        | 1 => [.pred p.pd.toNat (decide (yes.length ≤ k))]
        | 2 => [.pred p.pd.toNat (decide (yes.length = k))]
        | 3 => [.reg p.d.toNat { val := laneMask yes, tag := tI32 }]
        | _ => [.reg p.d.toNat { val := BitVec.ofNat 32 (yes.length + 256 * gs.length), tag := tI32 }])

/-- R211, R212, R214: SHFL moves a register from another lane, MATCH finds the lanes with an equal key, REDUX combines a group's
values in ascending lane position, SCAN those at or below the lane. A lane whose own mask bit is clear is in no lane's set for REDUX
and SCAN by log 19. -/
def Obligations.AcrossLanes : Prop :=
  ∀ (h : Head) (s : State) (c : Cur) (b : Block) (ls : List Fibre),
    let gs := guardTrue h.g h.gn ls
    Ready s c b ls →
    (∀ p : ShflP, (Instr.shfl h p).wellFormed = true →
      Clear ls ([p.a.toNat, p.d.toNat] ++ (if p.gv then [p.gm.toNat] else []) ++ (if p.xm = 1 then [p.xk.toNat] else [])) →
      (∀ f ∈ gs, checkTag none (shflGot p gs f) = none ∧ (p.gv = true → checkTag none (f.reg p.gm.toNat) = none)
        ∧ (p.xm = 1 → checkTag none (f.reg p.xk.toNat) = none)) →
      Writes (.shfl h p) s c ls h none fun f => [.reg p.d.toNat (shflGot p gs f)])
    ∧ (∀ p : MatchP, (Instr.matchOp h p).wellFormed = true →
      let rs := if p.k64 then [p.a.toNat, p.a.toNat + 1] else [p.a.toNat]
      Clear ls (p.d.toNat :: rs) → (∀ f ∈ gs, checkRegs f rs = none) →
      Writes (.matchOp h p) s c ls h none fun f =>
        [.reg p.d.toNat { val := laneMask (gs.filter fun g => decide (∀ r ∈ rs, g.val r = f.val r)), tag := tI32 }])
    ∧ (∀ (p : ReduxP) (scan : Bool),
      let i := if scan then Instr.scan h p else .redux h p
      i.wellFormed = true → Clear ls ([p.a.toNat, p.d.toNat] ++ (if p.gv then [p.gm.toNat] else [])) →
      (∀ f ∈ gs, checkTag (reduxTag p.op.toNat p.fmt.toNat) (f.reg p.a.toNat) = none
        ∧ (p.gv = true → checkTag none (f.reg p.gm.toNat) = none)) →
      Writes i s c ls h none fun f =>
        let mem := fun (x y : Fibre) => !p.gv || (x.val p.gm.toNat).getLsbD y.lane
        if mem f f then
          let set := gs.filter fun g => mem g g && mem f g
          let part := set.filter fun g => !scan || decide (g.lane ≤ f.lane)
          [.reg p.d.toNat { val := reduxAll p (part.map fun g => g.val p.a.toNat), tag := reduxRTag p (set.map fun g => g.reg p.a.toNat) }]
        else [.reg p.d.toNat (if p.xf then { val := 0, tag := tRaw } else f.reg p.a.toNat)])

/-- The instruction of a function of R286. -/
def transInstr (fn : TransFn) (h : Head) (p : TransP) : Instr :=
  match fn with
  | .rcp => .frcp h p
  | .rsq => .frsq h p
  | .sqrt => .fsqrt h p
  | .ex2 => .fex2 h p
  | .lg2 => .flg2 h p
  | .sin => .fsin h p
  | .cos => .fcos h p
  | .tanh => .ftanh h p
  | .div => .fdiv h p

/-- R285, R286: the transcendental functions and FDIV write their result, tagged with the format, interlocked; the values are those of
the model's approximation (log 10). -/
def Obligations.TranscendentalFunctions : Prop :=
  ∀ (fn : TransFn) (h : Head) (p : TransP) (s : State) (c : Cur) (b : Block) (ls : List Fibre),
    let t := fmt3Tag p.fmt.toNat
    let rs := if fn = .div then [p.a.toNat, p.b.toNat] else [p.a.toNat]
    (transInstr fn h p).wellFormed = true → Ready s c b ls → Clear ls (rs ++ [p.d.toNat]) →
    (∀ f ∈ guardTrue h.g h.gn ls, ∀ r ∈ rs, checkTag (some t) (f.reg r) = none) →
    Writes (transInstr fn h p) s c ls h none fun f =>
      [.reg p.d.toNat { val := transResult fn p.fmt.toNat (rmOf p.rm.toNat) p.sat p.ftz (f.val p.a.toNat) (f.val p.b.toNat), tag := t }]

/-- R287, R289, R290, R291: FCVT converts one element, FPACK makes one block of the lanes' values, FUNPK decodes one, FCLASS classifies. -/
def Obligations.Conversions : Prop :=
  ∀ (h : Head) (s : State) (c : Cur) (b : Block) (ls : List Fibre),
    let gs := guardTrue h.g h.gn ls
    Ready s c b ls →
    (∀ p : FcvtP, (Instr.fcvt h p).wellFormed = true → Clear ls [p.a.toNat, p.d.toNat] →
      (∀ f ∈ gs, checkTag (some (cvtTag p.sf.toNat)) (f.reg p.a.toNat) = none
        ∧ (1 < cvtElems p.df.toNat → checkTag (some (cvtTag p.df.toNat)) (f.reg p.d.toNat) = none)) →
      Writes (.fcvt h p) s c ls h (some 4) fun f =>
        [.reg p.d.toNat { val := cvtResult p (f.val p.a.toNat) (f.val p.d.toNat), tag := cvtTag p.df.toNat }])
    ∧ (∀ p : BlkP, (Instr.fpack h p).wellFormed = true →
      Clear ls ([p.a.toNat, p.h.toNat] ++ (List.range 4).map (p.d.toNat + ·)) →
      (∀ f ∈ gs, checkTag (some tF32) (f.reg p.a.toNat) = none) →
      let q := fpackBlock p.spx p.hr.toNat ((List.range 32).map fun j =>
        match gs.find? (fun f => f.lane == j) with | some f => decF false .f32 (f.val p.a.toNat).toNat | none => .fin false 0 0)
      Writes (.fpack h p) s c ls h none fun _ =>
        (List.range 4).map (fun i => .reg (p.d.toNat + i)
          { val := BitVec.ofNat 32 (packNibbles ((q.2.drop (8 * i)).take 8)), tag := tE2m1x8 })
          ++ [.reg p.h.toNat { val := BitVec.ofNat 32 q.1, tag := tBlkhdr }])
    ∧ (∀ p : BlkP, (Instr.funpk h p).wellFormed = true →
      Clear ls ([p.h.toNat, p.d.toNat] ++ (List.range 4).map (p.a.toNat + ·)) →
      (∀ f ∈ gs, checkTag (some tBlkhdr) (f.reg p.h.toNat) = none
        ∧ ∀ i, i < 4 → checkTag (some tE2m1x8) (f.reg (p.a.toNat + i)) = none) →
      Writes (.funpk h p) s c ls h none fun f =>
        [.reg p.d.toNat { val := funpkElem (f.val (p.a.toNat + f.lane / 8)) (f.val p.h.toNat) f.lane, tag := tF32 }])
    ∧ (∀ p : FclassP, (Instr.fclass h p).wellFormed = true → Clear ls [p.a.toNat, p.d.toNat] →
      (∀ f ∈ gs, checkTag (some (fclassTag p.fmt.toNat)) (f.reg p.a.toNat) = none) →
      Writes (.fclass h p) s c ls h (some 2) fun f =>
        let cs := fclassCodes p.fmt.toNat (f.val p.a.toNat)
        .reg p.d.toNat { val := BitVec.ofNat 32 (packNibbles cs), tag := tI32 }
          :: (if p.pv then [.pred p.pd.toNat (cs.any fun k => k == 0 || k == 7 || k == 8)] else []))

/-- R292: TAGSET writes the tag alone, TAGGET reads the tag of a register or of a tile register. -/
def Obligations.TagInstructions : Prop :=
  ∀ (h : Head) (s : State) (c : Cur) (b : Block) (ls : List Fibre),
    Ready s c b ls →
    (∀ p : TagsetP, (Instr.tagset h p).wellFormed = true → Clear ls [p.d.toNat] →
      Writes (.tagset h p) s c ls h (some 2) fun _ => [.tag p.d.toNat p.tag])
    ∧ (∀ p : TaggetP, (Instr.tagget h p).wellFormed = true →
      (if p.tm then p.a.toNat < b.tileN ∧ AtHome ls ∧ Clear ls [p.d.toNat] else Clear ls [p.a.toNat, p.d.toNat]) →
      Writes (.tagget h p) s c ls h (some 2) fun f =>
        [.reg p.d.toNat
          { val := ((if p.tm then (tileOf s (16 * b.id + p.a.toNat)).tag else (f.reg p.a.toNat).tag) : BitVec 4).setWidth 32, tag := tI32 }])

/-- R225 to R227, R215, R48, R201: GETSR gives a special register to every guard-true lane, or through the lowest one to uniform registers; a
read of ENERGY first charges the kernel's counter with a free amount (log 13), and the counter never falls. UMOV moves between a uniform
register and the lanes' vector registers, or writes an immediate; SETSR acts on ASYNC, SBCHK and LSST. A write of a uniform register or of
SBCHK is not seen in its own cycle and is seen in later ones, and of two ports that write in one cycle the higher one's value remains.
The model's own choices in it: log 6 for CYCLE, 13. -/
def Obligations.SpecialAndUniform : Prop :=
  (∀ (s : State) (id : Nat) (k : Kernel), kernel? s id = some k →
    ∃ k', kernel? (chargeEnergy s id) id = some k' ∧ k.energy.toNat ≤ k'.energy.toNat)
  ∧ (∀ (q : Part) (now port n : Nat) (w : Word) (v : Bool),
    (q.putUni now port n w).seenS now = q.seenS now ∧ (q.putCheck now port v).seenCheck now = q.seenCheck now
    ∧ (∀ t, t ≠ now → outdone (q.before now).uw port n = false → n < q.s.length →
      ((q.putUni now port n w).seenS t).getD n 0 = w)
    ∧ (∀ t, t ≠ now → outdone (q.before now).uw port 256 = false → (q.putCheck now port v).seenCheck t = v)
    ∧ (∀ port' w', port < port' → ((q.putUni now port' n w').putUni now port n w).s = (q.putUni now port' n w').s))
  ∧ ∀ (h : Head) (s : State) (c : Cur) (b : Block) (ls : List Fibre),
    let gs := guardTrue h.g h.gn ls
    Ready s c b ls → AtHome ls →
    (∀ p : SrP, (Instr.getsr h p).wellFormed = true →
      let n := p.sr.toNat
      let v := p.v.toNat
      let s' := if n = 0x0C then chargeEnergy s b.kernel else s
      (p.us = false → Clear ls (if srWide n then [v, v + 1] else [v]) →
        Completes (.getsr h p) s c ls h (wrote s' gs none fun f =>
          let x := srValue s' b f n
          if srWide n then [.reg v { val := x.extractLsb' 0 32, tag := tI64lo }, .reg (v + 1) { val := x.extractLsb' 32 32, tag := tI64hi }]
          else [.reg v { val := x.extractLsb' 0 32, tag := tI32 }]))
      ∧ (p.us = true → ∀ f fs, gs = f :: fs →
        let x := srValue s' b f n
        Completes (.getsr h p) s c ls h
          (setUnis s' f p.s.toNat (if srWide n then [x.extractLsb' 0 32, x.extractLsb' 32 32] else [x.extractLsb' 0 32]))))
    ∧ (∀ p : UmovP, (Instr.umov h p).wellFormed = true → (p.dir.toNat < 2 → Clear ls [p.v.toNat]) →
      (p.dir = 0 → Writes (.umov h p) s c ls h (some 2) fun f => [.reg p.v.toNat { val := uni s f p.s.toNat, tag := tRaw }])
      ∧ (p.dir = 1 → ∀ f fs, gs = f :: fs → (∀ g ∈ gs, checkTag none (g.reg p.v.toNat) = none) →
        Completes (.umov h p) s c ls h (setUni s f p.s.toNat (f.val p.v.toNat)))
      ∧ (p.dir = 2 → ∀ f fs, gs = f :: fs → Completes (.umov h p) s c ls h (setUni s f p.s.toNat (p.imm.signExtend 32))))
    ∧ (∀ p : SrP, (Instr.setsr h p).wellFormed = true →
      let v := p.v.toNat
      let rs := if p.us then [] else if srWide p.sr.toNat then [v, v + 1] else [v]
      let lo := fun (f : Fibre) => if p.us then uni s f p.s.toNat else f.val v
      let hi := fun (f : Fibre) => if p.us then uni s f (p.s.toNat + 1) else f.val (v + 1)
      Clear ls rs → (∀ f ∈ gs, checkRegs f rs = none) → ∀ f fs, gs = f :: fs →
      (p.sr = 0x09 → Completes (.setsr h p) s c ls h
        (onLanes s gs fun g => { g with sticky := g.sticky &&& ~~~((hi g).extractLsb' 0 5) }))
      ∧ (p.sr = 0x0A → Completes (.setsr h p) s c ls h (setPart s f.key.core f.bp fun q =>
        q.putCheck s.now f.key.port ((lo f).getLsbD 0)))
      ∧ (p.sr = 0x0F → Completes (.setsr h p) s c ls h (setBlock s b.id fun d => { d with lsst := lsstClear d.lsst (hi f ++ lo f) })))
/-! ### Control -/

/-- R216, R217: every lane of a batch goes to the same next program counter: BRA and CALL by their displacement, RET and JMP by a pair of
registers, CALL leaving the address of the next instruction in a pair. The batch does not split, and only a taken backward BRA
renews its age.
The model's own choices in it: log 16. -/
def Obligations.TransfersTogether : Prop :=
  ∀ (h : Head) (s : State) (c : Cur) (b : Block) (ls : List Fibre) (pc : BitVec 44),
    Ready s c b ls → guardTrue h.g h.gn ls = ls → (∀ f ∈ ls, f.pc = pc) →
    (∀ p : BraP, (Instr.bra h p).wellFormed = true →
      let q := pc + (p.disp.signExtend 44 <<< 1)
      exec (.bra h p) s = .next (goTo s c ls (fun _ => q) (1 + h.stall.toNat) (decide (q.toNat < pc.toNat) || h.y)))
    ∧ (∀ p : CallP, (Instr.call h p).wellFormed = true → Clear ls [p.d.toNat, p.d.toNat + 1] →
      let r : BitVec 64 := (pc + 8).setWidth 64
      exec (.call h p) s = .next (goTo
        (wrote s ls none fun _ =>
          [.reg p.d.toNat { val := r.extractLsb' 0 32, tag := tRaw }, .reg (p.d.toNat + 1) { val := r.extractLsb' 32 32, tag := tRaw }])
        c ls (fun _ => pc + (p.disp.signExtend 44 <<< 1)) (1 + h.stall.toNat) h.y))
    ∧ (∀ (p : RegP) (jump : Bool) (q : BitVec 44),
      let i := if jump then Instr.jmp h p else .ret h p
      i.wellFormed = true → Clear ls [p.a.toNat, p.a.toNat + 1] →
      (∀ f ∈ ls, checkRegs f [p.a.toNat, p.a.toNat + 1] = none) →
      (∀ f ∈ ls, (f.val (p.a.toNat + 1) ++ f.val p.a.toNat).extractLsb' 1 43 ++ 0#1 = q) →
      exec i s = .next (goTo s c ls (fun _ => q) (1 + h.stall.toNat) h.y))

/-- R218: every lane of a BRX whose index lies in the table goes by the displacement its table entry holds.
The model's own choices in it: log 16. -/
def Obligations.JumpTables : Prop :=
  ∀ (h : Head) (p : BrxP) (s : State) (c : Cur) (b : Block) (ls : List Fibre) (pc q : BitVec 44) (t : Nat),
    Ready s c b ls → guardTrue h.g h.gn ls = ls → (∀ f ∈ ls, f.pc = pc) → (Instr.brx h p).wellFormed = true →
    Clear ls [p.a.toNat] → (t : Int) = (pc.toNat : Int) + 2 * p.toff.toInt → t % 4 = 0 →
    (∀ f ∈ ls,
      let i := (f.val p.a.toNat).toNat
      let k := codeCap s b f
      checkTag none (f.reg p.a.toNat) = none ∧ i ≤ p.nm1.toNat ∧ inCode k (t + 4 * i) 4 = true
        ∧ ∃ v, codeRead s b.part (capObj k) (t + 4 * i) 4 f.xl = .bytes v ∧ q = pc + ((BitVec.ofNat 32 v).signExtend 44 <<< 1)) →
    exec (.brx h p) s = .next (goTo s c ls (fun _ => q) (1 + h.stall.toNat) (decide (q.toNat < pc.toNat) || h.y))

/-- R217, R30, R31: where some lanes of a BRA go and others go on, the batch splits, an entry with its mask is pushed on every lane's join
stack, and every lane is ready at its own next program counter.
The model's own choices in it: log 12. -/
def Obligations.BranchSplits : Prop :=
  ∀ (h : Head) (p : BraP) (s : State) (c : Cur) (b : Block) (ls : List Fibre) (pc : BitVec 44),
    let q := pc + (p.disp.signExtend 44 <<< 1)
    let gs := guardTrue h.g h.gn ls
    Ready s c b ls → (Instr.bra h p).wellFormed = true → (∀ f ∈ ls, f.pc = pc) → gs ≠ [] → gs ≠ ls → q ≠ pc + 8 →
    ∃ t, exec (.bra h p) s = .next t ∧ t.mem = s.mem ∧ t.parts = s.parts ∧ t.blocks = s.blocks
      ∧ ∀ f ∈ ls, ∃ g, fibre? t f.key = some g
        ∧ g.pc = (if (f.pred h.g.toNat != h.gn) = true then q else pc + 8) ∧ g.run = .ready
        ∧ g.joins = ((freeJoin (usedJoins s) (usedJoins s).length s.nextJoin, (laneMask ls).toNat) :: f.joins).take 16

/-- R220, R26, R27, R29: SPAWN of one lane creates its child where there is room, sets PD and goes on; the child starts at the entry with the
argument in v0, its parent's fibre id in v1 and every other register of its window 0, tagged RAW. The clause that SPAWN issues once its earlier
accesses have performed, and waits before issue until then, is the model's choice (log 19: R220 and R163 order the child after them and name no
wait). -/
def Obligations.Spawning : Prop :=
  (∀ (h : Head) (p : SpawnP) (s : State) (c : Cur) (b : Block) (ls : List Fibre) (f : Fibre),
    Ready s c b ls → guardTrue h.g h.gn ls = [f] → AtHome ls → (Instr.spawn h p).wellFormed = true → Clear ls [p.a.toNat] →
    checkTag none (f.reg p.a.toNat) = none →
    let q := spawnOne s b (((kernel? s b.kernel).map (·.binTimer)).getD 256) f (f.pc + (p.disp.signExtend 44 <<< 1)) (f.reg p.a.toNat)
    (drained s f = true → Completes (.spawn h p) s c ls h
      (launchZero (setFibre q.1 f.key fun g => g.writeNow (.pred p.pd.toNat q.2)) f.key.core f.key.port))
    ∧ (drained s f = false → exec (.spawn h p) s = .next (waitBatch s ls false)))
  ∧ (∀ (s : State) (b : Block) (timer : Nat) (f : Fibre) (entry : BitVec 44) (arg : VReg),
    (∃ x, x < Config.ctxPerPort ∧ ∀ g ∈ s.fibres, g.key ≠ { f.key with ctx := x }) → (aliveOf s b.id).length < Config.maxFibres →
    ∃ k child, (∀ g ∈ s.fibres, g.key ≠ k) ∧ k.core = f.key.core ∧ k.port = f.key.port
      ∧ (spawnOne s b timer f entry arg).2 = true ∧ fibre? (spawnOne s b timer f entry arg).1 k = some child
      ∧ child.pc = entry ∧ child.regs = ((zeroRegs f.regs.length).set 0 arg).set 1 { val := BitVec.ofNat 32 f.fid, tag := tI32 }
      ∧ child.blk = b.id ∧ child.bp = f.bp ∧ child.level = b.level ∧ child.preds = 1 ∧ child.joins = [] ∧ child.run = .ready
      ∧ ∀ g ∈ aliveOf s b.id, g.fid ≠ child.fid)

/-- R221, R28, R32: EXIT ends the guard-true lanes, whose contexts are free at once where they have no store and no atomic pending; the others go
on. That a fibre with an atomic alone pending keeps its context until it has performed is the model's choice (log 19: R28 names stores).
JOIN makes every lane with a join entry joining, out of its slot; a lane without one goes on. -/
def Obligations.ExitAndJoin : Prop :=
  ∀ (h : Head) (s : State) (c : Cur) (b : Block) (ls : List Fibre), Ready s c b ls →
    ((Instr.exit h).wellFormed = true →
      ∃ t, exec (.exit h) s = .next t ∧ t.mem = s.mem ∧ t.parts = s.parts
        ∧ ∀ f ∈ ls,
          if (f.pred h.g.toNat != h.gn) = true then
            if storesOf s f.key = [] ∧ ∀ o ∈ f.outs, o.kind ≠ .atom then fibre? t f.key = none
            else ∃ g, fibre? t f.key = some g ∧ g.run = .exited
          else ∃ g, fibre? t f.key = some g ∧ g.pc = f.pc + 8 ∧ g.run = .ready ∧ g.joins = f.joins)
    ∧ ((Instr.join h).wellFormed = true →
      ∃ t, exec (.join h) s = .next t ∧ t.mem = s.mem ∧ t.parts = s.parts ∧ t.blocks = s.blocks
        ∧ ∀ f ∈ ls, ∃ g, fibre? t f.key = some g ∧ g.pc = f.pc + 8 ∧ g.joins = f.joins
          ∧ (if f.joins = [] then g.run = .ready ∧ g.slot = some c.slot else g.run = .joining ∧ g.slot = none ∧ g.waitPc = f.pc))

/-- R221, R222, R224: YIELD renews the batch's age and does nothing else; WAITC goes on once the counter of every guard-true lane is at
most N, and waits before issue until then (a once cut that a CUTREG has yet to enter counts with the row counter, log 5); MARK writes a trace
record with its code. -/
def Obligations.YieldWaitMark : Prop :=
  ∀ (h : Head) (s : State) (c : Cur) (b : Block) (ls : List Fibre),
    let gs := guardTrue h.g h.gn ls
    Ready s c b ls →
    ((Instr.yieldOp h).wellFormed = true → gs ≠ [] → exec (.yieldOp h) s = .next (goOn s c ls 8 (1 + h.stall.toNat) true))
    ∧ (∀ p : WaitcP, (Instr.waitc h p).wellFormed = true → (p.cls = 1 → ∀ f ∈ ls, f.lost = false) →
      let count := fun (f : Fibre) => (f.ops.filter fun o => o.cls == p.cls.toNat).length
        + (if p.cls = 2 then (f.outs.filter Out.once).length else 0)
      ((∀ f ∈ gs, count f ≤ p.n.toNat) → Completes (.waitc h p) s c ls h s)
      ∧ ((∃ f ∈ gs, p.n.toNat < count f) → exec (.waitc h p) s = .next (waitBatch s ls (p.cls == 1))))
    ∧ (∀ p : CodeP, (Instr.mark h p).wellFormed = true → ∀ f fs, gs = f :: fs →
      Completes (.mark h p) s c ls h (countMark (traceWrite s b f 0 p.code.toNat 0) b p.code.toNat))

/-- R223: every lane of a batch at home adds its arrival to a named barrier, and waits for its phase; the last arrival, which makes the count
that of the block's fibres or the value of the first arrival's register, ends the phase for every waiter. The clause that BAR issues once the
earlier accesses of its lanes have performed, and waits before issue until then, is the model's choice (log 19: R223 says that BAR is a release
at cluster scope and names no wait). -/
def Obligations.NamedBarriers : Prop :=
  (∀ (h : Head) (p : BarP) (s : State) (c : Cur) (b : Block) (ls : List Fibre),
    Ready s c b ls → guardTrue h.g h.gn ls = ls → AtHome ls → (Instr.bar h p).wellFormed = true →
    ((∀ f ∈ ls, drained s f = true) →
      (p.cnt = true → ∀ f ∈ ls, 0 < (uni s f p.s.toNat).toNat ∧ (uni s f p.s.toNat).toNat ≤ 8192) →
      Completes (.bar h p) s c ls h
        (ls.foldl (fun t f => barArrive t f.key f.blk p.id.toNat (if p.cnt then some (uni s f p.s.toNat).toNat else none)) s))
    ∧ ((∃ f ∈ ls, drained s f = false) → exec (.bar h p) s = .next (waitBatch s ls false)))
  ∧ (∀ (s : State) (k : FKey) (f : Fibre) (b : Block) (id : Nat) (cnt : Option Nat),
    block? s b.id = some b → s.fibres.filter (fun g => g.key == k) = [f] → f.blk = b.id → f.guest = none → f.transit = .none →
    id < b.bars.length →
    let n := barOf b id
    let want := match (if n.arrived = 0 then cnt else n.expect) with | some v => v | none => (aliveOf s b.id).length
    let t := barArrive s k b.id id cnt
    (n.arrived + 1 ≠ want → f.run ≠ .exited → (∃ g, fibre? t k = some g ∧ g.run = .waiting (.bar id n.phase.toNat))
      ∧ ∃ d, block? t b.id = some d ∧ (barOf d id).arrived = n.arrived + 1 ∧ (barOf d id).phase = n.phase)
    ∧ (n.arrived + 1 = want → f.run ≠ .exited → (∃ g, fibre? t k = some g ∧ g.run = .ready)
      ∧ ∃ d, block? t b.id = some d ∧ (barOf d id).arrived = 0 ∧ (barOf d id).phase = n.phase + 1))

/-- R224, R353, R86: UTRAP and BKPT take USER_TRAP and BREAKPOINT in every lane of a batch whose guards are true, with CODE as DETAIL; a form A
operation whose operands fail their tag check in every lane of the batch, all with one code, traps with that code and writes nothing.
The model's own choices in it: log 19. -/
def Obligations.LanesTrap : Prop :=
  (∀ (h : Head) (p : CodeP) (s : State) (c : Cur) (b : Block) (ls : List Fibre),
      Ready s c b ls → guardTrue h.g h.gn ls = ls → AtHome ls →
      ((Instr.utrap h p).wellFormed = true → CanTrap s b ls 0x11 →
        exec (.utrap h p) s = .next (trapOf s c b ls 0x11 0 p.code.toNat false h.y))
      ∧ ((Instr.bkpt h p).wellFormed = true → CanTrap s b ls 0x12 →
        exec (.bkpt h p) s = .next (trapOf s c b ls 0x12 0 p.code.toNat false h.y)))
  ∧ (∀ (o : Op6) (x : FormA) (s : State) (c : Cur) (b : Block) (ls : List Fibre) (code : Nat),
      (instrA o x).wellFormed = true → Ready s c b ls → AtHome ls → ls.filter (fun f => f.pred x.g.toNat) = ls →
      Clear ls (op6Reads o x.a.toNat x.d.toNat (.vec x.b.toNat) ++ [x.d.toNat]) →
      (∀ f ∈ ls, op6Check o (f.reg x.a.toNat) (f.reg x.b.toNat) (f.reg x.d.toNat) = some code) → CanTrap s b ls code →
      exec (instrA o x) s = .next (trapOf s c b ls code 0 0 false false))

/-- R353, R354: a trap of a fibre whose partition's vector names a handler, and whose mask is clear, enters the handler at supervisor
level with its record, saved window and saved predicates; otherwise the fibre stays parked with its record in the trap log. In both
cases its pending writes have landed, ENGINE_LOST has cleared the engine-lost mark (R300), no lane is exempt from the comparators any more
(R390), and memory, blocks and block parts are as they were.
The model's own choices in it: log 19. -/
def Obligations.TrapEntry : Prop :=
  ∀ (s : State) (p : Nat) (f : Fibre) (code : Nat) (info : BitVec 64) (detail : Nat) (cmp : Bool),
    fibre? s f.key = some f → s.fibres.filter (fun g => g.key == f.key) = [f] → f.guest = none →
    let l := { f.landAll with lost := f.lost && code != 0x10, cmpPass := false }
    let r := trapRecord l [l] code info detail cmp
    let t := takeTrap s p [f.key] code info detail cmp
    let v := vectorOf s p code
    t.mem = s.mem ∧ t.parts = s.parts ∧ t.blocks = s.blocks ∧ t.sys = s.sys ∧ (∀ k, k ≠ f.key → fibre? t k = fibre? s k)
    ∧ r.cause = BitVec.ofNat 8 code ∧ r.pc = f.pc ∧ r.nest = f.tm ∧ r.detail = BitVec.ofNat 16 detail ∧ r.info = info ∧ r.cmp = cmp
    ∧ r.fid = BitVec.ofNat 13 f.fid ∧ r.blk = BitVec.ofNat 17 f.blk ∧ r.port = BitVec.ofNat 2 f.key.port
    ∧ r.lanes = 1#32 <<< (f.key.ctx % 32)
    ∧ (f.tm = false → v.2 ≠ 0 →
      fibre? t f.key = some { l with
        trec := some r, savedRegs := l.regs.take (8 * v.1), savedPreds := l.preds, pc := v.2, tm := true, dbcause := cmp
        run := .ready, slot := none } ∧ t.partns = s.partns)
    ∧ (f.tm = true ∨ v.2 = 0 →
      fibre? t f.key = some { l with logRec := some r, frag := s.seq, dbcause := cmp, run := .parked .trap, slot := none }
        ∧ ((partnOf s p).tlog.length < 256 → (partnOf t p).tlog = (partnOf s p).tlog ++ [r]))

/-- Level that a privileged instruction needs (R196, R322, R362): that of its chapter, or that of the register that SYSRD or SYSWR names, where it may
name it. -/
def levelOf (i : Instr) : Option Nat :=
  match i with
  | .sysrd _ p => if sysAssigned p.srn.toNat then some (sysLevel p.srn.toNat) else none
  | .syswr _ p => if sysAssigned p.srn.toNat && !sysReadOnly p.srn.toNat then some (sysLevel p.srn.toNat) else none
  | .tret .. | .tmask .. | .fqpop .. | .fqres .. | .prack .. | .tlbinv .. | .objset .. | .haltb .. | .trial .. | .ctxsv .. | .ctxrs ..
  | .lsqsave .. | .lsqrst .. => some 1
  | _ => none

/-- Vector registers that a load, store or atomic names (R194, R230 to R243). -/
def memNames (i : Instr) : Option (List Nat) :=
  match i with
  | .ld _ p | .st _ p | .ldl _ p | .stl _ p | .ldw _ p => some (offRegs p.a.toNat p.o64 ++ memRegs p)
  | .capld _ p | .capst _ p => some (offRegs p.a.toNat p.o64)
  | .lda _ p => some (offRegs p.a.toNat p.o64 ++ [p.b.toNat, p.d.toNat])
  | .red _ p => some (offRegs p.a.toNat p.o64 ++ if p.q then [p.d.toNat] else pairRegs p.b.toNat (p.rfmt == 4))
  | .atom _ p => some (offRegs p.a.toNat p.o64 ++ pairRegs p.b.toNat p.w64 ++ (if p.aop = 1 then pairRegs p.e.toNat p.w64 else [])
      ++ pairRegs p.d.toNat p.w64)
  | _ => none

/-- R197, R8: an instruction above the level of some lane of its batch traps PRIV, whatever the guards: every privileged one of levels 1 and 2. One
that names a vector register outside some lane's window traps WINDOW_RANGE: a form A, H, X or I operation by any register that it reads or by
its destination, a load, store, atomic, reduction or transaction by any register of its address or its data. Neither has any other effect. -/
def Obligations.ChecksBeforeIssue : Prop :=
  ∀ (s : State) (c : Cur) (b : Block) (ls : List Fibre), Ready s c b ls → AtHome ls →
    (∀ (i : Instr) (n : Nat), CanTrap s b ls 0x02 → i.wellFormed = true → levelOf i = some n → (∃ f ∈ ls, f.lvl < n) →
      exec i s = .next (trapOf s c b ls 0x02 0 0 false false))
    ∧ (CanTrap s b ls 0x04 →
      let outside := fun (rs : List Nat) => ∃ f ∈ ls, ∃ v ∈ rs, f.regs.length ≤ v
      let stops := fun (i : Instr) => exec i s = .next (trapOf s c b ls 0x04 0 0 false false)
      (∀ (o : Op6) (x : FormA), (instrA o x).wellFormed = true →
        outside (op6Reads o x.a.toNat x.d.toNat (.vec x.b.toNat) ++ [x.d.toNat]) → stops (instrA o x))
      ∧ (∀ (o : Op6) (op4 : Nat) (x : FormH) (i : Instr), op4 < 16 → op4Of o = op4 → instrH op4 x = some i → (op4 = 0 → o = .mov) →
        let y := aliasOf o x
        outside (op6Reads o y.a.toNat y.d.toNat (.vec y.b.toNat) ++ [y.d.toNat]) → stops i)
      ∧ (∀ (o : Op6) (h : Head) (x : OpX), (instrX o h x).wellFormed = true →
        outside (op6Reads o x.a.toNat x.d.toNat (xSrc x) ++ [x.d.toNat]) → stops (instrX o h x))
      ∧ (∀ (o : Op6) (h : Head) (x : OpI) (i : Instr), instrI o h x = some i → i.wellFormed = true →
        outside (op6Reads o x.a.toNat x.d.toNat (.imm 0) ++ [x.d.toNat]) → stops i)
      ∧ (∀ (i : Instr) (rs : List Nat), i.wellFormed = true → memNames i = some rs →
        (∀ h p, i = .ld h p → p.qc = 4 ∨ p.qc = 5 → featureOn s 1 = true) → outside rs → stops i))
/-! ### Loads, stores, atomics -/

/-- A lane's access to memory through a capability passes every check, and its page is known to the port: the cell it reaches (R52, R341). -/
def Reaches (s : State) (b : Block) (f : Fibre) (c : CapWord) (x : Int) (w need : Nat) (cell : Nat) : Prop :=
  accessCheck s b.part c x w need = none
    ∧ translate s b.part (capObj c) (capOff c x) f.xl = .place cell

/-- R228, R230, R234, R9: LD without a migration qualifier (`Migration` speaks of the others), LDW and the query form of RED send one request for each guard-true lane, whose
result is outstanding, and go on, where the core's 2048 requests leave room for them and no byte is damaged; the registers are as they were
until it returns.
The model's own choices in it: log 9, and log 21 for the requests that count. -/
def Obligations.LoadsIssue : Prop :=
  ∀ (h : Head) (s : State) (c : Cur) (b : Block) (ls : List Fibre) (cell : Fibre → Nat),
    let gs := guardTrue h.g h.gn ls
    Ready s c b ls → AtHome ls → lanesFit s gs = true →
    (∀ p : MemP, (Instr.ld h p).wellFormed = true → p.qc ≠ 4 → p.qc ≠ 5 →
      let k := fun (f : Fibre) => capReg s f p.c.toNat
      Clear ls (offRegs p.a.toNat p.o64 ++ memRegs p) →
      (∀ f ∈ gs, checkRegs f (offRegs p.a.toNat p.o64) = none ∧ Reaches s b f (k f) (memOff p f) (memW p) rRD (cell f)
        ∧ s.ue (cell f) (memW p) = false) →
      Completes (.ld h p) s c ls h (gs.foldl (fun t f => pushOut t f
        { loadOut f .load false (cell f) (memW p) p.d.toNat p.t 0 p.sc.toNat (capObj (k f)) (capOff (k f) (memOff p f)) with
          acq := p.qc == 6 }) s))
    ∧ (∀ p : MemP, (Instr.ldw h p).wellFormed = true →
      let k := fun (f : Fibre) => capReg s f p.c.toNat
      let at' := fun (f : Fibre) => Config.weightBase + f.loc / 192 * 2 ^ 32 + capOff (k f) (memOff p f)
      Clear ls (offRegs p.a.toNat p.o64 ++ memRegs p) →
      (∀ f ∈ gs, checkRegs f (offRegs p.a.toNat p.o64) = none ∧ weightChk s b f (k f) (memOff p f) (memW p) = none
        ∧ s.ue (at' f) (memW p) = false) →
      Completes (.ldw h p) s c ls h (gs.foldl (fun t f => pushOut t f
        { loadOut f .load false (at' f) (memW p) p.d.toNat p.t 0 p.sc.toNat (capObj (k f)) (capOff (k f) (memOff p f)) with
          acq := p.qc == 6 }) s))
    ∧ (∀ p : RedP, (Instr.red h p).wellFormed = true → p.q = true →
      let k := fun (f : Fibre) => capReg s f p.c.toNat
      let x := fun (f : Fibre) => offVal f p.a.toNat p.o64
      Clear ls (offRegs p.a.toNat p.o64 ++ [p.d.toNat]) →
      (∀ f ∈ gs, checkRegs f (offRegs p.a.toNat p.o64) = none ∧ Reaches s b f (k f) (x f) 4 rRD (cell f)
        ∧ farWindow s b.part (capObj (k f)) = false ∧ s.ue (cell f) 4 = false) →
      Completes (.red h p) s c ls h (gs.foldl (fun t f => pushOut t f
        (loadOut f .query false (cell f) 4 p.d.toNat tI32 0 p.sc.toNat (capObj (k f)) (capOff (k f) (x f)))) s))

/-- R231, R240, R243: ST, RED and CAPST put one store for each guard-true lane into the store FIFO of its port and go on; memory is not
touched at issue, and a lane's store hash takes in the feed where recording or replay is on.
The model's own choices in it: log 21. -/
def Obligations.StoresIssue : Prop :=
  ∀ (h : Head) (s : State) (c : Cur) (b : Block) (ls : List Fibre),
    let gs := guardTrue h.g h.gn ls
    Ready s c b ls → AtHome ls → hashWaits s b gs = false → (∀ f ∈ gs, fifoRoom s f.loc f.key.port gs.length = true) →
    (∀ p : MemP, (Instr.st h p).wellFormed = true →
      let k := fun (f : Fibre) => capReg s f p.c.toNat
      Clear ls (offRegs p.a.toNat p.o64 ++ memRegs p) →
      (∀ f ∈ gs, checkRegs f (offRegs p.a.toNat p.o64 ++ memRegs p) = none ∧ accessCheck s b.part (k f) (memOff p f) (memW p) rWR = none) →
      Completes (.st h p) s c ls h (gs.foldl (fun t f =>
        let off := capOff (k f) (memOff p f)
        feedLane (pushStore t f b .st false (capObj (k f)) off (memW p) (storeData p f) p.sc.toNat (p.qc == 7) f.fhash none)
          b f (capObj (k f)) off p.w.toNat (storeData p f)) s))
    ∧ (∀ p : MemP, (Instr.capst h p).wellFormed = true →
      let k := fun (f : Fibre) => capReg s f p.c.toNat
      Clear ls (offRegs p.a.toNat p.o64) →
      (∀ f ∈ gs, checkRegs f (offRegs p.a.toNat p.o64) = none ∧ accessCheck s b.part (k f) (memOff p f) 16 (rWR + rCST) = none) →
      Completes (.capst h p) s c ls h (gs.foldl (fun t f =>
        let off := capOff (k f) (memOff p f)
        let v := (capReg s f p.d.toNat).toNat
        feedLane (pushStore t f b .capst false (capObj (k f)) off 16 v p.sc.toNat false f.fhash none) b f (capObj (k f)) off 4 v) s))
    ∧ (∀ p : RedP, (Instr.red h p).wellFormed = true → p.q = false →
      let k := fun (f : Fibre) => capReg s f p.c.toNat
      let wide := p.rfmt == 4
      let w := if wide then 8 else 4
      let off := fun (f : Fibre) => capOff (k f) (offVal f p.a.toNat p.o64)
      Clear ls (offRegs p.a.toNat p.o64 ++ pairRegs p.b.toNat wide) → (∀ f ∈ gs, gated s b (capObj (k f)) = false) →
      (∀ f ∈ gs, checkRegs f (offRegs p.a.toNat p.o64) = none ∧ pairCheck f p.b.toNat wide (redTagsOf p) = none
        ∧ accessCheck s b.part (k f) (offVal f p.a.toNat p.o64) w (rWR + rAT) = none) →
      Completes (.red h p) s c ls h (gs.foldl (fun t f =>
        let v := pairVal f p.b.toNat wide
        feedLane (pushStore t f b (.red p.rop.toNat p.rfmt.toNat) false (capObj (k f)) (off f) w v p.sc.toNat p.rel f.fhash none)
          b f (capObj (k f)) (off f) (if wide then 3 else 2) v) s))

/-- R230 to R233, R238, R247, R62: LDL, STL, FESET, FECLR and ATOM on the scratchpad and ATOM on memory enter their requests and go on; a lane
of a full/empty qualifier, and one of a scratchpad ATOM, waits until its own access has performed, and the destinations of an LDL are noted
with the batch's completion count.
The model's own choices in it: log 5, 9, 21. -/
def Obligations.ScratchpadAndAtomics : Prop :=
  ∀ (h : Head) (s : State) (c : Cur) (b : Block) (ls : List Fibre),
    let gs := guardTrue h.g h.gn ls
    let room := ∀ f ∈ gs, fifoRoom s f.loc f.key.port gs.length = true
    Ready s c b ls → AtHome ls →
    (∀ p : MemP, (Instr.ldl h p).wellFormed = true →
      let o := fun (f : Fibre) => spadOff p f
      let cell := fun (f : Fibre) => spadCell b (o f).toNat
      let fe := if p.qc = 1 then 1 else if p.qc = 2 then 2 else 0
      Clear ls (offRegs p.a.toNat p.o64 ++ memRegs p) → lanesFit s gs = true →
      (∀ f ∈ gs, checkRegs f [p.a.toNat] = none ∧ spadCheck b (o f) (memW p) = none
        ∧ s.ue (cell f) (memW p) = false ∧ (fe ≠ 0 → s.isLive (granOf (cell f)) = false)) →
      Completes (.ldl h p) s c ls h (gs.foldl (fun t f =>
        let t := pushOut t f
          { loadOut f .load true (cell f) (memW p) p.d.toNat p.t fe p.sc.toNat (cell f) (o f).toNat with acq := p.qc == 6 }
        if fe = 0 then t else setFibre t f.key fun g => { g with run := .waiting (.fe (cell f)) }) (noteLdl s gs (memRegs p))))
    ∧ (∀ p : MemP, (Instr.stl h p).wellFormed = true →
      let o := fun (f : Fibre) => spadOff p f
      let cell := fun (f : Fibre) => spadCell b (o f).toNat
      Clear ls (offRegs p.a.toNat p.o64 ++ memRegs p) → hashWaits s b gs = false → room →
      (∀ f ∈ gs, checkRegs f (p.a.toNat :: memRegs p) = none ∧ spadCheck b (o f) (memW p) = none ∧ s.isLive (granOf (cell f)) = false) →
      Completes (.stl h p) s c ls h (gs.foldl (fun t f =>
        let t := pushStore t f b (.stl p.qc.toNat) true (cell f) (o f).toNat (memW p) (storeData p f) p.sc.toNat (p.qc == 7) f.fhash none
        let t := feedLane t b f 0 (o f).toNat p.w.toNat (storeData p f)
        if p.qc = 1 then setFibre t f.key fun g => { g with run := .waiting (.fe (cell f)) } else t) s))
    ∧ (∀ (p : GranP) (set : Bool),
      let i := if set then Instr.feset h p else .feclr h p
      i.wellFormed = true → Clear ls [p.a.toNat] → room →
      (∀ f ∈ gs, checkTag none (f.reg p.a.toNat) = none ∧ spadCheck b (granOff p f) 16 = none ∧ s.isLive (granOf (granCell b p f)) = false) →
      Completes i s c ls h (gs.foldl (fun t f =>
        pushStore t f b (if set then .feset else .feclr) true (granCell b p f) (granOff p f).toNat 16 0 1 set f.fhash none) s))
    ∧ (∀ (p : AtomP) (cell : Fibre → Nat), (Instr.atom h p).wellFormed = true →
      let w := if p.w64 then 8 else 4
      let off := fun (f : Fibre) => if p.sp then (f.val p.a.toNat).toNat else capOff (capReg s f p.c.toNat) (offVal f p.a.toNat p.o64)
      let obj := fun (f : Fibre) => if p.sp then cell f else capObj (capReg s f p.c.toNat)
      Clear ls (offRegs p.a.toNat p.o64 ++ pairRegs p.b.toNat p.w64 ++ (if p.aop = 1 then pairRegs p.e.toNat p.w64 else [])
        ++ pairRegs p.d.toNat p.w64) → lanesFit s gs = true →
      (∀ f ∈ gs, checkRegs f (offRegs p.a.toNat p.o64) = none ∧ pairCheck f p.b.toNat p.w64 (atomTags p) = none
        ∧ (p.aop = 1 → pairCheck f p.e.toNat p.w64 (atomTags p) = none)
        ∧ s.ue (cell f) w = false
        ∧ (if p.sp then cell f = spadCell b (off f) ∧ spadCheck b (off f) w = none ∧ s.isLive (granOf (cell f)) = false
           else gated s b (obj f) = false
             ∧ Reaches s b f (capReg s f p.c.toNat) (offVal f p.a.toNat p.o64) w (rRD + rWR + rAT) (cell f))) →
      Completes (.atom h p) s c ls h (gs.foldl (fun t f =>
        let t := pushOut t f
          { loadOut f .atom p.sp (cell f) w p.d.toNat tRaw p.ord.toNat p.sc.toNat (obj f) (off f) with
            tags := atomOut p, acq := p.ord.toNat % 2 == 1, aop := p.aop.toNat, b := pairVal f p.b.toNat p.w64
            e := pairVal f p.e.toNat p.w64 }
        if p.sp then setFibre t f.key fun g => { g with run := .waiting .gate } else t) s))

/-- R235, R64, R9: LDA of one lane counts one more transaction outstanding on its barrier object and on the lane's lda counter, and sends it.
The model's own choices in it: log 9. -/
def Obligations.TransactionsIssue : Prop :=
  ∀ (h : Head) (p : LdaP) (s : State) (c : Cur) (b : Block) (ls : List Fibre) (f : Fibre) (cell : Nat),
    let w := 2 ^ p.w.toNat
    let dst := spadCell b (f.val p.d.toNat).toNat
    let bar := spadCell b (f.val p.b.toNat).toNat
    Ready s c b ls → AtHome ls → guardTrue h.g h.gn ls = [f] → (Instr.lda h p).wellFormed = true →
    Clear ls (offRegs p.a.toNat p.o64 ++ [p.b.toNat, p.d.toNat]) →
    checkRegs f (offRegs p.a.toNat p.o64 ++ [p.b.toNat, p.d.toNat]) = none →
    Reaches s b f (capReg s f p.c.toNat) (offVal f p.a.toNat p.o64) w rRD cell →
    spadCheck b (f.val p.d.toNat).toNat w = none → spadCheck b (f.val p.b.toNat).toNat 16 = none → s.isLive (granOf bar) = true →
    f.counter 4 < 63 → (barObj s bar).pending < 2 ^ 24 - 1 → reqRoom s f.loc 1 = true → f.sent = 0 →
    Completes (.lda h p) s c ls h
      (setFibre
        (pendingUp { s with ldas := s.ldas ++ [{ id := s.seq, fib := f.key, opId := s.seq, blk := b.id, src := cell, w := w, dst := dst, bar := bar }] }
          bar 1)
        f.key fun g => { (g.addOp s.seq 4) with sent := 1 }).fresh

/-- R242, R167: a FENCE whose lanes' earlier accesses have all performed, with no marker to send, clears the port's die mask and for domain
scope its device set, and goes on; before that it waits before issue, and with markers to send it sends one to each destination of the mask
and waits for their gatherings. -/
def Obligations.Fences : Prop :=
  ∀ (h : Head) (p : FenceP) (s : State) (c : Cur) (b : Block) (ls : List Fibre) (f : Fibre) (fs : List Fibre),
    Ready s c b ls → guardTrue h.g h.gn ls = f :: fs → (Instr.fence h p).wellFormed = true →
    ((∀ g ∈ f :: fs, g.outs = [] ∧ storesOf s g.key = []) → f.sentTo = [] → markerDests (portOf s f.loc f.key.port) p.sc.toNat = [] →
      Completes (.fence h p) s c ls h (clearMask s f.loc f.key.port p.sc.toNat))
    ∧ ((∃ g ∈ f :: fs, g.outs ≠ [] ∨ storesOf s g.key ≠ []) → exec (.fence h p) s = .next (waitBatch s ls false))
    ∧ ((∀ g ∈ f :: fs, g.outs = [] ∧ storesOf s g.key = []) → f.sentTo = [] → markerDests (portOf s f.loc f.key.port) p.sc.toNat ≠ [] →
      let q := sendMarkers s f.loc f.key.port p.sc.toNat
      exec (.fence h p) s = .next (waitBatch (setFibres q.1 ((f :: fs).map (·.key)) fun g =>
        { g with sentTo := g.sentTo.filter (fun x => x.2 != 0) ++ q.2.map fun i => (i, 0) }) ls false))

/-- R243, R245, R48: the capability instructions act through the lowest guard-true lane: CAPLD reads a tagged granule, CNARROW and CRIGHTS
derive a capability of no more range and no more rights, CINFO gives a capability's fields to four uniform registers.
The model's own choices in it: log 9. -/
def Obligations.CapabilityInstructions : Prop :=
  ∀ (h : Head) (s : State) (c : Cur) (b : Block) (ls : List Fibre) (f : Fibre) (fs : List Fibre),
    Ready s c b ls → AtHome ls → guardTrue h.g h.gn ls = f :: fs →
    (∀ (p : MemP) (cell : Nat), (Instr.capld h p).wellFormed = true →
      let k := capReg s f p.c.toNat
      Clear ls (offRegs p.a.toNat p.o64) → checkRegs f (offRegs p.a.toNat p.o64) = none → Reaches s b f k (memOff p f) 16 (rRD + rCLD) cell →
      s.ue cell 16 = false → f.reading = false → ownPending s f false (capObj k) (capOff k (memOff p f)) 16 = false → rowWaits s cell = false →
      s.capTags.contains cell = true →
      let t := touch s cell
      Completes (.capld h p) s c ls h (putCap t b.part f p.d.toNat (BitVec.ofNat 128 (t.read cell 16))))
    ∧ (∀ p : CnarrowP, (Instr.cnarrow h p).wellFormed = true →
      let k := capReg s f p.cs.toNat
      let off := (uniPair s f p.sb.toNat).toInt
      let lim := (uniPair s f p.sl.toNat).toNat
      0 ≤ off → off + lim ≤ capLimit k → openHeld s f p.cd.toNat = false →
      Completes (.cnarrow h p) s c ls h (setCap s b.part f p.cd.toNat (mkCap (capObj k) (capRights k) lim (capBase k + off.toNat))))
    ∧ (∀ p : CnarrowP, (Instr.cnarrow h p).wellFormed = true → CanTrap s b ls 0x07 → (f :: fs) = ls →
      ((uniPair s f p.sb.toNat).toInt < 0
        ∨ (capLimit (capReg s f p.cs.toNat) : Int) < (uniPair s f p.sb.toNat).toInt + (uniPair s f p.sl.toNat).toNat) →
      exec (.cnarrow h p) s = .next (trapOf s c b ls 0x07 0 0 false h.y))
    ∧ (∀ p : CrightsP, (Instr.crights h p).wellFormed = true →
      let k := capReg s f p.cs.toNat
      openHeld s f p.cd.toNat = false → Completes (.crights h p) s c ls h
        (putCap s b.part f p.cd.toNat (mkCap (capObj k) (capRights k &&& p.mask.toNat) (capLimit k) (capBase k))))
    ∧ (∀ p : CinfoP, (Instr.cinfo h p).wellFormed = true →
      let k := capReg s f p.cs.toNat
      Completes (.cinfo h p) s c ls h (setUnis s f p.sd.toNat
        [BitVec.ofNat 32 (capObj k), BitVec.ofNat 32 (capBase k), BitVec.ofNat 32 (capLimit k),
          BitVec.ofBool (openMark s f p.cs.toNat) ++ 0#3 ++ BitVec.ofNat 8 (capRights k) ++ BitVec.ofNat 8 (capLimit k / 2 ^ 32)
            ++ BitVec.ofNat 12 (capBase k / 2 ^ 32)]))

/-- R246 to R251: FETEST gives a granule's full bit, 0 for a live one; BINIT zeroes a granule, or makes, remakes or ends a barrier object, which
heals a damaged granule, serves or traps those who wait there; BARV counts an
arrival and gives the phase; BEXPT expects more transactions; BWAIT waits while the phase is the one named. One lane of a batch. -/
def Obligations.BarrierObjects : Prop :=
  ∀ (h : Head) (p : GranP) (s : State) (c : Cur) (b : Block) (ls : List Fibre) (f : Fibre),
    let g := granCell b p f
    let v := f.val p.v.toNat
    let o := barObj s g
    Ready s c b ls → AtHome ls → guardTrue h.g h.gn ls = [f] → checkTag none (f.reg p.a.toNat) = none →
    spadCheck b (granOff p f) 16 = none → f.outs = [] → storesOf s f.key = [] → Clear ls [p.a.toNat, p.v.toNat] →
    let made := (putBarObj (healGran s g 16) g { phase := 0, expect := v.toNat, arrived := 0, pending := 0, waiters := 0 }).setLive g true
    let zeroed := spadWrite s g 16 0
    let born := clobberWaiters (made.setFull g false) g
    let unborn := fillGran (healGran zeroed g 16) g false
    let ended := deliver (trapLater ((zeroed.setLive g false).setFull g false) ((heldArrivals s g).map (·.key)) cIllegalOp 0)
    ((Instr.fetest h p).wellFormed = true →
      Completes (.fetest h p) s c ls h (wrote s [f] (some 2) fun _ => [.pred p.pd.toNat (!s.isLive g && s.isFull g)]))
    ∧ ((Instr.binit h p).wellFormed = true → checkTag none (f.reg p.v.toNat) = none →
      (s.isLive g = false → v = 0 → Stays unborn b ls → Completes (.binit h p) s c ls h unborn)
      ∧ (s.isLive g = false → 0 < v.toNat → v.toNat ≤ 8192 → Stays born b ls → Completes (.binit h p) s c ls h born)
      ∧ (s.isLive g = true → o.waiters = 0 → v = 0 → Stays ended b ls → Completes (.binit h p) s c ls h ended)
      ∧ (s.isLive g = true → o.waiters = 0 → 0 < v.toNat → v.toNat ≤ 8192 →
        let t := putBarObj s g { o with phase := 0, arrived := 0, expect := v.toNat }
        Completes (.binit h p) s c ls h (phaseCheck (phaseFuel t) t g)))
    ∧ ((Instr.barv h p).wellFormed = true → s.isLive g = true → o.arrived < o.expect →
      let t := setFibre (putBarObj s g { o with arrived := o.arrived + 1 }) f.key fun x =>
        x.writeNow (.reg p.v.toNat { val := BitVec.ofNat 32 o.phase, tag := tI32 })
      Completes (.barv h p) s c ls h (phaseCheck (phaseFuel t) t g))
    ∧ ((Instr.bexpt h p).wellFormed = true → checkTag none (f.reg p.v.toNat) = none → s.isLive g = true → o.pending + v.toNat ≤ 2 ^ 24 - 1 →
      Completes (.bexpt h p) s c ls h (pendingUp s g v.toNat))
    ∧ ((Instr.bwait h p).wellFormed = true → checkTag none (f.reg p.v.toNat) = none → s.isLive g = true →
      (o.phase ≠ v.toNat → Completes (.bwait h p) s c ls h s)
      ∧ (o.phase = v.toNat → Completes (.bwait h p) s c ls h
          (setFibre (putBarObj s g { o with waiters := o.waiters + 1 }) f.key fun x => { x with run := .waiting (.bwait g) })))
/-! ### Messages and remote adds -/

/-- R252 to R256: a SEND whose consumers all take their messages has sent them and goes on; RECV gives each guard-true lane the oldest entry of
its block part's queue, or makes it wait, or clears its predicate; QPOLL gives the entries and the free entries of the queue that
SEL names. A message of one lane to its own block part's queue, where no lane waits and there is room, stands last in it with the sender's
words and header; a RECV of one lane takes the first entry and writes its words, 0 tagged RAW beyond them, its header where HV is 1, and
sets its predicate; of an empty queue with WAIT 0 it clears the predicate alone.
The model's own choices in it: log 4. -/
def Obligations.Messages : Prop :=
  (∀ (h : Head) (s : State) (c : Cur) (b : Block) (ls : List Fibre),
    let gs := guardTrue h.g h.gn ls
    Ready s c b ls → AtHome ls →
    (∀ p : SendP,
      let rs := (List.range (2 ^ p.nw.toNat)).map (· + p.a.toNat)
      let r := match sendScope p with | some sc => released s gs sc | none => (s, true)
      let q := sendAll b p r.1 (gs.flatMap fun f => (consumers p).map fun m => (f.key, m))
      (Instr.send h p).wellFormed = true → sendIllegal s p = false → Clear ls rs → (∀ f ∈ gs, checkRegs f rs = none) →
      (p.mask.getLsbD 6 = true → ∀ f ∈ gs, f.counter 3 < 63) → r.2 = true → q.2 = true → Completes (.send h p) s c ls h q.1)
    ∧ (∀ p : RecvP,
      let rs := (List.range (2 ^ p.nw.toNat)).map (· + p.d.toNat)
      (Instr.recv h p).wellFormed = true → Clear ls (rs ++ if p.hv then [p.h.toNat] else []) →
      Completes (.recv h p) s c ls h (gs.foldl (recvLane p) s))
    ∧ (∀ p : QpollP, (Instr.qpoll h p).wellFormed = true → Clear ls [p.d.toNat] → (∀ f ∈ ls, (polled s p f).isSome = true) →
      Completes (.qpoll h p) s c ls h (wrote s gs none fun f =>
        let n := match polled s p f with | some q => q.inq.length | none => 0
        [.reg p.d.toNat { val := BitVec.ofNat 32 (n + 2 ^ 8 * (64 - n)), tag := tI32 }])))
  ∧ (∀ (p : SendP) (s : State) (b : Block) (f : Fibre) (q : Part), partOf s f = some q → q.core = f.key.core → q.bp = f.bp →
    firstReceiver s q.core q.bp = none → q.inq.length < 64 →
    ∃ t, accept s b p f 3 = some t ∧ t.mem = s.mem ∧ t.fibres = s.fibres
      ∧ ∃ q', partOf t f = some q' ∧ q' = { q with inq := q.inq ++ [messageOf b p false f] })
  ∧ (∀ (p : RecvP) (s : State) (f : Fibre) (q : Part) (m : QMsg) (r : List QMsg),
    fibre? s f.key = some f → partOf s f = some q → q.core = f.key.core → q.bp = f.bp → q.inq = m :: r → f.pend = [] →
    f.regs.length = 64 → p.d.toNat + 2 ^ p.nw.toNat ≤ 64 → (p.hv = true → ¬ (p.d.toNat ≤ p.h.toNat ∧ p.h.toNat < p.d.toNat + 2 ^ p.nw.toNat)) →
    ∃ g, fibre? (recvLane p s f) f.key = some g ∧ (∃ q', partOf (recvLane p s f) f = some q' ∧ q'.inq = r)
      ∧ (∀ k, k < 2 ^ p.nw.toNat → g.reg (p.d.toNat + k) = m.words.getD k { val := 0, tag := tRaw })
      ∧ (p.hv = true → g.reg p.h.toNat = { val := m.header, tag := tRaw })
      ∧ (p.pd.toNat < 96 → g.pred p.pd.toNat = true) ∧ g.run = f.run)
  ∧ (∀ (p : RecvP) (s : State) (f : Fibre) (q : Part), partOf s f = some q → q.inq = [] → p.wait = false →
    recvLane p s f = setFibre s f.key fun g => g.writeNow (.pred p.pd.toNat false))

/-- R147, R266, R267: a RADD of one lane, once its earlier accesses have performed (log 19), sends one message to the member it names, with the
sender's exponent, and counts one fabric operation; its global form puts one store with an operation into the FIFO.
The model's own choices in it: log 4. -/
def Obligations.RemoteAdds : Prop :=
  ∀ (h : Head) (p : RaddP) (s : State) (c : Cur) (b : Block) (ls : List Fibre) (f : Fibre),
    let a := p.a.toNat
    let member := (if p.gu then uni s f p.g.toNat else f.val p.g.toNat).toNat
    let o := ((f.val a).toNat : Int) + 4 * p.off.toInt
    let k := capReg s f p.c.toNat
    let x := offVal f a p.o64 + 4 * p.off.toInt
    Ready s c b ls → AtHome ls → guardTrue h.g h.gn ls = [f] → (Instr.radd h p).wellFormed = true → featureOn s 3 = true → f.counter 3 < 63 →
    Clear ls (offRegs a p.o64 ++ [p.b.toNat] ++ (if p.gl || p.gu then [] else [p.g.toNat])) →
    checkTag (raddTag p.fmt.toNat) (f.reg p.b.toNat) = none → checkRegs f (offRegs a p.o64) = none →
    (p.gl = false → b.gang.isSome = true → f.outs = [] → storesOf s f.key = [] →
      (p.gu = false → checkTag none (f.reg p.g.toNat) = none) → ∀ mb, memberBlock s b member = some mb →
      spadCheck b o 4 = none →
      Completes (.radd h p) s c ls h
        (setFibre { s.fresh with msgs := s.msgs ++ [{ id := s.seq, src := f.key, blk := b.id, opId := s.seq
                                                      kind := .radd mb o.toNat (f.val p.b.toNat) p.fmt.toNat b.lsst.esend }] }
          f.key fun g => g.addOp s.seq 3))
    ∧ (p.gl = true → accessCheck s b.part k x 4 (rWR + rAT) = none → hashWaits s b [f] = false → fifoRoom s f.loc f.key.port 1 = true →
      gated s b (capObj k) = false →
      let t := setFibre s.fresh f.key fun g => g.addOp s.seq 3
      Completes (.radd h p) s c ls h
        (feedLane (pushStore t f b (.radd p.fmt.toNat b.lsst.esend) false (capObj k) (capOff k x) 4 (f.val p.b.toNat).toNat 0 false f.fhash
          (some s.seq)) b f (capObj k) (capOff k x) 2 (f.val p.b.toNat).toNat))

/-- R147, R149, R150, R253, R256, R68: what arrives over the fabric. A message enters its queue when it overtakes none; an add rescaled by
the exponents is added at its bank, whose granule becomes full; an update of ESEND reaches the member; completed operations leave the
fabric counter in issue order; a global add applies at its word.
The model's own choices in it: log 4, 5. -/
def Obligations.FabricArrivals : Prop :=
  (∀ (s t : State) (m : Msg) (op blk core : Nat) (q : QMsg) (b : Block) (x : Part),
    s.msgs.find? (fun y => y.id == op) = some m → m.kind = .send blk core q → overtakes s m = false → block? s blk = some b →
    b.killed = false → partAt s blk (b.cluster * 4 + core) = some x → enqueue s x q = some t →
    exec (.queueEntryArrival op) s = .next (markOp (dropMsg t op) m.src m.opId false))
  ∧ (∀ (s : State) (m : Msg) (op blk off fmt : Nat) (v : Word) (es : BitVec 8) (b : Block),
    s.msgs.find? (fun y => y.id == op) = some m → m.kind = .radd blk off v fmt es → block? s blk = some b → b.killed = false →
    let a := spadCell b off
    s.isLive (granOf a) = false → s.ue a 4 = false →
    let r := raddApply b.lsst (s.read a 4) v fmt es
    exec (.raddArrival op) s = .next (markOp
      (deliver (fillGran (setBlock (spadWrite (dropMsg s op) a 4 r.1) blk fun d => { d with lsst := r.2 }) (granOf a) true)) m.src m.opId false))
  ∧ (∀ (s : State) (m : Msg) (op blk : Nat) (v : BitVec 8),
    s.msgs.find? (fun y => y.id == op) = some m → m.kind = .esend blk v →
    exec (.esendUpdate op) s = .next (setBlock (dropMsg s op) blk fun d => { d with lsst := { d.lsst with esend := v } }))
  ∧ (∀ (s : State) (core port ctx : Nat) (f : Fibre) (o : AOp) (r : List AOp),
    fibre? s { core := core, port := port, ctx := ctx } = some f → f.ops = o :: r → o.cls = 3 → o.done = true →
    (∀ y ∈ r, y.cls = 3 → y.done = false) →
    ∃ t g, exec (.fabCompletion core port ctx) s = .next t ∧ t.mem = s.mem ∧ fibre? t f.key = some g ∧ g.ops = r
      ∧ g.regs = f.regs ∧ g.sticky = if o.err then f.sticky ||| 8#5 else f.sticky)
  ∧ (∀ (s : State) (core port a fmt : Nat) (es : BitVec 8) (x : Store) (i : Nat),
    (portOf s core port).fifo.head? = some x → x.kind = .radd fmt es → turnOf s core port x = .go a → x.opId = some i → s.ue a 4 = false →
    rrMode s x.part = 0 →
    let u := touch s a
    exec (.raddGlobalApply core port) s = .next (deliver (reap (completeOp
      (openGate (noteDest ((popStore u core port x.id).write a 4 (raddNew fmt (u.read a 4) x.data es)) core port x a) x.fib) x.fib i 3 false))))

/-! ### How accesses perform -/

/-- R231, R173, R55, R63, R65, R233, R247: the head of a store FIFO that may go performs at its cell and leaves the FIFO: a plain store writes its
bytes and clears capability tags, CAPST writes a tagged granule, a scratchpad store writes its bytes and, by its qualifier, fills
or empties its granule, and one to a live granule is discarded; an STL.fe to an empty granule writes, fills it and lets its lane go on, and one to a
full granule waits there; RED applies its operation to words that no other operation has marked, and is rejected where one has: it writes no
data, sets the words' conflict flags and adds one to the fibre's rejection count. A trap that waited for the store is then delivered. Port 4, which
no core has, stands for the device's own writes (log 4): the first that no row and no sleeping stack holds back is made.
The model's own choices in it: log 4, 5. -/
def Obligations.StoresPerform : Prop :=
  (∀ (s : State) (core port : Nat) (x : Store) (a : Nat),
    let u := touch s a
    let t := popStore u core port x.id
    let done := fun (e : State) => exec (.storePerform core port) s = .next (deliver e)
    port ≠ 4 → (portOf s core port).fifo.head? = some x → turnOf s core port x = .go a →
    (x.kind = .st → (s.ue a x.w = false ∨ 16 ≤ x.w) → done (reap (noteDest (healGran (t.write a x.w x.data) a x.w) core port x a)))
    ∧ (x.kind = .capst → done (reap (noteDest (healGran (t.writeCap a (BitVec.ofNat 128 x.data)) a 16) core port x a)))
    ∧ (∀ qc, x.kind = .stl qc → s.isLive (granOf x.obj) = false → (s.ue x.obj x.w = false ∨ 16 ≤ x.w) → qc ≠ 1 →
      let w := healGran (spadWrite t x.obj x.w x.data) x.obj x.w
      done (reap (if qc = 3 then fillGran w (granOf x.obj) true else w)))
    ∧ (x.kind = .stl 1 → s.isLive (granOf x.obj) = false → (s.ue x.obj x.w = false ∨ 16 ≤ x.w) →
      (s.isFull (granOf x.obj) = true → done { t.fresh with feStores := t.feStores ++ [{ x with id := t.seq }] })
      ∧ (s.isFull (granOf x.obj) = false →
        done (reap (fillGran (freeFe (healGran (spadWrite t x.obj x.w x.data) x.obj x.w) x.fib) (granOf x.obj) true))))
    ∧ (∀ qc, x.kind = .stl qc → s.isLive (granOf x.obj) = true → done (loseStore u core port x))
    ∧ (x.kind = .feset → s.isLive (granOf x.obj) = false → done (reap (fillGran t (granOf x.obj) true)))
    ∧ (x.kind = .feclr → s.isLive (granOf x.obj) = false → done (reap (fillGran t (granOf x.obj) false)))
    ∧ (∀ rop rfmt, x.kind = .red rop rfmt → rrMode s x.part = 0 → s.ue a x.w = false →
      let own := ∀ y ∈ wordsOf a x.w, ∀ z, s.redTags.find? (fun q => q.1 == y) = some z → z.2 = rop * 8 + rfmt
      let v := noteDest t core port x a
      (own → done (reap (openGate
        { v with
          mem := writeMem v.mem a (redNew rop rfmt (v.read a x.w) x.data) x.w
          capTags := v.capTags.filter (fun g => !(gransOf a x.w).contains g)
          redTags := (wordsOf a x.w).foldl (fun l y => mapPut y (rop * 8 + rfmt) l) v.redTags } x.fib)))
      ∧ (¬ own → done (reap (setFibre
          (openGate { v with redFlags := (wordsOf a x.w).foldl (fun l y => setIns y l) v.redFlags } x.fib) x.fib fun f =>
            if f.blk == x.blk && f.fid == x.fid && f.redrej != 0xFFFFFFFF then { f with redrej := f.redrej + 1 } else f)))))
  ∧ (∀ (s : State) (core : Nat) (x : Nat × Nat × Nat) (r : List (Nat × Nat × Nat)), s.devWrites = x :: r → rowWaits s x.1 = false →
    exec (.storePerform core 4) s = .next ((touch { s with devWrites := r } x.1).write x.1 x.2.1 x.2.2))

/-- R231, R4, R55: a plain store that performs leaves every byte outside its own as it was, its own bytes read as its data little-endian, and
the capability tag of every granule it touches is cleared, every other one kept.
The model's own choices in it: log 1, 2. -/
def Obligations.StoreFrame : Prop :=
  ∀ (s t : State) (core port : Nat) (x : Store) (a : Nat),
    s.Inv → port ≠ 4 → (portOf s core port).fifo.head? = some x → x.kind = .st → turnOf s core port x = .go a → (s.ue a x.w = false ∨ 16 ≤ x.w) →
    exec (.storePerform core port) s = .next t →
    (∀ i, i < a ∨ a + x.w ≤ i → memGet t.mem i = memGet s.mem i) ∧ t.read a x.w = x.data % 256 ^ x.w
      ∧ (∀ g, g ∈ t.capTags ↔ g ∈ s.capTags ∧ g ∉ gransOf a x.w) ∧ t.fullBits = s.fullBits ∧ t.liveBits = s.liveBits
      ∧ t.parts = s.parts ∧ t.blocks = s.blocks ∧ t.sys = s.sys

/-- R230, R241, R160, R62, R233, R17: the oldest outstanding load of a fibre, which nothing holds, returns: its registers receive the bytes its
lane sees, with their tags, and it is no longer outstanding; one that meets an uncorrectable error writes nothing, and its lane traps DATA_UE.
A cut that a CUTREG has yet to enter holds no load back (R310).
The model's own choices in it: log 5, 9. -/
def Obligations.LoadsPerform : Prop :=
  (∀ (s : State) (core port ctx : Nat) (f : Fibre) (o : Out), ctx < Config.ctxPerPort →
    fibre? s { core := core, port := port, ctx := ctx } = some f → f.nextOut = some o → o.spad = false → (o.kind = .load ∨ o.kind = .query) →
    storesHold s f o = false → weightWaits s o = false → rowWaits s o.addr = false →
    let u := touch s o.addr
    (loadHurt s f o = false →
      exec (.loadComplete core port ctx) s = .next (deliver (setFibre u f.key fun g => g.finishOut o
        (if o.kind = .query then queryWord u o.addr else readOwn u f.key o.id false o.obj o.off o.addr o.w))))
    ∧ (loadHurt s f o = true → f.takesTrap = true →
      exec (.loadComplete core port ctx) s = .next (deliver (trapOut u f.key o 0x0D))))
  ∧ (∀ (s : State) (core port ctx op : Nat) (f : Fibre) (o : Out),
    fibre? s { core := core, port := port, ctx := ctx } = some f → f.nextOut = some o → o.id = op → o.spad = true → o.kind = .load →
    o.atBank = false →
    (o.fe = 0 → storesHold s f o = false → loadHurt s f o = false →
      exec (.ldlLaneComplete core port ctx op) s = .next (deliver (setFibre s f.key fun g => g.finishOut o
        (readOwn s f.key o.id true o.obj o.off o.addr o.w))))
    ∧ (o.fe ≠ 0 → ownStores s f.key o.id true o.obj (granOf o.off) 16 = [] → (o.fe = 2 → ∀ x ∈ storesOf s f.key, o.id ≤ x.id) → s.isLive (granOf o.addr) = false →
      let t := setFibre s.fresh f.key fun g =>
        { g with waitSeq := s.seq, outs := g.outs.map fun y => if y.id == op then { y with atBank := true } else y }
      exec (.ldlLaneComplete core port ctx op) s = .next (deliver (serveGran (serveFuel t) t (granOf o.addr)))))
  ∧ (∀ (f : Fibre) (o : Out) (v : Nat), f.pend = [] → o.d + o.tags.length ≤ f.regs.length →
    let g := f.finishOut o v
    (∀ y, y ∈ g.outs ↔ y ∈ f.outs ∧ y.id ≠ o.id) ∧ g.preds = f.preds ∧ g.pc = f.pc ∧ g.run = f.run
      ∧ (∀ k, k < o.tags.length → g.reg (o.d + k) = { val := BitVec.ofNat 32 (v / 2 ^ (32 * k)), tag := o.tags.getD k tRaw })
      ∧ ∀ n, (n < o.d ∨ o.d + o.tags.length ≤ n) → g.reg n = f.reg n)

/-- R237, R238, R162, R167: ATOM_RMW_PERFORM completes for an atomic that is oldest of its fibre and behind no earlier access of its port, on the
scratchpad and on memory; one of a releasing order on memory first sends its flush markers, and performs once they are gathered, its destinations
cleared. It writes the new value that its operation gives, leaves every other byte as it was, returns the old one to the
lane's registers and is no longer outstanding. The new value is B, B where the old one equals E, the sum, AND, OR, XOR, the signed and unsigned
minimum and maximum, and the sum of two fp32 values.
The model's own choices in it: log 5. -/
def Obligations.AtomicsPerform : Prop :=
  (∀ (s : State) (core port ctx op : Nat) (f : Fibre) (o : Out) (b : Block),
    fibre? s { core := core, port := port, ctx := ctx } = some f → f.nextOut = some o → o.id = op → o.kind = .atom →
    block? s f.blk = some b → atomWaits s f o = false → s.ue o.addr o.w = false →
    (o.spad = true → s.isLive (granOf o.addr) = false → exec (.atomRmwPerform core port ctx op) s = .next (atomDo s b.part f o))
    ∧ (o.spad = false → rowWaits s o.addr = false → o.fe < 2 → f.sentTo = [] → rrMode s b.part = 0 →
      exec (.atomRmwPerform core port ctx op) s = .next (atomDo (touch s o.addr) b.part f o))
    ∧ (o.spad = false → rowWaits s o.addr = false → 2 ≤ o.fe →
      let mine := f.sentTo.filter fun x => x.2 == o.id
      (mine = [] → markerDests (portOf s f.loc port) o.scope ≠ [] →
        let q := sendMarkers s f.loc port o.scope
        exec (.atomRmwPerform core port ctx op) s
          = .next (setFibre q.1 f.key fun g => { g with sentTo := g.sentTo ++ q.2.map fun i => (i, o.id) }))
      ∧ ((mine ≠ [] ∨ markerDests (portOf s f.loc port) o.scope = []) → gathering s f.loc port (mine.map (·.1)) = false → rrMode s b.part = 0 →
        exec (.atomRmwPerform core port ctx op) s = .next (atomDo (touch (clearMask s f.loc port o.scope) o.addr) b.part f o))))
  ∧ (∀ (s : State) (part : Nat) (f : Fibre) (o : Out), s.Inv → (∀ x ∈ s.fibres, x.trapping = false) →
    let t := atomDo s part f o
    let old := s.read o.addr o.w
    t.read o.addr o.w = atomNew o.aop (8 * o.w) old o.b o.e % 256 ^ o.w
      ∧ (∀ i, i < o.addr ∨ o.addr + o.w ≤ i → memGet t.mem i = memGet s.mem i)
      ∧ (fibre? s f.key = some f → f.pend = [] → f.run ≠ .exited → o.d + o.tags.length ≤ f.regs.length →
        ∃ g, fibre? t f.key = some g ∧ (∀ y, y ∈ g.outs ↔ y ∈ f.outs ∧ y.id ≠ o.id)
          ∧ ∀ k, k < o.tags.length → g.reg (o.d + k) = { val := BitVec.ofNat 32 (old / 2 ^ (32 * k)), tag := o.tags.getD k tRaw }))
  ∧ (∀ (w old v e : Nat), atomNew 0 w old v e = v ∧ atomNew 1 w old v e = (if old = e then v else old) ∧ atomNew 2 w old v e = (old + v) % 2 ^ w
    ∧ atomNew 3 w old v e = old &&& v ∧ atomNew 4 w old v e = old ||| v ∧ atomNew 5 w old v e = old ^^^ v
    ∧ atomNew 10 w old v e = (floatResult .fadd .rne false false (BitVec.ofNat 32 old) (BitVec.ofNat 32 v) 0).toNat
    ∧ (old < 2 ^ w → v < 2 ^ w → atomNew 7 w old v e = min old v ∧ atomNew 9 w old v e = max old v
      ∧ (BitVec.ofNat w (atomNew 6 w old v e)).toInt = min (BitVec.ofNat w old).toInt (BitVec.ofNat w v).toInt
      ∧ (BitVec.ofNat w (atomNew 8 w old v e)).toInt = max (BitVec.ofNat w old).toInt (BitVec.ofNat w v).toInt))

/-- R235, R167, R341, R343, R344: an LDA transaction writes its granule, fills it and counts down; a gathering ends, and a trap that waited for it is delivered; a walk that resolves puts a
TLB entry and answers its waiters, and one that finds its page absent or moving may leave that for later requests; a held fault entry is
posted with a free identifier.
The model's own choices in it: log 4, 5, 14. -/
def Obligations.PortsAndTransactions : Prop :=
  (∀ (s : State) (core port ctx op : Nat) (x : LdaTx),
    s.ldas.find? (fun y => y.id == op && y.fib == { core := core, port := port, ctx := ctx }) = some x →
    (∀ f, fibre? s x.fib = some f → f.reading = false) → storesOf s x.fib = [] → rowWaits s x.src = false → s.isLive (granOf x.dst) = false →
    s.ue x.src x.w = false →
    let t := touch { s with ldas := s.ldas.filter (fun y => y.id != op) } x.src
    exec (.ldaTransaction core port ctx op) s = .next (deliver (completeOp
      (pendingDown (fillGran (healGran (spadWrite t x.dst x.w (t.read x.src x.w)) x.dst x.w) (granOf x.dst) true) (granOf x.bar)) x.fib x.opId 4
        false)))
  ∧ (∀ (s : State) (core port op : Nat), (portOf s core port).gathers.any (fun g => g.id == op) = true →
    exec (.flushMarkerGather core port op) s
      = .next (deliver (setPort s core port fun p => { p with gathers := p.gathers.filter (fun g => g.id != op) })))
  ∧ (∀ (s : State) (walk id place : Nat) (w : Walk) (e : Ext) (rx : Bool),
    s.walks.find? (fun y => y.id == walk) = some w → objName s w.part w.obj = .local id → walkServed s w = true →
    walkWaits s w.part id w.page = none →
    let u := (walkCells s w.part id w.page).foldl touch s
    let u' := { u with walks := u.walks.filter (fun y => y.id != walk) }
    let page : Tlb :=
      { mport := ownerPort u w.part id w.page w.mport, part := w.part, range := false, obj := id, lo := w.page, hi := w.page + 4096, place := 0
        cause := none, rx := false, top := 0 }
    (walkTables s w.part id w.page = .ok place e rx →
      let top := e.ostart + 4096 * e.npages
      let t : Tlb := if e.paged then { page with place := place, rx := rx, top := top }
        else { page with range := true, lo := e.ostart, hi := top, place := place - (w.page - e.ostart), rx := rx, top := top }
      exec (.tableWalkComplete walk) s = .next (w.waiters.foldl
        (fun v y => answer v w.part { obj := w.obj, page := w.page, place := some place, cause := 0, rx := rx, top := top } y) (putTlb u' t)))
    ∧ (∀ k, walkTables s w.part id w.page = .bad k →
      exec (.tableWalkComplete walk) s = .next (w.waiters.foldl
        (fun v y => answer v w.part { obj := w.obj, page := w.page, place := none, cause := k, rx := false, top := 0 } y)
        (if k = 2 ∨ k = 3 then putTlb u' { page with cause := some k } else u'))))
  ∧ (∀ (s : State) (held i : Nat) (p : Partn) (e : FaultEntry),
    s.partns.find? (fun q => q.faults.any (fun y => y.eid == held && !y.posted)) = some p → p.faults.find? (fun y => y.eid == held) = some e →
    lowestFree ((p.faults.filter (·.posted)).map (·.ident)) 4096 = some i → (p.faults.filter (fun y => y.posted && !y.popped)).length < 4096 →
    exec (.faultEntryPost held) s = .next (setPartn s p.part fun q =>
      { q with faults := q.faults.filter (fun y => y.eid != held) ++ [{ e with posted := true, ident := i }] }))
/-! ### Billets -/

/-- R110 to R119, R230, R268, R269, R313: an MIGR, or an LD.mig, whose lookup names another stack and which nothing refuses leaves its batch for its
target core with its live set, an LD.mig to issue again there; one that is where its data is goes on, its pending writes landed, and an LD.mig
has sent its request; MIGRH at home goes on, and an away fibre sets out for home with the live set it names. One lane of a batch.
The model's own choices in it: log 5. -/
def Obligations.Migration : Prop :=
  ∀ (h : Head) (s : State) (c : Cur) (b : Block) (f : Fibre),
    Ready s c b [f] → guardTrue h.g h.gn [f] = [f] → featureOn s 1 = true →
    (∀ (p : MigrP) (stack : Nat),
      let k := capReg s f p.c.toNat
      let x := offVal f p.a.toNat p.o64
      let target := 96 * stack + f.key.core % 96
      (Instr.migr h p).wellFormed = true → AtHome [f] → Clear [f] (offRegs p.a.toNat p.o64) → checkRegs f (offRegs p.a.toNat p.o64) = none →
      capCheck k x 1 0 = none → f.own = some { obj := capObj k, off := capOff k x, ans := some stack, ref := 0 } → stack < 64 →
      objName s b.part (capObj k) ≠ .window → (∀ d, objName s b.part (capObj k) ≠ .weight d) → farWindow s b.part (capObj k) = false →
      liveWait s b f p.live.toNat = none → f.acts = false →
      (stack = f.key.core / 96 →
        Completes (.migr h p) s c [f] h (setFibre s f.key fun g => { g.landAll with migst := if p.fb then 0 else g.migst }))
      ∧ (∀ mask cs, stack ≠ f.key.core / 96 → target ≠ f.key.core → refusal s b f k p.live.toNat target = none →
        liveEntry s b f p.live.toNat = some (mask, cs) → (released s [f] 4).2 = true →
        ∃ t g, exec (.migr h p) s = .next t ∧ t.mem = s.mem ∧ fibre? t f.key = some g ∧ g.transit = .out ∧ g.run = .waiting .guestSlot
          ∧ g.slot = none ∧ g.regs = f.regs ∧ g.preds = f.preds
          ∧ g.move = some { core := target, fb := p.fb, live := p.live.toNat, mask := mask, caps := cs.map (fun n => (n, capReg s f n))
                            pc := f.pc + 8, limit := sysGet s b.part 0x0003 % 65536 }))
    ∧ (∀ (p : MemP) (stack : Nat),
      let k := capReg s f p.c.toNat
      let off := capOff k (memOff p f)
      let target := 96 * stack + f.key.core % 96
      let live := ldLive s f
      (Instr.ld h p).wellFormed = true → (p.qc = 4 ∨ p.qc = 5) → AtHome [f] → Clear [f] (offRegs p.a.toNat p.o64 ++ memRegs p) →
      checkRegs f (offRegs p.a.toNat p.o64) = none → accessCheck s b.part k (memOff p f) (memW p) rRD = none →
      f.own = some { obj := capObj k, off := off, ans := some stack, ref := 0 } → stack < 64 → farWindow s b.part (capObj k) = false →
      liveWait s b f live = none → f.acts = false →
      (∀ cell, stack = f.key.core / 96 → lanesFit s [f] = true → translate s b.part (capObj k) off f.xl = .place cell →
        s.ue cell (memW p) = false →
        Completes (.ld h p) s c [f] h (setFibre
          (pushOut s f { loadOut f .load false cell (memW p) p.d.toNat p.t 0 p.sc.toNat (capObj k) off with acq := false })
          f.key fun g => { g.landAll with migst := if p.qc = 5 then 0 else g.migst }))
      ∧ (∀ mask cs, stack ≠ f.key.core / 96 → target ≠ f.key.core → refusal s b f k live target = none →
        liveEntry s b f live = some (mask, cs) → (released s [f] 4).2 = true →
        ∃ t g, exec (.ld h p) s = .next t ∧ t.mem = s.mem ∧ fibre? t f.key = some g ∧ g.transit = .out ∧ g.run = .waiting .guestSlot
          ∧ g.slot = none ∧ g.regs = f.regs ∧ g.preds = f.preds ∧ g.outs = f.outs
          ∧ g.move = some { core := target, fb := decide (p.qc = 5), live := live, mask := mask, caps := cs.map (fun n => (n, capReg s f n))
                            pc := f.pc, limit := sysGet s b.part 0x0003 % 65536 }))
    ∧ (∀ p : MigrhP, (Instr.migrh h p).wellFormed = true →
      (f.guest = none → Completes (.migrh h p) s c [f] h (setFibre s f.key Fibre.landAll))
      ∧ (∀ g0, f.guest = some g0 → liveWait s b f p.live.toNat = none → ∃ t g, exec (.migrh h p) s = .next t ∧ t.mem = s.mem ∧ fibre? t f.key = some g ∧ g.transit = .home
          ∧ g.slot = none ∧ g.pc = f.pc + 8 ∧ g.regs = f.landAll.regs
          ∧ g.guest = some (match liveEntry s b f p.live.toNat with | some x => { g0 with mask := x.1 } | none => g0)))

/-- R116: instructions that an away fibre with the guest record `g` issues at home alone: one that names a uniform register, or a capability register
that the billet did not carry, one that counts an asynchronous operation, one of the scratchpad, full/empty bits, barrier objects or tile
registers, and SEND, RECV, QPOLL, SPAWN, GETSR and SETSR; and the instructions of chapters 15 and 25 that those chapters return home (R362). -/
def homeBound (g : Guest) (i : Instr) : Bool :=
  let lacks := fun (n : Nat) => !g.caps.any (fun c => c.1 == n)
  match i with
  | .icmp _ p | .fcmp _ p => p.bu
  | .bar _ p => p.cnt
  | .tagget _ p => p.tm
  | .lscale _ p => !p.iv
  | .atom _ p => p.sp || lacks p.c.toNat
  | .ld _ p | .st _ p | .ldw _ p => lacks p.c.toNat
  | .red _ p => lacks p.c.toNat
  | .migr _ p => lacks p.c.toNat
  | .swpos _ p => lacks p.c.toNat
  | .capld _ p | .capst _ p => lacks p.c.toNat || lacks p.d.toNat
  | .crights _ p => lacks p.cs.toNat || lacks p.cd.toNat
  | .vtop .. | .umov .. | .getsr .. | .setsr .. | .spawn .. | .ldl .. | .stl .. | .lda .. | .feset .. | .feclr .. | .fetest .. | .binit ..
  | .barv .. | .bexpt .. | .bwait .. | .cnarrow .. | .cinfo .. | .send .. | .recv .. | .qpoll .. | .radd .. | .mxop .. | .mxrd .. | .mxwr ..
  | .mxclr .. | .mxstat .. | .cpy .. | .cpym .. | .cpyt .. | .cpyx .. | .cutreg .. | .cutdrop .. | .cutboost .. | .rowstat .. | .rowprog ..
  | .rowop .. | .nopen .. | .nclose .. | .nbind .. | .nbindm .. | .nring .. | .ninfo .. | .ntag .. => true
  | i => (levelOf i).isSome || (match i.view with | .formX _ _ x => x.bu | _ => false)

/-- R110, R114, R115, R117 to R120, R313, R314: the events of a fibre's journey. A lookup is answered by the extent's home stack; a billet
takes a free guest slot, its live set carried and its other registers INVALID; a move that waits T_guest is refused; an away fibre that reaches an
instruction of R116's list sets out for home, where it issues it; a fibre comes
home with its live set once its earlier accesses have performed at package scope; arrivals count at home and releases reach the guest.
The model's own choices in it: log 4, 5, 19, and log 21 for a fenced target. -/
def Obligations.Journeys : Prop :=
  (∀ (i : Instr) (s : State) (c : Cur) (b : Block) (ls : List Fibre),
    s.cur = some c → lanesOf s c = ls → (∀ f ∈ ls, block? s f.blk = some b) → (∀ f ∈ ls, f.canIssue s = true) →
    let goes := fun (f : Fibre) => f.guest.any fun g => homeBound g i
    (∃ f ∈ ls, goes f = true) →
    exec i s = .next (startReturn s ((ls.filter goes).map (·.key))))
  ∧ (∀ (s : State) (ks : List FKey) (k : FKey) (f : Fibre), k ∈ ks → fibre? s k = some f →
    (startReturn s ks).mem = s.mem ∧ ∃ g, fibre? (startReturn s ks) k = some g ∧ g.transit = .home ∧ g.slot = none ∧ g.pc = f.pc
      ∧ g.regs = f.regs ∧ g.preds = f.preds ∧ g.guest = f.guest)
  ∧ ∀ (s : State) (core port ctx : Nat) (f : Fibre) (b : Block),
    fibre? s { core := core, port := port, ctx := ctx } = some f → block? s f.blk = some b →
    (∀ l k, f.own = some l → l.ans = none → f.transit = .none → lookupWaits s b.part (canonObj l.obj) l.off = none →
      ownerOf s b.part f.stack l.obj l.off = .stack k →
      exec (.ownerLookup core port ctx) s = .next (setFibre s f.key fun g => { g with own := some { l with ans := some k } }))
    ∧ (∀ m, f.move = some m → unitAsleep s (m.core / 4) = false → guestsAt s m.core port f.lane < 2 → coreFenced s m.core = false →
      let t := setFibre s f.key fun g => g.arrive m s.now
      exec (.billetArrival core port ctx) s = .next (if f.away then guestLeft t f.loc else t))
    ∧ (∀ m v, f.move = some m → v < f.regs.length → f.pend = [] →
      let g := f.arrive m s.now
      g.run = .ready ∧ g.pc = m.pc ∧ g.preds = f.preds ∧ g.loc = m.core
        ∧ g.reg v = (if m.mask / 2 ^ v % 2 = 1 then f.reg v else { val := 0, tag := tInvalid }))
    ∧ (∀ m, f.move = some m → (2 ≤ guestsAt s m.core port f.lane ∨ coreFenced s m.core = true) → f.waitSince + m.limit ≤ s.now →
      exec (.guestWaitTimeout core port ctx) s = .next (setFibre s f.key fun g =>
        { g with move := none, transit := .none, run := .ready, own := g.own.map fun l => { l with ref := 6 } }))
    ∧ (∀ g0 t, f.guest = some g0 → f.transit = .home → released s [f] 4 = (t, true) →
      exec (.billetReturn core port ctx) s = .next (guestLeft (setFibre t f.key fun g =>
        { (if g.drops then g else g.landAll).comeHome with slot := none, next := s.now, drops := false }) f.loc))
    ∧ (∀ g0 v, f.guest = some g0 → f.pend = [] → v < g0.homeRegs.length →
      f.comeHome.guest = none ∧ f.comeHome.reg v = if g0.mask / 2 ^ v % 2 = 1 then f.reg v else g0.homeRegs.getD v { val := 0, tag := tRaw })
    ∧ (∀ id ph, f.transit = .barArrival → f.run = .waiting (.bar id ph) →
      exec (.arrivalMessage core port ctx) s
        = .next (barArrive (setFibre s f.key fun g => { g with transit := .none }) f.key f.blk id none))
    ∧ (f.transit = .joinArrival →
      exec (.arrivalMessage core port ctx) s = .next (setFibre s f.key fun g => { g with transit := .none }))
    ∧ (f.transit = .release →
      exec (.releaseMessage core port ctx) s
        = .next (freeMates (setFibre s f.key fun g => { g with transit := .none, run := .ready })))
/-! ### The directory -/

/-- R122 to R133, R278 to R281: the directory instructions act through the lowest guard-true lane and give their status to a uniform register:
NOPEN of a bound name counts an open and makes a marked capability, NCLOSE releases it; NBIND, NBINDM and NRING, once their release has
performed, bind and set a ring's size; NINFO reads, NTAG sets the block part's tag. A binding of a whole object by a new name of an unfull
directory enters it and counts one bind, and the first of an object sets DIRM of its descriptor (R338); an object whose last bind is gone while
nothing holds it open is reclaimed, with a record for the supervisor.
The model's own choices in it: log 7, 9, 19, 21. -/
def Obligations.DirectoryInstructions : Prop :=
  (∀ (h : Head) (p : DirP) (s : State) (c : Cur) (b : Block) (ls : List Fibre) (f : Fibre) (fs : List Fibre),
    let name := uniPair s f p.sn.toNat
    let st := fun (t : State) (code detail : Nat) => setUni t f p.st.toNat (BitVec.ofNat 32 (code + 2 ^ 8 * detail))
    Ready s c b ls → AtHome ls → guardTrue h.g h.gn ls = f :: fs → featureOn s 2 = true →
    (∀ e x, (Instr.nopen h p).wellFormed = true → name ≠ 0 → entry? s b.part name = some e →
      e.slots.getD (slotOf e (dirTag s f p)) none = some x →
      let o := canonObj x.obj
      (∀ d, dirObj? s b.part o = some d → d.opens < 2 ^ 24 - 1) → acquiring f = false →
      let t := setDirObj s b.part o fun d => { d with opens := d.opens + 1 }
      let k := mkCap x.obj x.rights x.lenM1 0
      (capOutdone s f p.c.toNat = false → Completes (.nopen h p) s c ls h
        (st (setPart (setCap t b.part f p.c.toNat k) f.key.core f.bp fun q => { q with opens := q.opens ||| (1#16 <<< p.c.toNat) }) 0 0))
      ∧ (capOutdone s f p.c.toNat = true → Completes (.nopen h p) s c ls h (st (dropOpen t b.part (capObj k)) 0 0)))
    ∧ ((Instr.nopen h p).wellFormed = true → name ≠ 0 → entry? s b.part name = none → p.wait = false → acquiring f = false →
      Completes (.nopen h p) s c ls h (st (setCap s b.part f p.c.toNat 0) 1 0))
    ∧ ((Instr.nclose h p).wellFormed = true → acquiring f = false → Completes (.nclose h p) s c ls h (setCap s b.part f p.c.toNat 0))
    ∧ (∀ t, (Instr.nbind h p).wellFormed = true → released s [f] 4 = (t, true) →
      let k := capReg t f p.c.toNat
      descHeld t b.part [capObj k] = none →
      let u := touchDescs t b.part [capObj k]
      let r := bindOne u b.part (uniPair u f p.sn.toNat) p.imm.toNat k
      Completes (.nbind h p) s c ls h (st (if r.code = 0 then judge b.part r else u) r.code 0))
    ∧ (∀ (t : State) (g : Nat → Nat), (Instr.nbindm h p).wellFormed = true → released s [f] 4 = (t, true) →
      let k := capReg s f p.c.toNat
      let n := p.imm.toNat
      listCheck s b.part k name.toInt n = none →
      (∀ i, i < 2 * n → translate t b.part (capObj k) (capOff k name.toInt + 16 * i) f.xl = .place (g i)
        ∧ rowWaits t (g i) = false ∧ t.ue (g i) 16 = false ∧ (i % 2 = 0 → t.capTags.contains (g i) = true)) →
      let u := ((List.range (2 * n)).map g).foldl touch t
      let rs := (List.range n).map fun i => (BitVec.ofNat 128 (t.read (g (2 * i)) 16), t.read (g (2 * i + 1)) 16)
      badRecord (rs.map fun y => (y.2 / 2 ^ 72, BitVec.ofNat 64 y.2, y.2 / 2 ^ 64 % 256)) = none →
      descHeld u b.part (rs.map fun y => capObj y.1) = none →
      let u := touchDescs u b.part (rs.map fun y => capObj y.1)
      let r := bindAll u u b.part [] 0 (rs.map fun y => (y.1, BitVec.ofNat 64 y.2, y.2 / 2 ^ 64 % 256))
      Completes (.nbindm h p) s c ls h (st r.2.2 r.1 r.2.1))
    ∧ (∀ t, (Instr.nring h p).wellFormed = true → released s [f] 4 = (t, true) →
      let r := ringSet t b.part (uniPair t f p.sn.toNat) p.imm.toNat
      Completes (.nring h p) s c ls h (st (judge b.part r) r.code 0))
    ∧ ((Instr.ninfo h p).wellFormed = true → acquiring f = false →
      let e := if name = 0 then none else entry? s b.part name
      let slot := match e with | some e => slotOf e (dirTag s f p) | none => 0
      let x := e.bind fun e => e.slots.getD slot none
      let opens := match x with | some x => ((dirObj? s b.part (canonObj x.obj)).map (·.opens)).getD 0 | none => 0
      Completes (.ninfo h p) s c ls h (setUnis s f p.st.toNat
        [BitVec.ofNat 32 ((x.map (·.obj)).getD 0),
          BitVec.ofBool x.isSome ++ BitVec.ofNat 4 ((e.map (·.k)).getD 0) ++ BitVec.ofNat 3 slot ++ BitVec.ofNat 24 opens,
          BitVec.ofNat 32 (if name = 0 then 8 else if x.isSome then 0 else 1)]))
    ∧ ((Instr.ntag h p).wellFormed = true →
      Completes (.ntag h p) s c ls h (setPart s f.key.core f.bp fun q => { q with dtag := uni s f p.sn.toNat })))
  ∧ (∀ (s : State) (part : Nat) (name : BitVec 64) (c : CapWord), name ≠ 0 → c ≠ 0 → entry? s part name = none →
    let obj := canonObj (capObj c)
    (∀ d, dirObj? s part obj = some d → d.reclaimed = false) → capRights c % 2 = 1 → capBase c = 0 → objLenM1 s part c = some (capLimit c) →
    (s.names.filter (fun e => e.part == part)).length < (partnOf s part).quota → s.names.length < 65536 →
    let r := bindOne s part name 0 c
    r.code = 0
      ∧ entry? r.s part name = some { part := part, name := name, k := 0
                                      slots := [some { obj := capObj c, lenM1 := capLimit c, rights := capRights c }] }
      ∧ (∃ d, dirObj? r.s part obj = some d ∧ d.binds = ((dirObj? s part obj).map (·.binds)).getD 0 + 1 ∧ d.name = name)
      ∧ ∀ id d, s.Inv → objName s part obj = .local id → descOf s part obj = .ok d → dirObj? s part obj = none →
        let a := (tableOf s part).1 + 32 * obj + 11
        r.s.read a 1 = s.read a 1 ||| 16)
  ∧ (∀ (s : State) (part obj : Nat) (d : DirObj), dirObj? s part obj = some d → d.binds = 0 → d.opens = 0 → d.reclaimed = false →
    (partnOf s part).reclaims.length < 256 →
    let t := reclaimCheck s part obj
    (∃ d', dirObj? t part obj = some d' ∧ d'.reclaimed = true) ∧ (partnOf t part).reclaims = (partnOf s part).reclaims ++ [d.record])


/-! ### Lathes -/

/-- R91, R97, R270 to R277, R105, R275, R310: on rows of one bank, CUTREG goes on with its status outstanding, and at t_reg, which a LOAD_COMPLETE
of its context plus 2048 stands for, registers a cut whose region meets no other and gives status 0, or one of the statuses 4 to 6, the cut of a
lane that has exited without status or counter; CUTDROP takes an entry away, CUTBOOST
sets its boost, ROWSTAT reads its status, with DM its done map too, ROWPROG keeps a program's steps, and ROWOP queues a program. SWPOS reads the
sweep position of a bank. Each acts through the lowest guard-true lane but SWPOS, which acts for every one.
The model's own choices in it: log 3, 4, 5, 19, 21. -/
def Obligations.LatheInstructions : Prop :=
  (∀ (s : State) (core port ctx blk : Nat) (left : Bool) (o : Out) (x : RowAt) (b : Block),
    let key : FKey := { core := core, port := port, ctx := ctx }
    (if left then (∀ f, fibre? s key = some f → ∀ y ∈ f.outs, y.kind ≠ .cut)
        ∧ ∃ q, s.leftCuts.find? (fun c => c.fib == key) = some q ∧ q.blk = blk ∧ q.out = o
      else ∃ f, fibre? s key = some f ∧ f.blk = blk ∧ f.outs.find? (fun y => y.kind == .cut) = some o) →
    rowAt o.addr = some x → block? s blk = some b → asleep s x.stack = false →
    let w := fun k : Nat => BitVec.ofNat 32 (o.b / 2 ^ (32 * k))
    let stand := (w 0).getLsbD 9
    let busy := regionBusy (latheOf s x.stack) x.bank x.row o.w
    let t := touch s o.addr
    let done := fun (v : State) (code : Nat) => exec (.loadComplete core port (ctx + Config.ctxPerPort)) s
      = .next (if left then { v with leftCuts := v.leftCuts.filter (fun c => c.out.id != o.id) }
        else deliver (setFibre v key fun g => g.finishOut o code))
    (busy = true → done t 4)
    ∧ (busy = false → freeEntry s x.stack b.part = none → done t 5)
    ∧ (∀ i, busy = false → freeEntry s x.stack b.part = some i → cutWordsBad (w 0) (w 1) (w 2) (w 3) = true → done t 6)
    ∧ (∀ i, busy = false → freeEntry s x.stack b.part = some i → cutWordsBad (w 0) (w 1) (w 2) (w 3) = false → o.kind = .cut →
      let v := settleBank t x.stack x.bank
      let r : Region :=
        { Region.blank i b.part o.obj x.bank x.row o.w with
          func := (w 0).toNat % 16, fmt := (w 0).toNat / 16 % 16, sat := (w 0).getLsbD 8, ca := w 1, cb := w 2
          stand := stand, held := (w 0).getLsbD 10, passes := (w 3).toNat % 65536, state := if stand then 3 else 1
          floor := if stand then 1 else boostOf (latheOf v x.stack) x.bank
          start := startRow (mapGet (latheOf v x.stack).sweep x.bank 0) x.row o.w, fib := key, blk := blk, opId := o.id }
      let v := addRegion v x.stack r
      done (if left = true ∨ stand = true then v else setFibre v key fun g => g.addOp o.id 2) 0))
  ∧ ∀ (h : Head) (p : LatheP) (s : State) (c : Cur) (b : Block) (ls : List Fibre) (f : Fibre) (fs : List Fibre),
    let cap := capReg s f p.c.toNat
    let d := p.d.toNat
    let u := fun i => uni s f (p.s.toNat + i)
    Ready s c b ls → AtHome ls → guardTrue h.g h.gn ls = f :: fs → featureOn s 0 = true →
    (∀ k bank row n, (Instr.cutreg h p).wellFormed = true → Clear ls [d] → latheRights s b.part cap (rCUT + rWR) = none →
      f.outs = [] → storesOf s f.key = [] → reqRoom s f.loc 1 = true → rangeOf s b.part cap f.xl = .rows k bank row n → asleep s k = false →
      ((u 0).getLsbD 9 = false → cutWordsBad (u 0) (u 1) (u 2) (u 3) = false → f.counter 2 < 63) →
      let t := touch s (rowCell k bank row)
      let words := ((List.range 4).map fun i => (u i).toNat * 2 ^ (32 * i)).sum
      Completes (.cutreg h p) s c ls h (setFibre t.fresh f.key fun g =>
        { g with outs := g.outs ++ [cutOut t f (canonObj (capObj cap)) (rowCell k bank row) n d words] }))
    ∧ (∀ k bank row n, (Instr.cutdrop h p).wellFormed = true → Clear ls [d] → latheRights s b.part cap (rCUT + rWR) = none →
      rangeOf s b.part cap f.xl = .rows k bank row n → asleep s k = false →
      let t := touch s (rowCell k bank row)
      (cutEntry s b.part k bank row n = none → Completes (.cutdrop h p) s c ls h (putStatus t f d 7 0))
      ∧ (∀ r, cutEntry s b.part k bank row n = some r →
        Completes (.cutdrop h p) s c ls h
          (putStatus (delRegion (if r.stand = false ∧ r.state = 1 then completeOp t r.fib r.opId 2 true else t) k r.idx) f d 0 0)))
    ∧ (∀ k bank row n r, (Instr.cutboost h p).wellFormed = true → Clear ls [d] → latheRights s b.part cap rCUT = none →
      rangeOf s b.part cap f.xl = .rows k bank row n → asleep s k = false → cutEntry s b.part k bank row n = some r →
      (r.stand = false → r.state = 1 → r.boost ≤ 2 ^ p.bf.toNat) →
      let t := touch s (rowCell k bank row)
      Completes (.cutboost h p) s c ls h
        (putStatus (hasten (boostFell (latheOf t k) (setRegion t k r.idx fun x => { x with boost := 2 ^ p.bf.toNat })) k bank) f d 0 0))
    ∧ (∀ cell : Fibre → Nat, (Instr.swpos h p).wellFormed = true → Clear ls (offRegs p.a.toNat p.o64 ++ [d]) →
      (∀ g ∈ f :: fs, checkRegs g (offRegs p.a.toNat p.o64) = none
        ∧ Reaches s b g (capReg s g p.c.toNat) (offVal g p.a.toNat p.o64) 1 rRD (cell g)
        ∧ farWindow s b.part (capObj (capReg s g p.c.toNat)) = false ∧ ∀ x, rowAt (cell g) = some x → asleep s x.stack = false) →
      Completes (.swpos h p) s c ls h ((f :: fs).foldl (fun t g =>
        setFibre (touch t (cell g)) g.key fun x => x.writeNow (.reg d { val := swposWord s (cell g), tag := tI32 })) s))
    ∧ (∀ k bank row n r, (Instr.rowstat h p).wellFormed = true →
      Clear ls ((if p.dm then [p.a.toNat] else []) ++ (List.range 4).map (· + d)) →
      latheRights s b.part cap rRD = none → rangeOf s b.part cap f.xl = .rows k bank row n → asleep s k = false →
      anyEntry s b.part k bank row n = some r → r.isProg = false →
      let progs := (latheOf s k).regions.filter fun x => x.isProg && x.bank == bank && x.row == row && x.n == n
      let run := progs.find? (·.running)
      let step := match run with | some x => x.step | none => mapGet (latheOf s k).lastStep (rangeKey bank row n) 0
      let ws : List Word := [loWord r.status, hiWord r.status,
        BitVec.ofNat 32 ((sweepNow s (latheOf s k) bank).1 + step * 2 ^ 16 + (if run.isSome then 2 ^ 24 else 0)),
        BitVec.ofNat 32 (sysGet s b.part 0x0004)]
      let t := setFibre (touch s (rowCell k bank row)) f.key fun g =>
        (ws.zipIdx).foldl (fun g x => g.writeNow (.reg (d + x.2) { val := x.1, tag := tRaw })) g
      let free := fun (t : State) => if r.state = 2 ∨ r.state = 4 ∨ r.state = 5 then delRegion t k r.idx else t
      let o := (f.val p.a.toNat).toNat
      let map := (r.dmap.map fun i => 2 ^ i).sum
      (p.dm = false → Completes (.rowstat h p) s c ls h (free t))
      ∧ (p.dm = true → checkTag none (f.reg p.a.toNat) = none → o % 16 = 0 → o + 512 ≤ b.spadSize →
        (∀ i, i < 32 → s.isLive (spadCell b (o + 16 * i)) = false) → fifoRoom s f.loc f.key.port 32 = true →
        Completes (.rowstat h p) s c ls h (free ((List.range 32).foldl (fun t i =>
          pushStore t f b (.stl 0) true (spadCell b (o + 16 * i)) (o + 16 * i) 16 (map / 2 ^ (128 * i) % 2 ^ 128) 0 false f.fhash none) t))))
    ∧ (∀ q x, (Instr.rowprog h p).wellFormed = true → Clear ls [p.a.toNat, d] → latheRights s b.part cap rCUT = none →
      let o := (f.val p.a.toNat).toNat
      let steps := readSteps s (spadCell b o) ((b.spadSize - o) / 4) 256 0
      checkTag none (f.reg p.a.toNat) = none → o % 4 = 0 → steps.2 = false → f.reading = false → ownPending s f true 0 o (4 * steps.1.length) = false →
      s.ue (spadCell b o) (4 * steps.1.length) = false →
      objName s b.part (capObj cap) = .local (canonObj (capObj cap)) → translate s b.part (capObj cap) (capBase cap) f.xl = .place q →
      rowAt q = some x → asleep s x.stack = false →
      badStep steps.1 = none → slotDenied s x.stack b.part p.slot.toNat = false →
      (∀ r ∈ (latheOf s x.stack).regions, r.isProg = true → r.slot ≠ p.slot.toNat) →
      Completes (.rowprog h p) s c ls h
        (putStatus (setLathe (touch s q) x.stack fun l =>
          { l with progs := l.progs.filter (fun y => y.1 != p.slot.toNat) ++ [(p.slot.toNat, b.part, steps.1)] }) f d 0 0))
    ∧ (∀ k bank row n i, (Instr.rowop h p).wellFormed = true → Clear ls [d] → latheRights s b.part cap (rCUT + rWR) = none →
      f.outs = [] → storesOf s f.key = [] → rangeOf s b.part cap f.xl = .rows k bank row n → asleep s k = false →
      let l := latheOf s k
      let w := fun i => (u i).toNat
      let slot := w 3 % 16
      let rows := operandRows (slotWords l slot) (w 0) (w 1) (w 2)
      (∀ r ∈ l.regions, r.bank = bank →
        if r.isProg then ∀ y ∈ [w 0, w 1, w 2] ++ rows, subarrayOf (row + y) ≠ r.sub else meets row n r.row r.n = false) →
      freeEntry s k b.part = some i → slotDenied s k b.part slot = false → slotWords l slot ≠ [] →
      (∀ y ∈ rows, y < n) → (∀ y ∈ rows, ∀ z ∈ rows, subarrayOf (row + y) = subarrayOf (row + z)) → f.counter 2 < 63 →
      let r : Region :=
        { Region.blank i b.part (canonObj (capObj cap)) bank row n with
          isProg := true, slot := slot, px := w 0, py := w 1, pz := w 2, order := s.seq + 256, fib := f.key, blk := b.id, opId := s.seq
          sub := subarrayOf (row + rows.headD (w 0)) }
      let t := settleBank (touch s (rowCell k bank row)).fresh k bank
      Completes (.rowop h p) s c ls h (putStatus (setFibre (addRegion t k r) f.key fun g => g.addOp s.seq 2) f d 0 0))

/-- R94, R95, R97 to R101, R103, R104, R107 to R109, R311, R375: the events of a lathe. A due turn restores the bank's next row and applies every
cut whose region covers it; a held row waited for since T_pf is pulled forward once; a program begins, executes a step, or ends at END;
a stack's temperature sets the refresh window; the watchdog ends the work of a sequencer without progress; save mode holds the
sweep, writes the sequencer's state to the reserved rows, and its end takes that state back, each field of an entry as it was packed, with the
entries of a partition that has been moved there, but for what has changed meanwhile, which stays (log 21). A change of temperature that
shortens W leaves each pending once cut its bound, and no bank with one turns its rows more slowly than the bound of R100 asks.
The model's own choices in it: log 3, 4, 6, 7, 20, 21. -/
def Obligations.LatheEvents : Prop :=
  ∀ (s : State) (k bank : Nat), k < 16 →
    let l := latheOf s k
    let due := mapGet l.turnAt bank (tRow l bank)
    let row := mapGet l.sweep bank 0
    (bank < Config.banksPerStack → l.save = false → due ≤ 64 * s.now →
      exec (.rowRestore k bank) s = .next (setLathe
        ((l.regions.filter (fun r => r.bank == bank)).foldl (fun t r => turnIn k row t r) s) k fun l' =>
          { l' with sweep := mapPut bank ((row + 1) % Config.rowsPerBank) l'.sweep, turnAt := mapPut bank (due + tRow l' bank) l'.turnAt
                    waits := l'.waits.filter (fun w => !(w.1 == bank && w.2.1 == row)), workAt := s.now }))
    ∧ (64 * s.now < due → exec (.rowRestore k bank) s = .next s)
    ∧ (∀ r i, r.isProg = false → r.stand = false → r.state = 1 → r.row ≤ row → row < r.row + r.n → i = row - r.row →
      (∀ x ∈ l.regions, x.idx = r.idx → x = r) → s.ue (rowCell k r.bank row) Config.rowBytes = false → r.dmap.contains i = false →
      r.start < r.n → r.done < r.n → (r.start + r.done) % r.n = i →
      turnIn k row s r = endOnce (setRegion (s.write (rowCell k r.bank row) Config.rowBytes
        (cutRow r.func r.fmt r.sat r.ca r.cb (s.read (rowCell k r.bank row) Config.rowBytes))) k r.idx fun x => { x with done := x.done + 1 })
        k r.idx)
    ∧ (∀ e y r w, l.regions.find? (fun x => x.idx == e) = some r → r.held = true → r.pendingAt r.bank y = true →
      w ∈ l.waits → w.1 = r.bank → w.2.1 = y → w.2.2 ≤ s.now →
      exec (.pullForward k e y) s = .next (endOnce (setLathe
        (setRegion (applyCut s k r y) k e fun x => { x with dmap := setIns (y - r.row) x.dmap }) k fun l' =>
          { l' with waits := l'.waits.filter (fun w => !(w.1 == r.bank && w.2.1 == y)), workAt := s.now }) k e))
    ∧ (∀ hot, (l.hot = true ↔ hot = 0) → ∃ t, exec (.temperatureChange k hot) s = .next t ∧ (latheOf t k).hot = decide (hot ≠ 0)
      ∧ t.mem = s.mem ∧ (latheOf t k).regions = (l.holdBoost fun _ => decide (hot ≠ 0)).regions)
    ∧ (∀ r, bankHead l bank = some r → l.save = false →
      let t := setLathe s k fun l => { l with workAt := s.now }
      let w := (slotWords l r.slot).getD r.step 0
      (r.running = false → exec (.rowProgramStep k bank) s = .next (setRegion t k r.idx fun x => { x with running := true }))
      ∧ (r.running = true → stepOpc w = 0 → exec (.rowProgramStep k bank) s = .next
          (completeOp (delRegion (setLathe t k fun l => { l with lastStep := mapPut (rangeKey r.bank r.row r.n) r.step l.lastStep }) k r.idx)
            r.fib r.opId 2 false))
      ∧ (r.running = true → stepOpc w = 1 → exec (.rowProgramStep k bank) s = .next
          (setRegion (selWrite t k r (stepSel w 1) (selRead t k r (stepSel w 0))) k r.idx fun x => { x with step := x.step + 1 }))
      ∧ (r.running = true → stepOpc w = 2 →
          let v := majority (selRead t k r (stepSel w 0)) (selRead t k r (stepSel w 1)) (selRead t k r (stepSel w 2))
          exec (.rowProgramStep k bank) s = .next
            (setRegion (selWrite (selWrite (selWrite t k r (stepSel w 0) v) k r (stepSel w 1) v) k r (stepSel w 2) v) k r.idx fun x =>
              { x with step := x.step + 1 })))
    ∧ (let wd := sysGet s monPart 0x4005 % 2 ^ 32 * Config.cycles1us
      wd ≠ 0 → hasWork l = true → l.workAt + wd ≤ s.now → l.save = false →
      ∃ t, exec (.sequencerWatchdogReset k) s = .next t ∧ (latheOf t k).progs = [] ∧ (latheOf t k).waits = []
        ∧ (∀ r ∈ (latheOf t k).regions, r.isProg = false ∧ r.state ≠ 1 ∧ r.state ≠ 3)
        ∧ ∀ r ∈ l.regions, r.isProg = false → (r.state = 1 ∨ r.state = 3) →
            { r with state := 4, aborted := true } ∈ (latheOf t k).regions)
    ∧ (∀ r ∈ l.regions, r.oncePending = true → 0 < r.floor →
      tRow l r.bank ≤ winMs l r.bank * 4000000 * 64 / (65536 * max r.boost r.floor))
    ∧ (l.save = false → exec (.saveModeEnter k) s = .next (setLathe (saveRows s k) k fun l =>
      { l with save := true, kept := l.regions, keptProgs := l.progs, keptDeferred := l.deferred }))
    ∧ (l.save = true →
      let t := (distinct (l.turnAt.map (·.1) ++ (comers s k l).map (·.bank))).foldl (fun t y => settleBank t k y) s
      exec (.saveModeRestore k) s = .next (latheEnds (latheOf t k) (setLathe t k fun l =>
        { (loadRows t k l) with save := false, turnAt := l.turnAt.map fun x => (x.1, max x.2 (64 * s.now)), workAt := s.now })))
    ∧ (∀ l : List (Nat × Nat), unpackFields (l.map (·.1)) (packFields l) = l.map fun x => x.2 % 2 ^ x.1)

/-! ### Matrix engines and streamers -/

/-- R134, R135, R137, R293, R301 to R303, R257 to R265: MXOP takes a reservation entry, counts one more transaction on its barrier and one more
operation of the lane; MXRD, MXWR, MXCLR and MXSTAT act on the tile, in ascending port order in one cycle, and the replay counters; CPY, CPYM, CPYT and CPYX enter a command
that holds its block's 512 bits, started at once or, where it is deferred, by a token.
The model's own choices in it: log 7, and log 21 for a barrier whose PENDING is full. -/
def Obligations.EngineInstructions : Prop :=
  ∀ (h : Head) (s : State) (c : Cur) (b : Block) (ls : List Fibre) (f : Fibre) (fs : List Fibre),
    Ready s c b ls → AtHome ls → guardTrue h.g h.gn ls = f :: fs → (∀ g ∈ ls, g.lost = false) →
    (∀ (p : RegP) (i : Nat), (Instr.mxop h p).wellFormed = true → Clear ls [p.a.toNat] → checkTag none (f.reg p.a.toNat) = none →
      let o := (f.val p.a.toNat).toNat
      let v := s.read (spadCell b o) 64
      o % 64 = 0 → o + 64 ≤ b.spadSize → s.ue (spadCell b o) 64 = false → f.reading = false → ownPending s f true 0 o 64 = false →
      (mxIxp v = false → ownPending s f true 0 (mxIxoff v) 128 = false) → firstTrap (mxChk s b f v) = none →
      lowestFree ((engineOf s b.cluster).entries.map (·.idx)) 32 = some i → f.counter 1 < 63 →
      (mxBsrc v = 2 → tileBusy s b (mxBt v) true = false) → (∀ n ∈ mxTiles b v, tileLate s f.key.port n = false) →
      (barObj s (mxBar b v)).pending < 2 ^ 24 - 1 →
      let t := setEngine ((mxTiles b v).foldl (fun t n => useTile t f.key.port n) s.fresh) b.cluster fun g =>
        { g with entries := g.entries ++ [mxEntry s b f i v] }
      Completes (.mxop h p) s c ls h (setFibre (pendingUp t (mxBar b v) 1) f.key fun g => g.addOp s.seq 1))
    ∧ (∀ p : MxElemP, p.m.toNat < b.tileN → tileHeld s b p.m.toNat (f :: fs) = false → Clear ls (p.a.toNat :: elemRegs p) →
      let t := tileOf s (tileNo b p.m.toNat)
      let u := useTile s f.key.port (tileNo b p.m.toNat)
      t.tag ≠ tInvalid → (∀ g ∈ f :: fs, p.w4 = true → elemAt (g.val p.a.toNat) % 4 = 0) →
      ((Instr.mxrd h p).wellFormed = true → (∀ g ∈ f :: fs, checkRegs g [p.a.toNat] = none) →
        Completes (.mxrd h p) s c ls h (wrote u (f :: fs) none fun g => (List.range (elemCount p)).map fun k =>
          .reg (p.d.toNat + k) { val := t.els.getD (elemAt (g.val p.a.toNat) + k) 0, tag := t.tag }))
      ∧ ((Instr.mxwr h p).wellFormed = true → (∀ g ∈ f :: fs, checkRegs g (p.a.toNat :: elemRegs p) = none) →
        Completes (.mxwr h p) s c ls h (setTile u (tileNo b p.m.toNat) fun t =>
          { t with els := (f :: fs).foldl (writeElems p) t.els
                   tag := commonTag ((f :: fs).flatMap fun g => (elemRegs p).map fun r => (g.reg r).tag) })))
    ∧ (∀ p : MxclrP, (Instr.mxclr h p).wellFormed = true → p.m.toNat < b.tileN → tileHeld s b p.m.toNat (f :: fs) = false →
      Completes (.mxclr h p) s c ls h (useTile (setTile s (tileNo b p.m.toNat) fun t => { Tile.zero t.no with tag := tRaw }) f.key.port
        (tileNo b p.m.toNat)))
    ∧ (∀ p : MxstatP, (Instr.mxstat h p).wellFormed = true → Clear ls [p.d.toNat, p.d.toNat + 1] →
      let x : BitVec 64 := if p.sel = 0 then b.replay.bits else
        if p.sel = 1 then ((kernel? s b.kernel).map (fun k => k.replay.bits)).getD 0 else s.pkgReplay.bits
      Writes (.mxstat h p) s c ls h none fun _ =>
        [.reg p.d.toNat { val := loWord x, tag := tI64lo }, .reg (p.d.toNat + 1) { val := hiWord x, tag := tI64hi }])
    ∧ (∀ (p : RegP) (kind i : Nat), kind < 4 →
      let ins : Instr := if kind = 0 then .cpy h p else if kind = 1 then .cpym h p else if kind = 2 then .cpyt h p else .cpyx h p
      let o := (f.val p.a.toNat).toNat
      let v := s.read (spadCell b o) 64
      let bar := cyBarCell b v
      let counts := cyBv v && kind != 1 && s.isLive bar
      let q := if cyDef v then takeToken s b (cyKey v) else (s, true)
      ins.wellFormed = true → Clear ls [p.a.toNat] → checkTag none (f.reg p.a.toNat) = none → o % 64 = 0 → o + 64 ≤ b.spadSize →
      s.ue (spadCell b o) 64 = false → f.reading = false → ownPending s f true 0 o 64 = false → firstTrap (cyChk s b f kind v) = none →
      lowestFree ((s.copies.filter (fun x => x.cluster == b.cluster)).map (·.slot)) queueSize = some i → f.counter 0 < 63 →
      (counts = true → (barObj s bar).pending < 2 ^ 24 - 1) →
      let x : Copy :=
        { cluster := b.cluster, id := s.seq, slot := i, kind := kind, blk := b.id, fib := f.key, fid := f.fid, pc := f.pc
          opId := s.seq, words := wordsN v 16, scap := if cySsp v then 0 else capReg s f (cyScap v)
          dcap := if cyDsp v then 0 else capReg s f (cyDcap v), started := q.2, index := 0, waits := [], xl := [] }
      let t : State := { q.1.fresh with copies := s.copies ++ [x] }
      Completes ins s c ls h (setFibre (if counts then pendingUp t bar 1 else t) f.key fun g => g.addOp s.seq 0))

/-- R13, R14, R135, R138, R143 to R146, R259 to R261, R297, R298, R305, R376, R379: the events of a matrix engine and of a streamer complete.
GATHER_COMPLETE: 32 words of the operand port become an index vector, and the first entry that may becomes active with its rows of A and
its accumulator. PASS_SLOT: a slot whose credit reaches 8 goes to the first entry that can take it, one that has waited 16 384 cycles
before all others; below 8 the slot goes by without a grant. PASS_END: a pass ends in a wider rung, a commit or the next pass, and with
damaged operands the operation ends with an error. PASS_STARVATION: the entry that has waited longest, 16 384 cycles without a pass, is next.
The watchdog ends every entry of a stuck engine. COPY_GRANULE_WRITE: a granule of a copy command whose earlier accesses have performed, with its pages
known, no row in its way, no damaged source and no live granule below it, is written at every cell that receives it, and the command's index
moves on.
The model's own choices in it: log 4, 13, 19, 21. -/
def Obligations.EngineEvents : Prop :=
  (∀ (s : State) (k : Nat) (e : MxEntry) (b : Block),
    let g := engineOf s k
    let v := e.blkBits
    let ready := fun (x : MxEntry) => x.active = false ∧ x.needPort = false ∧ mxBlocked g.entries x = false ∧ mxReady s x = true
      ∧ ∀ y, block? s x.blk = some y → y.frozen = false
    block? s e.blk = some b → b.cluster = k → b.frozen = false →
    (g.entries.find? (fun x => x.idx == e.idx) = some e → e.active = false → e.needPort = true →
      (∀ x ∈ g.entries, x.blk = e.blk → x.needPort = true → e.opId ≤ x.opId) → 32 ≤ (b.opPort.map List.length).sum →
      let q := takeWords 32 b.opPort
      exec (.gatherComplete k e.idx) s = .next (setMx (setBlock s b.id fun b => { b with opPort := q.2 }) k e.idx fun e =>
        { e with needPort := false, index := q.1.flatMap fun w => [w.toNat % 65536, w.toNat / 65536] }))
    ∧ (∀ keep, g.entries.find? (fun x => x.idx == e.idx) = some e → ready e → (g.entries.filter (·.active)).length < 2 →
      (∀ x ∈ g.entries, ready x → mxRank e ≤ mxRank x) → (∀ i ∈ e.index, rowEnd v i ≤ b.spadSize) → gatherUe s b v e = false →
      keepMask s b v = some keep →
      exec (.gatherComplete k e.idx) s = .next (setMx s k e.idx fun e =>
        { e with active := true, activeAt := s.now, lastGrant := s.now, shadow := gatherA s b v e, keep := keep
                 acc := (tileOf s (tileNo b (mxCt v))).els }))
    ∧ ((∀ x ∈ g.entries, x.granted = false) → g.slotAt ≤ s.now → e ∈ g.entries →
      (∀ x ∈ g.entries, x.active = true → x.waits = [] → ∀ y, block? s x.blk = some y → y.frozen = false → passReady s y x = true) →
      passReady s b e = true →
      (starvedAt s.now g e = true ∧ (∀ x ∈ g.entries, x.active = true → x ≠ e → starvedAt s.now g x = true → e.lastGrant < x.lastGrant)
        ∨ (∀ x ∈ g.entries, starvedAt s.now g x = false) ∧ ∀ x ∈ g.entries, x.active = true → x ≠ e → mxRank e < mxRank x) →
      let credit := g.credit + 8 - effStep s g b.kernel b.part
      (8 ≤ credit → exec (.passSlot k) s = .next (setMx (setEngine s k fun g =>
          { g with credit := credit - 8, starving := none
                   firstPass := if g.firstPass.any (fun x => x.1 == b.kernel) then g.firstPass else mapPut b.kernel s.now g.firstPass })
          k e.idx fun e => { e with granted := true, lastGrant := s.now }))
      ∧ (credit < 8 → exec (.passSlot k) s = .next (setEngine s k fun g => { g with credit := credit, slotAt := s.now + passClocks v e })))
    ∧ (g.starving = none → e ∈ g.entries → e.active = true → e.granted = false → e.lastGrant + 16384 ≤ s.now →
      (∀ x ∈ g.entries, x.active = true → x.granted = false → x ≠ e → e.lastGrant < x.lastGrant) →
      exec (.passStarvation k) s = .next (setEngine s k fun g => { g with starving := some e.idx }))
    ∧ (g.entries.find? (·.granted) = some e → e.lastGrant + passClocks v e ≤ s.now → (∀ a ∈ wideRows b v e, rowWaits s a = false) →
      let t := (wideRows b v e).foldl touch (setEngine s k fun g =>
        { g with lastEnd := s.now, slotAt := s.now, lastPass := mapPut b.kernel s.now g.lastPass })
      let r := doPass t b v e
      let top := decide (mxRungs r.blkBits ≤ r.rung + 1)
      let passed := fun (n k : Nat) => decide (mxBudget r.blkBits r.rung k < n ∧ mxBudget r.blkBits r.rung k ≠ 2 ^ 16 - 1)
      let past := passed r.satN 0 || passed r.undN 1 || passed r.canN 2
      exec (.passEnd k) s = .next
        (if passUe t b v e then endMx t b e true
        else if !top && (past || r.nonfin) then
          setMx t k r.idx fun _ =>
            { r with rung := r.rung + 1, pass := 0, acc := (tileOf t (tileNo b (mxCt r.blkBits))).els, satN := 0, undN := 0, canN := 0
                     nonfin := false, replays := r.replays + 1, granted := false, xl := [] }
        else if passCount r.blkBits ≤ r.pass + 1 then commitMx t b r (top && past)
        else setMx t k r.idx fun _ => { r with pass := r.pass + 1, granted := false, xl := [] }))
    ∧ (let wd := sysGet s monPart 0x4005 / 2 ^ 32 * Config.cycles1us
      wd ≠ 0 → e ∈ g.entries → e.active = true → max g.lastEnd e.activeAt + wd ≤ s.now →
      ∃ t, exec (.engineWatchdogReset k) s = .next t ∧ (engineOf t k).credit = 0 ∧ (engineOf t k).starving = none
        ∧ ∀ y ∈ s.blocks, y.cluster = k → ∀ x ∈ (engineOf t k).entries, x.blk ≠ y.id))
  ∧ (∀ (s : State) (k op : Nat) (c : Copy) (b : Block),
    let v := c.bits
    let bits := granBits c.kind v c.index
    let sbase := (sideOff (cySsp v) c.scap (cySrc v)).toNat
    let offs := distinct ((bits.flatMap fun l => l.flatMap id).map fun x => sbase + x.1)
    let place := fun (x : Nat) (cap : CapWord) => match copyTr s b c cap x with | .place a => a | _ => 0
    let cell := fun (o : Nat) => if cySsp v then spadCell b (cySrc v + o) else place (sbase + o) c.scap
    let srcs := offs.map fun o => cell (o - sbase)
    let doff := (sideOff (cyDsp v) c.dcap (cyDst v)).toNat + (dstShape c.kind v).gran c.index
    let dsts := if cyDsp v then dstCells s b c c.index else [place doff c.dcap]
    s.copies.find? (fun x => x.cluster == k && x.id == op) = some c → block? s c.blk = some b → b.frozen = false →
    (c.kind = 1 → gangAway s b = false) → copyReady s c = true →
    (cySsp v = false → unreachable s c.scap = false ∧ ∀ o ∈ offs, ∃ a, copyTr s b c c.scap (o / 4096 * 4096) = .place a) →
    (cyDsp v = false → unreachable s c.dcap = false ∧ (∃ a, copyTr s b c c.dcap doff = .place a) ∧ ∀ a ∈ dsts, farLive s a = false) →
    (∀ a ∈ srcs, rowWaits s a = false ∧ s.ue a 1 = false) →
    (∀ a ∈ dsts, rowWaits s a = false ∧ (cyDsp v = true → s.isLive a = false)) →
    let u := (srcs ++ dsts).foldl touch s
    let x := ((bits.zipIdx).map fun y => copyByte u cell y.2 y.1 * 256 ^ y.2).sum
    let w := if bits.any (fun l => (oneSource l).isNone) then { u with freeCtr := u.freeCtr + 16 } else u
    exec (.copyGranuleWrite k op) s = .next (deliver (afterGran (dsts.foldl (putGran (cyDsp v) x) w) b c)))


/-! ### Gangs -/

/-- R149, R152 to R154, R306 to R308: a GSYNC or NFVOTE whose release has performed makes its member's contribution to the gang's round and waits
for its end, the other lanes of its batch with it; LSCALE sets the member's EACC, or its ESEND with one update message for each other member. A
gang's round that every living member has contributed to gives each waiting lane the OR of the flags, a killed member counting as 1 and setting
VKILL in the living ones, and the next round begins; a sync round gives 1 exactly where a member was killed. A round that is not full does
nothing. A domain round's gang forwards its OR, and the last gang of its vote group to do so ends the round of all of them with the OR of what
they forwarded, 1 and VKILL where a member of any of them was killed, or of a gang that has retired since (R154).
The model's own choices in it: log 15, 19. -/
def Obligations.Gangs : Prop :=
  (∀ (h : Head) (s t : State) (c : Cur) (b : Block) (ls : List Fibre) (f : Fibre) (fs : List Fibre) (g : Gang),
    Ready s c b ls → AtHome ls → guardTrue h.g h.gn ls = f :: fs → featureOn s 3 = true → b.gang.bind (gang? s) = some g →
    (∀ p : GsyncP, (Instr.gsync h p).wellFormed = true → g.syncs.getD b.member false = false → released s (f :: fs) 4 = (t, true) →
      Completes (.gsync h p) s c ls h (holdMates
        (onLanes (setGang t g.id fun g => { g with syncs := g.syncs.set b.member true }) (f :: fs) fun x =>
          { x with run := .waiting (.sync p.pd.toNat) }) (f :: fs)))
    ∧ (∀ p : VoteP, (Instr.nfvote h p).wellFormed = true → (p.dom = true → ∃ k, kernel? s b.kernel = some k ∧ k.voteGrp ≠ 0) →
      g.votes.getD b.member none = none → released s (f :: fs) (if p.dom then 5 else 4) = (t, true) →
      let flag := (f :: fs).any (fun x => x.pred p.ps.toNat != p.psn) || b.lsst.nf
      Completes (.nfvote h p) s c ls h (holdMates (onLanes
        (setBlock (setGang t g.id fun g => { g with votes := g.votes.set b.member (some flag), voteDom := g.voteDom || p.dom }) b.id
          fun x => { x with lsst := { x.lsst with nf := false } })
        (f :: fs) fun x => { x with run := .waiting (.vote p.pd.toNat) }) (f :: fs)))
    ∧ (∀ p : LscaleP, (Instr.lscale h p).wellFormed = true →
      let v := if p.iv then p.imm else (uni s f p.s.toNat).setWidth 8
      (p.acc = true → Completes (.lscale h p) s c ls h (setBlock s b.id fun x => { x with lsst := { x.lsst with eacc := v } }))
      ∧ (p.acc = false → Completes (.lscale h p) s c ls h
          ((g.members.filter (· != b.id)).foldl (fun s m =>
            { s.fresh with msgs := s.msgs ++ [{ id := s.seq, src := f.key, blk := b.id, opId := 0, kind := .esend m v }] })
            (setBlock s b.id fun x => { x with lsst := { x.lsst with esend := v } })))))
  ∧ (∀ (s : State) (id : Nat) (g : Gang), gang? s id = some g → s.gangs.filter (fun x => x.id == id) = [g] →
    let n := g.members.length
    let alive := fun m => g.killed.getD m false = false
    let ends := fun (t : State) (wait : Nat → Wait) (r : Bool) =>
      ∀ f ∈ s.fibres, f.blk ∈ g.members → ∀ pd, f.run = .waiting (wait pd) → f.pend = [] →
        { f with preds := (f.setPred pd r).preds, run := .ready } ∈ t.fibres
    ((∀ m < n, alive m → (g.votes.getD m none).isSome) → (∃ m < n, alive m) → g.voteDom = false →
      ∃ t d, exec (.voteRoundComplete id) s = .next t ∧ gang? t id = some d ∧ d.votes = g.votes.map (fun _ => none) ∧ t.mem = s.mem
        ∧ (g.killed.any id = true → ∀ y ∈ t.blocks, y.id ∈ g.members → y.killed = false → y.lsst.vkill = true)
        ∧ ((∃ m < n, g.killed.getD m false = true ∨ g.votes.getD m none = some true) → ends t .vote true)
        ∧ ((∀ m < n, alive m ∧ g.votes.getD m none ≠ some true) → ends t .vote false))
    ∧ ((∃ m < n, alive m ∧ g.votes.getD m none = none) → exec (.voteRoundComplete id) s = .next s)
    ∧ ((∀ m < n, alive m → (g.votes.getD m none).isSome) → (∃ m < n, alive m) → g.voteDom = true →
      let own := (List.range n).any fun m => g.killed.getD m false || g.votes.getD m none == some true
      let t := setGang s id fun g => { g with voteFwd := some own }
      let gs := voteGroup t g
      let kill := gs.any fun x => x.killed.any (· == true) || x.voteKill
      let sum := gs.any fun x => x.voteFwd == some true
      ((∃ x ∈ gs, x.voteFwd = none ∧ gangDead x = false) → exec (.voteRoundComplete id) s = .next t)
      ∧ ((∀ x ∈ gs, x.voteFwd.isSome ∨ gangDead x = true) → exec (.voteRoundComplete id) s = .next (gs.foldl (endVote (sum || kill) kill) t)))
    ∧ ((∀ m < n, alive m → g.syncs.getD m false = true) → (∃ m < n, alive m) →
      ∃ t d, exec (.syncRoundComplete id) s = .next t ∧ gang? t id = some d ∧ d.syncs = g.syncs.map (fun _ => false) ∧ t.mem = s.mem
        ∧ ends t .sync (g.killed.any (· == true)))
    ∧ ((∃ m < n, alive m ∧ g.syncs.getD m false = false) → exec (.syncRoundComplete id) s = .next s))


/-! ### The supervisor -/

/-- R322, R323, R362 to R365: SYSRD gives each guard-true lane the register's 64 bits, or the uniform pair of the lowest one; SYSWR, its release
performed, writes the value of the lowest, and no other port issues later in its cycle; both need the level of the number's range. A read of TLOG0 first moves the oldest log record
into the latch. A written STARVE of 0, and a T_pf outside 250 to 32 000, are ignored.
The model's own choices in it: log 4, 19. -/
def Obligations.SystemRegisters : Prop :=
  (∀ (h : Head) (p : SysregP) (s : State) (c : Cur) (b : Block) (ls : List Fibre) (f : Fibre) (fs : List Fibre),
    let n := p.srn.toNat
    Ready s c b ls → AtHome ls → guardTrue h.g h.gn ls = f :: fs → sysAssigned n = true → (∀ g ∈ ls, sysLevel n ≤ g.lvl) → Clear ls (sysRegs p) →
    ((Instr.sysrd h p).wellFormed = true →
      let t := if n = 0x030C then latchLog s b.part else s
      let x := fun g => BitVec.ofNat 64 (sysRead t b.part g n)
      (p.us = false → Completes (.sysrd h p) s c ls h (wrote t (f :: fs) none fun g =>
        [.reg p.v.toNat { val := loWord (x g), tag := tI64lo }, .reg (p.v.toNat + 1) { val := hiWord (x g), tag := tI64hi }]))
      ∧ (p.us = true → Completes (.sysrd h p) s c ls h (setUnis t f p.s.toNat [loWord (x f), hiWord (x f)])))
    ∧ ((Instr.syswr h p).wellFormed = true → sysReadOnly n = false → checkRegs f (sysRegs p) = none →
      ∀ t, released s [f] 4 = (t, true) →
      let v := (if p.us then uniPair s f p.s.toNat else pairOf (f.val p.v.toNat) (f.val (p.v.toNat + 1))).toNat
      writeHole t n v = none → writeHeld t b.part n v = none →
      let u := { (sysWrite t b.part n v) with sysAt := s.now + 1 }
      Stays u b ls → Completes (.syswr h p) s c ls h u))
  ∧ (∀ (s : State) (part v : Nat), part < 8 →
    sysGet (sysWrite s part 0x0000 v) part 0x0000 = (if v % 2 ^ 16 = 0 then sysGet s part 0x0000 else v % 2 ^ 16)
    ∧ sysGet (sysWrite s part 0x0003 v) part 0x0003 = v % 2 ^ 16
    ∧ sysGet (sysWrite s part 0x0004 v) part 0x0004
        = (if 250 ≤ v % 2 ^ 15 ∧ v % 2 ^ 15 ≤ 32000 then v % 2 ^ 15 else sysGet s part 0x0004)
    ∧ ∀ q, q ≠ part → q < 8 → ∀ n, n < 0x0005 → sysGet (sysWrite s part 0x0003 v) q n = sysGet s q n)

/-- R353, R366: TRET of one lane in its handler restores the trap window and p1 to p15, clears TM and goes on at the record's place, at it or
past it as the cause says, where after a comparator's BREAKPOINT it is not matched again; of a named fragment it makes its logged fibres ready at user level. TMASK sets TM.
The model's own choices in it: log 19. -/
def Obligations.HandlerReturn : Prop :=
  ∀ (h : Head) (s : State) (c : Cur) (b : Block) (ls : List Fibre) (f : Fibre),
    Ready s c b ls → AtHome ls → guardTrue h.g h.gn ls = ls → (∀ g ∈ ls, 1 ≤ g.lvl) → b.pre = false → ls.head? = some f →
    (∀ (p : FrP) (r : TrapRec), (Instr.tret h p).wellFormed = true → p.fr = false → ls = [f] → f.trec = some r →
      s.fibres.filter (fun g => g.key == f.key) = [f] →
      let back := if r.cause = 0x11 ∨ (r.cause = 0x12 ∧ r.cmp = false) then r.pc + 8 else r.pc
      exec (.tret h p) s = .next (setFibre (goTo (setFibre s f.key fun g =>
          { g with regs := g.savedRegs ++ g.regs.drop g.savedRegs.length, preds := restorePreds g.preds g.savedPreds, tm := false, trec := none
                   savedRegs := [], dbcause := false, pc := back })
        c ls (fun _ => back) (1 + h.stall.toNat) h.y) f.key fun g => { g with cmpPass := r.cmp }))
    ∧ (∀ (p : FrP) (g : Fibre), (Instr.tret h p).wellFormed = true → p.fr = true →
      namedFibre s b.part (groupWord s f p.s 0 % 2 ^ 17) (groupWord s f p.s 1 % 2 ^ 13) = some g → g.logged = true →
      (∀ x, block? s g.blk = some x → x.pre = false) → (∀ y ∈ fragment s g, ∀ l ∈ ls, y.key ≠ l.key) →
      Completes (.tret h p) s c ls h
        (setFibres (dropLog s (fragment s g)) ((fragment s g).map (·.key)) Fibre.resumeLogged))
    ∧ (∀ p : TmaskP, (Instr.tmask h p).wellFormed = true →
      Completes (.tmask h p) s c ls h (onLanes s ls fun g => { g with tm := p.m }))

/-- R344, R346, R348 to R350, R367 to R373: the instructions of the device runtime act through the lowest guard-true lane. FQPOP and PRACK take
the oldest posted fault entry and reclamation record; FQRES, its release performed, ends an entry; TLBINV removes matching translations
once the walks before it are done, and frees the region-table entries of descriptors it finds without V; OBJSET acts on a page; HALTB kills; TRIAL sets or ends a kernel's trial.
The model's own choices in it: log 19, 21. -/
def Obligations.SupervisorInstructions : Prop :=
  ∀ (h : Head) (s t : State) (c : Cur) (b : Block) (ls : List Fibre) (f : Fibre) (fs : List Fibre),
    Ready s c b ls → AtHome ls → guardTrue h.g h.gn ls = f :: fs → (∀ g ∈ ls, 1 ≤ g.lvl) →
    let w := groupWord s f
    let flag := fun (t : State) (pd : Nat) (v : Bool) => setFibre t f.key fun g => g.writeNow (.pred pd v)
    (∀ p : PopP, (Instr.fqpop h p).wellFormed = true →
      let e? := (partnOf s b.part).faults.find? (fun e => e.posted && !e.popped)
      (e? = none → Completes (.fqpop h p) s c ls h (flag s p.pd.toNat false))
      ∧ (∀ e, e? = some e → Completes (.fqpop h p) s c ls h (flag (setUnis
          (setPartn s b.part fun q => { q with faults := q.faults.map fun x => if x.eid == e.eid then { x with popped := true } else x })
          f p.s.toNat (wordsN e.bits.toNat 8)) p.pd.toNat true)))
    ∧ (∀ p : PopP, (Instr.prack h p).wellFormed = true →
      ((partnOf s b.part).reclaims = [] → Completes (.prack h p) s c ls h (flag s p.pd.toNat false))
      ∧ (∀ r rs, (partnOf s b.part).reclaims = r :: rs →
        let t := nextDeferred (setPartn s b.part fun q => { q with reclaims := rs }) b.part
        Stays t b ls → Completes (.prack h p) s c ls h (flag (setUnis t f p.s.toNat (wordsN r.toNat 4)) p.pd.toNat true)))
    ∧ (∀ p : FqresP, (Instr.fqres h p).wellFormed = true → released s [f] 4 = (t, true) →
      let e? := (partnOf t b.part).faults.find? (fun e => e.posted && e.ident == groupWord t f p.s 0 % 2 ^ 12)
      (e? = none → Completes (.fqres h p) s c ls h (flag t p.pd.toNat false))
      ∧ (∀ e, e? = some e →
        let t := setPartn t b.part fun q => { q with faults := q.faults.filter (fun x => x.eid != e.eid) }
        let t := if p.bad then failEntry t e else resolveEntry t b.part e
        Stays t b ls → Completes (.fqres h p) s c ls h (flag t p.pd.toNat true)))
    ∧ (∀ p : TlbinvP, (Instr.tlbinv h p).wellFormed = true → released s [f] 4 = (t, true) →
      (∀ x ∈ t.walks, x.part = b.part → f.mark.getD t.seq ≤ x.id) →
      let obj := canonObj (groupWord t f p.s 0)
      let m := p.mode.toNat
      let os := tlbObjs t b.part m obj
      descHeld t b.part os = none →
      let t := touchDescs t b.part os
      let t := deliver (freeInvalid (freshIds
        { t with tlbs := t.tlbs.filter fun x => !(x.part == b.part && tlbMatch m obj (groupWord t f p.s 1) x) } b.part m obj) b.part m obj)
      Stays t b ls → Completes (.tlbinv h p) s c ls h t)
    ∧ (∀ (p : ObjsetP) (id d : Nat) (e : Ext) (pte : Nat), (Instr.objset h p).wellFormed = true →
      pageHeld s b.part (w p.s 0) (w p.s 1) = none → pageOf s b.part (w p.s 0) (w p.s 1) = .page id d e pte →
      moveWaits s b.part p.op.toNat id e pte (w p.s 1) = false → objsetHeld s b.part p.op.toNat (w p.s 2) (w p.s 3) e pte = none →
      let r := objsetOn (objsetTouch s b.part p.op.toNat (w p.s 2) (w p.s 3) id e pte (w p.s 1)) b.part p.op.toNat (w p.s 2) (w p.s 3) d e pte
      Completes (.objset h p) s c ls h (setUni r.1 f p.st.toNat (BitVec.ofNat 32 r.2)))
    ∧ (∀ p : FrP, (Instr.haltb h p).wellFormed = true →
      (∀ x, p.fr = false → ownBlock s b.part (w p.s 0 % 2 ^ 17) = some x → Stays ((gangOf s x).foldl killBlock s) b ls →
        Completes (.haltb h p) s c ls h ((gangOf s x).foldl killBlock s))
      ∧ (∀ g, p.fr = true → namedFibre s b.part (w p.s 0 % 2 ^ 17) (w p.s 1 % 2 ^ 13) = some g →
        Stays (deliver (killFibres s (fragment s g))) b ls → Completes (.haltb h p) s c ls h (deliver (killFibres s (fragment s g)))))
    ∧ (∀ (p : TrialP) (x : Block), (Instr.trial h p).wellFormed = true → ownBlock s b.part (w p.s 0 % 2 ^ 17) = some x →
      ((BitVec.ofNat 32 (w p.s 3)).msb = false →
        Completes (.trial h p) s c ls h (setUni (setKernel s x.kernel fun k => { k with trial := none }) f p.st.toNat 0))
      ∧ ((BitVec.ofNat 32 (w p.s 3)).msb = true → w p.s 1 < w p.s 2 → w p.s 1 % 2 = 0 → w p.s 2 % 2 = 0 →
        (kernel? s x.kernel).bind (·.trial) = none → x.kernel ≠ b.kernel →
        Completes (.trial h p) s c ls h (setUni (setPartn
          (setKernel s x.kernel fun k => { k with trial := some (w p.s 1, w p.s 2, w p.s 3 % 2 ^ 16) }) x.part fun q =>
            { q with pcount := 0, dcount := 0 }) f p.st.toNat 0)))

/-- R357, R358, R360, R371: saving a stopped block writes its image and frees what it held; LSQSAVE saves its stores; CTXRS admits a saved
block anew, stopped; LSQRST returns its stores and lets it issue. Each reports status 0 and acts through the lowest guard-true lane. An image is
written when the lane's earlier accesses have performed, and read when its earlier loads and atomics have.
The model's own choices in it: log 11, and log 21 for the block id that CTXRS takes. -/
def Obligations.SavedBlocks : Prop :=
  ∀ (h : Head) (p : CtxP) (s : State) (c : Cur) (b : Block) (ls : List Fibre) (f : Fibre) (fs : List Fibre) (need : Nat),
    let cap := capReg s f p.c.toNat
    let x := (uniPair s f (p.s.toNat + 2)).toInt
    let off := capOff cap x
    let ok := fun (t : State) => setUni t f p.st.toNat 0
    Ready s c b ls → AtHome ls → guardTrue h.g h.gn ls = f :: fs → (∀ g ∈ ls, 1 ≤ g.lvl) →
    accessCheck s b.part cap x 16 need = none →
    (∀ y l, (Instr.ctxsv h p).wellFormed = true → need = (rWR ||| rCST) → ctxBlock s b f p = some y → blockStopped s y = true →
      y.lsq = true → blockStores s y.id = [] →
      let i := imageOf s y s.seq
      let len := 32 + 16 * i.caps.length
      len ≤ rangeLeft cap off → settled s f = true → closeHeld s y.part [y.id] = none →
      openImage s b true f (capObj cap) off len = .places l → (∀ a ∈ imageGrans l off len, rowWaits s a = false) →
      let u := writeImage ((imageGrans l off len).foldl touch s) l off i
      let t := freeSaved { u.fresh with images := u.images ++ [i] } y s.seq
      Stays t b ls → Completes (.ctxsv h p) s c ls h (ok t))
    ∧ (∀ y l, (Instr.lsqsave h p).wellFormed = true → need = (rWR ||| rCST) → ctxBlock s b f p = some y → blockStopped s y = true →
      let i := { Image.bare s.seq y true with stores := fifosOf s y.id }
      let len := 32 + 16 * i.caps.length
      len ≤ rangeLeft cap off → settled s f = true →
      openImage s b true f (capObj cap) off len = .places l → (∀ a ∈ imageGrans l off len, rowWaits s a = false) →
      let u := writeImage ((imageGrans l off len).foldl touch s) l off i
      let t := setBlock (takeStores { u.fresh with images := u.images ++ [i] } y.id) y.id fun d => { d with lsq := true }
      Stays t b ls → Completes (.lsqsave h p) s c ls h (ok t))
    ∧ (∀ u i cs y, (Instr.ctxrs h p).wellFormed = true → need = (rRD ||| rCLD) → groupWord s f p.s 1 = 0 →
      loadImage s b f cap off false = .image u i cs → i.block.id = groupWord s f p.s 0 % 2 ^ 17 → homeOf u i = some y →
      let t := restoreBlock u (i.withCaps cs) y
      Stays t b ls → Completes (.ctxrs h p) s c ls h (ok (setUni t f p.s.toNat (BitVec.ofNat 32 y.place.id))))
    ∧ (∀ u i cs y, (Instr.lsqrst h p).wellFormed = true → need = (rRD ||| rCLD) → ctxBlock s b f p = some y → blockStopped s y = true →
      loadImage s b f cap off true = .image u i cs → fifosRoom u y (capData i.stores cs) = true →
      let t := (capData i.stores cs).foldl (fun t z =>
        setPort t (4 * y.cluster + z.1) z.2.1 fun q => { q with fifo := q.fifo ++ [movedStore u y z.1 z.2.1 z.2.2] }) u
      let t := letIssue t y
      Stays t b ls → Completes (.lsqrst h p) s c ls h (ok t))
    ∧ (∀ stores, 32 ≤ rangeLeft cap off → (∃ o ∈ f.outs, o.kind ≠ .cut) → loadImage s b f cap off stores = .wait s)
    ∧ (∀ i held done, 32 + 16 * i.caps.length ≤ rangeLeft cap off → settled s f = false → saveImage s b f p cap off i held done = actWait s)

/-! ### Work, queues and the device -/

/-- R22, R23, R28, R29, R32, R35, R39, R42, R45, R335: the events of work. A free slot takes the group of the oldest loose ready fibre as a batch
of a new number; a ready batch
that has not issued for 4096 cycles is forced; a batch that has waited 64 cycles leaves its slot; a bin that is full or due launches; a join
set all of whose members join completes; a block with nothing left retires, a gang with its last member, once nothing holds back the chunks that
are written then (R397), and of the kernels whose last block
has retired the first that did writes its completion word.
The model's own choices in it: log 4, 19, 21. -/
def Obligations.WorkEvents : Prop :=
  ∀ (s : State) (core port : Nat),
    (∀ f fs i, looseOf s core port = f :: fs → freeSlot s core port = some i →
      let g := oneEach (f :: fs.filter (sameBatch f))
      exec (.batcherFill core port) s = .next (takeSlot s.fresh { core := core, port := port, slot := i } (g.map (·.key)) f.age
        (g.foldl (fun a x => max a x.next) 0) s.seq))
    ∧ (∀ f ∈ looseOf s core port, f.run = .ready ∧ f.slot = none)
    ∧ (∀ x, (portOf s core port).forced = none → x ∈ s.slots → x.core = core → x.port = port → slotReady s x = true → x.last + 4096 ≤ s.now →
      (∀ y ∈ s.slots, y.core = core → y.port = port → slotReady s y = true → y ≠ x → x.last < y.last) →
      exec (.ageStarvationIssue core port) s = .next (setPort s core port fun p => { p with forced := some x.idx }))
    ∧ (∀ x f t, slot? s { core := core, port := port, slot := x } = some t →
      let c : Cur := { core := core, port := port, slot := x }
      f ∈ lanesOf s c → (∃ w, f.run = .waiting w) → t.last + 64 ≤ s.now → (f.run = .waiting .retry → f.waitSince + 64 ≤ s.now) →
      ∃ u, exec (.slotRelease core port x) s = .next u ∧ (∀ k, k ∈ (lanesOf s c).map (·.key) → ∀ g, fibre? u k = some g → g.slot = none)
        ∧ slot? u c = none ∧ u.mem = s.mem)
    ∧ (∀ x, (portOf s core port).bins.find? (fun y => y.idx == x.idx) = some x →
      (∀ q y, part? s core x.bp = some q → block? s q.blk = some y → y.frozen = false) → (32 ≤ x.ctxs.length ∨ x.start + x.timer ≤ s.now) →
      exec (.binLaunch core port x.idx) s = .next (launchBin s core port x.idx))
    ∧ (∀ b part id, block? s b.id = some b →
      let l := joinSet s b.id (4 * b.cluster + part / 64) (part % 64) id
      (joinReady l = true → exec (.joinComplete b.id part id) s = .next (joinDone s l))
      ∧ (joinReady l = false → exec (.joinComplete b.id part id) s = .next s))
    ∧ (∀ b, block? s b.id = some b → b.done = false → blockOver s b = true →
      (b.gang = none → closeHeld s b.part [b.id] = none → exec (.blockRetire b.id) s = .next (retireBlock s b))
      ∧ (∀ a, b.gang = none → closeHeld s b.part [b.id] = some a → exec (.blockRetire b.id) s = .next (noteWait s a))
      ∧ (∀ g, b.gang = some g → exec (.blockRetire b.id) s = .next (setBlock s b.id fun x => { x with done := true })))
    ∧ (∀ b, block? s b.id = some b → (∃ f ∈ s.fibres, f.blk = b.id ∧ f.run ≠ .exited) → exec (.blockRetire b.id) s = .next s)
    ∧ (∀ g, gang? s g.id = some g → (∀ m ∈ g.members, ∃ b, block? s m = some b ∧ b.done = true ∧ closeHeld s b.part g.members = none) →
      exec (.gangRetire g.id) s = .next
        (let t := (g.members.filterMap (block? s)).foldl retireBlock (leaveRound s g)
         { t with gangs := t.gangs.filter (fun x => x.id != g.id) }))
    ∧ (∀ k, kernel? s k.id = some k → (overKernels s).head? = some k →
      let a := (queueOf s k.part k.queue).doneAddr.toNat
      let cell := if k.part = 8 then a else Config.hostBase + a
      (mapped cell = true → rowWaits s cell = false →
        ∃ t, exec (.kernelComplete k.id) s = .next t ∧ t.mem = writeMem s.mem cell k.doneVal.toNat 8
          ∧ t.kernels = s.kernels.filter (fun x => x.id != k.id))
      ∧ (mapped cell = true → rowWaits s cell = true → exec (.kernelComplete k.id) s = .next (noteWait s cell)))
    ∧ (∀ k x, kernel? s k.id = some k → (overKernels s).head? = some x → x.id ≠ k.id → exec (.kernelComplete k.id) s = .next s)
    ∧ (∀ k, k ∈ overKernels s ↔ k ∈ s.kernels ∧ k.total ≤ k.nextBlk ∧ k.liveBlks = 0)

/-- R24, R25, R61, R324 to R331, R382, R385: the events of launch queues. A tail write is seen by the queues that watch the line, and halts one that it
puts too far past HEAD; a packet at HEAD becomes a kernel, or is passed where it is a NOP, or halts its queue with an error; RESUME ends a halt,
but where every cluster is fenced; the chosen queue's head kernel has its next block or gang placed, in an allocation that reads as zero. A queue
that has waited w cycles at an interval of t has effective priority min 7 (p + w / t), reached with the last step that raised it, whether or
not its steps have been noted.
The model's own choices in it: log 4, 19. -/
def Obligations.QueueEvents : Prop :=
  ∀ (s : State) (part q : Nat), part < 8 → q < 32 →
    let x := queueOf s part q
    let halts := fun (i : Instr) (err : Nat) => exec i s = .next (haltQueue s part q x.head err)
    (∀ v, (s.queues.map fun y => (y.part, y.q)).Nodup →
      let sees := fun (y : LQueue) => y.part ≠ 8 ∧ y.en = true ∧ y.tailAddr = x.tailAddr
      let far := fun (y : LQueue) => 2 ^ max 4 y.logn.toNat < (BitVec.ofNat 32 v - y.head).toNat
      (∀ y ∈ s.queues, sees y → y.halt = false → ¬ far y) →
      ∃ t, exec (.tailLineSnoop part q v) s = .next t ∧ t.mem = writeMem s.mem (Config.hostBase + x.tailAddr.toNat) v 4
        ∧ ∀ y ∈ s.queues, sees y → { y with tail := some (BitVec.ofNat 32 v) } ∈ t.queues)
    ∧ (∀ v, x.en = true → x.halt = false → 2 ^ max 4 x.logn.toNat < (BitVec.ofNat 32 v - x.head).toNat →
      ∃ t, exec (.tailLineSnoop part q v) s = .next t ∧ (queueOf t part q).halt = true ∧ (queueOf t part q).err = 5
        ∧ (queueOf t part q).index = x.head)
    ∧ (x.pending = true → x.overrun = true → halts (.launchPacket part q) 5)
    ∧ (x.pending = true → x.overrun = false → ∀ v, packetAt s x = .bytes v →
      (pkType v = 0 → pkReserved v = false →
        exec (.nopPacket part q) s = .next (setQueue (packetTouch s x) part q fun y => { y with head := y.head + 1 }))
      ∧ (pkType v = 0 → pkReserved v = true → halts (.nopPacket part q) 2)
      ∧ (2 ≤ pkType v → halts (.launchPacket part q) 1)
      ∧ (pkType v = 1 → pkReserved v = true → halts (.launchPacket part q) 2)
      ∧ (pkType v = 1 → pkReserved v = false → pkBad v = true → halts (.launchPacket part q) 3)
      ∧ (∀ e, pkType v = 1 → pkReserved v = false → judgeLaunch s part v = .err e → halts (.launchPacket part q) e)
      ∧ (∀ a, pkType v = 1 → pkReserved v = false → judgeLaunch s part v = .held a → exec (.launchPacket part q) s = .next (noteWait s a))
      ∧ (∀ a, pkType v = 1 → pkReserved v = false → judgeLaunch s part v = .args a →
        let u := if argBytes v = 0 then s else cpLeave s part (capObj (pkArgcap v)) 2 (capBase (pkArgcap v)) (argBytes v)
        let u := touchDescs (packetTouch u x) part (([pkCodecap v, pkArgcap v] ++ argCaps v a).map capObj)
        exec (.launchPacket part q) s = .next (haltFenced
          (setQueue { u.fresh with kernels := u.kernels ++ [kernelOf u part q x.head.toNat v a] } part q fun y =>
            { (if (headKernel u part q).isSome then y else y.ageAnew u.now (tAge u part)) with head := y.head + 1, last := some u.seq }) part)))
    ∧ (x.pending = true → x.overrun = false → (∀ v, packetAt s x ≠ .bytes v) →
      ((∀ a, packetAt s x ≠ .held a) → halts (.launchPacket part q) 7)
      ∧ ∀ a, packetAt s x = .held a → exec (.launchPacket part q) s = .next (noteWait s a))
    ∧ (∀ v, v.testBit 8 = true →
      ((clustersOf s part = [] ∨ working s part ≠ []) → (v.testBit 7 = true → x.en = true) →
        ∃ t, exec (.queueResume part q v) s = .next t ∧ (queueOf t part q).halt = false ∧ (queueOf t part q).head = x.head ∧ t.mem = s.mem)
      ∧ (∀ k, clustersOf s part ≠ [] → working s part = [] → headKernel s part q = some k →
        ∃ t, exec (.queueResume part q v) s = .next t ∧ (queueOf t part q).halt = true ∧ (queueOf t part q).err = 6
          ∧ (queueOf t part q).index = BitVec.ofNat 32 k.index))
    ∧ ((headKernel s part q).isSome = true → x.prio.toNat + x.reached < 7 → x.waitAt ≤ s.now →
      exec (.ageingStep part q) s = .next (setQueue s part q fun y => y.noteSteps s.now (tAge s part)))
    ∧ (∀ (y : LQueue) (a w t : Nat), 0 < t →
      let z := y.ageAnew a t
      z.eff (a + w) t = min 7 (y.prio.toNat + w / t) ∧ z.effAt (a + w) t = a + min (w / t) (7 - y.prio.toNat) * t
        ∧ ∀ m, m ≤ a + w → (z.noteSteps m t).eff (a + w) t = z.eff (a + w) t)
    ∧ (∀ y k p, chooseQueue s part (waitingQueues s part) [] = some (y, k, [p]) → y.q = q → k.gangN = 0 →
      exec (.admitBlock part q) s = .next (placeIn (admitted s y k) k p none 0))
    ∧ (∀ y k ps, chooseQueue s part (waitingQueues s part) [] = some (y, k, ps) → y.q = q → k.gangN ≠ 0 →
      let no := fun {α : Type} (x : α) => List.replicate k.gangN x
      let g : Gang := { id := s.seq, kernel := k.id, members := ps.map (·.id), killed := no false, votes := no none, voteDom := false
                        voteFwd := none, voteKill := false, syncs := no false }
      let t : State := { (admitted s y k).fresh with gangs := s.gangs ++ [g] }
      exec (.admitGang part q) s = .next (ps.zipIdx.foldl (fun s x => placeIn s k x.1 (some g.id) x.2) t))
    ∧ (∀ lo n a, let t := clearSpad s lo n
      lo ≤ a → a < lo + n → t.isFull a = false ∧ t.isLive a = false ∧ a ∉ t.ueMarks ∧ (Memory.wf s.mem = true → memGet t.mem a = 0))
    ∧ (∀ v, q < 4 → exec (.monitorQueueTail q v) s = .next (seeTail (setQueue s 8 q fun y =>
        { y with tailAddr := BitVec.ofNat 64 (v % 2 ^ 32), tail := some (BitVec.ofNat 32 v) }) 8 q))

/-- R12, R17, R66, R67, R317, R323, R347, R348, R356, R365, R374, R377, R378, R383, R385, R386, R388, R389, R397: the events of the device, of its registers
written from outside, of the host and of other devices.
The model's own choices in it: log 1, 4, 6, 7, 9, 15, 19, 20. -/
def Obligations.DeviceEvents : Prop :=
  ∀ (s : State) (part : Nat), part < 8 →
    (∀ v, v.testBit 17 = false → exec (.preq part v) s = .next (sysPut s part 0x0304 (v % 2 ^ 17)))
    ∧ (∀ v b, v.testBit 17 = true → block? s (v % 2 ^ 17) = some b → b.part = part →
      exec (.preq part v) s = .next ((gangOf (sysPut s part 0x0304 (v % 2 ^ 17)) b).foldl preempt (sysPut s part 0x0304 (v % 2 ^ 17))))
    ∧ (∀ core port ctx f b, fibre? s { core := core, port := port, ctx := ctx } = some f → block? s f.blk = some b → b.pre = true → f.tm = true →
      f.expired = false → f.run ≠ .exited → b.preAt + sysGet s b.part 0x0303 ≤ s.now →
      exec (.handlerBudgetExpiry core port ctx) s = .next
        (cleanSlots (stopFibre (setFibre s f.key fun g => { g with expired := true }) f.key)))
    ∧ (∀ v, let c := BitVec.ofNat 128 (sysGet s part 0x0301 + 2 ^ 64 * v)
      let t := touchDescs s part [capObj c]
      descHeld s part [capObj c] = none →
      (rootCap t part c = true → exec (.tcode1 part v) s = .next (sysPut t part 0x0302 (v % 2 ^ 64)))
      ∧ (rootCap t part c = false → exec (.tcode1 part v) s = .next (sysPut (sysPut t part 0x0301 0) part 0x0302 0)))
    ∧ (∀ r rs, (partnOf s part).tlog = r :: rs → ∃ t, exec (.tlog0 part) s = .next t ∧ (partnOf t part).latch = r.bits
      ∧ (partnOf t part).tlog = rs)
    ∧ (∀ v b, block? s (sysGet s part 0x0204) = some b → b.part = part → v.testBit 5 = true →
      exec (.bfstatAck part v) s = .next (setBlock s b.id fun x => { x with faults := [], fovf := false }))
    ∧ (∀ v, v < 2 ^ 64 → v.testBit 0 = true → ownHole s = none → (ownCells s).find? (rowWaits s) = none →
      ∃ t, exec (.ownapply v) s = .next t ∧ (sysGet s 8 0x4006 = 0 → t.mem = s.mem)
      ∧ (∀ c < 384, mapGet t.owners c 0xFE = s.read (sysGet s 8 0x4002 + c) 1)
      ∧ ∀ k < 16, mapGet t.serves k 0 = s.read (sysGet s 8 0x4002 + 384 + k) 1)
    ∧ (∀ v, exec (.feataccept v) s
        = .next (if s.everEnabled then s else sysPut s 8 0x4001 (v % 2 ^ 4 &&& sysGet s 8 0x4000)))
    ∧ (∀ v b, block? s b.id = some b → b.part = part → b.id = v % 2 ^ 17 →
      (v.testBit 17 = true → v.testBit 18 = false → ∃ t d, exec (.debugStop part v) s = .next t ∧ block? t b.id = some d ∧ d.dbg = true
        ∧ dstat t part b.id = if (aliveOf t b.id).all Fibre.atBoundary then 2 else 1)
      ∧ (v.testBit 17 = false → v.testBit 18 = true →
        exec (.debugResume part v) s = .next (setBlock (sysPut s part 0x0500 (v % 2 ^ 17)) b.id fun x => { x with dbg := false })))
    ∧ (∀ v, v.testBit 40 = true → ∃ t, exec (.traceEnable part v) s = .next t ∧ (partnOf t part).trDrops = 0 ∧ (partnOf t part).trTail = 0)
    ∧ (∀ v m, (m = 1 ∨ m = 2) → v % 4 = m →
      let i := if m = 1 then Instr.recordMode part v else .replayMode part v
      (userResident s part = true → exec i s = .next s)
      ∧ (userResident s part = false → writeHeld s part 0x0528 v = none → ∃ t, exec i s = .next t ∧ rrMode t part = m ∧ (partnOf t part).rrUsed = 0
        ∧ (partnOf t part).rrFull = false
        ∧ ((partnOf t part).rrBad = true ↔
          m = 2 ∧ ∃ j < 8, (findChunk s part j (sysGet s part 0x052A) 0).any (badChunk s part) = true)))
    ∧ (∀ v, v % 4 = 0 → writeHeld s part 0x0528 v = none → ∃ t, exec (.modeOff part v) s = .next t ∧ rrMode t part = 0)
    ∧ (∀ v a, v % 4 = 0 → writeHeld s part 0x0528 v = some a → exec (.modeOff part v) s = .next (noteWait s a))
    ∧ (∀ b obj wb wl, block? s b.id = some b → wb % 16 = 0 → wl % 16 = 0 → wl ≠ 0 → wb + wl ≤ b.spadSize → obj ≠ 0 → obj < 2 ^ 21 →
      (∀ w ∈ s.windows, w.part = b.part → w.obj = obj → w.ended = true) →
      exec (.scratchpadWindow b.id obj wb wl) s = .next { s with
        windows := s.windows.filter (fun w => !(w.part == b.part && w.obj == obj)) ++
          [{ part := b.part, obj := obj, blk := b.id, wb := wb, wl := wl, ended := false }] })
    ∧ (∀ u, u < 384 + 16 + 1536 → u ∉ s.fenced →
      (unitHeld s u = false → exec (.unitFence u) s = .next (fenceUnit s u))
      ∧ (unitHeld s u = true → exec (.unitFence u) s = .next { s with fencePend := setIns u s.fencePend }))
    ∧ (∀ a b, ∃ t, exec (.deviceReset 0 a b) s = .next t ∧ t.fibres = [] ∧ t.blocks = [] ∧ t.kernels = [] ∧ t.queues = [] ∧ t.sys = []
      ∧ t.owners = [] ∧ t.fenced = [] ∧ t.bootStep = 1 ∧ t.mem = s.mem.filter (fun c => outside c.1))
    ∧ (∀ a n v, 2 ≤ s.bootStep → a < Config.hostBase → oneLine a n = true → mapped a = true → rowWaits s a = false → s.ue a n = false →
      ∃ t, exec (.hostAccess 1 a n v) s = .next t ∧ t.mem = writeMem s.mem a v n ∧ exec (.hostAccess 0 a n v) s = .next (touch s a))
    ∧ (∀ wr a n v, 2 ≤ s.bootStep → a < Config.hostBase → oneLine a n = true → mapped a = true → rowWaits s a = true →
      exec (.hostAccess wr a n v) s = .next (noteWait s a))
    ∧ (∀ wr a n v, s.bootStep < 2 → exec (.hostAccess wr a n v) s = .next s)
    ∧ (∀ code x y, monTrap s ≠ none → exec (.deviceReset 1 x y) s = .next s
      ∧ (s.dvsec.fail = false → code ≠ 0x0303 → exec (.deviceReset 2 code y) s = .next s))
    ∧ (∀ obj off w v, remoteWidth 1 off w = true → obj < 2 ^ 21 → window? s part obj = none →
      (∀ a, translate s part obj off [] = .place a → rowWaits s a = false → partialUe s a w = false →
        ∃ t, exec (.remoteDeviceRequest 1 part obj off w v) s = .next t ∧ t.mem = writeMem s.mem a v w)
      ∧ (translate s part obj off [] = .miss →
        exec (.remoteDeviceRequest 1 part obj off w v) s = .next (joinWalk s 0 part obj off (.remote 1))))
    ∧ (∀ kind obj off w v x, kind < 2 ^ 16 → remoteWidth kind off w = true → obj < 2 ^ 21 → window? s part obj = some x → x.ended = true →
      exec (.remoteDeviceRequest kind part obj off w v) s = .next (remoteUnresolved s part obj off fWindowEnded kind))
    ∧ (∀ path up, exec (.pathStateChange path up) s = .next { s with pathsDown := setPut path (up == 0) s.pathsDown })
    ∧ (∀ die off v, die < 8 → off < 2 ^ 30 → off % 16 = 0 →
      (storeHeld s die = true → exec (.weightStoreWrite die off v) s = .next s)
      ∧ (storeHeld s die = false → ∃ t, exec (.weightStoreWrite die off v) s = .next t
        ∧ t.mem = writeMem s.mem (Config.weightBase + die * 2 ^ 32 + off) v 16))
    ∧ (∀ a, mapped a = true →
      (readPast s (granOf a) = false → exec (.uncorrectableError a) s = .next { s with ueMarks := setIns (granOf a) s.ueMarks })
      ∧ (readPast s (granOf a) = true → exec (.uncorrectableError a) s = .next s))
    ∧ (∀ avg, sysGet s 8 0x4004 < avg → exec (.powerLimitStep avg) s = .next
        { s with engines := s.engines.map (fun e => { e with step := if e.entries.any (·.active) then min 7 (e.step + 1) else e.step })
                 belowSince := none })
    ∧ (∀ avg t, 100 * avg < 95 * sysGet s 8 0x4004 → s.belowSince = some t → t + 4000000 ≤ s.now → exec (.powerLimitStep avg) s = .next
        { s with engines := s.engines.map (fun e => { e with step := e.step - 1 }), belowSince := some s.now })
    ∧ (∀ u, u < 384 → (∀ b ∈ s.blocks, b.cluster ≠ u) → (∀ f ∈ s.fibres, f.loc / 4 ≠ u) → mapGet s.idleAt u 0 + 4000 ≤ s.now → mapGet s.power u 0 = 0 → tolerates s u 3000 = true →
      exec (.powerStateEntry u) s = .next { s with
        power := mapPut u 2 s.power, idleAt := mapDel u s.idleAt
        engines := s.engines.map fun e => if e.cluster == u then { e with credit := 0, starving := none } else e })
    ∧ (∀ k, k < 16 → (latheOf s k).regions = [] → mapGet s.reqAt k 0 + 4000 ≤ s.now → mapGet s.power (384 + k) 0 = 0 →
      tolerates s (384 + k) 1500 = true →
      exec (.powerStateEntry (384 + k)) s
        = .next { s with power := mapPut (384 + k) 1 s.power, idleAt := mapDel (384 + k) s.idleAt })
    ∧ (∀ k t, k < 16 → s.idleAt.find? (fun x => x.1 == 384 + k) = some (384 + k, t) → mapGet s.power (384 + k) 0 = 1 → t + 6000 ≤ s.now →
      exec (.powerStateExit (384 + k)) s = .next
        { s with power := mapDel (384 + k) s.power, idleAt := mapDel (384 + k) s.idleAt, reqAt := mapPut k s.now s.reqAt })
    ∧ (∀ die n, die < 8 → let w := wrefOf s die
      (∃ t, exec (.weightRefreshWindow die) s = .next t ∧ wrefOf t die = w ∧ t.mem = s.mem)
      ∧ wrefOf { s with now := w.2 + n } die = ((w.1 + n / 160) % 256, w.2 + 160 * (n / 160)))

/-! ### The machine as a whole -/

/-- R35, R42, R183, R197: a step that a port's issue stands first for runs the instruction whose bytes the port's first batch fetches, once the
batches that lost their slots while they waited have been looked at: `step` is `exec` of the
decoded instruction, in the state in which that batch issues, and the port's forced issue is over and its issue of this cycle used. Bytes
that are no instruction raise ILLEGAL_OP. A step that an event stands first for is `exec` of the event. (The agenda, and that no port issues in
the cycle of another's SYSWR, are the model's own: log 4; a device whose bring-up has stopped takes DEVICE_RESET alone, R386.) -/
def Obligations.StepRunsDecoded : Prop :=
  ∀ (s : State) (m : Sched) (ms : List Sched), s.agenda = m :: ms →
    let r : State := { s with agenda := ms, now := s.now + m.dt }
    (∀ core port c cs f b k v, m.mover = .issue core port → bootStopped r = false → r.sysAt ≠ r.now + 1 →
      (portOf r core port).issued ≠ r.now + 1 →
      let u := (distinct ((waitingLoose r core port).map (·.bat))).foldl (recheck core port) r
      portOrder u core port = c :: cs → (lanesOf u c).head? = some f →
      block? u f.blk = some b → fetch { u with cur := some c } b f = .bytes k v →
      let w : State := { u with cur := some c }
      (∀ i rest, decode (bytesLE k v) = .ok (i, rest) →
        (∀ t, exec i w = .next t → stillWaits t c = false → step s = .next (issuedBy u c t))
        ∧ (∀ e, exec i w = .fault e → step s = .fault e))
      ∧ (∀ e t, decode (bytesLE k v) = .error e → issue { early := some 0x01 } (fun s _ _ => acted s []) w = .next t →
        stillWaits t c = false → step s = .next (issuedBy u c t)))
    ∧ (∀ i, m.mover = .event i → bootStopped r = false ∨ isReset i = true → step s = exec i r)

/-- R183 to R194: words written out from the spec's encodings decode to the instructions they stand for: `add v1, v2` of form H, `mad v5, v6, v7` of
form A guarded by p2, `add.sat` of form X with a uniform operand, `sub` with an immediate of form I,
an acquiring LD of form M, EXIT; a set reserved bit and a cut word are refused. -/
def Obligations.DecodesSpecWords : Prop :=
  decode [0x88, 0x20] = .ok (.addFormH { stall := 0, d := 1, a := 2 }, [])
  ∧ decode [0xA1, 0x28, 0x8C, 0x43] = .ok (.madFormA { stall := 0, d := 5, a := 6, b := 7, g := 2 }, [])
  ∧ decode [0x1B, 0x60, 0x21, 0x30, 0x10, 0x09, 0x01, 0x40] = .ok (.addFormX { gn := true, g := 5, y := true, stall := 6 }
      { sat := true, ftz := false, rm := 0, xf := false, xk := 0, xm := 0, bu := true, b := 9, a := 4, d := 3 }, [])
  ∧ decode [0x23, 0x00, 0x40, 0x70, 0x20, 0xFE, 0xFF, 0xFF] = .ok (.subFormI { gn := false, g := 0, y := false, stall := 0 }
      { imm := 0xFFFFFE, a := 8, d := 7 }, [])
  ∧ decode [0x03, 0x04, 0x80, 0x92, 0x8C, 0x42, 0xD6, 0xFF] = .ok (.ld { gn := false, g := 0, y := false, stall := 0 }
      { off := 0xFFD, o64 := false, qc := 6, sc := 2, t := 1, w := 2, c := 3, a := 9, d := 10 }, [])
  ∧ decode [0xC3, 0x02, 0x00, 0x00, 0x00, 0x00, 0x00, 0x00] = .ok (.exit { gn := false, g := 0, y := false, stall := 0 }, [])
  ∧ decode [0xC3, 0x02, 0x40, 0x00, 0x00, 0x00, 0x00, 0x00] = .error .reservedBits
  ∧ decode [0x88] = .error .truncated

/-- R61, R199, R323, R365, R381: the machine right after reset: nothing is resident, no memory is listed and its form is canonical, and the registers have
the reset values the spec gives: T_age 100, T_guest 1024, T_pf 2000, H 65 536, R 4000, LOGN 10, OFFER 0xF, W 3000, both watchdogs 1000, and
ACCEPT, LTR, OTBASE, TVBASE and HMRING 0. (Unlisted memory reading 0 is the model's choice: log 2.) -/
def Obligations.AfterReset : Prop :=
  let s := State.reset
  s.Inv ∧ s.fibres = [] ∧ s.blocks = [] ∧ s.kernels = [] ∧ s.queues = [] ∧ (∀ a, s.read a 1 = 0)
  ∧ (∀ p < 8, sysGet s p 0x0000 = 100 ∧ sysGet s p 0x0003 = 1024 ∧ sysGet s p 0x0004 = 2000 ∧ sysGet s p 0x0303 = 65536
    ∧ sysGet s p 0x0401 = 4000 ∧ sysGet s p 0x0505 = 10 ∧ sysGet s p 0x0400 = 0 ∧ sysGet s p 0x0200 = 0 ∧ sysGet s p 0x0300 = 0)
  ∧ sysGet s 8 0x4000 = 0xF ∧ sysGet s 8 0x4001 = 0 ∧ sysGet s 8 0x4004 = 3000
  ∧ sysGet s 8 0x4005 = 1000 * 2 ^ 32 + 1000 ∧ sysGet s 8 0x4006 = 0

/-- R183 to R197: decoding what the encoder gives for a well-formed instruction, followed by any bytes, gives that instruction and leaves those
bytes; the encoding has the length its first byte says. An event of the machine has no encoding. -/
def Obligations.EncodeDecode : Prop :=
  ∀ (i : Instr) (rest : List (BitVec 8)), i.wellFormed = true → i.view ≠ .event →
    decode (encode i ++ rest) = .ok (i, rest) ∧ (∃ b bs, encode i = b :: bs ∧ 8 * (encode i).length = lengthOf b)

/-- Every step keeps memory in its canonical form, so that equal memories are equal data: addresses strictly rise and no listed byte is what
an unlisted one reads as.
The model's own choices in it: log 2. -/
def Obligations.InvariantKept : Prop :=
  ∀ (s t : State), s.Inv → step s = .next t → t.Inv

/-- R185 to R194, R22: a lane operation of form H, A, X or I leaves everything but the lanes of its batch as it was: memory and its bits, tiles, block parts,
system registers, kernels' blocks, every engine and queue, and every fibre of another batch. (A trap of a lane away is fenced through its port, and
one whose vector table a row holds back is noted there: R172, R99. With the going of a trapping guest a unit that waits to be fenced may be, R385,
which is no effect of the operation: where a unit waits, the lanes are taken at home.)
The model's own choices in it: log 4. -/
def Obligations.LaneFrame : Prop :=
  ∀ (i : Instr) (s t : State), (∃ o, (∃ x, i = instrA o x) ∨ (∃ x, instrH (op4Of o) x = some i) ∨ (∃ h x, i = instrX o h x)
      ∨ (∃ h x, instrI o h x = some i)) →
    exec i s = .next t → (s.fencePend = [] ∨ ∀ c, s.cur = some c → ∀ f ∈ lanesOf s c, f.away = false) →
    t.mem = s.mem ∧ t.capTags = s.capTags ∧ t.fullBits = s.fullBits ∧ t.liveBits = s.liveBits ∧ t.tiles = s.tiles ∧ t.parts = s.parts
      ∧ t.sys = s.sys ∧ t.blocks = s.blocks ∧ t.engines = s.engines ∧ t.copies = s.copies ∧ t.names = s.names ∧ t.queues = s.queues
      ∧ t.msgs = s.msgs ∧ t.lathes.map (fun l => { l with waits := [] }) = s.lathes.map (fun l => { l with waits := [] })
      ∧ ((∀ c, s.cur = some c → ∀ f ∈ lanesOf s c, f.away = false) → t.ports = s.ports)
      ∧ (∀ c k, s.cur = some c → (∀ f ∈ lanesOf s c, f.key ≠ k) → fibre? t k = fibre? s k)

/-- R4: a value of several bytes in memory is little-endian, a capability too: byte `i` from the lowest address holds bits 8i+7 to 8i, what is written
is read back, bytes elsewhere are as they were; an instruction's length is told by the low bits of its first halfword, and byte `k` of an
instruction holds bits 8k+7 to 8k of its word. -/
def Obligations.LittleEndian : Prop :=
  (∀ (s : State) (a n v : Nat), s.Inv →
    (s.write a n v).Inv ∧ (s.write a n v).read a n = v % 2 ^ (8 * n)
    ∧ (∀ i < n, (s.write a n v).read (a + i) 1 = v / 2 ^ (8 * i) % 2 ^ 8)
    ∧ (∀ b, b < a ∨ a + n ≤ b → (s.write a n v).read b 1 = s.read b 1))
  ∧ (∀ (s : State) (a i : Nat) (c : CapWord), s.Inv → i < 16 → (s.writeCap a c).read (a + i) 1 = (c.extractLsb' (8 * i) 8).toNat)
  ∧ (∀ (x y : BitVec 8) (rest : List (BitVec 8)) (i : Instr) (after : List (BitVec 8)), decode (x :: y :: rest) = .ok (i, after) →
    let h := x.toNat + 256 * y.toNat
    (x :: y :: rest).length = after.length + (if h % 2 = 0 then 2 else if h % 4 = 1 then 4 else 8))
  ∧ (∀ (i : Instr) (k : Nat), 8 * k < (encodeBits i).1 → (encodeBits i).1 % 8 = 0 →
    (encode i)[k]? = some (BitVec.ofNat 8 ((encodeBits i).2 / 2 ^ (8 * k))))
end

