-- ==== Sys2Proof/Laws/Fibre.lean ====
section
/-!
SUPPORT. A fibre's pending writes (R202): what landing does and does not touch, and that landing early changes no final value.
-/
namespace Sys2Proof.Machine

/-- A write changes registers and predicates alone. -/
theorem Fibre.apply_only (f : Fibre) (d : PendDest) : ∃ r p, f.apply d = { f with regs := r, preds := p } := by
  cases d with
  | reg v r => exact ⟨_, _, rfl⟩
  | tag v t => exact ⟨_, _, rfl⟩
  | pred p b =>
    simp only [Fibre.apply, Fibre.setPred]
    split
    · exact ⟨_, _, rfl⟩
    · exact ⟨_, _, rfl⟩

/-- Landing changes registers and predicates alone. -/
theorem landDue_only (l : List Pend) (f : Fibre) : ∃ r p, (landDue l f).1 = { f with regs := r, preds := p } := by
  induction l generalizing f with
  | nil => exact ⟨_, _, rfl⟩
  | cons e r ih =>
    simp only [landDue]
    split
    · obtain ⟨r1, p1, h1⟩ := f.apply_only e.dest
      obtain ⟨r2, p2, h2⟩ := ih (f.apply e.dest)
      exact ⟨r2, p2, by rw [h2, h1]⟩
    · exact ih f

/-- Landing does not look at a lane's place in the scheduler. -/
theorem landDue_place (l : List Pend) (f : Fibre) (slot : Option Nat) (age : Nat) :
    landDue l { f with slot := slot, age := age }
      = ({ (landDue l f).1 with slot := slot, age := age }, (landDue l f).2) := by
  induction l generalizing f with
  | nil => rfl
  | cons e r ih =>
    have ap : ∀ d, Fibre.apply { f with slot := slot, age := age } d = { f.apply d with slot := slot, age := age } := by
      intro d
      cases d with
      | reg v r => rfl
      | tag v t => rfl
      | pred p b => simp only [Fibre.apply, Fibre.setPred]; split <;> rfl
    simp only [landDue]
    split <;> simp [ap, ih]

/-- An issue's distance changes registers, predicates and the list of pending writes alone. -/
theorem Fibre.tick_only (f : Fibre) (n : Nat) : ∃ r p q, f.tick n = { f with regs := r, preds := p, pend := q } := by
  obtain ⟨r, p, h⟩ := landDue_only (f.pend.map (fun e => { e with left := e.left - n })) f
  exact ⟨r, p, _, by simp only [Fibre.tick, h]; rfl⟩

theorem Fibre.tick_place (f : Fibre) (n : Nat) (slot : Option Nat) (age : Nat) :
    Fibre.tick { f with slot := slot, age := age } n = { f.tick n with slot := slot, age := age } := by
  simp only [Fibre.tick, landDue_place]

/-- What an advance leaves of a fibre. -/
theorem Fibre.advance_only (f : Fibre) (pc : BitVec 44) (n next : Nat) : ∃ r p q o,
    f.advance pc n next = { f with
      regs := r, preds := p, pend := q, owe := o, pc := pc, waitPc := f.pc, next := next, cmpPass := false, xl := []
      own := none, sent := 0, mark := none, run := f.run.unwait
      sentTo := f.sentTo.filter (fun x => x.2 != 0), acts := false, atMx := false } := by
  simp only [Fibre.advance]
  split
  · exact ⟨_, _, _, _, rfl⟩
  · obtain ⟨r, p, q, h⟩ := f.tick_only n
    exact ⟨r, p, q, f.owe, by rw [h]⟩

@[simp] theorem Fibre.advance_key (f : Fibre) (pc : BitVec 44) (n next : Nat) : (f.advance pc n next).key = f.key := by
  obtain ⟨r, p, q, o, h⟩ := f.advance_only pc n next; rw [h]

@[simp] theorem Fibre.advance_pc (f : Fibre) (pc : BitVec 44) (n next : Nat) : (f.advance pc n next).pc = pc := by
  obtain ⟨r, p, q, o, h⟩ := f.advance_only pc n next; rw [h]

@[simp] theorem Fibre.advance_run (f : Fibre) (pc : BitVec 44) (n next : Nat) : (f.advance pc n next).run = f.run.unwait := by
  obtain ⟨r, p, q, o, h⟩ := f.advance_only pc n next; rw [h]

theorem Fibre.advance_place (f : Fibre) (pc : BitVec 44) (n next : Nat) (slot : Option Nat) (age : Nat) :
    Fibre.advance { f with slot := slot, age := age } pc n next = { f.advance pc n next with slot := slot, age := age } := by
  simp only [Fibre.advance]
  split <;> simp [Fibre.tick_place]

end Sys2Proof.Machine
end

