-- ==== Sys2Proof/Laws/Issue.lean ====
section
/-!
SUPPORT. What the end of an issue and an issue answer for a batch that nothing stands in the way of: `finish_goTo`, `finish_goOn` and
`issue_ready`. Meanings are unfolded as far as their `issue`, and no further.
-/
namespace Sys2Proof.Machine

/-! ### Changes of fibres -/

theorem setFibres_nil (s : State) (g : Fibre → Fibre) : setFibres s [] g = s := by simp [setFibres]

/-- Two changes of the same fibres are one. -/
theorem setFibres_twice (s : State) (ks : List FKey) (g h : Fibre → Fibre) (hk : ∀ f, (g f).key = f.key) :
    setFibres (setFibres s ks g) ks h = setFibres s ks (fun f => h (g f)) := by
  simp only [setFibres, List.map_map]
  congr 1
  apply List.map_congr_left
  intro f _
  by_cases hc : f.key ∈ ks
  · simp [hk, hc]
  · simp [hc]

/-- The record of a fibre after a change of fibres. -/
theorem fibre?_setFibres (s : State) (ks : List FKey) (g : Fibre → Fibre) (k : FKey) (hk : ∀ f, (g f).key = f.key) :
    fibre? (setFibres s ks g) k = (fibre? s k).map (fun f => if ks.contains f.key then g f else f) := by
  simp only [fibre?, setFibres, List.find?_map]
  congr 2
  funext f
  simp only [Function.comp]
  split <;> simp [hk]

theorem fibre?_key {s : State} {k : FKey} {f : Fibre} (h : fibre? s k = some f) : f.key = k := by
  have := List.find?_some h
  simpa using this

/-! ### Fates -/

@[simp] theorem fateOf_nil (f : Fibre) : fateOf [] f = none := rfl

theorem fateOf_map (ls : List Fibre) (x : Fibre → Fate) (f : Fibre) (h : ∃ g ∈ ls, g.key = f.key)
    (hx : ∀ g ∈ ls, g.key = f.key → x g = x f) : fateOf (ls.map fun g => (g.key, x g)) f = some (x f) := by
  induction ls with
  | nil => simp at h
  | cons g gs ih =>
    by_cases hg : g.key = f.key
    · simp [fateOf, hg, hx g (by simp) hg]
    · obtain ⟨g', hm, hk⟩ := h
      have hm' : g' ∈ gs := by
        rcases List.mem_cons.1 hm with rfl | h'
        · exact absurd hk hg
        · exact h'
      have := ih ⟨g', hm', hk⟩ (fun y hy => hx y (List.mem_cons_of_mem _ hy))
      simp only [fateOf] at this ⊢
      simpa [hg] using this

/-! ### The end of an issue -/

theorem distinct_replicate (w : Nat) (l : List Nat) (hne : l ≠ []) (h : ∀ x ∈ l, x = w) : distinct l = [w] := by
  induction l with
  | nil => exact absurd rfl hne
  | cons x xs ih =>
    have hx := h x (by simp)
    subst hx
    by_cases hxs : xs = []
    · subst hxs; rfl
    · have := ih hxs (fun y hy => h y (by simp [hy]))
      simp only [distinct, List.foldr_cons] at this ⊢
      rw [this]; simp [setIns]

theorem slot?_filter (s : State) (c : Cur) : slot? { s with slots := s.slots.filter (fun x => !isSlot c x) } c = none := by
  simp [slot?, List.find?_eq_none]

theorem placeGroups_one (c : Cur) (ls : List Fibre) (a : Acted) (len age next bid : Nat) (s : State) (w : Nat)
    (h : (slot? s c).isNone = true) :
    placeGroups c ls a len age next bid s [w] = takeSlot s c ((ls.filter (fun f => goKey a len f == some w)).map (·.key)) age next bid := by
  simp [placeGroups, h]

/-- What an issue's end answers for a batch whose lanes all go on at program counters that are alike, in one code: the batch stays
whole and keeps its slot. -/
theorem finish_goTo (c : Cur) (b : Block) (ls : List Fibre) (len dist : Nat) (a : Acted) (pc : Fibre → BitVec 44) (q : BitVec 44) (m : Bool)
    (hls : ls ≠ [])
    (htrial : ∀ p, trialDelay a.s b p = 0)
    (hrec : ∀ f ∈ ls, ∃ g, fibre? a.s f.key = some g ∧ g.inHandler = m ∧ preStopped a.s g = false)
    (hfate : ∀ f, (ls.map (·.key)).contains f.key = true →
      (fateOf a.fates f = none ∧ pc f = f.pc + BitVec.ofNat 44 len) ∨ fateOf a.fates f = some (.go (pc f)))
    (hpc : ∀ f ∈ ls, nextPc a.fates len f = some q) :
    finish c b ls len dist a = goTo a.s c ls pc dist a.renew := by
  obtain ⟨f0, hf0⟩ := List.exists_mem_of_ne_nil ls hls
  have hnostop : ∀ f ∈ ls, stopsFate (fateOf a.fates f) = false := by
    intro f hf
    have hc : (ls.map (·.key)).contains f.key = true := by simp; exact ⟨f, hf, rfl⟩
    rcases hfate f hc with h | h
    · simp [h.1, stopsFate]
    · simp [h, stopsFate]
  have hfilter : (ls.map (fateOf a.fates)).filter stopsFate = [] := by
    simp only [List.filter_eq_nil_iff, List.mem_map]
    rintro x ⟨f, hf, rfl⟩
    simp [hnostop f hf]
  have hany : (ls.map (fateOf a.fates)).any stopsFate = false := by
    simp only [List.any_eq_false, List.mem_map]
    rintro x ⟨f, hf, rfl⟩
    simp [hnostop f hf]
  have htargets : distinct ((ls.filterMap (nextPc a.fates len)).map BitVec.toNat) = [q.toNat] := by
    apply distinct_replicate
    · intro h
      have : ls.filterMap (nextPc a.fates len) ≠ [] := by
        intro h'
        have := List.filterMap_eq_nil_iff.1 h' f0 hf0
        simp [hpc f0 hf0] at this
      exact this (by simpa using h)
    · intro x hx
      simp only [List.mem_map, List.mem_filterMap] at hx
      obtain ⟨p, ⟨f, hf, h⟩, rfl⟩ := hx
      rw [hpc f hf] at h
      simp_all
  have hfrag : ∀ f ∈ ls, fragOf (fateOf a.fates f) = 99 := by
    intro f hf
    have hc : (ls.map (·.key)).contains f.key = true := by simp; exact ⟨f, hf, rfl⟩
    rcases hfate f hc with h | h
    · simp [h.1, fragOf]
    · simp [h, fragOf]
  have hfrags : distinct ((ls.map (fateOf a.fates)).map fragOf) = [99] := by
    apply distinct_replicate
    · simpa using hls
    · intro x hx
      simp only [List.mem_map] at hx
      obtain ⟨y, ⟨f, hf, rfl⟩, rfl⟩ := hx
      exact hfrag f hf
  have hsplit : splitsBatch a ls len = false := by
    simp only [splitsBatch, htargets, hany, hfrags]
    simp
  have hkeys : ∀ f ∈ ls, goKey a len f = some (q.toNat * 2 + m.toNat) := by
    intro f hf
    obtain ⟨g, hg, hgm, hst⟩ := hrec f hf
    simp [goKey, hpc f hf, hg, hgm, hst]
  have hgroups : distinct (ls.filterMap (goKey a len)) = [q.toNat * 2 + m.toNat] := by
    apply distinct_replicate
    · intro h
      have := List.filterMap_eq_nil_iff.1 h f0 hf0
      simp [hkeys f0 hf0] at this
    · intro x hx
      simp only [List.mem_filterMap] at hx
      obtain ⟨f, hf, h⟩ := hx
      rw [hkeys f hf] at h
      simp_all
  have hall : ls.filter (fun f => goKey a len f == some (q.toNat * 2 + m.toNat)) = ls := by
    apply List.filter_eq_self.2
    intro f hf
    simp [hkeys f hf]
  have hsettle : ∀ next age, ∀ f : Fibre, (ls.map (·.key)).contains f.key = true →
      Fibre.settle a len dist next age f = { f.advance (pc f) dist next with slot := none, age := age } := by
    intro next age f hf
    rcases hfate f hf with h | h
    · simp [Fibre.settle, h.1, ← h.2, Fibre.advance_place]
    · simp [Fibre.settle, h, Fibre.advance_place]
  simp only [finish, hsplit, htrial, hfilter, hgroups, ite_self, Bool.false_eq_true, if_false, beq_self_eq_true, if_true, Nat.add_zero]
  rw [placeGroups_one _ _ _ _ _ _ _ _ _ (by simp [slot?, List.find?_eq_none]), hall]
  simp only [distinct, List.map_nil, List.foldr_nil, stopGroups, takeSlot, setFibres, goTo, List.map_map]
  congr 1
  apply List.map_congr_left
  intro f _
  simp only [Function.comp]
  by_cases hc : (ls.map (·.key)).contains f.key
  · simp only [hc, if_true, hsettle _ _ f hc]
    simp only [Fibre.advance_key, hc, if_true]
  · simp only [hc, if_false, Bool.false_eq_true]

/-- The same where every lane goes on to the next instruction. -/
theorem finish_goOn (c : Cur) (b : Block) (ls : List Fibre) (len dist : Nat) (e : State) (renew : Bool)
    (hls : ls ≠ []) (htrial : ∀ p, trialDelay e b p = 0)
    (hsame : ∀ f ∈ ls, ∀ g ∈ ls, f.pc = g.pc ∧ f.inHandler = g.inHandler)
    (hrec : ∀ f ∈ ls, ∃ g, fibre? e f.key = some g ∧ g.inHandler = f.inHandler ∧ preStopped e g = false) :
    finish c b ls len dist { acted e [] with renew := renew } = goOn e c ls len dist renew := by
  obtain ⟨f0, hf0⟩ := List.exists_mem_of_ne_nil ls hls
  refine finish_goTo c b ls len dist _ (fun f => f.pc + BitVec.ofNat 44 len) (f0.pc + BitVec.ofNat 44 len) f0.inHandler
    hls htrial ?_ ?_ ?_
  · intro f hf
    obtain ⟨g, hg, hm, hst⟩ := hrec f hf
    exact ⟨g, hg, hm.trans (hsame f hf f0 hf0).2, hst⟩
  · intro f _; exact .inl ⟨rfl, rfl⟩
  · intro f hf; simp [nextPc, acted, (hsame f hf f0 hf0).1]

/-! ### An issue -/

/-- No check before issue fails for the lanes of a batch (R197, R199). -/
structure Use.Passes (u : Use) (s : State) (b : Block) (ls : List Fibre) : Prop where
  early : u.early = none
  legal : u.legal = true
  feat : ∀ k, u.feat = some k → featureOn s k = true
  priv : ∀ f ∈ ls, u.priv ≤ f.lvl
  clear : Clear ls (u.vr ++ u.vw)
  here : ∀ f ∈ ls, needsHome u f = false
  tiles : ∀ t ∈ u.tiles, t < b.tileN
  lost : u.mx = true → ∀ f ∈ ls, f.lost = false

theorem minCodes_none (l : List (Option Nat)) (h : ∀ x ∈ l, x = none) : minCodes l = none := by
  have : ∀ (l : List (Option Nat)), (∀ x ∈ l, x = none) → l.foldl minCode none = none := by
    intro l
    induction l with
    | nil => intro _; rfl
    | cons x xs ih =>
      intro h
      rw [List.foldl_cons, h x (by simp)]
      exact ih (fun y hy => h y (by simp [hy]))
  exact this l h

theorem preissue_none {s : State} {c : Cur} {b : Block} {ls : List Fibre} {u : Use} (R : Ready s c b ls) (P : u.Passes s b ls) :
    preissue s u b ls = none := by
  apply minCodes_none
  have hf : u.feat.any (fun k => !featureOn s k) = false := by
    cases h : u.feat with
    | none => rfl
    | some k => simp [P.feat k h]
  have hp : ls.any (fun f => decide (f.lvl < u.priv)) = false := by
    simp only [List.any_eq_false, decide_eq_true_eq]
    intro f hf'; have := P.priv f hf'; omega
  have hs : (ls.any (fun f => ((partOf s f).map (·.seenCheck s.now)).getD false) && ls.any (shortIn u)) = false := by
    by_cases h : ls.any (fun f => ((partOf s f).map (·.seenCheck s.now)).getD false) = true
    · have : ls.any (shortIn u) = false := by
        simp only [List.any_eq_false]
        intro f hf'
        simp [shortIn, R.short h f hf']
      simp [this]
    · simp [h]
  have hw : (u.vr ++ u.vw).any (fun v => ls.any (fun f => decide (f.regs.length ≤ v))) = false := by
    simp only [List.any_eq_false]
    intro v hv; simp only [Bool.not_eq_true, List.any_eq_false, decide_eq_true_eq]
    intro f hf'; have := (P.clear f hf').1 v hv; omega
  have ht : u.tiles.any (fun t => decide (b.tileN ≤ t)) = false := by
    simp only [List.any_eq_false, decide_eq_true_eq]
    intro t ht; have := P.tiles t ht; omega
  intro x hx
  simp only [List.mem_cons, List.not_mem_nil, or_false] at hx
  rcases hx with rfl | rfl | rfl | rfl | rfl
  · exact P.early
  · simp [P.legal, hf]
  · simp [hp]
  · simp only [hs]; simp
  · simp only [hw, ht]; simp

theorem needsHome_home {u : Use} {ls : List Fibre} (H : AtHome ls) : ∀ f ∈ ls, needsHome u f = false := by
  intro f hf; simp [needsHome, H f hf]

/-- What an issue answers for a ready batch whose instruction passes every check and stops no lane by a trap. -/
theorem issue_ready {s : State} {c : Cur} {b : Block} {ls : List Fibre} {u : Use} {act : State → Block → List Fibre → Acted}
    (R : Ready s c b ls) (P : u.Passes s b ls) (a : Acted) (hact : act s b (ls.filter u.guard) = a)
    (hwait : a.wait = false) (hhole : a.hole = none)
    (hgo : ∀ x ∈ a.fates, ∀ c i d m, x.2 ≠ .trap c i d m) :
    issue u act s = .next (finish c b ls u.len (1 + u.stall) { a with renew := a.renew || u.y }) := by
  obtain ⟨f0, hf0⟩ := List.exists_mem_of_ne_nil ls R.some
  have hhead : ls.head?.bind (fun f => block? s f.blk) = some b := by
    cases hl : ls with
    | nil => exact absurd hl R.some
    | cons f fs => simp [R.blk f (by simp [hl])]
  have hcan : ls.all (Fibre.canIssue s) = true := by
    simp only [List.all_eq_true]; exact R.can
  have hneeds : ls.any (needsHome u) = false := by
    simp only [List.any_eq_false]
    intro f hf; simp [P.here f hf]
  have hrest : ls.filter (fun f => (fateOf ([] : List (FKey × Fate)) f).isNone) = ls := by simp
  have hlost : (u.mx && ls.any (·.lost)) = false := by
    by_cases h : u.mx = true
    · have : ls.any (·.lost) = false := by
        simp only [List.any_eq_false]; intro f hf; simp [P.lost h f hf]
      simp [this]
    · simp [h]
  have hinter : ls.any (interlocked u) = false := by
    simp only [List.any_eq_false, interlocked]
    intro f hf
    simp only [Bool.not_eq_true, List.any_eq_false, Bool.or_eq_true, not_or]
    intro o ho v hv
    have := (P.clear f hf).2.1 o ho v hv
    simp only [List.mem_append, not_or] at this
    simp [this.1, this.2]
  have hspad : spadHeld u ls = false := by
    by_cases h : ls.any Fibre.spadLoads = true
    · obtain ⟨f, hf, hs⟩ := List.any_eq_true.1 h
      simp only [spadHeld, h, Bool.true_and, List.any_eq_false, Bool.not_eq_true, Bool.or_eq_false_iff]
      intro g hg v hv
      have := (P.clear f hf).2.2 hs g hg v hv
      simp only [List.mem_append, not_or] at this
      simp [this.1, this.2]
    · simp [spadHeld, h]
  have hempty : ls.isEmpty = false := by simp [R.some]
  have hfated : ∀ f, trapFated a.fates f = false := by
    intro f
    unfold trapFated
    split
    · rename_i c' i d m h
      simp only [fateOf, Option.map_eq_some_iff] at h
      obtain ⟨x, hx, hx2⟩ := h
      exact absurd hx2 (hgo x (List.mem_of_find?_eq_some hx) _ _ _ _)
    · rfl
  have htrap : ls.any (trapWaits a.fates) = false := by
    simp only [List.any_eq_false, trapWaits, hfated, Bool.false_and]
    simp
  have hgoers : trapGoers a.fates ls = [] := by
    simp [trapGoers, hfated]
  have hvec : vectorCells s b ls a.fates = [] := by
    simp only [vectorCells, List.filterMap_eq_nil_iff]
    intro x hx
    have := hgo x hx
    split
    · rename_i h; exact absurd h (this _ _ _ _)
    · rfl
  simp only [issue, R.cur, R.lanes, hhead, hcan, hneeds, R.cmp, hrest, preissue_none R P, hlost, hinter, hspad, hempty, hact, conclude,
    List.nil_append, htrap, hwait, hhole, hvec, hgoers, released, List.find?_nil, List.foldl_nil, Bool.not_true, Bool.or_false,
    Bool.false_eq_true, if_false]
  rfl

/-- The same where the lanes only go on: the state after is `goOn` of the effect. -/
theorem issue_goOn {s : State} {c : Cur} {b : Block} {ls : List Fibre} {u : Use} {act : State → Block → List Fibre → Acted}
    (R : Ready s c b ls) (P : u.Passes s b ls) (e : State) (renew : Bool)
    (hact : act s b (ls.filter u.guard) = { acted e [] with renew := renew })
    (htrial : ∀ p, trialDelay e b p = 0)
    (hrec : ∀ f ∈ ls, ∃ g, fibre? e f.key = some g ∧ g.inHandler = f.inHandler ∧ preStopped e g = false) :
    issue u act s = .next (goOn e c ls u.len (1 + u.stall) (renew || u.y)) := by
  rw [issue_ready R P _ hact rfl rfl (by simp [acted])]
  exact congrArg _ (finish_goOn c b ls u.len (1 + u.stall) e (renew || u.y) R.some htrial R.same hrec)

end Sys2Proof.Machine
end

