-- ==== Sys2Proof/Laws/Memory.lean ====
section
/-!
SUPPORT. Memory: what reads give after writes, and that every operation that changes memory keeps its canonical form.
-/
namespace Sys2Proof.Machine

/-! ### The canonical form -/

/-- A form above a higher bound is one above a lower bound. -/
theorem cellsAbove_lower {m : List Host.Cell} {lo hi : Nat} (h : cellsAbove (some hi) m = true) (hl : lo ≤ hi) :
    cellsAbove (some lo) m = true := by
  cases m with
  | nil => rfl
  | cons x r =>
    simp only [cellsAbove, Bool.and_eq_true, decide_eq_true_eq] at h ⊢
    exact ⟨⟨by omega, h.1.2⟩, h.2⟩

theorem cellsAbove_none {m : List Host.Cell} {lo : Nat} (h : cellsAbove (some lo) m = true) : cellsAbove none m = true := by
  cases m with
  | nil => rfl
  | cons x r => simp only [cellsAbove, Bool.and_eq_true] at h ⊢; exact ⟨⟨trivial, h.1.2⟩, h.2⟩

/-- Below its bound a canonical memory lists nothing. -/
theorem memGet_below {m : List Host.Cell} {lo a : Nat} (h : cellsAbove (some lo) m = true) (ha : a ≤ lo) : memGet m a = 0 := by
  cases m with
  | nil => rfl
  | cons x r =>
    simp only [cellsAbove, Bool.and_eq_true, decide_eq_true_eq] at h
    have h1 : ¬ x.1 = a := by omega
    have h2 : a < x.1 := by omega
    simp [memGet, h1, h2]

theorem cellsAbove_memPut {m : List Host.Cell} {lo : Option Nat} (h : cellsAbove lo m = true) (a : Nat) (v : Byte)
    (ha : ∀ l, lo = some l → l < a) : cellsAbove lo (memPut m a v) = true := by
  induction m generalizing lo with
  | nil =>
    by_cases hv : v = 0#8
    · simp [memPut, hv, cellsAbove]
    · cases lo with
      | none => simp [memPut, hv, cellsAbove]
      | some l => simp [memPut, hv, cellsAbove, ha l rfl]
  | cons x r ih =>
    obtain ⟨k, b⟩ := x
    simp only [cellsAbove, Bool.and_eq_true] at h
    obtain ⟨⟨h1, h2⟩, h3⟩ := h
    simp only [memPut]
    split
    · rename_i hlt
      by_cases hv : v = 0#8
      · simp [hv, cellsAbove, h1, h3]; simpa using h2
      · cases lo with
        | none => simp [hv, cellsAbove, h3, hlt]; simpa using h2
        | some l => simp [hv, cellsAbove, h3, hlt, ha l rfl]; simpa using h2
    · rename_i hge
      split
      · rename_i heq
        have heq : k = a := by simpa using heq
        subst heq
        by_cases hv : v = 0#8
        · subst hv
          cases lo with
          | none => simpa using cellsAbove_none h3
          | some l => simpa using cellsAbove_lower h3 (Nat.le_of_lt (ha l rfl))
        · simp [hv, cellsAbove, h1, h3]
      · rename_i hne
        have hne : k ≠ a := by simpa using hne
        have := ih h3 (fun l hl => by cases hl; omega)
        simp [cellsAbove, h1, this]; simpa using h2

/-- A byte written keeps the form. -/
theorem Memory.wf_memPut {m : List Host.Cell} (h : Memory.wf m = true) (a : Nat) (v : Byte) : Memory.wf (memPut m a v) = true :=
  cellsAbove_memPut h a v (fun l hl => by cases hl)

/-- Bytes written keep the form. -/
theorem Memory.wf_writeMem {m : List Host.Cell} (h : Memory.wf m = true) (a v n : Nat) : Memory.wf (writeMem m a v n) = true := by
  induction n generalizing m a v with
  | zero => exact h
  | succ n ih => exact ih (Memory.wf_memPut h _ _) _ _

theorem cellsAbove_filter {m : List Host.Cell} {lo : Option Nat} (h : cellsAbove lo m = true) (p : Host.Cell → Bool) :
    cellsAbove lo (m.filter p) = true := by
  induction m generalizing lo with
  | nil => rfl
  | cons x r ih =>
    simp only [cellsAbove, Bool.and_eq_true] at h
    obtain ⟨⟨h1, h2⟩, h3⟩ := h
    simp only [List.filter_cons]
    split
    · simp only [cellsAbove, Bool.and_eq_true]; exact ⟨⟨h1, h2⟩, ih h3⟩
    · have := ih h3
      cases lo with
      | none => exact cellsAbove_none this
      | some l => exact cellsAbove_lower this (by have : l < x.1 := by simpa using h1
                                                  omega)

/-- Cells taken out keep the form. -/
theorem Memory.wf_filter {m : List Host.Cell} (h : Memory.wf m = true) (p : Host.Cell → Bool) : Memory.wf (m.filter p) = true :=
  cellsAbove_filter h p

/-- A run of bytes written one by one keeps the form. -/
theorem Memory.wf_foldl {α : Type} {m : List Host.Cell} (h : Memory.wf m = true) (l : List α) (a : List Host.Cell → α → Nat)
    (v : List Host.Cell → α → Byte) : Memory.wf (l.foldl (fun m x => memPut m (a m x) (v m x)) m) = true := by
  induction l generalizing m with
  | nil => exact h
  | cons x r ih => exact ih (Memory.wf_memPut h _ _)

/-! ### The operations of a state -/

theorem State.Inv_reset : State.reset.Inv := by decide

theorem State.Inv_write {s : State} (h : s.Inv) (a n v : Nat) : (s.write a n v).Inv := Memory.wf_writeMem h _ _ _

theorem State.Inv_writeCap {s : State} (h : s.Inv) (a : Nat) (c : CapWord) : (s.writeCap a c).Inv := Memory.wf_writeMem h _ _ _

theorem State.Inv_spadWrite {s : State} (h : s.Inv) (a n v : Nat) : (spadWrite s a n v).Inv := Memory.wf_writeMem h _ _ _

/-- A change that leaves memory alone keeps the invariant. -/
theorem State.Inv_of_mem {s t : State} (h : s.Inv) (e : t.mem = s.mem) : t.Inv := by simpa [State.Inv, e] using h

/-! ### Reads after writes -/

/-- A byte after a write of one byte. -/
theorem memGet_memPut {m : List Host.Cell} (h : Memory.wf m = true) (a b : Nat) (v : Byte) :
    memGet (memPut m a v) b = if b = a then v else memGet m b := by
  have key : ∀ (m : List Host.Cell) (lo : Option Nat), cellsAbove lo m = true →
      memGet (memPut m a v) b = if b = a then v else memGet m b := by
    intro m
    induction m with
    | nil =>
      intro lo _
      by_cases hv : v = 0#8
      · simp [memPut, hv, memGet]
      · by_cases hb : b = a
        · simp [memPut, hv, memGet, hb]
        · have : ¬ a = b := fun e => hb e.symm
          simp [memPut, hv, memGet, hb, this]
    | cons x r ih =>
      obtain ⟨k, w⟩ := x
      intro lo h
      simp only [cellsAbove, Bool.and_eq_true] at h
      obtain ⟨⟨h1, h2⟩, h3⟩ := h
      simp only [memPut]
      split
      · rename_i hlt
        by_cases hv : v = 0#8
        · by_cases hb : b = a
          · have : ¬ k = b := by omega
            have hbk : b < k := by omega
            simp [hv, memGet, hb, hlt]; intro hk; omega
          · simp [hv, hb]
        · by_cases hb : b = a
          · simp [hv, memGet, hb]
          · have hab : ¬ a = b := fun e => hb e.symm
            by_cases hba : b < a
            · have hk : ¬ k = b := by omega
              have hbk : b < k := by omega
              simp [hv, memGet, hb, hab, hba, hk, hbk]
            · simp [hv, memGet, hb, hab, hba]
      · rename_i hge
        split
        · rename_i heq
          have heq : k = a := by simpa using heq
          subst heq
          by_cases hv : v = 0#8
          · by_cases hb : b = k
            · simp [hv, hb, memGet_below h3 (Nat.le_refl k)]
            · have hkb : ¬ k = b := fun e => hb e.symm
              by_cases hbk : b < k
              · simp [hv, memGet, hb, hkb, hbk, memGet_below h3 (Nat.le_of_lt hbk)]
              · simp [hv, memGet, hb, hkb, hbk]
          · by_cases hb : b = k
            · simp [hv, memGet, hb]
            · have hkb : ¬ k = b := fun e => hb e.symm
              simp [hv, memGet, hb, hkb]
        · rename_i hne
          have hne : k ≠ a := by simpa using hne
          by_cases hkb : k = b
          · have : ¬ b = a := by omega
            simp [memGet, hkb, this]
          · by_cases hbk : b < k
            · have : ¬ b = a := by omega
              simp [memGet, hkb, hbk, this]
            · simp [memGet, hkb, hbk, ih _ h3]
  exact key m none h

/-- A byte outside the bytes written. -/
theorem memGet_writeMem_out {m : List Host.Cell} (h : Memory.wf m = true) (a v n b : Nat) (hb : b < a ∨ a + n ≤ b) :
    memGet (writeMem m a v n) b = memGet m b := by
  induction n generalizing m a v with
  | zero => rfl
  | succ n ih =>
    rw [writeMem, ih (Memory.wf_memPut h _ _) _ _ (by omega), memGet_memPut h, if_neg (by omega)]

/-- Byte `i` of the bytes written. -/
theorem memGet_writeMem_in {m : List Host.Cell} (h : Memory.wf m = true) (a v n i : Nat) (hi : i < n) :
    memGet (writeMem m a v n) (a + i) = BitVec.ofNat 8 (v / 256 ^ i) := by
  induction n generalizing m a v i with
  | zero => omega
  | succ n ih =>
    rw [writeMem]
    cases i with
    | zero =>
      rw [memGet_writeMem_out (Memory.wf_memPut h _ _) _ _ _ _ (by omega), memGet_memPut h]
      simp
    | succ i =>
      have := ih (Memory.wf_memPut h a (BitVec.ofNat 8 v)) (a + 1) (v / 256) i (by omega)
      rw [show a + (i + 1) = a + 1 + i by omega, this, Nat.div_div_eq_div_mul, Nat.pow_succ, Nat.mul_comm]

/-- A read of bytes that a write did not touch. -/
theorem readMem_congr {m m' : List Host.Cell} (a n : Nat) (h : ∀ b, a ≤ b → b < a + n → memGet m' b = memGet m b) :
    readMem m' a n = readMem m a n := by
  induction n generalizing a with
  | zero => rfl
  | succ n ih => rw [readMem, readMem, h a (by omega) (by omega), ih (a + 1) (fun b h1 h2 => h b (by omega) (by omega))]

theorem readMem_writeMem_out {m : List Host.Cell} (h : Memory.wf m = true) (a v n b k : Nat) (hb : b + k ≤ a ∨ a + n ≤ b) :
    readMem (writeMem m a v n) b k = readMem m b k :=
  readMem_congr b k fun x h1 h2 => memGet_writeMem_out h a v n x (by omega)

/-- The bytes of a number, read back. -/
theorem readMem_of_bytes {m : List Host.Cell} (a v n : Nat) (h : ∀ i, i < n → memGet m (a + i) = BitVec.ofNat 8 (v / 256 ^ i)) :
    readMem m a n = v % 256 ^ n := by
  induction n generalizing a v with
  | zero => simp [readMem, Nat.mod_one]
  | succ n ih =>
    have h0 := h 0 (by omega)
    rw [readMem, ih (a + 1) (v / 256) (fun i hi => by
      rw [show a + 1 + i = a + (i + 1) by omega, h (i + 1) (by omega), Nat.div_div_eq_div_mul, Nat.pow_succ, Nat.mul_comm])]
    simp only [Nat.add_zero, Nat.pow_zero, Nat.div_one] at h0
    rw [h0, BitVec.toNat_ofNat, show (256 : Nat) ^ (n + 1) = 256 * 256 ^ n by rw [Nat.pow_succ, Nat.mul_comm], Nat.mod_mul]

/-- What a write has written is what a read of it gives. -/
theorem readMem_writeMem {m : List Host.Cell} (h : Memory.wf m = true) (a v n : Nat) : readMem (writeMem m a v n) a n = v % 256 ^ n :=
  readMem_of_bytes a v n fun i hi => memGet_writeMem_in h a v n i hi

theorem State.read_write_out {s : State} (h : s.Inv) (a v n b k : Nat) (hb : b + k ≤ a ∨ a + n ≤ b) :
    (s.write a n v).read b k = s.read b k := readMem_writeMem_out h a v n b k hb

end Sys2Proof.Machine
end

