-- ==== Sys2Proof/Laws/State.lean ====
section
/-!
SUPPORT. What each update of the state leaves alone: one lemma for each update, a rewrite of every field that the update does not name. No later
proof unfolds a record update.
-/
namespace Sys2Proof.Machine

/-- A fibre changed. -/
@[simp] theorem setFibre_frame (s : State) (k : FKey) (g : Fibre → Fibre) :
    (setFibre s k g).now = s.now ∧ (setFibre s k g).agenda = s.agenda ∧ (setFibre s k g).focus = s.focus ∧ (setFibre s k g).turn = s.turn
    ∧ (setFibre s k g).cur = s.cur ∧ (setFibre s k g).seq = s.seq ∧ (setFibre s k g).nextJoin = s.nextJoin ∧ (setFibre s k g).freeCtr = s.freeCtr
    ∧ (setFibre s k g).slots = s.slots ∧ (setFibre s k g).ports = s.ports ∧ (setFibre s k g).parts = s.parts ∧ (setFibre s k g).blocks = s.blocks
    ∧ (setFibre s k g).gangs = s.gangs ∧ (setFibre s k g).kernels = s.kernels ∧ (setFibre s k g).mem = s.mem ∧ (setFibre s k g).capTags = s.capTags
    ∧ (setFibre s k g).fullBits = s.fullBits ∧ (setFibre s k g).liveBits = s.liveBits ∧ (setFibre s k g).ueMarks = s.ueMarks
    ∧ (setFibre s k g).redTags = s.redTags ∧ (setFibre s k g).redFlags = s.redFlags ∧ (setFibre s k g).tlbs = s.tlbs
    ∧ (setFibre s k g).walks = s.walks ∧ (setFibre s k g).windows = s.windows ∧ (setFibre s k g).fars = s.fars ∧ (setFibre s k g).engines = s.engines
    ∧ (setFibre s k g).tiles = s.tiles ∧ (setFibre s k g).pkgReplay = s.pkgReplay ∧ (setFibre s k g).copies = s.copies
    ∧ (setFibre s k g).tokens = s.tokens ∧ (setFibre s k g).msgs = s.msgs ∧ (setFibre s k g).ldas = s.ldas ∧ (setFibre s k g).feStores = s.feStores
    ∧ (setFibre s k g).leftCuts = s.leftCuts ∧ (setFibre s k g).devWrites = s.devWrites ∧ (setFibre s k g).lathes = s.lathes
    ∧ (setFibre s k g).wrefBank = s.wrefBank ∧ (setFibre s k g).names = s.names ∧ (setFibre s k g).dirObjs = s.dirObjs ∧ (setFibre s k g).sys = s.sys
    ∧ (setFibre s k g).sysAt = s.sysAt ∧ (setFibre s k g).queues = s.queues ∧ (setFibre s k g).partns = s.partns ∧ (setFibre s k g).owners = s.owners
    ∧ (setFibre s k g).serves = s.serves ∧ (setFibre s k g).fenced = s.fenced ∧ (setFibre s k g).fencePend = s.fencePend
    ∧ (setFibre s k g).power = s.power ∧ (setFibre s k g).idleAt = s.idleAt ∧ (setFibre s k g).reqAt = s.reqAt
    ∧ (setFibre s k g).pathsDown = s.pathsDown ∧ (setFibre s k g).images = s.images ∧ (setFibre s k g).dvsec = s.dvsec
    ∧ (setFibre s k g).bootStep = s.bootStep ∧ (setFibre s k g).everEnabled = s.everEnabled ∧ (setFibre s k g).belowSince = s.belowSince := by
  repeat' constructor

/-- Fibres changed. -/
@[simp] theorem setFibres_frame (s : State) (ks : List FKey) (g : Fibre → Fibre) :
    (setFibres s ks g).now = s.now ∧ (setFibres s ks g).agenda = s.agenda ∧ (setFibres s ks g).focus = s.focus ∧ (setFibres s ks g).turn = s.turn
    ∧ (setFibres s ks g).cur = s.cur ∧ (setFibres s ks g).seq = s.seq ∧ (setFibres s ks g).nextJoin = s.nextJoin
    ∧ (setFibres s ks g).freeCtr = s.freeCtr ∧ (setFibres s ks g).slots = s.slots ∧ (setFibres s ks g).ports = s.ports
    ∧ (setFibres s ks g).parts = s.parts ∧ (setFibres s ks g).blocks = s.blocks ∧ (setFibres s ks g).gangs = s.gangs
    ∧ (setFibres s ks g).kernels = s.kernels ∧ (setFibres s ks g).mem = s.mem ∧ (setFibres s ks g).capTags = s.capTags
    ∧ (setFibres s ks g).fullBits = s.fullBits ∧ (setFibres s ks g).liveBits = s.liveBits ∧ (setFibres s ks g).ueMarks = s.ueMarks
    ∧ (setFibres s ks g).redTags = s.redTags ∧ (setFibres s ks g).redFlags = s.redFlags ∧ (setFibres s ks g).tlbs = s.tlbs
    ∧ (setFibres s ks g).walks = s.walks ∧ (setFibres s ks g).windows = s.windows ∧ (setFibres s ks g).fars = s.fars
    ∧ (setFibres s ks g).engines = s.engines ∧ (setFibres s ks g).tiles = s.tiles ∧ (setFibres s ks g).pkgReplay = s.pkgReplay
    ∧ (setFibres s ks g).copies = s.copies ∧ (setFibres s ks g).tokens = s.tokens ∧ (setFibres s ks g).msgs = s.msgs
    ∧ (setFibres s ks g).ldas = s.ldas ∧ (setFibres s ks g).feStores = s.feStores ∧ (setFibres s ks g).leftCuts = s.leftCuts
    ∧ (setFibres s ks g).devWrites = s.devWrites ∧ (setFibres s ks g).lathes = s.lathes ∧ (setFibres s ks g).wrefBank = s.wrefBank
    ∧ (setFibres s ks g).names = s.names ∧ (setFibres s ks g).dirObjs = s.dirObjs ∧ (setFibres s ks g).sys = s.sys
    ∧ (setFibres s ks g).sysAt = s.sysAt ∧ (setFibres s ks g).queues = s.queues ∧ (setFibres s ks g).partns = s.partns
    ∧ (setFibres s ks g).owners = s.owners ∧ (setFibres s ks g).serves = s.serves ∧ (setFibres s ks g).fenced = s.fenced
    ∧ (setFibres s ks g).fencePend = s.fencePend ∧ (setFibres s ks g).power = s.power ∧ (setFibres s ks g).idleAt = s.idleAt
    ∧ (setFibres s ks g).reqAt = s.reqAt ∧ (setFibres s ks g).pathsDown = s.pathsDown ∧ (setFibres s ks g).images = s.images
    ∧ (setFibres s ks g).dvsec = s.dvsec ∧ (setFibres s ks g).bootStep = s.bootStep ∧ (setFibres s ks g).everEnabled = s.everEnabled
    ∧ (setFibres s ks g).belowSince = s.belowSince := by
  repeat' constructor

/-- Lanes changed. -/
@[simp] theorem onLanes_frame (s : State) (ls : List Fibre) (g : Fibre → Fibre) :
    (onLanes s ls g).now = s.now ∧ (onLanes s ls g).agenda = s.agenda ∧ (onLanes s ls g).focus = s.focus ∧ (onLanes s ls g).turn = s.turn
    ∧ (onLanes s ls g).cur = s.cur ∧ (onLanes s ls g).seq = s.seq ∧ (onLanes s ls g).nextJoin = s.nextJoin ∧ (onLanes s ls g).freeCtr = s.freeCtr
    ∧ (onLanes s ls g).slots = s.slots ∧ (onLanes s ls g).ports = s.ports ∧ (onLanes s ls g).parts = s.parts ∧ (onLanes s ls g).blocks = s.blocks
    ∧ (onLanes s ls g).gangs = s.gangs ∧ (onLanes s ls g).kernels = s.kernels ∧ (onLanes s ls g).mem = s.mem ∧ (onLanes s ls g).capTags = s.capTags
    ∧ (onLanes s ls g).fullBits = s.fullBits ∧ (onLanes s ls g).liveBits = s.liveBits ∧ (onLanes s ls g).ueMarks = s.ueMarks
    ∧ (onLanes s ls g).redTags = s.redTags ∧ (onLanes s ls g).redFlags = s.redFlags ∧ (onLanes s ls g).tlbs = s.tlbs
    ∧ (onLanes s ls g).walks = s.walks ∧ (onLanes s ls g).windows = s.windows ∧ (onLanes s ls g).fars = s.fars ∧ (onLanes s ls g).engines = s.engines
    ∧ (onLanes s ls g).tiles = s.tiles ∧ (onLanes s ls g).pkgReplay = s.pkgReplay ∧ (onLanes s ls g).copies = s.copies
    ∧ (onLanes s ls g).tokens = s.tokens ∧ (onLanes s ls g).msgs = s.msgs ∧ (onLanes s ls g).ldas = s.ldas ∧ (onLanes s ls g).feStores = s.feStores
    ∧ (onLanes s ls g).leftCuts = s.leftCuts ∧ (onLanes s ls g).devWrites = s.devWrites ∧ (onLanes s ls g).lathes = s.lathes
    ∧ (onLanes s ls g).wrefBank = s.wrefBank ∧ (onLanes s ls g).names = s.names ∧ (onLanes s ls g).dirObjs = s.dirObjs ∧ (onLanes s ls g).sys = s.sys
    ∧ (onLanes s ls g).sysAt = s.sysAt ∧ (onLanes s ls g).queues = s.queues ∧ (onLanes s ls g).partns = s.partns ∧ (onLanes s ls g).owners = s.owners
    ∧ (onLanes s ls g).serves = s.serves ∧ (onLanes s ls g).fenced = s.fenced ∧ (onLanes s ls g).fencePend = s.fencePend
    ∧ (onLanes s ls g).power = s.power ∧ (onLanes s ls g).idleAt = s.idleAt ∧ (onLanes s ls g).reqAt = s.reqAt
    ∧ (onLanes s ls g).pathsDown = s.pathsDown ∧ (onLanes s ls g).images = s.images ∧ (onLanes s ls g).dvsec = s.dvsec
    ∧ (onLanes s ls g).bootStep = s.bootStep ∧ (onLanes s ls g).everEnabled = s.everEnabled ∧ (onLanes s ls g).belowSince = s.belowSince := by
  repeat' constructor

/-- An asynchronous operation of a fibre completed. -/
@[simp] theorem completeOp_frame (s : State) (k : FKey) (id cls : Nat) (err : Bool) :
    (completeOp s k id cls err).now = s.now ∧ (completeOp s k id cls err).agenda = s.agenda ∧ (completeOp s k id cls err).focus = s.focus
    ∧ (completeOp s k id cls err).turn = s.turn ∧ (completeOp s k id cls err).cur = s.cur ∧ (completeOp s k id cls err).seq = s.seq
    ∧ (completeOp s k id cls err).nextJoin = s.nextJoin ∧ (completeOp s k id cls err).freeCtr = s.freeCtr
    ∧ (completeOp s k id cls err).slots = s.slots ∧ (completeOp s k id cls err).ports = s.ports ∧ (completeOp s k id cls err).parts = s.parts
    ∧ (completeOp s k id cls err).blocks = s.blocks ∧ (completeOp s k id cls err).gangs = s.gangs ∧ (completeOp s k id cls err).kernels = s.kernels
    ∧ (completeOp s k id cls err).mem = s.mem ∧ (completeOp s k id cls err).capTags = s.capTags ∧ (completeOp s k id cls err).fullBits = s.fullBits
    ∧ (completeOp s k id cls err).liveBits = s.liveBits ∧ (completeOp s k id cls err).ueMarks = s.ueMarks
    ∧ (completeOp s k id cls err).redTags = s.redTags ∧ (completeOp s k id cls err).redFlags = s.redFlags ∧ (completeOp s k id cls err).tlbs = s.tlbs
    ∧ (completeOp s k id cls err).walks = s.walks ∧ (completeOp s k id cls err).windows = s.windows ∧ (completeOp s k id cls err).fars = s.fars
    ∧ (completeOp s k id cls err).engines = s.engines ∧ (completeOp s k id cls err).tiles = s.tiles
    ∧ (completeOp s k id cls err).pkgReplay = s.pkgReplay ∧ (completeOp s k id cls err).copies = s.copies
    ∧ (completeOp s k id cls err).tokens = s.tokens ∧ (completeOp s k id cls err).msgs = s.msgs ∧ (completeOp s k id cls err).ldas = s.ldas
    ∧ (completeOp s k id cls err).feStores = s.feStores ∧ (completeOp s k id cls err).leftCuts = s.leftCuts
    ∧ (completeOp s k id cls err).devWrites = s.devWrites ∧ (completeOp s k id cls err).lathes = s.lathes
    ∧ (completeOp s k id cls err).wrefBank = s.wrefBank ∧ (completeOp s k id cls err).names = s.names
    ∧ (completeOp s k id cls err).dirObjs = s.dirObjs ∧ (completeOp s k id cls err).sys = s.sys ∧ (completeOp s k id cls err).sysAt = s.sysAt
    ∧ (completeOp s k id cls err).queues = s.queues ∧ (completeOp s k id cls err).partns = s.partns ∧ (completeOp s k id cls err).owners = s.owners
    ∧ (completeOp s k id cls err).serves = s.serves ∧ (completeOp s k id cls err).fenced = s.fenced
    ∧ (completeOp s k id cls err).fencePend = s.fencePend ∧ (completeOp s k id cls err).power = s.power
    ∧ (completeOp s k id cls err).idleAt = s.idleAt ∧ (completeOp s k id cls err).reqAt = s.reqAt
    ∧ (completeOp s k id cls err).pathsDown = s.pathsDown ∧ (completeOp s k id cls err).dvsec = s.dvsec
    ∧ (completeOp s k id cls err).bootStep = s.bootStep ∧ (completeOp s k id cls err).everEnabled = s.everEnabled
    ∧ (completeOp s k id cls err).belowSince = s.belowSince := by
  repeat' constructor

/-- A block changed. -/
@[simp] theorem setBlock_frame (s : State) (id : Nat) (g : Block → Block) :
    (setBlock s id g).now = s.now ∧ (setBlock s id g).agenda = s.agenda ∧ (setBlock s id g).focus = s.focus ∧ (setBlock s id g).turn = s.turn
    ∧ (setBlock s id g).cur = s.cur ∧ (setBlock s id g).seq = s.seq ∧ (setBlock s id g).nextJoin = s.nextJoin ∧ (setBlock s id g).freeCtr = s.freeCtr
    ∧ (setBlock s id g).fibres = s.fibres ∧ (setBlock s id g).slots = s.slots ∧ (setBlock s id g).ports = s.ports ∧ (setBlock s id g).parts = s.parts
    ∧ (setBlock s id g).gangs = s.gangs ∧ (setBlock s id g).kernels = s.kernels ∧ (setBlock s id g).mem = s.mem
    ∧ (setBlock s id g).capTags = s.capTags ∧ (setBlock s id g).fullBits = s.fullBits ∧ (setBlock s id g).liveBits = s.liveBits
    ∧ (setBlock s id g).ueMarks = s.ueMarks ∧ (setBlock s id g).redTags = s.redTags ∧ (setBlock s id g).redFlags = s.redFlags
    ∧ (setBlock s id g).tlbs = s.tlbs ∧ (setBlock s id g).walks = s.walks ∧ (setBlock s id g).windows = s.windows ∧ (setBlock s id g).fars = s.fars
    ∧ (setBlock s id g).engines = s.engines ∧ (setBlock s id g).tiles = s.tiles ∧ (setBlock s id g).pkgReplay = s.pkgReplay
    ∧ (setBlock s id g).copies = s.copies ∧ (setBlock s id g).tokens = s.tokens ∧ (setBlock s id g).msgs = s.msgs ∧ (setBlock s id g).ldas = s.ldas
    ∧ (setBlock s id g).feStores = s.feStores ∧ (setBlock s id g).leftCuts = s.leftCuts ∧ (setBlock s id g).devWrites = s.devWrites
    ∧ (setBlock s id g).lathes = s.lathes ∧ (setBlock s id g).wrefBank = s.wrefBank ∧ (setBlock s id g).names = s.names
    ∧ (setBlock s id g).dirObjs = s.dirObjs ∧ (setBlock s id g).sys = s.sys ∧ (setBlock s id g).sysAt = s.sysAt ∧ (setBlock s id g).queues = s.queues
    ∧ (setBlock s id g).partns = s.partns ∧ (setBlock s id g).owners = s.owners ∧ (setBlock s id g).serves = s.serves
    ∧ (setBlock s id g).fenced = s.fenced ∧ (setBlock s id g).fencePend = s.fencePend ∧ (setBlock s id g).power = s.power
    ∧ (setBlock s id g).idleAt = s.idleAt ∧ (setBlock s id g).reqAt = s.reqAt ∧ (setBlock s id g).pathsDown = s.pathsDown
    ∧ (setBlock s id g).images = s.images ∧ (setBlock s id g).dvsec = s.dvsec ∧ (setBlock s id g).bootStep = s.bootStep
    ∧ (setBlock s id g).everEnabled = s.everEnabled ∧ (setBlock s id g).belowSince = s.belowSince := by
  repeat' constructor

/-- A kernel changed. -/
@[simp] theorem setKernel_frame (s : State) (id : Nat) (g : Kernel → Kernel) :
    (setKernel s id g).now = s.now ∧ (setKernel s id g).agenda = s.agenda ∧ (setKernel s id g).focus = s.focus ∧ (setKernel s id g).turn = s.turn
    ∧ (setKernel s id g).cur = s.cur ∧ (setKernel s id g).seq = s.seq ∧ (setKernel s id g).nextJoin = s.nextJoin
    ∧ (setKernel s id g).freeCtr = s.freeCtr ∧ (setKernel s id g).fibres = s.fibres ∧ (setKernel s id g).slots = s.slots
    ∧ (setKernel s id g).ports = s.ports ∧ (setKernel s id g).parts = s.parts ∧ (setKernel s id g).blocks = s.blocks
    ∧ (setKernel s id g).gangs = s.gangs ∧ (setKernel s id g).mem = s.mem ∧ (setKernel s id g).capTags = s.capTags
    ∧ (setKernel s id g).fullBits = s.fullBits ∧ (setKernel s id g).liveBits = s.liveBits ∧ (setKernel s id g).ueMarks = s.ueMarks
    ∧ (setKernel s id g).redTags = s.redTags ∧ (setKernel s id g).redFlags = s.redFlags ∧ (setKernel s id g).tlbs = s.tlbs
    ∧ (setKernel s id g).walks = s.walks ∧ (setKernel s id g).windows = s.windows ∧ (setKernel s id g).fars = s.fars
    ∧ (setKernel s id g).engines = s.engines ∧ (setKernel s id g).tiles = s.tiles ∧ (setKernel s id g).pkgReplay = s.pkgReplay
    ∧ (setKernel s id g).copies = s.copies ∧ (setKernel s id g).tokens = s.tokens ∧ (setKernel s id g).msgs = s.msgs
    ∧ (setKernel s id g).ldas = s.ldas ∧ (setKernel s id g).feStores = s.feStores ∧ (setKernel s id g).leftCuts = s.leftCuts
    ∧ (setKernel s id g).devWrites = s.devWrites ∧ (setKernel s id g).lathes = s.lathes ∧ (setKernel s id g).wrefBank = s.wrefBank
    ∧ (setKernel s id g).names = s.names ∧ (setKernel s id g).dirObjs = s.dirObjs ∧ (setKernel s id g).sys = s.sys
    ∧ (setKernel s id g).sysAt = s.sysAt ∧ (setKernel s id g).queues = s.queues ∧ (setKernel s id g).partns = s.partns
    ∧ (setKernel s id g).owners = s.owners ∧ (setKernel s id g).serves = s.serves ∧ (setKernel s id g).fenced = s.fenced
    ∧ (setKernel s id g).fencePend = s.fencePend ∧ (setKernel s id g).power = s.power ∧ (setKernel s id g).idleAt = s.idleAt
    ∧ (setKernel s id g).reqAt = s.reqAt ∧ (setKernel s id g).pathsDown = s.pathsDown ∧ (setKernel s id g).images = s.images
    ∧ (setKernel s id g).dvsec = s.dvsec ∧ (setKernel s id g).bootStep = s.bootStep ∧ (setKernel s id g).everEnabled = s.everEnabled
    ∧ (setKernel s id g).belowSince = s.belowSince := by
  repeat' constructor

/-- A gang changed. -/
@[simp] theorem setGang_frame (s : State) (id : Nat) (g : Gang → Gang) :
    (setGang s id g).now = s.now ∧ (setGang s id g).agenda = s.agenda ∧ (setGang s id g).focus = s.focus ∧ (setGang s id g).turn = s.turn
    ∧ (setGang s id g).cur = s.cur ∧ (setGang s id g).seq = s.seq ∧ (setGang s id g).nextJoin = s.nextJoin ∧ (setGang s id g).freeCtr = s.freeCtr
    ∧ (setGang s id g).fibres = s.fibres ∧ (setGang s id g).slots = s.slots ∧ (setGang s id g).ports = s.ports ∧ (setGang s id g).parts = s.parts
    ∧ (setGang s id g).blocks = s.blocks ∧ (setGang s id g).kernels = s.kernels ∧ (setGang s id g).mem = s.mem ∧ (setGang s id g).capTags = s.capTags
    ∧ (setGang s id g).fullBits = s.fullBits ∧ (setGang s id g).liveBits = s.liveBits ∧ (setGang s id g).ueMarks = s.ueMarks
    ∧ (setGang s id g).redTags = s.redTags ∧ (setGang s id g).redFlags = s.redFlags ∧ (setGang s id g).tlbs = s.tlbs
    ∧ (setGang s id g).walks = s.walks ∧ (setGang s id g).windows = s.windows ∧ (setGang s id g).fars = s.fars ∧ (setGang s id g).engines = s.engines
    ∧ (setGang s id g).tiles = s.tiles ∧ (setGang s id g).pkgReplay = s.pkgReplay ∧ (setGang s id g).copies = s.copies
    ∧ (setGang s id g).tokens = s.tokens ∧ (setGang s id g).msgs = s.msgs ∧ (setGang s id g).ldas = s.ldas ∧ (setGang s id g).feStores = s.feStores
    ∧ (setGang s id g).leftCuts = s.leftCuts ∧ (setGang s id g).devWrites = s.devWrites ∧ (setGang s id g).lathes = s.lathes
    ∧ (setGang s id g).wrefBank = s.wrefBank ∧ (setGang s id g).names = s.names ∧ (setGang s id g).dirObjs = s.dirObjs ∧ (setGang s id g).sys = s.sys
    ∧ (setGang s id g).sysAt = s.sysAt ∧ (setGang s id g).queues = s.queues ∧ (setGang s id g).partns = s.partns ∧ (setGang s id g).owners = s.owners
    ∧ (setGang s id g).serves = s.serves ∧ (setGang s id g).fenced = s.fenced ∧ (setGang s id g).fencePend = s.fencePend
    ∧ (setGang s id g).power = s.power ∧ (setGang s id g).idleAt = s.idleAt ∧ (setGang s id g).reqAt = s.reqAt
    ∧ (setGang s id g).pathsDown = s.pathsDown ∧ (setGang s id g).images = s.images ∧ (setGang s id g).dvsec = s.dvsec
    ∧ (setGang s id g).bootStep = s.bootStep ∧ (setGang s id g).everEnabled = s.everEnabled ∧ (setGang s id g).belowSince = s.belowSince := by
  repeat' constructor

/-- A block part changed. -/
@[simp] theorem setPart_frame (s : State) (core bp : Nat) (g : Part → Part) :
    (setPart s core bp g).now = s.now ∧ (setPart s core bp g).agenda = s.agenda ∧ (setPart s core bp g).focus = s.focus
    ∧ (setPart s core bp g).turn = s.turn ∧ (setPart s core bp g).cur = s.cur ∧ (setPart s core bp g).seq = s.seq
    ∧ (setPart s core bp g).nextJoin = s.nextJoin ∧ (setPart s core bp g).freeCtr = s.freeCtr ∧ (setPart s core bp g).fibres = s.fibres
    ∧ (setPart s core bp g).slots = s.slots ∧ (setPart s core bp g).ports = s.ports ∧ (setPart s core bp g).blocks = s.blocks
    ∧ (setPart s core bp g).gangs = s.gangs ∧ (setPart s core bp g).kernels = s.kernels ∧ (setPart s core bp g).mem = s.mem
    ∧ (setPart s core bp g).capTags = s.capTags ∧ (setPart s core bp g).fullBits = s.fullBits ∧ (setPart s core bp g).liveBits = s.liveBits
    ∧ (setPart s core bp g).ueMarks = s.ueMarks ∧ (setPart s core bp g).redTags = s.redTags ∧ (setPart s core bp g).redFlags = s.redFlags
    ∧ (setPart s core bp g).tlbs = s.tlbs ∧ (setPart s core bp g).walks = s.walks ∧ (setPart s core bp g).windows = s.windows
    ∧ (setPart s core bp g).fars = s.fars ∧ (setPart s core bp g).engines = s.engines ∧ (setPart s core bp g).tiles = s.tiles
    ∧ (setPart s core bp g).pkgReplay = s.pkgReplay ∧ (setPart s core bp g).copies = s.copies ∧ (setPart s core bp g).tokens = s.tokens
    ∧ (setPart s core bp g).msgs = s.msgs ∧ (setPart s core bp g).ldas = s.ldas ∧ (setPart s core bp g).feStores = s.feStores
    ∧ (setPart s core bp g).leftCuts = s.leftCuts ∧ (setPart s core bp g).devWrites = s.devWrites ∧ (setPart s core bp g).lathes = s.lathes
    ∧ (setPart s core bp g).wrefBank = s.wrefBank ∧ (setPart s core bp g).names = s.names ∧ (setPart s core bp g).dirObjs = s.dirObjs
    ∧ (setPart s core bp g).sys = s.sys ∧ (setPart s core bp g).sysAt = s.sysAt ∧ (setPart s core bp g).queues = s.queues
    ∧ (setPart s core bp g).partns = s.partns ∧ (setPart s core bp g).owners = s.owners ∧ (setPart s core bp g).serves = s.serves
    ∧ (setPart s core bp g).fenced = s.fenced ∧ (setPart s core bp g).fencePend = s.fencePend ∧ (setPart s core bp g).power = s.power
    ∧ (setPart s core bp g).idleAt = s.idleAt ∧ (setPart s core bp g).reqAt = s.reqAt ∧ (setPart s core bp g).pathsDown = s.pathsDown
    ∧ (setPart s core bp g).images = s.images ∧ (setPart s core bp g).dvsec = s.dvsec ∧ (setPart s core bp g).bootStep = s.bootStep
    ∧ (setPart s core bp g).everEnabled = s.everEnabled ∧ (setPart s core bp g).belowSince = s.belowSince := by
  repeat' constructor

/-- A uniform register written. -/
@[simp] theorem setUni_frame (s : State) (f : Fibre) (n : Nat) (w : Word) :
    (setUni s f n w).now = s.now ∧ (setUni s f n w).agenda = s.agenda ∧ (setUni s f n w).focus = s.focus ∧ (setUni s f n w).turn = s.turn
    ∧ (setUni s f n w).cur = s.cur ∧ (setUni s f n w).seq = s.seq ∧ (setUni s f n w).nextJoin = s.nextJoin ∧ (setUni s f n w).freeCtr = s.freeCtr
    ∧ (setUni s f n w).fibres = s.fibres ∧ (setUni s f n w).slots = s.slots ∧ (setUni s f n w).ports = s.ports ∧ (setUni s f n w).blocks = s.blocks
    ∧ (setUni s f n w).gangs = s.gangs ∧ (setUni s f n w).kernels = s.kernels ∧ (setUni s f n w).mem = s.mem ∧ (setUni s f n w).capTags = s.capTags
    ∧ (setUni s f n w).fullBits = s.fullBits ∧ (setUni s f n w).liveBits = s.liveBits ∧ (setUni s f n w).ueMarks = s.ueMarks
    ∧ (setUni s f n w).redTags = s.redTags ∧ (setUni s f n w).redFlags = s.redFlags ∧ (setUni s f n w).tlbs = s.tlbs
    ∧ (setUni s f n w).walks = s.walks ∧ (setUni s f n w).windows = s.windows ∧ (setUni s f n w).fars = s.fars ∧ (setUni s f n w).engines = s.engines
    ∧ (setUni s f n w).tiles = s.tiles ∧ (setUni s f n w).pkgReplay = s.pkgReplay ∧ (setUni s f n w).copies = s.copies
    ∧ (setUni s f n w).tokens = s.tokens ∧ (setUni s f n w).msgs = s.msgs ∧ (setUni s f n w).ldas = s.ldas ∧ (setUni s f n w).feStores = s.feStores
    ∧ (setUni s f n w).leftCuts = s.leftCuts ∧ (setUni s f n w).devWrites = s.devWrites ∧ (setUni s f n w).lathes = s.lathes
    ∧ (setUni s f n w).wrefBank = s.wrefBank ∧ (setUni s f n w).names = s.names ∧ (setUni s f n w).dirObjs = s.dirObjs ∧ (setUni s f n w).sys = s.sys
    ∧ (setUni s f n w).sysAt = s.sysAt ∧ (setUni s f n w).queues = s.queues ∧ (setUni s f n w).partns = s.partns ∧ (setUni s f n w).owners = s.owners
    ∧ (setUni s f n w).serves = s.serves ∧ (setUni s f n w).fenced = s.fenced ∧ (setUni s f n w).fencePend = s.fencePend
    ∧ (setUni s f n w).power = s.power ∧ (setUni s f n w).idleAt = s.idleAt ∧ (setUni s f n w).reqAt = s.reqAt
    ∧ (setUni s f n w).pathsDown = s.pathsDown ∧ (setUni s f n w).images = s.images ∧ (setUni s f n w).dvsec = s.dvsec
    ∧ (setUni s f n w).bootStep = s.bootStep ∧ (setUni s f n w).everEnabled = s.everEnabled ∧ (setUni s f n w).belowSince = s.belowSince := by
  repeat' constructor

/-- A port changed. -/
@[simp] theorem setPort_frame (s : State) (core port : Nat) (g : Port → Port) :
    (setPort s core port g).now = s.now ∧ (setPort s core port g).agenda = s.agenda ∧ (setPort s core port g).focus = s.focus
    ∧ (setPort s core port g).turn = s.turn ∧ (setPort s core port g).cur = s.cur ∧ (setPort s core port g).seq = s.seq
    ∧ (setPort s core port g).nextJoin = s.nextJoin ∧ (setPort s core port g).freeCtr = s.freeCtr ∧ (setPort s core port g).fibres = s.fibres
    ∧ (setPort s core port g).slots = s.slots ∧ (setPort s core port g).parts = s.parts ∧ (setPort s core port g).blocks = s.blocks
    ∧ (setPort s core port g).gangs = s.gangs ∧ (setPort s core port g).kernels = s.kernels ∧ (setPort s core port g).mem = s.mem
    ∧ (setPort s core port g).capTags = s.capTags ∧ (setPort s core port g).fullBits = s.fullBits ∧ (setPort s core port g).liveBits = s.liveBits
    ∧ (setPort s core port g).ueMarks = s.ueMarks ∧ (setPort s core port g).redTags = s.redTags ∧ (setPort s core port g).redFlags = s.redFlags
    ∧ (setPort s core port g).tlbs = s.tlbs ∧ (setPort s core port g).walks = s.walks ∧ (setPort s core port g).windows = s.windows
    ∧ (setPort s core port g).fars = s.fars ∧ (setPort s core port g).engines = s.engines ∧ (setPort s core port g).tiles = s.tiles
    ∧ (setPort s core port g).pkgReplay = s.pkgReplay ∧ (setPort s core port g).copies = s.copies ∧ (setPort s core port g).tokens = s.tokens
    ∧ (setPort s core port g).msgs = s.msgs ∧ (setPort s core port g).ldas = s.ldas ∧ (setPort s core port g).feStores = s.feStores
    ∧ (setPort s core port g).leftCuts = s.leftCuts ∧ (setPort s core port g).devWrites = s.devWrites ∧ (setPort s core port g).lathes = s.lathes
    ∧ (setPort s core port g).wrefBank = s.wrefBank ∧ (setPort s core port g).names = s.names ∧ (setPort s core port g).dirObjs = s.dirObjs
    ∧ (setPort s core port g).sys = s.sys ∧ (setPort s core port g).sysAt = s.sysAt ∧ (setPort s core port g).queues = s.queues
    ∧ (setPort s core port g).partns = s.partns ∧ (setPort s core port g).owners = s.owners ∧ (setPort s core port g).serves = s.serves
    ∧ (setPort s core port g).fenced = s.fenced ∧ (setPort s core port g).fencePend = s.fencePend ∧ (setPort s core port g).power = s.power
    ∧ (setPort s core port g).idleAt = s.idleAt ∧ (setPort s core port g).reqAt = s.reqAt ∧ (setPort s core port g).pathsDown = s.pathsDown
    ∧ (setPort s core port g).images = s.images ∧ (setPort s core port g).dvsec = s.dvsec ∧ (setPort s core port g).bootStep = s.bootStep
    ∧ (setPort s core port g).everEnabled = s.everEnabled ∧ (setPort s core port g).belowSince = s.belowSince := by
  repeat' constructor

/-- A partition's record changed. -/
@[simp] theorem setPartn_frame (s : State) (p : Nat) (g : Partn → Partn) :
    (setPartn s p g).now = s.now ∧ (setPartn s p g).agenda = s.agenda ∧ (setPartn s p g).focus = s.focus ∧ (setPartn s p g).turn = s.turn
    ∧ (setPartn s p g).cur = s.cur ∧ (setPartn s p g).seq = s.seq ∧ (setPartn s p g).nextJoin = s.nextJoin ∧ (setPartn s p g).freeCtr = s.freeCtr
    ∧ (setPartn s p g).fibres = s.fibres ∧ (setPartn s p g).slots = s.slots ∧ (setPartn s p g).ports = s.ports ∧ (setPartn s p g).parts = s.parts
    ∧ (setPartn s p g).blocks = s.blocks ∧ (setPartn s p g).gangs = s.gangs ∧ (setPartn s p g).kernels = s.kernels ∧ (setPartn s p g).mem = s.mem
    ∧ (setPartn s p g).capTags = s.capTags ∧ (setPartn s p g).fullBits = s.fullBits ∧ (setPartn s p g).liveBits = s.liveBits
    ∧ (setPartn s p g).ueMarks = s.ueMarks ∧ (setPartn s p g).redTags = s.redTags ∧ (setPartn s p g).redFlags = s.redFlags
    ∧ (setPartn s p g).tlbs = s.tlbs ∧ (setPartn s p g).walks = s.walks ∧ (setPartn s p g).windows = s.windows ∧ (setPartn s p g).fars = s.fars
    ∧ (setPartn s p g).engines = s.engines ∧ (setPartn s p g).tiles = s.tiles ∧ (setPartn s p g).pkgReplay = s.pkgReplay
    ∧ (setPartn s p g).copies = s.copies ∧ (setPartn s p g).tokens = s.tokens ∧ (setPartn s p g).msgs = s.msgs ∧ (setPartn s p g).ldas = s.ldas
    ∧ (setPartn s p g).feStores = s.feStores ∧ (setPartn s p g).leftCuts = s.leftCuts ∧ (setPartn s p g).devWrites = s.devWrites
    ∧ (setPartn s p g).lathes = s.lathes ∧ (setPartn s p g).wrefBank = s.wrefBank ∧ (setPartn s p g).names = s.names
    ∧ (setPartn s p g).dirObjs = s.dirObjs ∧ (setPartn s p g).sys = s.sys ∧ (setPartn s p g).sysAt = s.sysAt ∧ (setPartn s p g).queues = s.queues
    ∧ (setPartn s p g).owners = s.owners ∧ (setPartn s p g).serves = s.serves ∧ (setPartn s p g).fenced = s.fenced
    ∧ (setPartn s p g).fencePend = s.fencePend ∧ (setPartn s p g).power = s.power ∧ (setPartn s p g).idleAt = s.idleAt
    ∧ (setPartn s p g).reqAt = s.reqAt ∧ (setPartn s p g).pathsDown = s.pathsDown ∧ (setPartn s p g).images = s.images
    ∧ (setPartn s p g).dvsec = s.dvsec ∧ (setPartn s p g).bootStep = s.bootStep ∧ (setPartn s p g).everEnabled = s.everEnabled
    ∧ (setPartn s p g).belowSince = s.belowSince := by
  repeat' constructor

/-- A trap record logged. -/
@[simp] theorem logTrap_frame (s : State) (p : Nat) (r : TrapRec) :
    (logTrap s p r).now = s.now ∧ (logTrap s p r).agenda = s.agenda ∧ (logTrap s p r).focus = s.focus ∧ (logTrap s p r).turn = s.turn
    ∧ (logTrap s p r).cur = s.cur ∧ (logTrap s p r).seq = s.seq ∧ (logTrap s p r).nextJoin = s.nextJoin ∧ (logTrap s p r).freeCtr = s.freeCtr
    ∧ (logTrap s p r).fibres = s.fibres ∧ (logTrap s p r).slots = s.slots ∧ (logTrap s p r).ports = s.ports ∧ (logTrap s p r).parts = s.parts
    ∧ (logTrap s p r).blocks = s.blocks ∧ (logTrap s p r).gangs = s.gangs ∧ (logTrap s p r).kernels = s.kernels ∧ (logTrap s p r).mem = s.mem
    ∧ (logTrap s p r).capTags = s.capTags ∧ (logTrap s p r).fullBits = s.fullBits ∧ (logTrap s p r).liveBits = s.liveBits
    ∧ (logTrap s p r).ueMarks = s.ueMarks ∧ (logTrap s p r).redTags = s.redTags ∧ (logTrap s p r).redFlags = s.redFlags
    ∧ (logTrap s p r).tlbs = s.tlbs ∧ (logTrap s p r).walks = s.walks ∧ (logTrap s p r).windows = s.windows ∧ (logTrap s p r).fars = s.fars
    ∧ (logTrap s p r).engines = s.engines ∧ (logTrap s p r).tiles = s.tiles ∧ (logTrap s p r).pkgReplay = s.pkgReplay
    ∧ (logTrap s p r).copies = s.copies ∧ (logTrap s p r).tokens = s.tokens ∧ (logTrap s p r).msgs = s.msgs ∧ (logTrap s p r).ldas = s.ldas
    ∧ (logTrap s p r).feStores = s.feStores ∧ (logTrap s p r).leftCuts = s.leftCuts ∧ (logTrap s p r).devWrites = s.devWrites
    ∧ (logTrap s p r).lathes = s.lathes ∧ (logTrap s p r).wrefBank = s.wrefBank ∧ (logTrap s p r).names = s.names
    ∧ (logTrap s p r).dirObjs = s.dirObjs ∧ (logTrap s p r).sys = s.sys ∧ (logTrap s p r).sysAt = s.sysAt ∧ (logTrap s p r).queues = s.queues
    ∧ (logTrap s p r).owners = s.owners ∧ (logTrap s p r).serves = s.serves ∧ (logTrap s p r).fenced = s.fenced
    ∧ (logTrap s p r).fencePend = s.fencePend ∧ (logTrap s p r).power = s.power ∧ (logTrap s p r).idleAt = s.idleAt ∧ (logTrap s p r).reqAt = s.reqAt
    ∧ (logTrap s p r).pathsDown = s.pathsDown ∧ (logTrap s p r).images = s.images ∧ (logTrap s p r).dvsec = s.dvsec
    ∧ (logTrap s p r).bootStep = s.bootStep ∧ (logTrap s p r).everEnabled = s.everEnabled ∧ (logTrap s p r).belowSince = s.belowSince := by
  repeat' constructor

/-- A matrix engine changed. -/
@[simp] theorem setEngine_frame (s : State) (c : Nat) (g : Engine → Engine) :
    (setEngine s c g).now = s.now ∧ (setEngine s c g).agenda = s.agenda ∧ (setEngine s c g).focus = s.focus ∧ (setEngine s c g).turn = s.turn
    ∧ (setEngine s c g).cur = s.cur ∧ (setEngine s c g).seq = s.seq ∧ (setEngine s c g).nextJoin = s.nextJoin ∧ (setEngine s c g).freeCtr = s.freeCtr
    ∧ (setEngine s c g).fibres = s.fibres ∧ (setEngine s c g).slots = s.slots ∧ (setEngine s c g).ports = s.ports ∧ (setEngine s c g).parts = s.parts
    ∧ (setEngine s c g).blocks = s.blocks ∧ (setEngine s c g).gangs = s.gangs ∧ (setEngine s c g).kernels = s.kernels ∧ (setEngine s c g).mem = s.mem
    ∧ (setEngine s c g).capTags = s.capTags ∧ (setEngine s c g).fullBits = s.fullBits ∧ (setEngine s c g).liveBits = s.liveBits
    ∧ (setEngine s c g).ueMarks = s.ueMarks ∧ (setEngine s c g).redTags = s.redTags ∧ (setEngine s c g).redFlags = s.redFlags
    ∧ (setEngine s c g).tlbs = s.tlbs ∧ (setEngine s c g).walks = s.walks ∧ (setEngine s c g).windows = s.windows ∧ (setEngine s c g).fars = s.fars
    ∧ (setEngine s c g).tiles = s.tiles ∧ (setEngine s c g).pkgReplay = s.pkgReplay ∧ (setEngine s c g).copies = s.copies
    ∧ (setEngine s c g).tokens = s.tokens ∧ (setEngine s c g).msgs = s.msgs ∧ (setEngine s c g).ldas = s.ldas
    ∧ (setEngine s c g).feStores = s.feStores ∧ (setEngine s c g).leftCuts = s.leftCuts ∧ (setEngine s c g).devWrites = s.devWrites
    ∧ (setEngine s c g).lathes = s.lathes ∧ (setEngine s c g).wrefBank = s.wrefBank ∧ (setEngine s c g).names = s.names
    ∧ (setEngine s c g).dirObjs = s.dirObjs ∧ (setEngine s c g).sys = s.sys ∧ (setEngine s c g).sysAt = s.sysAt ∧ (setEngine s c g).queues = s.queues
    ∧ (setEngine s c g).partns = s.partns ∧ (setEngine s c g).owners = s.owners ∧ (setEngine s c g).serves = s.serves
    ∧ (setEngine s c g).fenced = s.fenced ∧ (setEngine s c g).fencePend = s.fencePend ∧ (setEngine s c g).power = s.power
    ∧ (setEngine s c g).idleAt = s.idleAt ∧ (setEngine s c g).reqAt = s.reqAt ∧ (setEngine s c g).pathsDown = s.pathsDown
    ∧ (setEngine s c g).images = s.images ∧ (setEngine s c g).dvsec = s.dvsec ∧ (setEngine s c g).bootStep = s.bootStep
    ∧ (setEngine s c g).everEnabled = s.everEnabled ∧ (setEngine s c g).belowSince = s.belowSince := by
  repeat' constructor

/-- A lathe changed. -/
@[simp] theorem setLathe_frame (s : State) (k : Nat) (g : Lathe → Lathe) :
    (setLathe s k g).now = s.now ∧ (setLathe s k g).agenda = s.agenda ∧ (setLathe s k g).focus = s.focus ∧ (setLathe s k g).turn = s.turn
    ∧ (setLathe s k g).cur = s.cur ∧ (setLathe s k g).seq = s.seq ∧ (setLathe s k g).nextJoin = s.nextJoin ∧ (setLathe s k g).freeCtr = s.freeCtr
    ∧ (setLathe s k g).fibres = s.fibres ∧ (setLathe s k g).slots = s.slots ∧ (setLathe s k g).ports = s.ports ∧ (setLathe s k g).parts = s.parts
    ∧ (setLathe s k g).blocks = s.blocks ∧ (setLathe s k g).gangs = s.gangs ∧ (setLathe s k g).kernels = s.kernels ∧ (setLathe s k g).mem = s.mem
    ∧ (setLathe s k g).capTags = s.capTags ∧ (setLathe s k g).fullBits = s.fullBits ∧ (setLathe s k g).liveBits = s.liveBits
    ∧ (setLathe s k g).ueMarks = s.ueMarks ∧ (setLathe s k g).redTags = s.redTags ∧ (setLathe s k g).redFlags = s.redFlags
    ∧ (setLathe s k g).tlbs = s.tlbs ∧ (setLathe s k g).walks = s.walks ∧ (setLathe s k g).windows = s.windows ∧ (setLathe s k g).fars = s.fars
    ∧ (setLathe s k g).engines = s.engines ∧ (setLathe s k g).tiles = s.tiles ∧ (setLathe s k g).pkgReplay = s.pkgReplay
    ∧ (setLathe s k g).copies = s.copies ∧ (setLathe s k g).tokens = s.tokens ∧ (setLathe s k g).msgs = s.msgs ∧ (setLathe s k g).ldas = s.ldas
    ∧ (setLathe s k g).feStores = s.feStores ∧ (setLathe s k g).leftCuts = s.leftCuts ∧ (setLathe s k g).devWrites = s.devWrites
    ∧ (setLathe s k g).wrefBank = s.wrefBank ∧ (setLathe s k g).names = s.names ∧ (setLathe s k g).dirObjs = s.dirObjs ∧ (setLathe s k g).sys = s.sys
    ∧ (setLathe s k g).sysAt = s.sysAt ∧ (setLathe s k g).queues = s.queues ∧ (setLathe s k g).partns = s.partns ∧ (setLathe s k g).owners = s.owners
    ∧ (setLathe s k g).serves = s.serves ∧ (setLathe s k g).fenced = s.fenced ∧ (setLathe s k g).fencePend = s.fencePend
    ∧ (setLathe s k g).power = s.power ∧ (setLathe s k g).idleAt = s.idleAt ∧ (setLathe s k g).reqAt = s.reqAt
    ∧ (setLathe s k g).pathsDown = s.pathsDown ∧ (setLathe s k g).images = s.images ∧ (setLathe s k g).dvsec = s.dvsec
    ∧ (setLathe s k g).bootStep = s.bootStep ∧ (setLathe s k g).everEnabled = s.everEnabled ∧ (setLathe s k g).belowSince = s.belowSince := by
  repeat' constructor

/-- A launch queue changed. -/
@[simp] theorem setQueue_frame (s : State) (p q : Nat) (g : LQueue → LQueue) :
    (setQueue s p q g).now = s.now ∧ (setQueue s p q g).agenda = s.agenda ∧ (setQueue s p q g).focus = s.focus ∧ (setQueue s p q g).turn = s.turn
    ∧ (setQueue s p q g).cur = s.cur ∧ (setQueue s p q g).seq = s.seq ∧ (setQueue s p q g).nextJoin = s.nextJoin
    ∧ (setQueue s p q g).freeCtr = s.freeCtr ∧ (setQueue s p q g).fibres = s.fibres ∧ (setQueue s p q g).slots = s.slots
    ∧ (setQueue s p q g).ports = s.ports ∧ (setQueue s p q g).parts = s.parts ∧ (setQueue s p q g).blocks = s.blocks
    ∧ (setQueue s p q g).gangs = s.gangs ∧ (setQueue s p q g).kernels = s.kernels ∧ (setQueue s p q g).mem = s.mem
    ∧ (setQueue s p q g).capTags = s.capTags ∧ (setQueue s p q g).fullBits = s.fullBits ∧ (setQueue s p q g).liveBits = s.liveBits
    ∧ (setQueue s p q g).ueMarks = s.ueMarks ∧ (setQueue s p q g).redTags = s.redTags ∧ (setQueue s p q g).redFlags = s.redFlags
    ∧ (setQueue s p q g).tlbs = s.tlbs ∧ (setQueue s p q g).walks = s.walks ∧ (setQueue s p q g).windows = s.windows
    ∧ (setQueue s p q g).fars = s.fars ∧ (setQueue s p q g).engines = s.engines ∧ (setQueue s p q g).tiles = s.tiles
    ∧ (setQueue s p q g).pkgReplay = s.pkgReplay ∧ (setQueue s p q g).copies = s.copies ∧ (setQueue s p q g).tokens = s.tokens
    ∧ (setQueue s p q g).msgs = s.msgs ∧ (setQueue s p q g).ldas = s.ldas ∧ (setQueue s p q g).feStores = s.feStores
    ∧ (setQueue s p q g).leftCuts = s.leftCuts ∧ (setQueue s p q g).devWrites = s.devWrites ∧ (setQueue s p q g).lathes = s.lathes
    ∧ (setQueue s p q g).wrefBank = s.wrefBank ∧ (setQueue s p q g).names = s.names ∧ (setQueue s p q g).dirObjs = s.dirObjs
    ∧ (setQueue s p q g).sys = s.sys ∧ (setQueue s p q g).sysAt = s.sysAt ∧ (setQueue s p q g).partns = s.partns
    ∧ (setQueue s p q g).owners = s.owners ∧ (setQueue s p q g).serves = s.serves ∧ (setQueue s p q g).fenced = s.fenced
    ∧ (setQueue s p q g).fencePend = s.fencePend ∧ (setQueue s p q g).power = s.power ∧ (setQueue s p q g).idleAt = s.idleAt
    ∧ (setQueue s p q g).reqAt = s.reqAt ∧ (setQueue s p q g).pathsDown = s.pathsDown ∧ (setQueue s p q g).images = s.images
    ∧ (setQueue s p q g).dvsec = s.dvsec ∧ (setQueue s p q g).bootStep = s.bootStep ∧ (setQueue s p q g).everEnabled = s.everEnabled
    ∧ (setQueue s p q g).belowSince = s.belowSince := by
  repeat' constructor

/-- A batch slot changed. -/
@[simp] theorem setSlot_frame (s : State) (c : Cur) (g : Slot → Slot) :
    (setSlot s c g).now = s.now ∧ (setSlot s c g).agenda = s.agenda ∧ (setSlot s c g).focus = s.focus ∧ (setSlot s c g).turn = s.turn
    ∧ (setSlot s c g).cur = s.cur ∧ (setSlot s c g).seq = s.seq ∧ (setSlot s c g).nextJoin = s.nextJoin ∧ (setSlot s c g).freeCtr = s.freeCtr
    ∧ (setSlot s c g).fibres = s.fibres ∧ (setSlot s c g).ports = s.ports ∧ (setSlot s c g).parts = s.parts ∧ (setSlot s c g).blocks = s.blocks
    ∧ (setSlot s c g).gangs = s.gangs ∧ (setSlot s c g).kernels = s.kernels ∧ (setSlot s c g).mem = s.mem ∧ (setSlot s c g).capTags = s.capTags
    ∧ (setSlot s c g).fullBits = s.fullBits ∧ (setSlot s c g).liveBits = s.liveBits ∧ (setSlot s c g).ueMarks = s.ueMarks
    ∧ (setSlot s c g).redTags = s.redTags ∧ (setSlot s c g).redFlags = s.redFlags ∧ (setSlot s c g).tlbs = s.tlbs ∧ (setSlot s c g).walks = s.walks
    ∧ (setSlot s c g).windows = s.windows ∧ (setSlot s c g).fars = s.fars ∧ (setSlot s c g).engines = s.engines ∧ (setSlot s c g).tiles = s.tiles
    ∧ (setSlot s c g).pkgReplay = s.pkgReplay ∧ (setSlot s c g).copies = s.copies ∧ (setSlot s c g).tokens = s.tokens ∧ (setSlot s c g).msgs = s.msgs
    ∧ (setSlot s c g).ldas = s.ldas ∧ (setSlot s c g).feStores = s.feStores ∧ (setSlot s c g).leftCuts = s.leftCuts
    ∧ (setSlot s c g).devWrites = s.devWrites ∧ (setSlot s c g).lathes = s.lathes ∧ (setSlot s c g).wrefBank = s.wrefBank
    ∧ (setSlot s c g).names = s.names ∧ (setSlot s c g).dirObjs = s.dirObjs ∧ (setSlot s c g).sys = s.sys ∧ (setSlot s c g).sysAt = s.sysAt
    ∧ (setSlot s c g).queues = s.queues ∧ (setSlot s c g).partns = s.partns ∧ (setSlot s c g).owners = s.owners ∧ (setSlot s c g).serves = s.serves
    ∧ (setSlot s c g).fenced = s.fenced ∧ (setSlot s c g).fencePend = s.fencePend ∧ (setSlot s c g).power = s.power
    ∧ (setSlot s c g).idleAt = s.idleAt ∧ (setSlot s c g).reqAt = s.reqAt ∧ (setSlot s c g).pathsDown = s.pathsDown
    ∧ (setSlot s c g).images = s.images ∧ (setSlot s c g).dvsec = s.dvsec ∧ (setSlot s c g).bootStep = s.bootStep
    ∧ (setSlot s c g).everEnabled = s.everEnabled ∧ (setSlot s c g).belowSince = s.belowSince := by
  repeat' constructor

/-- Empty batch slots freed. -/
@[simp] theorem cleanSlots_frame (s : State) :
    (cleanSlots s).now = s.now ∧ (cleanSlots s).agenda = s.agenda ∧ (cleanSlots s).focus = s.focus ∧ (cleanSlots s).turn = s.turn
    ∧ (cleanSlots s).cur = s.cur ∧ (cleanSlots s).seq = s.seq ∧ (cleanSlots s).nextJoin = s.nextJoin ∧ (cleanSlots s).freeCtr = s.freeCtr
    ∧ (cleanSlots s).fibres = s.fibres ∧ (cleanSlots s).ports = s.ports ∧ (cleanSlots s).parts = s.parts ∧ (cleanSlots s).blocks = s.blocks
    ∧ (cleanSlots s).gangs = s.gangs ∧ (cleanSlots s).kernels = s.kernels ∧ (cleanSlots s).mem = s.mem ∧ (cleanSlots s).capTags = s.capTags
    ∧ (cleanSlots s).fullBits = s.fullBits ∧ (cleanSlots s).liveBits = s.liveBits ∧ (cleanSlots s).ueMarks = s.ueMarks
    ∧ (cleanSlots s).redTags = s.redTags ∧ (cleanSlots s).redFlags = s.redFlags ∧ (cleanSlots s).tlbs = s.tlbs ∧ (cleanSlots s).walks = s.walks
    ∧ (cleanSlots s).windows = s.windows ∧ (cleanSlots s).fars = s.fars ∧ (cleanSlots s).engines = s.engines ∧ (cleanSlots s).tiles = s.tiles
    ∧ (cleanSlots s).pkgReplay = s.pkgReplay ∧ (cleanSlots s).copies = s.copies ∧ (cleanSlots s).tokens = s.tokens ∧ (cleanSlots s).msgs = s.msgs
    ∧ (cleanSlots s).ldas = s.ldas ∧ (cleanSlots s).feStores = s.feStores ∧ (cleanSlots s).leftCuts = s.leftCuts
    ∧ (cleanSlots s).devWrites = s.devWrites ∧ (cleanSlots s).lathes = s.lathes ∧ (cleanSlots s).wrefBank = s.wrefBank
    ∧ (cleanSlots s).names = s.names ∧ (cleanSlots s).dirObjs = s.dirObjs ∧ (cleanSlots s).sys = s.sys ∧ (cleanSlots s).sysAt = s.sysAt
    ∧ (cleanSlots s).queues = s.queues ∧ (cleanSlots s).partns = s.partns ∧ (cleanSlots s).owners = s.owners ∧ (cleanSlots s).serves = s.serves
    ∧ (cleanSlots s).fenced = s.fenced ∧ (cleanSlots s).fencePend = s.fencePend ∧ (cleanSlots s).power = s.power ∧ (cleanSlots s).idleAt = s.idleAt
    ∧ (cleanSlots s).reqAt = s.reqAt ∧ (cleanSlots s).pathsDown = s.pathsDown ∧ (cleanSlots s).images = s.images ∧ (cleanSlots s).dvsec = s.dvsec
    ∧ (cleanSlots s).bootStep = s.bootStep ∧ (cleanSlots s).everEnabled = s.everEnabled ∧ (cleanSlots s).belowSince = s.belowSince := by
  repeat' constructor

/-- A slot taken by a batch. -/
@[simp] theorem takeSlot_frame (s : State) (c : Cur) (ks : List FKey) (age next bid : Nat) :
    (takeSlot s c ks age next bid).now = s.now ∧ (takeSlot s c ks age next bid).agenda = s.agenda ∧ (takeSlot s c ks age next bid).focus = s.focus
    ∧ (takeSlot s c ks age next bid).turn = s.turn ∧ (takeSlot s c ks age next bid).cur = s.cur ∧ (takeSlot s c ks age next bid).seq = s.seq
    ∧ (takeSlot s c ks age next bid).nextJoin = s.nextJoin ∧ (takeSlot s c ks age next bid).freeCtr = s.freeCtr
    ∧ (takeSlot s c ks age next bid).ports = s.ports ∧ (takeSlot s c ks age next bid).parts = s.parts
    ∧ (takeSlot s c ks age next bid).blocks = s.blocks ∧ (takeSlot s c ks age next bid).gangs = s.gangs
    ∧ (takeSlot s c ks age next bid).kernels = s.kernels ∧ (takeSlot s c ks age next bid).mem = s.mem
    ∧ (takeSlot s c ks age next bid).capTags = s.capTags ∧ (takeSlot s c ks age next bid).fullBits = s.fullBits
    ∧ (takeSlot s c ks age next bid).liveBits = s.liveBits ∧ (takeSlot s c ks age next bid).ueMarks = s.ueMarks
    ∧ (takeSlot s c ks age next bid).redTags = s.redTags ∧ (takeSlot s c ks age next bid).redFlags = s.redFlags
    ∧ (takeSlot s c ks age next bid).tlbs = s.tlbs ∧ (takeSlot s c ks age next bid).walks = s.walks
    ∧ (takeSlot s c ks age next bid).windows = s.windows ∧ (takeSlot s c ks age next bid).fars = s.fars
    ∧ (takeSlot s c ks age next bid).engines = s.engines ∧ (takeSlot s c ks age next bid).tiles = s.tiles
    ∧ (takeSlot s c ks age next bid).pkgReplay = s.pkgReplay ∧ (takeSlot s c ks age next bid).copies = s.copies
    ∧ (takeSlot s c ks age next bid).tokens = s.tokens ∧ (takeSlot s c ks age next bid).msgs = s.msgs ∧ (takeSlot s c ks age next bid).ldas = s.ldas
    ∧ (takeSlot s c ks age next bid).feStores = s.feStores ∧ (takeSlot s c ks age next bid).leftCuts = s.leftCuts
    ∧ (takeSlot s c ks age next bid).devWrites = s.devWrites ∧ (takeSlot s c ks age next bid).lathes = s.lathes
    ∧ (takeSlot s c ks age next bid).wrefBank = s.wrefBank ∧ (takeSlot s c ks age next bid).names = s.names
    ∧ (takeSlot s c ks age next bid).dirObjs = s.dirObjs ∧ (takeSlot s c ks age next bid).sys = s.sys ∧ (takeSlot s c ks age next bid).sysAt = s.sysAt
    ∧ (takeSlot s c ks age next bid).queues = s.queues ∧ (takeSlot s c ks age next bid).partns = s.partns
    ∧ (takeSlot s c ks age next bid).owners = s.owners ∧ (takeSlot s c ks age next bid).serves = s.serves
    ∧ (takeSlot s c ks age next bid).fenced = s.fenced ∧ (takeSlot s c ks age next bid).fencePend = s.fencePend
    ∧ (takeSlot s c ks age next bid).power = s.power ∧ (takeSlot s c ks age next bid).idleAt = s.idleAt
    ∧ (takeSlot s c ks age next bid).reqAt = s.reqAt ∧ (takeSlot s c ks age next bid).pathsDown = s.pathsDown
    ∧ (takeSlot s c ks age next bid).images = s.images ∧ (takeSlot s c ks age next bid).dvsec = s.dvsec
    ∧ (takeSlot s c ks age next bid).bootStep = s.bootStep ∧ (takeSlot s c ks age next bid).everEnabled = s.everEnabled
    ∧ (takeSlot s c ks age next bid).belowSince = s.belowSince := by
  repeat' constructor

/-- A system register written. -/
@[simp] theorem sysPut_frame (s : State) (p n v : Nat) :
    (sysPut s p n v).now = s.now ∧ (sysPut s p n v).agenda = s.agenda ∧ (sysPut s p n v).focus = s.focus ∧ (sysPut s p n v).turn = s.turn
    ∧ (sysPut s p n v).cur = s.cur ∧ (sysPut s p n v).seq = s.seq ∧ (sysPut s p n v).nextJoin = s.nextJoin ∧ (sysPut s p n v).freeCtr = s.freeCtr
    ∧ (sysPut s p n v).fibres = s.fibres ∧ (sysPut s p n v).slots = s.slots ∧ (sysPut s p n v).ports = s.ports ∧ (sysPut s p n v).parts = s.parts
    ∧ (sysPut s p n v).blocks = s.blocks ∧ (sysPut s p n v).gangs = s.gangs ∧ (sysPut s p n v).kernels = s.kernels ∧ (sysPut s p n v).mem = s.mem
    ∧ (sysPut s p n v).capTags = s.capTags ∧ (sysPut s p n v).fullBits = s.fullBits ∧ (sysPut s p n v).liveBits = s.liveBits
    ∧ (sysPut s p n v).ueMarks = s.ueMarks ∧ (sysPut s p n v).redTags = s.redTags ∧ (sysPut s p n v).redFlags = s.redFlags
    ∧ (sysPut s p n v).tlbs = s.tlbs ∧ (sysPut s p n v).walks = s.walks ∧ (sysPut s p n v).windows = s.windows ∧ (sysPut s p n v).fars = s.fars
    ∧ (sysPut s p n v).engines = s.engines ∧ (sysPut s p n v).tiles = s.tiles ∧ (sysPut s p n v).pkgReplay = s.pkgReplay
    ∧ (sysPut s p n v).copies = s.copies ∧ (sysPut s p n v).tokens = s.tokens ∧ (sysPut s p n v).msgs = s.msgs ∧ (sysPut s p n v).ldas = s.ldas
    ∧ (sysPut s p n v).feStores = s.feStores ∧ (sysPut s p n v).leftCuts = s.leftCuts ∧ (sysPut s p n v).devWrites = s.devWrites
    ∧ (sysPut s p n v).lathes = s.lathes ∧ (sysPut s p n v).wrefBank = s.wrefBank ∧ (sysPut s p n v).names = s.names
    ∧ (sysPut s p n v).dirObjs = s.dirObjs ∧ (sysPut s p n v).sysAt = s.sysAt ∧ (sysPut s p n v).queues = s.queues
    ∧ (sysPut s p n v).partns = s.partns ∧ (sysPut s p n v).owners = s.owners ∧ (sysPut s p n v).serves = s.serves
    ∧ (sysPut s p n v).fenced = s.fenced ∧ (sysPut s p n v).fencePend = s.fencePend ∧ (sysPut s p n v).power = s.power
    ∧ (sysPut s p n v).idleAt = s.idleAt ∧ (sysPut s p n v).reqAt = s.reqAt ∧ (sysPut s p n v).pathsDown = s.pathsDown
    ∧ (sysPut s p n v).images = s.images ∧ (sysPut s p n v).dvsec = s.dvsec ∧ (sysPut s p n v).bootStep = s.bootStep
    ∧ (sysPut s p n v).everEnabled = s.everEnabled ∧ (sysPut s p n v).belowSince = s.belowSince := by
  repeat' constructor

/-- A fresh number taken. -/
@[simp] theorem State.fresh_frame (s : State) :
    (s.fresh).now = s.now ∧ (s.fresh).agenda = s.agenda ∧ (s.fresh).focus = s.focus ∧ (s.fresh).turn = s.turn ∧ (s.fresh).cur = s.cur
    ∧ (s.fresh).nextJoin = s.nextJoin ∧ (s.fresh).freeCtr = s.freeCtr ∧ (s.fresh).fibres = s.fibres ∧ (s.fresh).slots = s.slots
    ∧ (s.fresh).ports = s.ports ∧ (s.fresh).parts = s.parts ∧ (s.fresh).blocks = s.blocks ∧ (s.fresh).gangs = s.gangs ∧ (s.fresh).kernels = s.kernels
    ∧ (s.fresh).mem = s.mem ∧ (s.fresh).capTags = s.capTags ∧ (s.fresh).fullBits = s.fullBits ∧ (s.fresh).liveBits = s.liveBits
    ∧ (s.fresh).ueMarks = s.ueMarks ∧ (s.fresh).redTags = s.redTags ∧ (s.fresh).redFlags = s.redFlags ∧ (s.fresh).tlbs = s.tlbs
    ∧ (s.fresh).walks = s.walks ∧ (s.fresh).windows = s.windows ∧ (s.fresh).fars = s.fars ∧ (s.fresh).engines = s.engines ∧ (s.fresh).tiles = s.tiles
    ∧ (s.fresh).pkgReplay = s.pkgReplay ∧ (s.fresh).copies = s.copies ∧ (s.fresh).tokens = s.tokens ∧ (s.fresh).msgs = s.msgs
    ∧ (s.fresh).ldas = s.ldas ∧ (s.fresh).feStores = s.feStores ∧ (s.fresh).leftCuts = s.leftCuts ∧ (s.fresh).devWrites = s.devWrites
    ∧ (s.fresh).lathes = s.lathes ∧ (s.fresh).wrefBank = s.wrefBank ∧ (s.fresh).names = s.names ∧ (s.fresh).dirObjs = s.dirObjs
    ∧ (s.fresh).sys = s.sys ∧ (s.fresh).sysAt = s.sysAt ∧ (s.fresh).queues = s.queues ∧ (s.fresh).partns = s.partns ∧ (s.fresh).owners = s.owners
    ∧ (s.fresh).serves = s.serves ∧ (s.fresh).fenced = s.fenced ∧ (s.fresh).fencePend = s.fencePend ∧ (s.fresh).power = s.power
    ∧ (s.fresh).idleAt = s.idleAt ∧ (s.fresh).reqAt = s.reqAt ∧ (s.fresh).pathsDown = s.pathsDown ∧ (s.fresh).images = s.images
    ∧ (s.fresh).dvsec = s.dvsec ∧ (s.fresh).bootStep = s.bootStep ∧ (s.fresh).everEnabled = s.everEnabled ∧ (s.fresh).belowSince = s.belowSince := by
  repeat' constructor

/-- A full/empty bit changed. -/
@[simp] theorem State.setFull_frame (s : State) (a : Nat) (b : Bool) :
    (s.setFull a b).now = s.now ∧ (s.setFull a b).agenda = s.agenda ∧ (s.setFull a b).focus = s.focus ∧ (s.setFull a b).turn = s.turn
    ∧ (s.setFull a b).cur = s.cur ∧ (s.setFull a b).seq = s.seq ∧ (s.setFull a b).nextJoin = s.nextJoin ∧ (s.setFull a b).freeCtr = s.freeCtr
    ∧ (s.setFull a b).fibres = s.fibres ∧ (s.setFull a b).slots = s.slots ∧ (s.setFull a b).ports = s.ports ∧ (s.setFull a b).parts = s.parts
    ∧ (s.setFull a b).blocks = s.blocks ∧ (s.setFull a b).gangs = s.gangs ∧ (s.setFull a b).kernels = s.kernels ∧ (s.setFull a b).mem = s.mem
    ∧ (s.setFull a b).capTags = s.capTags ∧ (s.setFull a b).liveBits = s.liveBits ∧ (s.setFull a b).ueMarks = s.ueMarks
    ∧ (s.setFull a b).redTags = s.redTags ∧ (s.setFull a b).redFlags = s.redFlags ∧ (s.setFull a b).tlbs = s.tlbs ∧ (s.setFull a b).walks = s.walks
    ∧ (s.setFull a b).windows = s.windows ∧ (s.setFull a b).fars = s.fars ∧ (s.setFull a b).engines = s.engines ∧ (s.setFull a b).tiles = s.tiles
    ∧ (s.setFull a b).pkgReplay = s.pkgReplay ∧ (s.setFull a b).copies = s.copies ∧ (s.setFull a b).tokens = s.tokens ∧ (s.setFull a b).msgs = s.msgs
    ∧ (s.setFull a b).ldas = s.ldas ∧ (s.setFull a b).feStores = s.feStores ∧ (s.setFull a b).leftCuts = s.leftCuts
    ∧ (s.setFull a b).devWrites = s.devWrites ∧ (s.setFull a b).lathes = s.lathes ∧ (s.setFull a b).wrefBank = s.wrefBank
    ∧ (s.setFull a b).names = s.names ∧ (s.setFull a b).dirObjs = s.dirObjs ∧ (s.setFull a b).sys = s.sys ∧ (s.setFull a b).sysAt = s.sysAt
    ∧ (s.setFull a b).queues = s.queues ∧ (s.setFull a b).partns = s.partns ∧ (s.setFull a b).owners = s.owners ∧ (s.setFull a b).serves = s.serves
    ∧ (s.setFull a b).fenced = s.fenced ∧ (s.setFull a b).fencePend = s.fencePend ∧ (s.setFull a b).power = s.power
    ∧ (s.setFull a b).idleAt = s.idleAt ∧ (s.setFull a b).reqAt = s.reqAt ∧ (s.setFull a b).pathsDown = s.pathsDown
    ∧ (s.setFull a b).images = s.images ∧ (s.setFull a b).dvsec = s.dvsec ∧ (s.setFull a b).bootStep = s.bootStep
    ∧ (s.setFull a b).everEnabled = s.everEnabled ∧ (s.setFull a b).belowSince = s.belowSince := by
  repeat' constructor

/-- A granule made or unmade a barrier object. -/
@[simp] theorem State.setLive_frame (s : State) (a : Nat) (b : Bool) :
    (s.setLive a b).now = s.now ∧ (s.setLive a b).agenda = s.agenda ∧ (s.setLive a b).focus = s.focus ∧ (s.setLive a b).turn = s.turn
    ∧ (s.setLive a b).cur = s.cur ∧ (s.setLive a b).seq = s.seq ∧ (s.setLive a b).nextJoin = s.nextJoin ∧ (s.setLive a b).freeCtr = s.freeCtr
    ∧ (s.setLive a b).fibres = s.fibres ∧ (s.setLive a b).slots = s.slots ∧ (s.setLive a b).ports = s.ports ∧ (s.setLive a b).parts = s.parts
    ∧ (s.setLive a b).blocks = s.blocks ∧ (s.setLive a b).gangs = s.gangs ∧ (s.setLive a b).kernels = s.kernels ∧ (s.setLive a b).mem = s.mem
    ∧ (s.setLive a b).capTags = s.capTags ∧ (s.setLive a b).fullBits = s.fullBits ∧ (s.setLive a b).ueMarks = s.ueMarks
    ∧ (s.setLive a b).redTags = s.redTags ∧ (s.setLive a b).redFlags = s.redFlags ∧ (s.setLive a b).tlbs = s.tlbs ∧ (s.setLive a b).walks = s.walks
    ∧ (s.setLive a b).windows = s.windows ∧ (s.setLive a b).fars = s.fars ∧ (s.setLive a b).engines = s.engines ∧ (s.setLive a b).tiles = s.tiles
    ∧ (s.setLive a b).pkgReplay = s.pkgReplay ∧ (s.setLive a b).copies = s.copies ∧ (s.setLive a b).tokens = s.tokens ∧ (s.setLive a b).msgs = s.msgs
    ∧ (s.setLive a b).ldas = s.ldas ∧ (s.setLive a b).feStores = s.feStores ∧ (s.setLive a b).leftCuts = s.leftCuts
    ∧ (s.setLive a b).devWrites = s.devWrites ∧ (s.setLive a b).lathes = s.lathes ∧ (s.setLive a b).wrefBank = s.wrefBank
    ∧ (s.setLive a b).names = s.names ∧ (s.setLive a b).dirObjs = s.dirObjs ∧ (s.setLive a b).sys = s.sys ∧ (s.setLive a b).sysAt = s.sysAt
    ∧ (s.setLive a b).queues = s.queues ∧ (s.setLive a b).partns = s.partns ∧ (s.setLive a b).owners = s.owners ∧ (s.setLive a b).serves = s.serves
    ∧ (s.setLive a b).fenced = s.fenced ∧ (s.setLive a b).fencePend = s.fencePend ∧ (s.setLive a b).power = s.power
    ∧ (s.setLive a b).idleAt = s.idleAt ∧ (s.setLive a b).reqAt = s.reqAt ∧ (s.setLive a b).pathsDown = s.pathsDown
    ∧ (s.setLive a b).images = s.images ∧ (s.setLive a b).dvsec = s.dvsec ∧ (s.setLive a b).bootStep = s.bootStep
    ∧ (s.setLive a b).everEnabled = s.everEnabled ∧ (s.setLive a b).belowSince = s.belowSince := by
  repeat' constructor

/-- Bytes written. -/
@[simp] theorem State.write_frame (s : State) (a n v : Nat) :
    (s.write a n v).now = s.now ∧ (s.write a n v).agenda = s.agenda ∧ (s.write a n v).focus = s.focus ∧ (s.write a n v).turn = s.turn
    ∧ (s.write a n v).cur = s.cur ∧ (s.write a n v).seq = s.seq ∧ (s.write a n v).nextJoin = s.nextJoin ∧ (s.write a n v).freeCtr = s.freeCtr
    ∧ (s.write a n v).fibres = s.fibres ∧ (s.write a n v).slots = s.slots ∧ (s.write a n v).ports = s.ports ∧ (s.write a n v).parts = s.parts
    ∧ (s.write a n v).blocks = s.blocks ∧ (s.write a n v).gangs = s.gangs ∧ (s.write a n v).kernels = s.kernels
    ∧ (s.write a n v).fullBits = s.fullBits ∧ (s.write a n v).liveBits = s.liveBits ∧ (s.write a n v).ueMarks = s.ueMarks
    ∧ (s.write a n v).tlbs = s.tlbs ∧ (s.write a n v).walks = s.walks ∧ (s.write a n v).windows = s.windows ∧ (s.write a n v).fars = s.fars
    ∧ (s.write a n v).engines = s.engines ∧ (s.write a n v).tiles = s.tiles ∧ (s.write a n v).pkgReplay = s.pkgReplay
    ∧ (s.write a n v).copies = s.copies ∧ (s.write a n v).tokens = s.tokens ∧ (s.write a n v).msgs = s.msgs ∧ (s.write a n v).ldas = s.ldas
    ∧ (s.write a n v).feStores = s.feStores ∧ (s.write a n v).leftCuts = s.leftCuts ∧ (s.write a n v).devWrites = s.devWrites
    ∧ (s.write a n v).lathes = s.lathes ∧ (s.write a n v).wrefBank = s.wrefBank ∧ (s.write a n v).names = s.names
    ∧ (s.write a n v).dirObjs = s.dirObjs ∧ (s.write a n v).sys = s.sys ∧ (s.write a n v).sysAt = s.sysAt ∧ (s.write a n v).queues = s.queues
    ∧ (s.write a n v).partns = s.partns ∧ (s.write a n v).owners = s.owners ∧ (s.write a n v).serves = s.serves ∧ (s.write a n v).fenced = s.fenced
    ∧ (s.write a n v).fencePend = s.fencePend ∧ (s.write a n v).power = s.power ∧ (s.write a n v).idleAt = s.idleAt ∧ (s.write a n v).reqAt = s.reqAt
    ∧ (s.write a n v).pathsDown = s.pathsDown ∧ (s.write a n v).images = s.images ∧ (s.write a n v).dvsec = s.dvsec
    ∧ (s.write a n v).bootStep = s.bootStep ∧ (s.write a n v).everEnabled = s.everEnabled ∧ (s.write a n v).belowSince = s.belowSince := by
  repeat' constructor

/-- A capability written. -/
@[simp] theorem State.writeCap_frame (s : State) (a : Nat) (c : CapWord) :
    (s.writeCap a c).now = s.now ∧ (s.writeCap a c).agenda = s.agenda ∧ (s.writeCap a c).focus = s.focus ∧ (s.writeCap a c).turn = s.turn
    ∧ (s.writeCap a c).cur = s.cur ∧ (s.writeCap a c).seq = s.seq ∧ (s.writeCap a c).nextJoin = s.nextJoin ∧ (s.writeCap a c).freeCtr = s.freeCtr
    ∧ (s.writeCap a c).fibres = s.fibres ∧ (s.writeCap a c).slots = s.slots ∧ (s.writeCap a c).ports = s.ports ∧ (s.writeCap a c).parts = s.parts
    ∧ (s.writeCap a c).blocks = s.blocks ∧ (s.writeCap a c).gangs = s.gangs ∧ (s.writeCap a c).kernels = s.kernels
    ∧ (s.writeCap a c).fullBits = s.fullBits ∧ (s.writeCap a c).liveBits = s.liveBits ∧ (s.writeCap a c).ueMarks = s.ueMarks
    ∧ (s.writeCap a c).tlbs = s.tlbs ∧ (s.writeCap a c).walks = s.walks ∧ (s.writeCap a c).windows = s.windows ∧ (s.writeCap a c).fars = s.fars
    ∧ (s.writeCap a c).engines = s.engines ∧ (s.writeCap a c).tiles = s.tiles ∧ (s.writeCap a c).pkgReplay = s.pkgReplay
    ∧ (s.writeCap a c).copies = s.copies ∧ (s.writeCap a c).tokens = s.tokens ∧ (s.writeCap a c).msgs = s.msgs ∧ (s.writeCap a c).ldas = s.ldas
    ∧ (s.writeCap a c).feStores = s.feStores ∧ (s.writeCap a c).leftCuts = s.leftCuts ∧ (s.writeCap a c).devWrites = s.devWrites
    ∧ (s.writeCap a c).lathes = s.lathes ∧ (s.writeCap a c).wrefBank = s.wrefBank ∧ (s.writeCap a c).names = s.names
    ∧ (s.writeCap a c).dirObjs = s.dirObjs ∧ (s.writeCap a c).sys = s.sys ∧ (s.writeCap a c).sysAt = s.sysAt ∧ (s.writeCap a c).queues = s.queues
    ∧ (s.writeCap a c).partns = s.partns ∧ (s.writeCap a c).owners = s.owners ∧ (s.writeCap a c).serves = s.serves
    ∧ (s.writeCap a c).fenced = s.fenced ∧ (s.writeCap a c).fencePend = s.fencePend ∧ (s.writeCap a c).power = s.power
    ∧ (s.writeCap a c).idleAt = s.idleAt ∧ (s.writeCap a c).reqAt = s.reqAt ∧ (s.writeCap a c).pathsDown = s.pathsDown
    ∧ (s.writeCap a c).images = s.images ∧ (s.writeCap a c).dvsec = s.dvsec ∧ (s.writeCap a c).bootStep = s.bootStep
    ∧ (s.writeCap a c).everEnabled = s.everEnabled ∧ (s.writeCap a c).belowSince = s.belowSince := by
  simp [State.writeCap]

/-- Scratchpad bytes written. -/
@[simp] theorem spadWrite_frame (s : State) (a n v : Nat) :
    (spadWrite s a n v).now = s.now ∧ (spadWrite s a n v).agenda = s.agenda ∧ (spadWrite s a n v).focus = s.focus ∧ (spadWrite s a n v).turn = s.turn
    ∧ (spadWrite s a n v).cur = s.cur ∧ (spadWrite s a n v).seq = s.seq ∧ (spadWrite s a n v).nextJoin = s.nextJoin
    ∧ (spadWrite s a n v).freeCtr = s.freeCtr ∧ (spadWrite s a n v).fibres = s.fibres ∧ (spadWrite s a n v).slots = s.slots
    ∧ (spadWrite s a n v).ports = s.ports ∧ (spadWrite s a n v).parts = s.parts ∧ (spadWrite s a n v).blocks = s.blocks
    ∧ (spadWrite s a n v).gangs = s.gangs ∧ (spadWrite s a n v).kernels = s.kernels ∧ (spadWrite s a n v).capTags = s.capTags
    ∧ (spadWrite s a n v).fullBits = s.fullBits ∧ (spadWrite s a n v).liveBits = s.liveBits ∧ (spadWrite s a n v).ueMarks = s.ueMarks
    ∧ (spadWrite s a n v).redTags = s.redTags ∧ (spadWrite s a n v).redFlags = s.redFlags ∧ (spadWrite s a n v).tlbs = s.tlbs
    ∧ (spadWrite s a n v).walks = s.walks ∧ (spadWrite s a n v).windows = s.windows ∧ (spadWrite s a n v).fars = s.fars
    ∧ (spadWrite s a n v).engines = s.engines ∧ (spadWrite s a n v).tiles = s.tiles ∧ (spadWrite s a n v).pkgReplay = s.pkgReplay
    ∧ (spadWrite s a n v).copies = s.copies ∧ (spadWrite s a n v).tokens = s.tokens ∧ (spadWrite s a n v).msgs = s.msgs
    ∧ (spadWrite s a n v).ldas = s.ldas ∧ (spadWrite s a n v).feStores = s.feStores ∧ (spadWrite s a n v).leftCuts = s.leftCuts
    ∧ (spadWrite s a n v).devWrites = s.devWrites ∧ (spadWrite s a n v).lathes = s.lathes ∧ (spadWrite s a n v).wrefBank = s.wrefBank
    ∧ (spadWrite s a n v).names = s.names ∧ (spadWrite s a n v).dirObjs = s.dirObjs ∧ (spadWrite s a n v).sys = s.sys
    ∧ (spadWrite s a n v).sysAt = s.sysAt ∧ (spadWrite s a n v).queues = s.queues ∧ (spadWrite s a n v).partns = s.partns
    ∧ (spadWrite s a n v).owners = s.owners ∧ (spadWrite s a n v).serves = s.serves ∧ (spadWrite s a n v).fenced = s.fenced
    ∧ (spadWrite s a n v).fencePend = s.fencePend ∧ (spadWrite s a n v).power = s.power ∧ (spadWrite s a n v).idleAt = s.idleAt
    ∧ (spadWrite s a n v).reqAt = s.reqAt ∧ (spadWrite s a n v).pathsDown = s.pathsDown ∧ (spadWrite s a n v).images = s.images
    ∧ (spadWrite s a n v).dvsec = s.dvsec ∧ (spadWrite s a n v).bootStep = s.bootStep ∧ (spadWrite s a n v).everEnabled = s.everEnabled
    ∧ (spadWrite s a n v).belowSince = s.belowSince := by
  repeat' constructor

/-- The record of a fibre after its own change. -/
theorem setFibre_keeps (s : State) (k : FKey) (g : Fibre → Fibre) (f : Fibre) (h : f ∈ s.fibres) (hk : f.key ≠ k) : f ∈ (setFibre s k g).fibres := by
  simp only [setFibre, List.mem_map]
  exact ⟨f, h, by simp [hk]⟩

end Sys2Proof.Machine
end

