-- ==== Sys2Proof/Tests/Slice0.lean ====
section
/-!
SUPPORT. The model's own tests: ill-formed terms, words decoded, one step of each family, and for every obligation states and operands that
meet its hypotheses. Expected values are worked out by hand from the rules of spec/ that each test names.
-/
set_option maxRecDepth 20000

namespace Sys2Proof.Tests
open Sys2Proof Sys2Proof.Machine
set_option Elab.async false

/-! ### A small world -/

/-- Batch 0 of port 0 of core 0. -/
def c0 : Cur := { core := 0, port := 0, slot := 0 }

def key (n : Nat) : FKey := { core := 0, port := 0, ctx := n }

/-- A capability of object 1 with every right. -/
def cap1 : CapWord := mkCap 1 255 65535 0

def kern : Kernel := { placeKernel with win := 16, pCount := 8 }

def blk : Block := { placeBlock with spadSize := 8192, tileN := 2, level := 1 }

def prt : Part :=
  { placePart with s := [0, 0x1000, 2, 3, 4, 5, 6, 7] ++ List.replicate 40 0, c := [0, cap1] ++ List.replicate 14 0 }

def i32 (n : Nat) : VReg := { val := BitVec.ofNat 32 n, tag := tI32 }

def raw (n : Nat) : VReg := { val := BitVec.ofNat 32 n, tag := tRaw }

/-- Lane `n`: v0 to v7 hold 0 to 7 tagged I32, v8 to v15 their number times 16 tagged RAW. -/
def lane (n : Nat) : Fibre :=
  { newFibre blk (key n) 0 n 0x100 ((List.range 16).map fun i => if i < 8 then i32 i else raw (16 * i)) 0 with
    slot := some 0, xl := [{ obj := 1, page := 0, place := some 0x40000, cause := 0, rx := true, top := 65536 }] }

/-- The block with its lanes in one batch, every feature accepted. -/
def world (fs : List Fibre) : State :=
  { State.reset with
    cur := some c0, fibres := fs, blocks := [blk], kernels := [kern], parts := [prt], sys := [(0x40018, 15)]
    slots := [{ core := 0, port := 0, idx := 0, age := 0, last := 0, next := 0, bid := 0 }] }

/-- The conditions of `Ready` as a Boolean. -/
def readyB (s : State) (b : Block) (ls : List Fibre) : Bool :=
  decide (s.cur = some c0) && decide (lanesOf s c0 = ls) && decide (ls ≠ [])
    && ls.all (fun f => decide (fibre? s f.key = some f) && decide (block? s f.blk = some b) && f.canIssue s)
    && ls.all (fun f => ls.all fun g => decide (f.pc = g.pc) && decide (f.inHandler = g.inHandler))
    && decide (comparator s b ls = none)
    && (!(ls.any fun f => ((partOf s f).map (·.seenCheck s.now)).getD false) || ls.all fun f => decide (f.pend = []))
    && decide ((kernel? s b.kernel).bind (·.trial) = none)

theorem ready {s : State} {b : Block} {ls : List Fibre} (h : readyB s b ls = true) : Ready s c0 b ls := by
  simp only [readyB, Bool.and_eq_true, Bool.or_eq_true, List.all_eq_true, decide_eq_true_eq] at h
  obtain ⟨⟨⟨⟨⟨⟨⟨h1, h2⟩, h3⟩, h4⟩, h5⟩, h6⟩, h7⟩, h8⟩ := h
  exact
    { cur := h1, lanes := h2, some := h3, own := fun f hf => (h4 f hf).1.1, blk := fun f hf => (h4 f hf).1.2, can := fun f hf => (h4 f hf).2
      same := fun f hf g hg => h5 f hf g hg, cmp := h6, trial := h8
      short := fun h f hf => by
        rcases h7 with h7 | h7
        · rw [h] at h7; exact absurd h7 (by decide)
        · exact h7 f hf }

/-- One lane ready in the world. -/
def s1 : State := world [lane 0]
def s2 : State := world [lane 0, lane 1]

def hd : Head := { gn := false, g := 0, y := false, stall := 0 }

theorem ready_s1 : Ready s1 c0 blk [lane 0] := ready (by decide)
theorem ready_s2 : Ready s2 c0 blk [lane 0, lane 1] := ready (by decide)

/-- The next state of a result, where it is one. -/
def nx (r : Result) : Option State := match r with | .next t => some t | _ => none

/-- The effect leaves the lanes where they are. -/
def staysB (e : State) (b : Block) (ls : List Fibre) : Bool :=
  ls.all (fun f => (fibre? e f.key).any fun g => g.run != .exited && g.inHandler == f.inHandler && !preStopped e g)
    && decide ((kernel? e b.kernel).bind (·.trial) = none)

theorem stays {e : State} {b : Block} {ls : List Fibre} (h : staysB e b ls = true) : Stays e b ls := by
  simp only [staysB, Bool.and_eq_true, List.all_eq_true, Option.any_eq_true, decide_eq_true_eq, bne_iff_ne, beq_iff_eq, Bool.not_eq_true'] at h
  exact ⟨fun f hf => by obtain ⟨g, h1, ⟨h2, h3⟩, h4⟩ := h.1 f hf; exact ⟨g, h1, h2, h3, h4⟩, h.2⟩
/-! ### Lane operations: forms H, A, X and I -/

/-- The state after lane 0 of `s1` has written one register at the latency of R202 and gone on. -/
def w1 (d : Nat) (r : VReg) (len : Nat) : State := goOn (wrote s1 [lane 0] (some 2) fun _ => [.reg d r]) c0 [lane 0] len 1 false

/-- R204, R282: v3 = v1 + v2. -/
theorem test_addFormA : nx (exec (.addFormA { stall := 0, d := 3, a := 1, b := 2, g := 0 }) s1) = some (w1 3 (i32 3) 4) := by decide

/-- R184: v3 = v3 - v1. -/
theorem test_subFormH : nx (exec (.subFormH { stall := 0, d := 3, a := 1 }) s1) = some (w1 3 (i32 2) 2) := by decide

def x0 : OpX := { sat := false, ftz := false, rm := 0, xf := false, xk := 0, xm := 0, bu := true, b := 2, a := 1, d := 3 }

/-- R191: v3 = v1 + s2. -/
theorem test_addFormX : nx (exec (.addFormX hd x0) s1) = some (w1 3 (i32 3) 8) := by decide

/-- R193: the immediate is sign-extended, v3 = v2 - 1. -/
theorem test_addFormI : nx (exec (.addFormI hd { imm := 0xFFFFFF, a := 2, d := 3 }) s1) = some (w1 3 (i32 1) 8) := by decide

/-- R193: MOV writes the sign-extended immediate, tagged RAW. -/
theorem test_movFormI :
    nx (exec (.movFormI hd { imm := 0x800000, a := 0, d := 3 }) s1) = some (w1 3 { val := 0xFF800000, tag := tRaw } 8) := by decide

theorem wit_FormAOperations :
    let x : FormA := { stall := 7, d := 3, a := 1, b := 2, g := 0 }
    (instrA .mad x).wellFormed = true ∧ Ready s1 c0 blk [lane 0] ∧ Clear [lane 0] (op6Reads .mad 1 3 (.vec 2) ++ [3])
      ∧ ∀ f ∈ [lane 0], op6Check .mad (f.reg 1) (f.reg 2) (f.reg 3) = none :=
  ⟨by decide, ready_s1, by decide⟩

theorem wit_FormHOperations :
    let x : FormH := { stall := 3, d := 3, a := 15 }
    op4Of .shl = 7 ∧ (∃ i, instrH 7 x = some i) ∧ Ready s1 c0 blk [lane 0]
      ∧ Clear [lane 0] (op6Reads .shl (aliasOf .shl x).a.toNat (aliasOf .shl x).d.toNat (.vec (aliasOf .shl x).b.toNat) ++ [3])
      ∧ (∀ f ∈ [lane 0], op6Check .shl (f.reg 3) (f.reg 15) (f.reg 3) = none) ∧ op4Of .mov = 0 ∧ (∃ i, instrH 0 x = some i) :=
  ⟨by decide, ⟨_, rfl⟩, ready_s1, by decide, by decide, by decide, ⟨_, rfl⟩⟩

theorem wit_FormXOperations :
    let x1 : OpX := { x0 with bu := false, b := 1, xm := 2, xk := 1 }
    ((instrX .add hd x0).wellFormed = true ∧ (xSrc x0).isUni = true ∧ AtHome [lane 0])
      ∧ ((instrX .add hd x1).wellFormed = true ∧ (xSrc x1).isUni = false) ∧ Ready s2 c0 blk [lane 0, lane 1]
      ∧ Clear [lane 0, lane 1] (op6Reads .add 1 3 (xSrc x1) ++ [3])
      ∧ ∀ f ∈ [lane 0, lane 1], (xSrc x1).check f = none ∧ op6Check .add (f.reg 1) (bValue s2 [lane 0, lane 1] (xSrc x1) f) (f.reg 3) = none :=
  ⟨by decide, by decide, ready_s2, by decide⟩

theorem wit_FormIOperations :
    let x : OpI := { imm := 0x7FFFFF, a := 2, d := 3 }
    (∃ i, instrI .mul hd x = some i ∧ i.wellFormed = true) ∧ Ready s1 c0 blk [lane 0]
      ∧ Clear [lane 0] (op6Reads .mul 2 3 (.imm (x.imm.signExtend 32)) ++ [3])
      ∧ ∀ f ∈ [lane 0], op6Check .mul (f.reg 2) { val := x.imm.signExtend 32, tag := tRaw } (f.reg 3) = none :=
  ⟨⟨_, rfl, by decide⟩, ready_s1, by decide⟩

/-- R204 at the edges: the exact results exist at the corners of a division and of a shift. -/
theorem wit_IntegerResults :
    exactInt .divS 0x80000000 0 0 = some 0xFFFFFFFF ∧ exactInt .remS 0x80000000 0xFFFFFFFF 0 = some 0
      ∧ exactInt .shl 1 32 0 = some 0 ∧ exactInt .sar 0x80000000 33 0 = some (-1) ∧ exactBit .bfi 1 0x0107 0 7 = some true :=
  by decide

theorem test_divS_zero : (op6Result .divS .rne false false (i32 5) (i32 0) (i32 0)).val = 0xFFFFFFFF := by decide
theorem test_remS_min : (op6Result .remS .rne false false (i32 0x80000000) (i32 0xFFFFFFFF) (i32 0)).val = 0 := by decide

theorem wit_TagChecks : tI32 ≠ tInvalid ∧ tF32 ≠ tInvalid ∧ tRaw ≠ tI32 ∧ tF32 ≠ tRaw ∧ tF32 ≠ tI32 :=
  by decide
/-! ### Comparisons, predicates, lanes, tags and conversions -/

/-- The state after both lanes of `s2` have written what `out` gives and gone on. -/
def w2 (lat : Option Nat) (out : Fibre → List PendDest) : State := past (wrote s2 [lane 0, lane 1] lat out) c0 [lane 0, lane 1] hd

def cmp0 : CmpP := { h := false, fmt := 0, cc := 2, bop := 0, qn := false, q := 0, pd := 1, bu := false, b := 2, a := 1 }

/-- R207: 1 < 2. -/
theorem test_icmp : nx (exec (.icmp hd cmp0) s2) = some (w2 (some 2) fun _ => [.pred 1 true]) := by decide
/-- R207: as floats 0x80 < 0x90. -/
theorem test_fcmp : nx (exec (.fcmp hd { cmp0 with a := 8, b := 9 }) s2) = some (w2 (some 2) fun _ => [.pred 1 true]) := by decide

theorem wit_Comparisons :
    let p1 : CmpP := { cmp0 with fmt := 3, a := 14, bu := true, b := 254 }
    (Ready s2 c0 blk [lane 0, lane 1] ∧ AtHome [lane 0, lane 1] ∧ (Instr.icmp hd cmp0).wellFormed = true
        ∧ Clear [lane 0, lane 1] [1, 2] ∧ ∀ f ∈ [lane 0, lane 1], checkTag (some tI32) (f.reg 1) = none ∧ checkTag (some tI32) (f.reg 2) = none)
      ∧ ((Instr.icmp hd p1).wellFormed = true ∧ Clear [lane 0, lane 1] [14, 15]
        ∧ ∀ f ∈ [lane 0, lane 1], checkTag (some tI64lo) (f.reg 14) = none ∧ checkTag (some tI64hi) (f.reg 15) = none)
      ∧ (Instr.fcmp hd { cmp0 with a := 8, b := 9 }).wellFormed = true ∧ Clear [lane 0, lane 1] [8, 9]
        ∧ ∀ f ∈ [lane 0, lane 1], checkTag (some (fmt3Tag 0)) (f.reg 8) = none ∧ checkTag (some (fmt3Tag 0)) (f.reg 9) = none :=
  ⟨⟨ready_s2, by decide⟩, by decide⟩

def pc0 : PcombP := { nm1 := 1, f1 := 8, f0 := 6, pz := 0, py := 0, px := 0, pd := 2 }
def pv0 : PredVecP := { sm := 1, pb := 32, v := 3 }
def sv0 : PsurvP := { k := 62, pd := 3, d := 0, mode := 0, psn := false, ps := 0 }

/-- R208: p0 is true, p1 false; p2 takes bit 3 of the true table, p3 bit 0 of the false one. -/
theorem test_pcomb : nx (exec (.pcomb hd pc0) s2) = some (w2 (some 2) fun _ => [.pred 2 true, .pred 3 false]) := by decide
/-- R209: of p0 to p31 only p0 is true. -/
theorem test_ptov : nx (exec (.ptov hd { pv0 with sm := 0, pb := 0 }) s2) = some (w2 (some 2) fun _ => [.reg 3 (raw 1)]) := by decide
/-- R209: s1 is 0x1000, so bit 12 of v14 = 0xE0 goes to p44. -/
theorem test_vtop : nx (exec (.vtop hd { pv0 with v := 14 }) s2) = some (w2 (some 2) fun _ => [.pred 44 false]) := by decide
/-- R210: two of two participants are a majority. -/
theorem test_psurv : nx (exec (.psurv hd sv0) s2) = some (w2 none fun _ => [.pred 3 true]) := by decide
/-- R210: the survey's counts. -/
theorem test_psurv_counts : nx (exec (.psurv hd { sv0 with k := 0, pd := 0, d := 4, mode := 4, psn := true }) s2) = some (w2 none fun _ => [.reg 4 (i32 0x200)]) := by
  decide

theorem wit_Predicates :
    Ready s2 c0 blk [lane 0, lane 1] ∧ (Instr.pcomb hd { pc0 with nm1 := 31, pz := 64, py := 64, px := 64, pd := 64 }).wellFormed = true
      ∧ ((Instr.ptov hd { pv0 with sm := 0, pb := 64 }).wellFormed = true ∧ Clear [lane 0, lane 1] [3])
      ∧ ((Instr.vtop hd { pv0 with pb := 64 }).wellFormed = true ∧ AtHome [lane 0, lane 1]
        ∧ ∀ f ∈ [lane 0, lane 1], checkTag none (f.reg 3) = none)
      ∧ (∀ m ∈ [0, 1, 2], (Instr.psurv hd { sv0 with mode := m }).wellFormed = true)
      ∧ (∀ m ∈ [3, 4], (Instr.psurv hd { sv0 with k := 0, pd := 0, d := 4, mode := m }).wellFormed = true) ∧ Clear [lane 0, lane 1] [4] :=
  ⟨ready_s2, by decide⟩

def sh0 : ShflP := { gv := false, gm := 0, xf := false, xk := 1, xm := 2, a := 5, d := 3 }
def mt0 : MatchP := { k64 := false, a := 5, d := 3 }
def rd0 : ReduxP := { xf := false, gv := false, gm := 0, sat := false, ftz := false, rm := 0, fmt := 0, op := 0, a := 5, d := 3 }

/-- R211: each lane takes v5 of the other. -/
theorem test_shfl : nx (exec (.shfl hd sh0) s2) = some (w2 none fun _ => [.reg 3 (i32 5)]) := by decide
/-- R212: both lanes hold 5 in v5. -/
theorem test_match : nx (exec (.matchOp hd mt0) s2) = some (w2 none fun _ => [.reg 3 (i32 3)]) := by decide
/-- R214: 5 + 5. -/
theorem test_redux : nx (exec (.redux hd rd0) s2) = some (w2 none fun _ => [.reg 3 (i32 10)]) := by decide
/-- R214: the running sum. -/
theorem test_scan : nx (exec (.scan hd rd0) s2) = some (w2 none fun f => [.reg 3 (i32 (5 + 5 * f.lane))]) := by decide

theorem wit_AcrossLanes :
    let l := [lane 0, lane 1]
    let p : ShflP := { sh0 with gv := true, gm := 3, xm := 1, xk := 31 }
    let q : ReduxP := { rd0 with gv := true, gm := 3, xf := true }
    Ready s2 c0 blk l
      ∧ ((Instr.shfl hd sh0).wellFormed = true ∧ Clear l [5, 3] ∧ ∀ f ∈ l, checkTag none (shflGot sh0 l f) = none)
      ∧ ((Instr.shfl hd { p with xk := 15 }).wellFormed = true ∧ Clear l [5, 3, 3, 15]
        ∧ ∀ f ∈ l, checkTag none (shflGot { p with xk := 15 } l f) = none ∧ checkTag none (f.reg 3) = none ∧ checkTag none (f.reg 15) = none)
      ∧ ((Instr.matchOp hd { mt0 with k64 := true, a := 14 }).wellFormed = true ∧ Clear l [3, 14, 15] ∧ ∀ f ∈ l, checkRegs f [14, 15] = none)
      ∧ (Instr.redux hd q).wellFormed = true ∧ (Instr.scan hd q).wellFormed = true ∧ Clear l [5, 3, 3]
        ∧ ∀ f ∈ l, checkTag (reduxTag 0 0) (f.reg 5) = none ∧ checkTag none (f.reg 3) = none :=
  ⟨ready_s2, by decide, by decide, by decide⟩

def tr0 : TransP := { sat := false, ftz := false, rm := 0, fmt := 0, b := 9, a := 8, d := 3 }

theorem wit_TranscendentalFunctions :
    (∀ fn ∈ [TransFn.rcp, .rsq, .sqrt, .ex2, .lg2, .sin, .cos, .tanh, .div], (transInstr fn hd { tr0 with b := if fn = .div then 9 else 0 }).wellFormed = true)
      ∧ Ready s2 c0 blk [lane 0, lane 1] ∧ Clear [lane 0, lane 1] [8, 9, 3]
      ∧ ∀ f ∈ [lane 0, lane 1], ∀ r ∈ [8, 9], checkTag (some (fmt3Tag 0)) (f.reg r) = none :=
  ⟨by decide, ready_s2, by decide⟩

def cv0 : FcvtP := { sat := false, ftz := false, rm := 0, dsel := 0, ssel := 0, df := 1, sf := 0, a := 8, d := 3 }
def bk0 : BlkP := { spx := false, hr := 0, h := 2, a := 8, d := 12 }
def fc0 : FclassP := { pd := 5, pv := true, fmt := 0, a := 8, d := 3 }

/-- R291: 0x80 is a subnormal F32. -/
theorem test_fclass :
    (nx (exec (.fclass hd { fc0 with pd := 0, pv := false }) s1)).map (·.fibres.map fun f => f.pend.map (·.dest)) = some [[.reg 3 (i32 5)]] := by decide

theorem wit_Conversions :
    let l := [lane 0, lane 1]
    Ready s2 c0 blk l
      ∧ ((Instr.fcvt hd { cv0 with d := 12 }).wellFormed = true ∧ Clear l [8, 12]
        ∧ ∀ f ∈ l, checkTag (some (cvtTag 0)) (f.reg 8) = none ∧ checkTag (some (cvtTag 1)) (f.reg 12) = none)
      ∧ ((Instr.fpack hd bk0).wellFormed = true ∧ Clear l [8, 2, 12, 13, 14, 15] ∧ ∀ f ∈ l, checkTag (some tF32) (f.reg 8) = none)
      ∧ ((Instr.funpk hd { bk0 with h := 11, d := 2 }).wellFormed = true ∧ Clear l [11, 2, 8, 9, 10, 11]
        ∧ ∀ f ∈ l, checkTag (some tBlkhdr) (f.reg 11) = none ∧ ∀ i ∈ [0, 1, 2, 3], checkTag (some tE2m1x8) (f.reg (8 + i)) = none)
      ∧ (Instr.fclass hd fc0).wellFormed = true ∧ Clear l [8, 3] ∧ ∀ f ∈ l, checkTag (some (fclassTag 0)) (f.reg 8) = none :=
  ⟨ready_s2, by decide, by decide, by decide⟩

def tg0 : TaggetP := { tm := false, a := 8, d := 3 }

/-- R292: v3 keeps its value. -/
theorem test_tagset : nx (exec (.tagset hd { tag := tF32, d := 3 }) s2) = some (w2 (some 2) fun _ => [.tag 3 tF32]) := by decide
theorem test_tagget : nx (exec (.tagget hd tg0) s2) = some (w2 (some 2) fun _ => [.reg 3 (i32 0)]) := by decide

theorem wit_TagInstructions :
    Ready s2 c0 blk [lane 0, lane 1] ∧ (Instr.tagset hd { tag := 15, d := 3 }).wellFormed = true ∧ Clear [lane 0, lane 1] [8, 3]
      ∧ (Instr.tagget hd tg0).wellFormed = true
      ∧ (Instr.tagget hd { tg0 with tm := true, a := 1 }).wellFormed = true ∧ 1 < blk.tileN ∧ AtHome [lane 0, lane 1] :=
  ⟨ready_s2, by decide⟩

def sr0 : SrP := { us := false, s := 0, sr := 0, v := 4 }
def um0 : UmovP := { imm := 0, dir := 0, s := 2, v := 3 }

/-- R215: s2 holds 2. -/
theorem test_umov : nx (exec (.umov hd um0) s2) = some (w2 (some 2) fun _ => [.reg 3 (raw 2)]) := by decide
/-- R225: SR 0 of lane f is its fibre id. -/
theorem test_getsr : nx (exec (.getsr hd sr0) s2) = some (w2 none fun f => [.reg 4 (i32 f.lane)]) := by decide

theorem wit_SpecialAndUniform :
    let l := [lane 0, lane 1]
    (kernel? s2 0 = some kern ∧ outdone (prt.before 5).uw 0 2 = false ∧ outdone (prt.before 5).uw 0 256 = false ∧ 2 < prt.s.length ∧ 6 ≠ 5 ∧ 0 < 1)
      ∧ Ready s2 c0 blk l ∧ AtHome l ∧ guardTrue 0 false l = lane 0 :: [lane 1]
      ∧ (∀ n ∈ [0, 1, 9, 12, 15], (Instr.getsr hd { sr0 with sr := n }).wellFormed = true ∧ (Instr.getsr hd { sr0 with sr := n, us := true, s := 2, v := 0 }).wellFormed = true)
      ∧ Clear l [4, 5]
      ∧ ((Instr.umov hd um0).wellFormed = true ∧ (Instr.umov hd { um0 with dir := 1 }).wellFormed = true
        ∧ (Instr.umov hd { um0 with dir := 2, imm := 0xFFFFFF, v := 0 }).wellFormed = true ∧ Clear l [3] ∧ ∀ f ∈ l, checkTag none (f.reg 3) = none)
      ∧ (∀ n ∈ [9, 10, 15], (Instr.setsr hd { sr0 with sr := n }).wellFormed = true) ∧ ∀ f ∈ l, checkRegs f [4, 5] = none :=
  ⟨by decide, ready_s2, by decide⟩

/-- R48: a uniform register written in a cycle reads its old value there and the new one later; of two ports the higher wins. -/
theorem test_uni_cycle : ((prt.putUni 5 1 2 77).putUni 5 0 2 66).seenS 5 = prt.s ∧ (((prt.putUni 5 1 2 77).putUni 5 0 2 66).seenS 6).getD 2 0 = 77 := by
  decide
/-! ### Control -/

def l1 : List Fibre := [lane 0]
def l2 : List Fibre := [lane 0, lane 1]

/-- R217: a branch forward by 8 halfwords, and one backward by 16. -/
theorem test_bra : nx (exec (.bra hd { disp := 8 }) s2) = some (goTo s2 c0 l2 (fun _ => 0x110) 1 false) := by decide
theorem test_bra_back : nx (exec (.bra hd { disp := -16 }) s2) = some (goTo s2 c0 l2 (fun _ => 0xE0) 1 true) := by decide
/-- R217: CALL leaves 0x108 in the pair. -/
theorem test_call : nx (exec (.call hd { disp := -16, d := 4 }) s2)
    = some (goTo (wrote s2 l2 none fun _ => [.reg 4 (raw 0x108), .reg 5 (raw 0)]) c0 l2 (fun _ => 0xE0) 1 false) := by decide

/-- A lane with 0x201 and 0 in v10 and v11. -/
def laneR (n : Nat) : Fibre := { lane n with regs := ((lane n).regs.set 10 (raw 0x201)).set 11 (raw 0) }
def sR : State := world [laneR 0, laneR 1]
theorem ready_sR : Ready sR c0 blk [laneR 0, laneR 1] := ready (by decide)

/-- R217: bit 0 of the target is ignored. -/
theorem test_ret : nx (exec (.ret hd { a := 10 }) sR) = some (goTo sR c0 [laneR 0, laneR 1] (fun _ => 0x200) 1 false) := by decide
theorem test_jmp : nx (exec (.jmp hd { a := 10 }) sR) = some (goTo sR c0 [laneR 0, laneR 1] (fun _ => 0x200) 1 false) := by decide

theorem wit_TransfersTogether :
    let l := [laneR 0, laneR 1]
    Ready sR c0 blk l ∧ guardTrue 0 false l = l ∧ (∀ f ∈ l, f.pc = 0x100) ∧ (Instr.bra hd { disp := 0x1FFFFFFFFFF }).wellFormed = true
      ∧ ((Instr.call hd { disp := 0x800000000, d := 14 }).wellFormed = true ∧ Clear l [14, 15])
      ∧ (Instr.ret hd { a := 10 }).wellFormed = true ∧ (Instr.jmp hd { a := 10 }).wellFormed = true ∧ Clear l [10, 11]
      ∧ (∀ f ∈ l, checkRegs f [10, 11] = none) ∧ ∀ f ∈ l, (f.val 11 ++ f.val 10).extractLsb' 1 43 ++ 0#1 = 0x200 :=
  ⟨ready_sR, by decide⟩

/-- The world with the tables and the code object of a placed instruction, whose first 8 bytes are `w`. -/
def worldC (w : Nat) (fs : List Fibre) : State :=
  { sysPut (placeWord State.reset 64 w) 8 0x4001 15 with
    agenda := [], cur := some c0, fibres := fs, blocks := [blk], kernels := [kern], parts := [prt]
    slots := [{ core := 0, port := 0, idx := 0, age := 0, last := 0, next := 0, bid := 0 }] }

/-- The first entry of a jump table at offset 0 is -16 halfwords. -/
def l2c : List Fibre := l2.map fun f => { f with xl := [] }
def sJ : State := worldC 0xFFFFFFF0 l2c
def brx0 : BrxP := { toff := -128, nm1 := 0, a := 0 }
theorem ready_sJ : Ready sJ c0 blk l2c := ready (by decide)

/-- R218: the entry is added to the BRX's own address. -/
theorem test_brx : nx (exec (.brx hd brx0) sJ) = some (goTo sJ c0 l2c (fun _ => 0xE0) 1 true) := by decide

theorem wit_JumpTables :
    Ready sJ c0 blk l2c ∧ guardTrue 0 false l2c = l2c ∧ (∀ f ∈ l2c, f.pc = 0x100) ∧ (Instr.brx hd brx0).wellFormed = true ∧ Clear l2c [0]
      ∧ ((0 : Nat) : Int) = ((0x100 : BitVec 44).toNat : Int) + 2 * brx0.toff.toInt ∧ 0 % 4 = 0
      ∧ ∀ f ∈ l2c, checkTag none (f.reg 0) = none ∧ (f.val 0).toNat ≤ brx0.nm1.toNat ∧ inCode (codeCap sJ blk f) 0 4 = true
        ∧ codeRead sJ blk.part (capObj (codeCap sJ blk f)) 0 4 f.xl = .bytes 0xFFFFFFF0
        ∧ (0xE0 : BitVec 44) = 0x100 + ((BitVec.ofNat 32 0xFFFFFFF0).signExtend 44 <<< 1) :=
  ⟨ready_sJ, by decide⟩

/-- R218: a table at 2 past a multiple of 4 traps ILLEGAL_OP whatever the guards. -/
theorem test_brx_misaligned : nx (exec (.brx hd { brx0 with toff := -127 }) sJ) = some (trapOf sJ c0 blk l2c 1 0 0 false false) := by decide

/-- Lanes 0 and 1, of which only lane 1 has p1. -/
def l2p : List Fibre := [lane 0, { lane 1 with preds := 3 }]
def sPr : State := world l2p
def hd1 : Head := { hd with g := 1 }
theorem ready_sPr : Ready sPr c0 blk l2p := ready (by decide)

/-- R217, R30: lane 1 branches, lane 0 goes on; both have an entry with the mask of both. -/
theorem test_bra_split : (nx (exec (.bra hd1 { disp := 8 }) sPr)).map (·.fibres.map fun f => (f.pc, f.joins.map (·.2)))
    = some [(0x108, [3]), (0x110, [3])] := by decide

theorem wit_BranchSplits :
    Ready sPr c0 blk l2p ∧ (Instr.bra hd1 { disp := 8 }).wellFormed = true ∧ (∀ f ∈ l2p, f.pc = 0x100) ∧ guardTrue 1 false l2p ≠ []
      ∧ guardTrue 1 false l2p ≠ l2p ∧ (0x110 : BitVec 44) ≠ 0x100 + 8 :=
  ⟨ready_sPr, by decide⟩

def sp0 : SpawnP := { disp := 8, pd := 3, a := 4 }

/-- R220, R26, R27: the child starts at 0x110 with v4 in v0 and the parent's fibre id in v1, and PD is set. -/
theorem test_spawn : (nx (exec (.spawn hd sp0) s1)).map (·.fibres.map fun f => (f.pc, f.preds, f.val 0, f.val 1, f.val 2))
    = some [(0x108, 9, 0, 1, 2), (0x110, 1, 4, 0, 0)] := by decide

/-- A lane with a load outstanding into v12. -/
def laneO : Fibre := { lane 0 with outs := [loadOut (lane 0) .load false 0x40080 4 12 tI32 0 0 1 128] }
def sO : State := world [laneO]
theorem ready_sO : Ready sO c0 blk [laneO] := ready (by decide)

theorem wit_Spawning :
    (Ready sO c0 blk [laneO] ∧ guardTrue 0 false [laneO] = [laneO] ∧ AtHome [laneO] ∧ Clear [laneO] [4]
        ∧ checkTag none (laneO.reg 4) = none ∧ drained sO laneO = false)
      ∧ (Ready s1 c0 blk l1 ∧ guardTrue 0 false l1 = [lane 0] ∧ AtHome l1 ∧ (Instr.spawn hd sp0).wellFormed = true ∧ Clear l1 [4]
        ∧ checkTag none ((lane 0).reg 4) = none ∧ drained s1 (lane 0) = true)
      ∧ (∀ g ∈ s1.fibres, g.key ≠ { (lane 0).key with ctx := 1 }) ∧ 1 < Config.ctxPerPort ∧ (aliveOf s1 blk.id).length < Config.maxFibres :=
  ⟨⟨ready_sO, by decide⟩, ⟨ready_s1, by decide⟩, by decide⟩

/-- R28: lane 1 ends, lane 0 goes on. -/
theorem test_exit : (nx (exec (.exit hd1) sPr)).map (·.fibres.map fun f => (f.key, f.pc)) = some [(key 0, 0x108)] := by decide

/-- A lane with a join entry, and one without. -/
def l2j : List Fibre := [lane 0, { lane 1 with joins := [(5, 3)] }]
def sJn : State := world l2j
theorem ready_sJn : Ready sJn c0 blk l2j := ready (by decide)

/-- R32: lane 1 joins, lane 0 goes on. -/
theorem test_join : (nx (exec (.join hd) sJn)).map (·.fibres.map fun f => (f.run, f.slot)) = some [(.ready, some 0), (.joining, none)] := by
  decide

theorem wit_ExitAndJoin :
    Ready sPr c0 blk l2p ∧ (Instr.exit hd1).wellFormed = true ∧ (∀ f ∈ l2p, storesOf sPr f.key = [] ∧ ∀ o ∈ f.outs, o.kind ≠ .atom)
      ∧ Ready sJn c0 blk l2j
      ∧ (Instr.join hd).wellFormed = true :=
  ⟨ready_sPr, by decide, by decide, ready_sJn, by decide⟩

/-- A lane with one copy in flight. -/
def l1c : List Fibre := [{ lane 0 with ops := [{ id := 3, cls := 0, done := false, err := false }] }]
def sCp : State := world l1c
theorem ready_sCp : Ready sCp c0 blk l1c := ready (by decide)

theorem test_yield : nx (exec (.yieldOp hd) s2) = some (goOn s2 c0 l2 8 1 true) := by decide
/-- R222: a counter of 1 passes at 1 and waits at 0. -/
theorem test_waitc : nx (exec (.waitc hd { n := 1, cls := 0 }) sCp) = some (past sCp c0 l1c hd) := by decide
theorem test_waitc_waits : nx (exec (.waitc hd { n := 0, cls := 0 }) sCp) = some (waitBatch sCp l1c false) := by decide
/-- R224, R391: with tracing off a MARK writes no record. -/
theorem test_mark : nx (exec (.mark hd { code := 7 }) s2) = some (past s2 c0 l2 hd) := by decide

theorem wit_YieldWaitMark :
    (Ready s2 c0 blk l2 ∧ (Instr.yieldOp hd).wellFormed = true ∧ guardTrue 0 false l2 = lane 0 :: [lane 1] ∧ (Instr.mark hd { code := 0xFFFF }).wellFormed = true)
      ∧ Ready sCp c0 blk l1c
      ∧ ((Instr.waitc hd { n := 1, cls := 1 }).wellFormed = true ∧ (∀ f ∈ l1c, f.lost = false) ∧ ∀ f ∈ l1c, (f.ops.filter fun o => o.cls == 1).length ≤ 1)
      ∧ (∀ f ∈ l1c, (f.ops.filter fun o => o.cls == 2).length + (f.outs.filter Out.once).length ≤ 1)
      ∧ ((∀ f ∈ l1c, (f.ops.filter fun o => o.cls == 0).length ≤ 1) ∧ ∃ f ∈ l1c, 0 < (f.ops.filter fun o => o.cls == 0).length) :=
  ⟨⟨ready_s2, by decide⟩, ready_sCp, by decide⟩

/-- R223: both live fibres of the block arrive, so the phase ends. -/
theorem test_bar : (nx (exec (.bar hd { s := 0, cnt := false, id := 15 }) s2)).map
      (fun t => (t.fibres.map (·.run), (t.blocks.map fun d => (barOf d 15).phase))) = some ([.ready, .ready], [1]) := by decide

theorem wit_NamedBarriers :
    (Ready sO c0 blk [laneO] ∧ guardTrue 0 false [laneO] = [laneO] ∧ AtHome [laneO] ∧ drained sO laneO = false)
      ∧ (Ready s2 c0 blk l2 ∧ guardTrue 0 false l2 = l2 ∧ AtHome l2 ∧ (Instr.bar hd { s := 0, cnt := false, id := 15 }).wellFormed = true
        ∧ (Instr.bar hd { s := 2, cnt := true, id := 0 }).wellFormed = true ∧ (∀ f ∈ l2, drained s2 f = true) ∧ ∀ f ∈ l2, 0 < (uni s2 f 2).toNat ∧ (uni s2 f 2).toNat ≤ 8192)
      ∧ (block? s2 blk.id = some blk ∧ s2.fibres.filter (fun g => g.key == key 0) = [lane 0] ∧ (lane 0).blk = blk.id ∧ (lane 0).guest = none ∧ (lane 0).transit = .none
        ∧ 15 < blk.bars.length ∧ (lane 0).run ≠ .exited ∧ (aliveOf s2 blk.id).length = 2) ∧ (aliveOf s1 blk.id).length = 1 :=
  ⟨⟨ready_sO, by decide⟩, ⟨ready_s2, by decide⟩, by decide⟩

/-- R223: an arrival waits before issue while a load is outstanding. -/
theorem test_bar_waits_load : nx (exec (.bar hd { s := 0, cnt := false, id := 15 }) sO) = some (waitBatch sO [laneO] false) := by decide

/-- R224, R353, R354: with an empty vector table the fibre parks, with the record in the trap log. -/
theorem test_utrap : nx (exec (.utrap hd { code := 9 }) s1) = some (trapOf s1 c0 blk l1 0x11 0 9 false false) := by decide
theorem test_bkpt : nx (exec (.bkpt hd { code := 9 }) s1) = some (trapOf s1 c0 blk l1 0x12 0 9 false false) := by decide

theorem wit_LanesTrap :
    let x : FormA := { stall := 0, d := 3, a := 1, b := 2, g := 0 }
    (Ready s2 c0 blk l2 ∧ guardTrue 0 false l2 = l2 ∧ AtHome l2 ∧ CanTrap s2 blk l2 0x11 ∧ CanTrap s2 blk l2 0x12
        ∧ (Instr.utrap hd { code := 0xFFFF }).wellFormed = true ∧ (Instr.bkpt hd { code := 0 }).wellFormed = true)
      ∧ (instrA .fadd x).wellFormed = true ∧ l2.filter (fun f => f.pred 0) = l2 ∧ Clear l2 (op6Reads .fadd 1 3 (.vec 2) ++ [3])
      ∧ (∀ f ∈ l2, op6Check .fadd (f.reg 1) (f.reg 2) (f.reg 3) = some 5) ∧ CanTrap s2 blk l2 5 :=
  ⟨⟨ready_s2, by decide⟩, by decide⟩

/-- R86: FADD of I32 registers traps TAG_MISMATCH and writes nothing. -/
theorem test_tag_mismatch :
    nx (exec (.faddFormA { stall := 0, d := 3, a := 1, b := 2, g := 0 }) s2) = some (trapOf s2 c0 blk l2 5 0 0 false false) := by decide

/-- The world with a handler at 0x800 for ILLEGAL_OP, saving 8 registers. -/
def sV : State := sysPut (sysPut (s1.write 16 16 (2 ^ 44 + 0x800)) 0 0x0301 ((mkCap 9 rEX 4095 0).toNat % 2 ^ 64)) 0 0x0302 ((mkCap 9 rEX 4095 0).toNat / 2 ^ 64)

/-- R353: the handler starts at 0x800 with TM set and the first 8 registers saved. -/
theorem test_trap_enters : ((takeTrap sV 0 [key 0] 1 0 0 false).fibres.map fun f => (f.pc, f.tm, f.savedRegs)) = [(0x800, true, (lane 0).regs.take 8)] := by
  decide

theorem wit_TrapEntry :
    fibre? s1 (lane 0).key = some (lane 0) ∧ s1.fibres.filter (fun g => g.key == (lane 0).key) = [lane 0] ∧ (lane 0).guest = none
      ∧ (lane 0).tm = false ∧ (vectorOf s1 0 1).2 = 0 ∧ (partnOf s1 0).tlog.length < 256
      ∧ fibre? sV (lane 0).key = some (lane 0) ∧ (vectorOf sV 0 1).2 ≠ 0 :=
  by decide

def rd1 : SysregP := { srn := 0, us := false, s := 0, v := 4 }

def x16 : OpX := { sat := false, ftz := false, rm := 0, xf := false, xk := 0, xm := 0, bu := false, b := 16, a := 1, d := 3 }
def i16 : OpI := { imm := 0, a := 16, d := 3 }
def h16 : FormH := { stall := 0, d := 16, a := 1 }
def st16 : MemP := { off := 0, o64 := false, qc := 0, sc := 0, t := 0, w := 4, c := 1, a := 0, d := 16 }
theorem wit_ChecksBeforeIssue :
    let l := [{ lane 0 with level := 0 }]
    let b := { blk with level := 0 }
    let x : FormA := { stall := 0, d := 16, a := 1, b := 2, g := 0 }
    (Ready { world l with blocks := [b] } c0 b l ∧ AtHome l ∧ CanTrap { world l with blocks := [b] } b l 2 ∧ (∃ f ∈ l, f.lvl = 0)
        ∧ ((Instr.sysrd hd rd1).wellFormed = true ∧ levelOf (.sysrd hd rd1) = some 1)
        ∧ ((Instr.syswr hd { rd1 with srn := 0x4004 }).wellFormed = true ∧ levelOf (.syswr hd { rd1 with srn := 0x4004 }) = some 2)
        ∧ (Instr.tmask hd { m := true }).wellFormed = true ∧ levelOf (.tmask hd { m := true }) = some 1)
      ∧ (Ready s2 c0 blk l2 ∧ AtHome l2 ∧ CanTrap s2 blk l2 2 ∧ ∃ f ∈ l2, f.lvl < 2)
      ∧ (CanTrap s2 blk l2 4 ∧ ∃ f ∈ l2, f.regs.length ≤ 16)
      ∧ ((instrA .add x).wellFormed = true ∧ 16 ∈ op6Reads .add 1 16 (.vec 2) ++ [16])
      ∧ (instrH 3 h16 = some (.mulFormH h16) ∧ op4Of .mul = 3 ∧ 16 ∈ op6Reads .mul 16 16 (.vec 1) ++ [16])
      ∧ ((instrX .add hd x16).wellFormed = true ∧ 16 ∈ op6Reads .add 1 3 (xSrc x16) ++ [3])
      ∧ (Instr.subFormI hd i16).wellFormed = true ∧ instrI .sub hd i16 = some (.subFormI hd i16) ∧ 16 ∈ op6Reads .sub 16 3 (.imm 0) ++ [3]
      ∧ (Instr.st hd st16).wellFormed = true ∧ memNames (.st hd st16) = some [0, 16, 17, 18, 19] :=
  ⟨⟨ready (by decide), by decide⟩, ⟨ready_s2, by decide⟩, by decide⟩

/-- R197: v16 lies outside a window of 16 registers. -/
theorem test_window :
    nx (exec (.addFormA { stall := 0, d := 16, a := 1, b := 2, g := 0 }) s2) = some (trapOf s2 c0 blk l2 4 0 0 false false) := by decide

/-- R8, R197: a user-level lane traps PRIV at SYSRD. -/
theorem test_priv :
    let l := [{ lane 0 with level := 0 }]
    nx (exec (.sysrd hd rd1) (world l)) = some (trapOf (world l) c0 blk l 2 0 0 false false) := by decide

/-- R194, R197: the data registers of a 16-byte ST lie outside a window of 16 registers. -/
theorem test_window_store : nx (exec (.st hd st16) s2) = some (trapOf s2 c0 blk l2 4 0 0 false false) := by decide

/-- R365, R197: the lanes of a supervisor's block trap PRIV at a SYSWR of PLIM, a register of level 2. -/
theorem test_priv_monitor :
    nx (exec (.syswr hd { rd1 with srn := 0x4004 }) s2) = some (trapOf s2 c0 blk l2 2 0 0 false false) := by decide
/-! ### Loads, stores, atomics -/

def ld0 : MemP := { off := 0, o64 := false, qc := 0, sc := 0, t := 1, w := 2, c := 1, a := 8, d := 3 }

/-- R230: LD at offset 0x80 of object 1, whose page lies at 0x40000. -/
theorem test_ld : nx (exec (.ld hd ld0) s1)
    = some (past (pushOut s1 (lane 0) (loadOut (lane 0) .load false 0x40080 4 3 tI32 0 0 1 0x80)) c0 l1 hd) := by decide

/-- A block part with the weight-store capability in c2, and a lane at its home core. -/
def prtW : Part := { prt with c := (prt.c.set 2 (mkCap 0x7FFFFFF8 255 65535 0)) }
def sW : State := { s1 with parts := [prtW] }
theorem ready_sW : Ready sW c0 blk l1 := ready (by decide)

def rq0 : RedP := { rfmt := 0, rop := 0, rel := false, sc := 0, o64 := false, q := true, c := 1, b := 0, a := 8, d := 3 }
theorem test_red_query : nx (exec (.red hd rq0) s1)
    = some (past (pushOut s1 (lane 0) (loadOut (lane 0) .query false 0x40080 4 3 tI32 0 0 1 0x80)) c0 l1 hd) := by decide
theorem test_ldw : nx (exec (.ldw hd { ld0 with c := 2 }) sW)
    = some (past (pushOut sW (lane 0) (loadOut (lane 0) .load false (Config.weightBase + 0x80) 4 3 tI32 0 0 0x7FFFFFF8 0x80)) c0 l1 hd) := by decide

theorem wit_LoadsIssue :
    (Ready s1 c0 blk l1 ∧ AtHome l1 ∧ lanesFit s1 l1 = true ∧ (Instr.ld hd ld0).wellFormed = true ∧ Clear l1 (offRegs 8 false ++ memRegs ld0)
        ∧ ∀ f ∈ l1, checkRegs f (offRegs 8 false) = none ∧ accessCheck s1 blk.part (capReg s1 f 1) (memOff ld0 f) (memW ld0) rRD = none
          ∧ translate s1 blk.part (capObj (capReg s1 f 1)) (capOff (capReg s1 f 1) (memOff ld0 f)) f.xl = .place 0x40080
          ∧ s1.ue 0x40080 (memW ld0) = false)
      ∧ (Ready sW c0 blk l1 ∧ lanesFit sW l1 = true ∧ (Instr.ldw hd { ld0 with c := 2 }).wellFormed = true
        ∧ ∀ f ∈ l1, weightChk sW blk f (capReg sW f 2) (memOff ld0 f) (memW ld0) = none ∧ sW.ue (Config.weightBase + 0x80) 4 = false)
      ∧ (Instr.red hd rq0).wellFormed = true ∧ Clear l1 (offRegs 8 false ++ [3])
      ∧ accessCheck s1 blk.part (capReg s1 (lane 0) 1) (offVal (lane 0) 8 false) 4 rRD = none ∧ farWindow s1 blk.part 1 = false :=
  ⟨⟨ready_s1, by decide⟩, ⟨ready_sW, by decide⟩, by decide⟩

/-- R231: ST of v4 at offset 0x80 enters the port's FIFO. -/
theorem test_st : nx (exec (.st hd { ld0 with t := 0, d := 4 }) s1)
    = some (past (pushStore s1 (lane 0) blk .st false 1 0x80 4 4 0 false 0 none) c0 l1 hd) := by decide
/-- R243: CAPST of c1. -/
theorem test_capst : nx (exec (.capst hd { ld0 with t := 0, w := 4, d := 1 }) s1)
    = some (past (pushStore s1 (lane 0) blk .capst false 1 0x80 16 cap1.toNat 0 false 0 none) c0 l1 hd) := by decide
def red0 : RedP := { rfmt := 0, rop := 0, rel := false, sc := 0, o64 := false, q := false, c := 1, b := 4, a := 8, d := 0 }
theorem test_red : nx (exec (.red hd red0) s1)
    = some (past (pushStore s1 (lane 0) blk (.red 0 0) false 1 0x80 4 4 0 false 0 none) c0 l1 hd) := by decide

theorem wit_StoresIssue :
    let p : MemP := { ld0 with t := 0, d := 4 }
    let q : MemP := { ld0 with t := 0, w := 4, d := 1 }
    (Ready s1 c0 blk l1 ∧ AtHome l1 ∧ hashWaits s1 blk l1 = false ∧ ∀ f ∈ l1, fifoRoom s1 f.loc f.key.port 1 = true)
      ∧ ((Instr.st hd p).wellFormed = true ∧ Clear l1 (offRegs 8 false ++ memRegs p)
        ∧ ∀ f ∈ l1, checkRegs f (offRegs 8 false ++ memRegs p) = none ∧ accessCheck s1 blk.part (capReg s1 f 1) (memOff p f) 4 rWR = none)
      ∧ ((Instr.capst hd q).wellFormed = true ∧ ∀ f ∈ l1, accessCheck s1 blk.part (capReg s1 f 1) (memOff q f) 16 (rWR + rCST) = none)
      ∧ (Instr.red hd red0).wellFormed = true ∧ Clear l1 (offRegs 8 false ++ pairRegs 4 false)
      ∧ ∀ f ∈ l1, gated s1 blk (capObj (capReg s1 f 1)) = false ∧ pairCheck f 4 false (redTagsOf red0) = none
        ∧ accessCheck s1 blk.part (capReg s1 f 1) (offVal f 8 false) 4 (rWR + rAT) = none :=
  ⟨⟨ready_s1, by decide⟩, by decide⟩

def ldl0 : MemP := { ld0 with c := 0 }
def gr0 : GranP := { pd := 0, off := 0, v := 0, a := 8 }
def at0 : AtomP := { e := 0, aop := 0, ord := 0, sc := 0, w64 := false, o64 := false, sp := false, c := 1, b := 4, a := 8, d := 3 }

theorem test_ldl : nx (exec (.ldl hd ldl0) s1)
    = some (past (pushOut (noteLdl s1 l1 [3]) (lane 0) (loadOut (lane 0) .load true (spadCell blk 0x80) 4 3 tI32 0 0 (spadCell blk 0x80) 0x80)) c0 l1 hd) := by decide
theorem test_stl : nx (exec (.stl hd { ldl0 with t := 0, d := 4 }) s1)
    = some (past (pushStore s1 (lane 0) blk (.stl 0) true (spadCell blk 0x80) 0x80 4 4 0 false 0 none) c0 l1 hd) := by decide
theorem test_feset : nx (exec (.feset hd gr0) s1)
    = some (past (pushStore s1 (lane 0) blk .feset true (spadCell blk 0x80) 0x80 16 0 1 true 0 none) c0 l1 hd) := by decide
theorem test_feclr : nx (exec (.feclr hd gr0) s1)
    = some (past (pushStore s1 (lane 0) blk .feclr true (spadCell blk 0x80) 0x80 16 0 1 false 0 none) c0 l1 hd) := by decide
theorem test_atom : nx (exec (.atom hd at0) s1)
    = some (past (pushOut s1 (lane 0) { loadOut (lane 0) .atom false 0x40080 4 3 tRaw 0 0 1 0x80 with tags := atomOut at0, aop := 0, b := 4, e := 0 })
        c0 l1 hd) := by decide

theorem wit_ScratchpadAndAtomics :
    let sp : AtomP := { at0 with sp := true, c := 0 }
    (Ready s1 c0 blk l1 ∧ AtHome l1 ∧ (∀ f ∈ l1, fifoRoom s1 f.loc f.key.port 1 = true) ∧ hashWaits s1 blk l1 = false ∧ lanesFit s1 l1 = true)
      ∧ ((∀ q ∈ [0, 1, 2], (Instr.ldl hd { ldl0 with qc := q }).wellFormed = true) ∧ Clear l1 (offRegs 8 false ++ memRegs ldl0)
        ∧ ∀ f ∈ l1, checkRegs f [8] = none ∧ spadCheck blk (spadOff ldl0 f) 4 = none
          ∧ s1.ue (spadCell blk 0x80) 4 = false
          ∧ s1.isLive (granOf (spadCell blk 0x80)) = false)
      ∧ ((∀ q ∈ [0, 1, 3, 7], (Instr.stl hd { ldl0 with t := 0, d := 4, qc := q }).wellFormed = true) ∧ ∀ f ∈ l1, checkRegs f (8 :: memRegs { ldl0 with t := 0, d := 4 }) = none)
      ∧ ((Instr.feset hd gr0).wellFormed = true ∧ (Instr.feclr hd gr0).wellFormed = true ∧ Clear l1 [8] ∧ spadCheck blk (granOff gr0 (lane 0)) 16 = none
        ∧ s1.isLive (granOf (granCell blk gr0 (lane 0))) = false)
      ∧ ((Instr.atom hd at0).wellFormed = true ∧ Clear l1 [8, 4, 3] ∧ pairCheck (lane 0) 4 false (atomTags at0) = none ∧ gated s1 blk 1 = false
        ∧ accessCheck s1 blk.part (capReg s1 (lane 0) 1) (offVal (lane 0) 8 false) 4 (rRD + rWR + rAT) = none
        ∧ s1.ue 0x40080 4 = false)
      ∧ (Instr.atom hd sp).wellFormed = true ∧ spadCheck blk 0x80 4 = none :=
  ⟨⟨ready_s1, by decide⟩, by decide, by decide, by decide, by decide⟩

/-- R9: with 2048 requests of the core outstanding a load waits before issue. -/
theorem test_requests_full :
    let l := [{ lane 0 with outs := List.replicate 2048 (loadOut (lane 0) .load false 0x40080 4 12 tI32 0 0 1 128) }]
    reqRoom (world l) 0 1 = false := by decide

def lda0 : LdaP := { b := 9, sc := 0, o64 := false, w := 2, c := 1, a := 8, d := 10 }
/-- The granule at offset 0x90 of the scratchpad. -/
def bg : Nat := spadCell blk 0x90
def live9 : State := s1.setLive bg true
/-- A live barrier object at offset 0x90 of the scratchpad that expects 2 arrivals. -/
def sBar : State := putBarObj live9 bg { phase := 0, expect := 2, arrived := 0, pending := 0, waiters := 0 }
theorem ready_sBar : Ready sBar c0 blk l1 := ready (by decide)

theorem wit_TransactionsIssue :
    let f := lane 0
    Ready sBar c0 blk l1 ∧ AtHome l1 ∧ guardTrue 0 false l1 = [f] ∧ (Instr.lda hd lda0).wellFormed = true
      ∧ Clear l1 (offRegs 8 false ++ [9, 10]) ∧ checkRegs f (offRegs 8 false ++ [9, 10]) = none
      ∧ accessCheck sBar blk.part (capReg sBar f 1) (offVal f 8 false) 4 rRD = none
      ∧ translate sBar blk.part 1 (capOff (capReg sBar f 1) (offVal f 8 false)) f.xl = .place 0x40080
      ∧ spadCheck blk 0xA0 4 = none ∧ spadCheck blk 0x90 16 = none ∧ sBar.isLive bg = true
      ∧ f.counter 4 < 63 ∧ (barObj sBar bg).pending < 2 ^ 24 - 1 ∧ reqRoom sBar 0 1 = true ∧ f.sent = 0 :=
  ⟨ready_sBar, by decide⟩

/-- R235: one more transaction is pending on the barrier object, and the lane counts it. -/
theorem test_lda : (nx (exec (.lda hd lda0) sBar)).map (fun t =>
    ((barObj t bg).pending, t.fibres.map (fun f => f.counter 4), t.ldas.map fun x => [x.src, x.dst, x.bar, x.w]))
      = some (1, [1], [[0x40080, spadCell blk 0xA0, bg, 4]]) := by decide

/-- The world after one ST of lane 0. -/
def sStore : State := pushStore s1 (lane 0) blk .st false 1 0x80 4 4 0 false 0 none
theorem ready_sStore : Ready sStore c0 blk l1 := ready (by decide)

/-- R242: a FENCE passes with nothing outstanding and waits for a store. -/
theorem test_fence : nx (exec (.fence hd { sc := 1 }) s1) = some (past (clearMask s1 0 0 1) c0 l1 hd) := by decide
theorem test_bar_waits : nx (exec (.bar hd { s := 0, cnt := false, id := 15 }) sStore) = some (waitBatch sStore l1 false) := by decide
theorem test_spawn_waits : nx (exec (.spawn hd sp0) sStore) = some (waitBatch sStore l1 false) := by decide
theorem test_fence_waits : nx (exec (.fence hd { sc := 1 }) sStore) = some (waitBatch sStore l1 false) := by decide
/-- The world with die 3 in the mask of port 0. -/
def sMask : State := setPort s1 0 0 fun p => { p with dieMask := 8 }
theorem ready_sMask : Ready sMask c0 blk l1 := ready (by decide)
/-- R167: a package fence sends its marker to die 3 and waits for the gathering. -/
theorem test_fence_marker : (nx (exec (.fence hd { sc := 4 }) sMask)).map (fun t =>
    ((portOf t 0 0).gathers.map (·.dest), t.fibres.map fun f => (f.run == .waiting .retry, f.sentTo.length))) = some ([3], [(true, 1)]) := by decide

theorem wit_Fences :
    (Ready s1 c0 blk l1 ∧ guardTrue 0 false l1 = lane 0 :: [] ∧ (Instr.fence hd { sc := 1 }).wellFormed = true
        ∧ (∀ g ∈ l1, g.outs = [] ∧ storesOf s1 g.key = []) ∧ (lane 0).sentTo = [] ∧ markerDests (portOf s1 0 0) 1 = [])
      ∧ (Ready sStore c0 blk l1 ∧ ∃ g ∈ l1, g.outs ≠ [] ∨ storesOf sStore g.key ≠ [])
      ∧ Ready sMask c0 blk l1 ∧ (∀ g ∈ l1, g.outs = [] ∧ storesOf sMask g.key = []) ∧ markerDests (portOf sMask 0 0) 4 ≠ [] :=
  ⟨⟨ready_s1, by decide⟩, ⟨ready_sStore, by decide⟩, ready_sMask, by decide⟩

/-- The world with a capability of object 2 in the granule at 0x40080. -/
def sCap : State := s1.writeCap 0x40080 (mkCap 2 1 15 0)
theorem ready_sCap : Ready sCap c0 blk l1 := ready (by decide)
def cl0 : MemP := { ld0 with t := 0, w := 4, d := 5 }
/-- s8 and s9 are 0 and s10, s11 hold 15: a range of 16 bytes. -/
def prtN : Part := { prt with s := prt.s.set 10 15 }
def sN : State := { s1 with parts := [prtN] }
theorem ready_sN : Ready sN c0 blk l1 := ready (by decide)
def cn0 : CnarrowP := { sl := 10, sb := 8, cs := 1, cd := 2 }

theorem test_capld : nx (exec (.capld hd cl0) sCap) = some (past (putCap (touch sCap 0x40080) 0 (lane 0) 5 (mkCap 2 1 15 0)) c0 l1 hd) := by decide
theorem test_cnarrow : nx (exec (.cnarrow hd cn0) sN) = some (past (setCap sN 0 (lane 0) 2 (mkCap 1 255 15 0)) c0 l1 hd) := by decide
/-- R245: s4 and s5 ask for an offset of 0x500000004, outside the range. -/
theorem test_cnarrow_traps : nx (exec (.cnarrow hd { cn0 with sb := 4 }) sN) = some (trapOf sN c0 blk l1 7 0 0 false false) := by decide
theorem test_crights : nx (exec (.crights hd { mask := 3, cs := 1, cd := 2 }) s1)
    = some (past (putCap s1 0 (lane 0) 2 (mkCap 1 3 65535 0)) c0 l1 hd) := by decide
theorem test_cinfo : nx (exec (.cinfo hd { sd := 12, cs := 1 }) s1)
    = some (past (setUnis s1 (lane 0) 12 [1, 0, 65535, 0x0FF00000]) c0 l1 hd) := by decide

theorem wit_CapabilityInstructions :
    (guardTrue 0 false l1 = lane 0 :: [] ∧ AtHome l1)
      ∧ (Ready sCap c0 blk l1 ∧ (Instr.capld hd cl0).wellFormed = true ∧ Clear l1 (offRegs 8 false) ∧ checkRegs (lane 0) (offRegs 8 false) = none
        ∧ accessCheck sCap blk.part (capReg sCap (lane 0) 1) (memOff cl0 (lane 0)) 16 (rRD + rCLD) = none ∧ sCap.ue 0x40080 16 = false
        ∧ (lane 0).reading = false ∧ openHeld sCap (lane 0) 2 = false ∧ ownStores sCap (key 0) sCap.seq false 1 0x80 16 = [] ∧ rowWaits sCap 0x40080 = false ∧ sCap.capTags.contains 0x40080 = true)
      ∧ (Ready sN c0 blk l1 ∧ (Instr.cnarrow hd cn0).wellFormed = true ∧ (uniPair sN (lane 0) 10).toNat ≤ capLimit (capReg sN (lane 0) 1)
        ∧ CanTrap sN blk l1 7 ∧ (Instr.cnarrow hd { cn0 with sb := 4 }).wellFormed = true
        ∧ (capLimit (capReg sN (lane 0) 1) : Int) < (uniPair sN (lane 0) 4).toInt + (uniPair sN (lane 0) 10).toNat)
      ∧ Ready s1 c0 blk l1 ∧ (Instr.crights hd { mask := 0, cs := 1, cd := 2 }).wellFormed = true ∧ (Instr.cinfo hd { sd := 252, cs := 1 }).wellFormed = true :=
  ⟨by decide, ⟨ready_sCap, by decide⟩, ⟨ready_sN, by decide⟩, ready_s1, by decide⟩

def gb (v : BitVec 6) (pd : BitVec 7) : GranP := { pd := pd, off := 0, v := v, a := 9 }

theorem test_fetest : nx (exec (.fetest hd (gb 0 3)) s1) = some (past (wrote s1 l1 (some 2) fun _ => [.pred 3 false]) c0 l1 hd) := by decide
/-- R248: BINIT of 2 arrivals. -/
theorem test_binit : (nx (exec (.binit hd (gb 2 0)) s1)).map (fun t => ((barObj t bg).expect, (barObj t bg).arrived, t.isLive bg))
    = some (2, 0, true) := by decide
theorem test_barv : (nx (exec (.barv hd (gb 4 0)) sBar)).map (fun t => ((barObj t bg).arrived, t.fibres.map fun f => f.val 4)) = some (1, [0]) := by
  decide
theorem test_bexpt : (nx (exec (.bexpt hd (gb 4 0)) sBar)).map (fun t => (barObj t bg).pending) = some 4 := by decide
/-- R251: phase 0 is still on for v0 = 0, and over for v1 = 1. -/
theorem test_bwait : (nx (exec (.bwait hd (gb 0 0)) sBar)).map (fun t => ((barObj t bg).waiters, t.fibres.map (·.run)))
    = some (1, [.waiting (.bwait bg)]) := by decide
theorem test_bwait_over : nx (exec (.bwait hd (gb 1 0)) sBar) = some (past sBar c0 l1 hd) := by decide

/-- R248: a live object without waiters is made anew, or ends, by BINIT. -/
theorem test_binit_remake : (nx (exec (.binit hd (gb 5 0)) sBar)).map (fun t => ((barObj t bg).expect, (barObj t bg).arrived, t.isLive bg)) = some (5, 0, true) := by
  decide
theorem test_binit_end : (nx (exec (.binit hd (gb 0 0)) sBar)).map (fun t => (t.isLive bg, t.isFull bg, t.read bg 16)) = some (false, false, 0) := by decide

theorem wit_BarrierObjects :
    let f := lane 0
    (Ready s1 c0 blk l1 ∧ Ready sBar c0 blk l1 ∧ AtHome l1 ∧ guardTrue 0 false l1 = [f] ∧ checkTag none (f.reg 9) = none
        ∧ spadCheck blk (granOff (gb 0 0) f) 16 = none ∧ f.outs = [] ∧ storesOf sBar f.key = [] ∧ Clear l1 [9, 4])
      ∧ ((Instr.fetest hd (gb 0 3)).wellFormed = true ∧ (Instr.binit hd (gb 2 0)).wellFormed = true ∧ s1.isLive bg = false ∧ f.val 0 = 0
        ∧ 0 < (f.val 2).toNat ∧ (f.val 2).toNat ≤ 8192 ∧ Stays (fillGran (healGran (spadWrite s1 bg 16 0) bg 16) bg false) blk [f]
        ∧ Stays (clobberWaiters (((putBarObj (healGran s1 bg 16) bg { phase := 0, expect := 2, arrived := 0, pending := 0, waiters := 0 }).setLive
            bg true).setFull bg false) bg) blk [f]
        ∧ (barObj sBar bg).waiters = 0
        ∧ Stays (deliver (trapLater (((spadWrite sBar bg 16 0).setLive bg false).setFull bg false) ((heldArrivals sBar bg).map (·.key)) cIllegalOp 0)) blk [f])
      ∧ (Instr.barv hd (gb 4 0)).wellFormed = true ∧ sBar.isLive bg = true ∧ (barObj sBar bg).arrived < (barObj sBar bg).expect
      ∧ (Instr.bexpt hd (gb 4 0)).wellFormed = true ∧ (barObj sBar bg).pending + 4 ≤ 2 ^ 24 - 1
      ∧ (Instr.bwait hd (gb 0 0)).wellFormed = true ∧ (barObj sBar bg).phase = (f.val 0).toNat ∧ (barObj sBar bg).phase ≠ (f.val 1).toNat
      ∧ granCell blk (gb 0 0) f = bg :=
  ⟨⟨ready_s1, ready_sBar, by decide⟩, ⟨by decide, by decide, by decide, by decide, by decide, by decide, stays (by decide),
   stays (by decide), by decide, stays (by decide)⟩, by decide⟩
/-! ### Messages and remote adds -/

def snd0 : SendP := { mask := 8, s := 0, nw := 0, a := 4 }
def rcv0 : RecvP := { pd := 3, wait := false, nw := 0, hv := true, h := 5, d := 6 }
def qp0 : QpollP := { sel := 0, d := 3 }

/-- A part whose inbound queue holds one message. -/
def msg0 : QMsg := { words := [i32 77], header := 0x12345678 }
def sQ : State := { s1 with parts := [{ prt with inq := [msg0] }] }
theorem ready_sQ : Ready sQ c0 blk l1 := ready (by decide)

/-- R254: the entry's word goes to v6 and its header to v5. -/
theorem test_recv : (nx (exec (.recv hd rcv0) sQ)).map (fun t => (t.fibres.map (fun f => (f.val 6, f.val 5, f.pred 3)), t.parts.map (·.inq)))
    = some ([(77, 0x12345678, true)], [[]]) := by decide
/-- R255: one entry and 63 free. -/
theorem test_qpoll : nx (exec (.qpoll hd qp0) sQ) = some (past (wrote sQ l1 none fun _ => [.reg 3 (i32 0x3F01)]) c0 l1 hd) := by decide
/-- R253: a message to the sender's own queue. -/
theorem test_send : (nx (exec (.send hd snd0) s1)).map (fun t => (t.parts.map (·.inq.map (·.words)), t.fibres.map (·.pc)))
    = some ([[[i32 4]]], [0x108]) := by decide

def lane64 : Fibre := { lane 0 with regs := (lane 0).regs ++ zeroRegs 48 }
def sQ64 : State := { world [lane64] with parts := [{ prt with inq := [msg0] }] }

theorem wit_Messages :
    (Ready s1 c0 blk l1 ∧ AtHome l1 ∧ (Instr.send hd snd0).wellFormed = true ∧ sendIllegal s1 snd0 = false ∧ Clear l1 [4] ∧ (∀ f ∈ l1, checkRegs f [4] = none)
        ∧ (released s1 l1 1).2 = true ∧ (sendAll blk snd0 s1 (l1.flatMap fun f => (consumers snd0).map fun m => (f.key, m))).2 = true)
      ∧ (Ready sQ c0 blk l1 ∧ (Instr.recv hd rcv0).wellFormed = true ∧ Clear l1 [6, 5])
      ∧ ((Instr.qpoll hd qp0).wellFormed = true ∧ Clear l1 [3] ∧ ∀ f ∈ l1, (polled sQ qp0 f).isSome = true)
      ∧ (partOf s1 (lane 0) = some prt ∧ prt.core = (lane 0).key.core ∧ prt.bp = (lane 0).bp ∧ firstReceiver s1 prt.core prt.bp = none ∧ prt.inq.length < 64)
      ∧ (fibre? sQ64 lane64.key = some lane64 ∧ partOf sQ64 lane64 = some { prt with inq := [msg0] } ∧ lane64.pend = [] ∧ lane64.regs.length = 64)
      ∧ partOf s1 (lane 0) = some prt ∧ prt.inq = [] :=
  ⟨⟨ready_s1, by decide⟩, ⟨ready_sQ, by decide⟩, by decide⟩

/-- The block is member 0 of a gang of one. -/
def blkG : Block := { blk with gang := some 5 }
def gang0 : Gang := { id := 5, kernel := 0, members := [0], killed := [false], votes := [none], voteDom := false, voteFwd := none, voteKill := false, syncs := [false] }
def sG : State := { s1 with blocks := [blkG], gangs := [gang0] }
theorem ready_sG : Ready sG c0 blkG l1 := ready (by decide)
def radd0 : RaddP := { off := 0, gl := false, fmt := 0, c := 0, o64 := false, g := 0, gu := false, a := 8, b := 12 }
def radd1 : RaddP := { radd0 with gl := true, c := 1 }

/-- R267: one message to block 0 with v12 = 0xC0 for offset 0x80. -/
theorem test_radd : (nx (exec (.radd hd radd0) sG)).map (fun t => (t.msgs.map (·.kind), t.fibres.map fun f => f.counter 3))
    = some ([.radd 0 0x80 0xC0 0 0], [1]) := by decide

theorem wit_RemoteAdds :
    let f := lane 0
    (Ready sG c0 blkG l1 ∧ AtHome l1 ∧ guardTrue 0 false l1 = [f] ∧ featureOn sG 3 = true ∧ f.counter 3 < 63 ∧ f.outs = [] ∧ storesOf sG f.key = [])
      ∧ ((Instr.radd hd radd0).wellFormed = true ∧ Clear l1 [8, 12, 0] ∧ checkTag (raddTag 0) (f.reg 12) = none ∧ checkRegs f [8] = none
        ∧ blkG.gang.isSome = true ∧ checkTag none (f.reg 0) = none ∧ memberBlock sG blkG 0 = some 0 ∧ spadCheck blkG 0x80 4 = none)
      ∧ (Instr.radd hd radd1).wellFormed = true ∧ accessCheck sG blkG.part (capReg sG f 1) (offVal f 8 false) 4 (rWR + rAT) = none
        ∧ hashWaits sG blkG [f] = false ∧ fifoRoom sG f.loc f.key.port 1 = true ∧ gated sG blkG (capObj (capReg sG f 1)) = false :=
  ⟨⟨ready_sG, by decide⟩, by decide⟩

/-- Three messages on their way, and a lane with a completed fabric operation. -/
def sM : State :=
  { s1 with
    seq := 10
    msgs := [{ id := 7, src := key 0, blk := 0, opId := 0, kind := .send 0 0 msg0 },
             { id := 8, src := key 0, blk := 0, opId := 0, kind := .radd 0 0x80 0x3F800000 0 0 },
             { id := 9, src := key 0, blk := 0, opId := 0, kind := .esend 0 3 }] }
def l1f : List Fibre := [{ lane 0 with ops := [{ id := 3, cls := 3, done := true, err := true }] }]
/-- A store of lane 0, whose page is known, to offset 0x80 of object 1. -/
def st0 : Store :=
  { id := 0, fib := key 0, blk := 0, fid := 0, pc := 0x100, kind := .st, spad := false, obj := 1, off := 0x80, w := 4, data := 0x3F800000
    scope := 0, rel := false, opId := none, hash := 0, entry := none, lost := false, gone := false
    xl := some { obj := 1, page := 0, place := some 0x40000, cause := 0, rx := true, top := 65536 }, waits := [], marked := false, part := 0 }
/-- The world with one store in the FIFO of port 0. -/
def withStore (x : Store) : State := { s1 with ports := [{ Port.empty 0 0 with fifo := [x] }], seq := 5 }
def stGa : Store := { st0 with kind := .radd 0 0, opId := some 0 }
/-- One global add of lane 0. -/
def sGa : State := setFibre (withStore stGa) (key 0) fun g => g.addOp 0 3

theorem test_queueEntryArrival : (nx (exec (.queueEntryArrival 7) sM)).map (fun t => (t.parts.map (·.inq), t.msgs.map (·.id))) = some ([[msg0]], [8, 9]) := by
  decide
/-- R147: 1.0 is added to 0. -/
theorem test_raddArrival : (nx (exec (.raddArrival 8) sM)).map (fun t => (t.read (spadCell blk 0x80) 4, t.isFull (spadCell blk 0x80), t.msgs.map (·.id)))
    = some (0x3F800000, true, [7, 9]) := by decide
theorem test_esendUpdate : (nx (exec (.esendUpdate 9) sM)).map (fun t => (t.blocks.map (·.lsst.esend), t.msgs.map (·.id))) = some ([3], [7, 8]) := by
  decide
theorem test_fabCompletion : (nx (exec (.fabCompletion 0 0 0) (world l1f))).map (fun t => t.fibres.map fun f => (f.ops, f.sticky)) = some [([], 8)] := by
  decide
theorem test_raddGlobalApply : (nx (exec (.raddGlobalApply 0 0) sGa)).map (fun t => (t.read 0x40080 4, (portOf t 0 0).fifo)) = some (0x3F800000, []) := by
  decide

theorem wit_FabricArrivals :
    ((∃ m, sM.msgs.find? (fun y => y.id == 7) = some m ∧ m.kind = .send 0 0 msg0 ∧ overtakes sM m = false) ∧ block? sM 0 = some blk ∧ blk.killed = false
        ∧ partAt sM 0 (blk.cluster * 4 + 0) = some prt ∧ (enqueue sM prt msg0).isSome = true)
      ∧ ((∃ m, sM.msgs.find? (fun y => y.id == 8) = some m ∧ m.kind = .radd 0 0x80 0x3F800000 0 0)
        ∧ sM.isLive (granOf (spadCell blk 0x80)) = false ∧ sM.ue (spadCell blk 0x80) 4 = false)
      ∧ (∃ m, sM.msgs.find? (fun y => y.id == 9) = some m ∧ m.kind = .esend 0 3)
      ∧ (∃ f, fibre? (world l1f) (key 0) = some f ∧ f.ops = [{ id := 3, cls := 3, done := true, err := true }])
      ∧ (portOf sGa 0 0).fifo.head? = some stGa ∧ stGa.kind = .radd 0 0 ∧ turnOf sGa 0 0 stGa = .go 0x40080 ∧ stGa.opId = some 0
        ∧ sGa.ue 0x40080 4 = false ∧ rrMode sGa stGa.part = 0 :=
  ⟨⟨⟨_, rfl, by decide⟩, by decide⟩, ⟨⟨_, rfl, by decide⟩, by decide⟩, ⟨_, rfl, by decide⟩, ⟨_, rfl, by decide⟩, by decide⟩

/-! ### How accesses perform -/

/-- A store to offset 0x80 of the scratchpad. -/
def stS (k : StKind) : Store := { st0 with kind := k, spad := true, obj := spadCell blk 0x80 }

theorem test_storePerform : (nx (exec (.storePerform 0 0) (withStore st0))).map (fun t => (t.read 0x40080 4, t.read 0x40084 4, (portOf t 0 0).fifo))
    = some (0x3F800000, 0, []) := by decide
/-- R65, R233: STL.ff fills its granule. -/
theorem test_storePerform_stl : (nx (exec (.storePerform 0 0) (withStore (stS (.stl 3))))).map (fun t =>
    (t.read (spadCell blk 0x80) 4, t.isFull (spadCell blk 0x80))) = some (0x3F800000, true) := by decide

/-- R233: STL.fe to an empty granule writes and fills it. -/
theorem test_storePerform_fe : (nx (exec (.storePerform 0 0) (withStore (stS (.stl 1))))).map (fun t =>
    (t.read (spadCell blk 0x80) 4, t.isFull (spadCell blk 0x80), t.feStores)) = some (0x3F800000, true, []) := by decide
/-- The granule of the store is full. -/
def sFe1 : State := (withStore (stS (.stl 1))).setFull (granOf (spadCell blk 0x80)) true
/-- An fp32 sum by one RED where the word is marked by another operation. -/
def sRed : State := { withStore { st0 with kind := .red 0 0 } with redTags := [(0x40080, 9)] }
/-- R173: it writes nothing, sets the conflict flag and counts a rejection. -/
theorem test_storePerform_red : (nx (exec (.storePerform 0 0) sRed)).map (fun t =>
    (t.read 0x40080 4, t.redFlags, t.fibres.map (·.redrej))) = some (0, [0x40080], [1]) := by decide

/-- A record of the device's own is written once nothing holds its row back. -/
theorem test_devWrite : (nx (exec (.storePerform 0 4) { s1 with devWrites := [(0x40080, 8, 5)] })).map (fun t => (t.devWrites, t.read 0x40080 8))
    = some ([], 5) := by decide

theorem wit_StoresPerform :
    (∀ k ∈ [StKind.st, .capst, .red 0 0], (portOf (withStore { st0 with kind := k }) 0 0).fifo.head? = some { st0 with kind := k }
        ∧ turnOf (withStore { st0 with kind := k }) 0 0 { st0 with kind := k } = .go 0x40080 ∧ (withStore { st0 with kind := k }).ue 0x40080 4 = false)
      ∧ (∀ k ∈ [StKind.stl 0, .stl 3, .feset, .feclr], (portOf (withStore (stS k)) 0 0).fifo.head? = some (stS k)
        ∧ turnOf (withStore (stS k)) 0 0 (stS k) = .go (spadCell blk 0x80) ∧ (withStore (stS k)).isLive (granOf (spadCell blk 0x80)) = false)
      ∧ ((withStore (stS (.stl 0))).setLive (granOf (spadCell blk 0x80)) true).isLive (granOf (spadCell blk 0x80)) = true
      ∧ ((portOf sFe1 0 0).fifo.head? = some (stS (.stl 1)) ∧ turnOf sFe1 0 0 (stS (.stl 1)) = .go (spadCell blk 0x80)
        ∧ sFe1.isLive (granOf (spadCell blk 0x80)) = false ∧ sFe1.ue (spadCell blk 0x80) 4 = false ∧ sFe1.isFull (granOf (spadCell blk 0x80)) = true
        ∧ turnOf (withStore (stS (.stl 1))) 0 0 (stS (.stl 1)) = .go (spadCell blk 0x80)
        ∧ (withStore (stS (.stl 1))).isFull (granOf (spadCell blk 0x80)) = false)
      ∧ (turnOf sRed 0 0 { st0 with kind := .red 0 0 } = .go 0x40080 ∧ rrMode sRed 0 = 0 ∧ sRed.ue 0x40080 4 = false
        ∧ 0x40080 ∈ wordsOf 0x40080 4 ∧ sRed.redTags.find? (fun q => q.1 == 0x40080) = some (0x40080, 9) ∧ 9 ≠ 0 * 8 + 0)
      ∧ rrMode (withStore st0) 0 = 0 ∧ (withStore st0).redTags = []
      ∧ { s1 with devWrites := [(0x40080, 8, 5)] }.devWrites = [(0x40080, 8, 5)] ∧ rowWaits { s1 with devWrites := [(0x40080, 8, 5)] } 0x40080 = false :=
  by decide

theorem wit_StoreFrame :
    (withStore st0).Inv ∧ (portOf (withStore st0) 0 0).fifo.head? = some st0 ∧ st0.kind = .st ∧ turnOf (withStore st0) 0 0 st0 = .go 0x40080
      ∧ (withStore st0).ue 0x40080 st0.w = false ∧ ∃ t, exec (.storePerform 0 0) (withStore st0) = .next t :=
  ⟨by decide, by decide, by decide, by decide, by decide, ⟨_, rfl⟩⟩

/-- A lane with one outstanding result. -/
def outL (o : Out) : List Fibre := [{ lane 0 with outs := [o] }]
def out0 : Out := loadOut (lane 0) .load false 0x40080 4 3 tI32 0 0 1 0x80
def outS (fe : Nat) : Out := loadOut (lane 0) .load true (spadCell blk 0x80) 4 3 tI32 fe 0 (spadCell blk 0x80) 0x80
def outA : Out := { out0 with kind := .atom, aop := 2, b := 5 }
def outAs : Out := { outS 0 with kind := .atom, aop := 2, b := 5 }
def sOut (o : Out) : State := { (world (outL o)).write 0x40080 4 37 with seq := 5 }
/-- The same, where the word at 0x40080 holds an uncorrectable error. -/
def sHurt (o : Out) : State := { sOut o with ueMarks := [0x40080] }
/-- R17, R230: damage that has come after the issue traps DATA_UE at the load; v3 is as it was. -/
theorem test_loadComplete_ue : (nx (exec (.loadComplete 0 0 0) (sHurt out0))).map (fun t =>
    t.fibres.map fun f => (f.val 3, f.outs, f.logRec.map fun r => (r.cause, r.pc))) = some [(3, [], some (0x0D, 0x100))] := by decide

theorem test_loadComplete : (nx (exec (.loadComplete 0 0 0) (sOut out0))).map (fun t => t.fibres.map fun f => (f.reg 3, f.outs)) = some [(i32 37, [])] := by
  decide
theorem test_ldlLaneComplete : (nx (exec (.ldlLaneComplete 0 0 0 0) (sOut (outS 0)))).map (fun t => t.fibres.map fun f => (f.reg 3, f.outs))
    = some [(i32 0, [])] := by decide
/-- R237: 37 + 5 at the cell, 37 in v3. -/
theorem test_atomRmwPerform : (nx (exec (.atomRmwPerform 0 0 0 0) (sOut outA))).map (fun t => (t.read 0x40080 4, t.fibres.map fun f => f.val 3))
    = some (42, [37]) := by decide

theorem wit_LoadsPerform :
    (∃ f, fibre? (sOut out0) (key 0) = some f ∧ f.nextOut = some out0 ∧ storesHold (sOut out0) f out0 = false ∧ loadHurt (sOut out0) f out0 = false)
      ∧ (∃ f, fibre? (sHurt out0) (key 0) = some f ∧ f.nextOut = some out0 ∧ storesHold (sHurt out0) f out0 = false
        ∧ loadHurt (sHurt out0) f out0 = true ∧ f.takesTrap = true)
      ∧ (out0.spad = false ∧ out0.kind = .load ∧ weightWaits (sOut out0) out0 = false ∧ rowWaits (sOut out0) out0.addr = false
        ∧ rowWaits (sHurt out0) out0.addr = false)
      ∧ (∀ fe ∈ [0, 1, 2], ∃ f, fibre? (sOut (outS fe)) (key 0) = some f ∧ f.nextOut = some (outS fe) ∧ storesHold (sOut (outS fe)) f (outS fe) = false
        ∧ loadHurt (sOut (outS fe)) f (outS fe) = false ∧ storesOf (sOut (outS fe)) f.key = [])
      ∧ (∀ fe ∈ [0, 1, 2], (outS fe).id = 0 ∧ (outS fe).spad = true ∧ (outS fe).kind = .load ∧ (outS fe).atBank = false
        ∧ ownStores (sOut (outS fe)) (key 0) 0 true (outS fe).obj (granOf (outS fe).off) 16 = [] ∧ (sOut (outS fe)).isLive (granOf (outS fe).addr) = false)
      ∧ (lane 0).pend = [] ∧ out0.d + out0.tags.length ≤ (lane 0).regs.length :=
  ⟨⟨_, rfl, by decide⟩, ⟨_, rfl, by decide⟩, by decide, fun fe h => ⟨_, rfl, by fin_cases h <;> decide, by fin_cases h <;> decide,
   by fin_cases h <;> decide⟩, by decide⟩

/-- An atomic of acquire-release order at package scope, and the device mask of its port names die 2. -/
def outR : Out := { outA with fe := 3, scope := 4, acq := true }
def sRel : State := { sOut outR with ports := [{ Port.empty 0 0 with dieMask := 4 }] }
/-- Its marker has been gathered. -/
def sRel1 : State := setFibre sRel (key 0) fun f => { f with sentTo := [(4, 0)] }
/-- R167, R238: a marker goes to die 2; once it is gathered the atomic performs. -/
theorem test_atom_release : (nx (exec (.atomRmwPerform 0 0 0 0) sRel)).map (fun t =>
    (t.read 0x40080 4, (portOf t 0 0).gathers.map (·.dest), t.fibres.map (·.sentTo))) = some (37, [2], [[(5, 0)]]) := by decide
theorem test_atom_released : (nx (exec (.atomRmwPerform 0 0 0 0) sRel1)).map (fun t =>
    (t.read 0x40080 4, (portOf t 0 0).dieMask, t.fibres.map fun f => f.val 3)) = some (42, 0, [37]) := by decide

theorem wit_AtomicsPerform :
    (∃ f, fibre? (sOut outA) (key 0) = some f ∧ f.nextOut = some outA ∧ f.pend = [] ∧ f.run ≠ .exited ∧ outA.d + outA.tags.length ≤ f.regs.length ∧ block? (sOut outA) f.blk = some blk ∧ atomWaits (sOut outA) f outA = false
        ∧ f.sentTo = [])
      ∧ (outA.kind = .atom ∧ outA.spad = false ∧ outA.fe < 2 ∧ rowWaits (sOut outA) outA.addr = false ∧ rrMode (sOut outA) 0 = 0
        ∧ (sOut outA).ue outA.addr outA.w = false ∧ (sOut outAs).ue outAs.addr outAs.w = false)
      ∧ (∃ f, fibre? (sOut outAs) (key 0) = some f ∧ f.nextOut = some outAs ∧ atomWaits (sOut outAs) f outAs = false)
      ∧ (∃ f, fibre? sRel (key 0) = some f ∧ f.nextOut = some outR ∧ atomWaits sRel f outR = false ∧ 2 ≤ outR.fe ∧ outR.spad = false
        ∧ f.sentTo = [] ∧ markerDests (portOf sRel f.loc 0) outR.scope ≠ [] ∧ rowWaits sRel outR.addr = false ∧ sRel.ue outR.addr outR.w = false)
      ∧ (∃ f, fibre? sRel1 (key 0) = some f ∧ f.nextOut = some outR ∧ atomWaits sRel1 f outR = false ∧ f.sentTo = [(4, 0)]
        ∧ gathering sRel1 f.loc 0 [4] = false ∧ rrMode sRel1 0 = 0 ∧ rowWaits sRel1 outR.addr = false ∧ sRel1.ue outR.addr outR.w = false)
      ∧ outAs.spad = true ∧ (sOut outAs).isLive (granOf outAs.addr) = false ∧ (sOut outA).Inv ∧ ∀ x ∈ (sOut outA).fibres, x.trapping = false :=
  ⟨⟨_, rfl, by decide⟩, by decide, ⟨_, rfl, by decide⟩, ⟨_, rfl, by decide⟩, ⟨_, rfl, by decide⟩, by decide⟩

/-- The world with an LDA transaction, a gathering, a walk and a held fault entry. -/
def tx0 : LdaTx := { id := 3, fib := key 0, opId := 2, blk := 0, src := 0x40080, w := 4, dst := spadCell blk 0xA0, bar := bg }
def sTx : State :=
  { setFibre (sBar.write 0x40080 4 37) (key 0) (fun f => f.addOp 2 4) with
    ldas := [tx0], seq := 9, ports := [{ Port.empty 0 0 with gathers := [{ id := 4, dest := 64 }] }] }
def wk0 : Walk := { id := 6, mport := 0, part := 0, obj := 1, page := 0, waiters := [.fibre (key 0)] }
def sWk : State := { worldC 0 l1 with walks := [wk0], seq := 9, tlbs := [] }
/-- The same, where the page of object 1 is one of a page table at 0x28000, whose entry is zero. -/
def sWkP : State :=
  { ((worldC 0 l1).write placeExtent 16 (2 ^ 64 + 2 ^ 45)).write (placeTable + 32) 32 (2 ^ 95 + 2 ^ 100 + 0x28000 * 2 ^ 128 + placeExtent * 2 ^ 192 + 4095) with
    walks := [wk0], seq := 9, tlbs := [] }
def fe0 : FaultEntry :=
  { eid := 7, ident := 0, posted := false, popped := false, look := false, obj := 1, poff := 0, cause := 1, kind := 0, w := false, core := 0, port := 0, slot := 0
    lanes := 1, pc := 0x100, fid := 0, blk := 0, waiter := .fibre (key 0) }
def sFe : State := { s1 with partns := [{ Partn.empty 0 with faults := [fe0] }], seq := 9 }

theorem test_ldaTransaction : (nx (exec (.ldaTransaction 0 0 0 3) sTx)).map (fun t =>
    (t.read (spadCell blk 0xA0) 4, t.isFull (spadCell blk 0xA0), t.ldas, t.fibres.map (fun f => f.counter 4))) = some (37, true, [], [0]) := by decide
theorem test_flushMarkerGather : (nx (exec (.flushMarkerGather 0 0 4) sTx)).map (fun t => (portOf t 0 0).gathers) = some [] := by decide
/-- R341: the page of object 1 lies at the code's address. -/
theorem test_tableWalkComplete : (nx (exec (.tableWalkComplete 6) sWk)).map (fun t => (t.tlbs.map (·.place), t.walks)) = some ([0x30000], []) := by decide
/-- R343: a page found not present may be remembered so. -/
theorem test_walk_absent : (nx (exec (.tableWalkComplete 6) sWkP)).map (fun t => (t.tlbs.map (·.cause), t.walks)) = some ([some 2], []) := by decide
theorem test_faultEntryPost : (nx (exec (.faultEntryPost 7) sFe)).map (fun t => t.partns.map fun q => q.faults.map fun e => (e.posted, e.ident))
    = some [[(true, 0)]] := by decide

theorem wit_PortsAndTransactions :
    (sTx.ldas.find? (fun y => y.id == 3 && y.fib == key 0) = some tx0 ∧ (∀ f ∈ sTx.fibres, f.reading = false) ∧ storesOf sTx (key 0) = []
        ∧ rowWaits sTx tx0.src = false ∧ sTx.isLive (granOf tx0.dst) = false ∧ sTx.ue tx0.src tx0.w = false)
      ∧ (portOf sTx 0 0).gathers.any (fun g => g.id == 4) = true
      ∧ (sWk.walks.find? (fun y => y.id == 6) = some wk0 ∧ objName sWk 0 1 = .local 1 ∧ (∃ e rx, walkTables sWk 0 1 0 = .ok 0x30000 e rx)
        ∧ walkServed sWk wk0 = true ∧ walkWaits sWk 0 1 0 = none ∧ walkServed sWkP wk0 = true ∧ walkWaits sWkP 0 1 0 = none ∧ walkTables sWkP 0 1 0 = .bad 2)
      ∧ (sFe.partns.find? (fun q => q.faults.any (fun y => y.eid == 7 && !y.posted)) = some { Partn.empty 0 with faults := [fe0] }
        ∧ lowestFree [] 4096 = some 0) :=
  ⟨by decide, by decide, ⟨by decide, by decide, ⟨_, _, rfl⟩, by decide⟩, by decide⟩
/-! ### Billets -/

def mg0 : MigrP := { fb := false, live := 0, o64 := false, c := 1, a := 8 }
/-- A lane whose lookup of offset 0x80 of object 1 has answered with a stack. -/
def laneM (stack : Nat) : Fibre := { lane 0 with level := 0, xl := [], own := some { obj := 1, off := 0x80, ans := some stack, ref := 0 } }
/-- The world with a live set of v4 to v7 at offset 0 of the code object, and cluster 24 owned by partition 0. -/
def sMg (f : Fibre) : State := { worldC 0xF0 [f] with kernels := [{ kern with liveN := 1 }], owners := [(24, 0)] }
/-- A lane away at core 96, its home registers all 9. -/
def laneA : Fibre :=
  { lane 0 with xl := [], guest := some { core := 96, hops := 1, live := 0, mask := 0xF0, caps := [], homeRegs := List.replicate 16 (i32 9) } }
def sAw : State := { sMg laneA with slots := [{ core := 96, port := 0, idx := 0, age := 0, last := 0, next := 0, bid := 0 }], cur := some { c0 with core := 96 } }

theorem ready_mg1 : Ready (sMg (laneM 1)) c0 blk [laneM 1] := ready (by decide)
theorem ready_mg0 : Ready (sMg (laneM 0)) c0 blk [laneM 0] := ready (by decide)

/-- R268: the fibre leaves for core 96 with v4 to v7. -/
theorem test_migr : (nx (exec (.migr hd mg0) (sMg (laneM 1)))).map (fun t => t.fibres.map fun f => (f.transit, f.slot, f.move.map fun m => (m.core, m.mask)))
    = some [(.out, none, some (96, 0xF0))] := by decide
/-- LD.mig of the word at 0x80 of object 1 into v3. -/
def ldm : MemP := { off := 0, o64 := false, qc := 4, sc := 0, t := 1, w := 2, c := 1, a := 8, d := 3 }
/-- R230: where the data is at home the request goes out; where stack 1 has it the fibre leaves, to issue the LD there. -/
theorem test_ld_mig_home : (nx (exec (.ld hd ldm) (sMg (laneM 0)))).map (fun t => t.fibres.map fun f => (f.pc, f.transit, f.outs.map fun o => (o.addr, o.d)))
    = some [(0x108, .none, [(0x30080, 3)])] := by decide
theorem test_ld_mig_away : (nx (exec (.ld hd ldm) (sMg (laneM 1)))).map (fun t => t.fibres.map fun f => (f.transit, f.outs, f.move.map fun m => (m.core, m.pc)))
    = some [(.out, [], some (96, 0x100))] := by decide
theorem test_migrh_home : nx (exec (.migrh hd { live := 0 }) s1) = some (past (setFibre s1 (key 0) Fibre.landAll) c0 l1 hd) := by decide

theorem ready_sAw : Ready sAw { c0 with core := 96 } blk [laneA] where
  cur := by decide
  lanes := by decide
  some := by decide
  own := by decide
  blk := by decide
  can := by decide
  same := by decide
  cmp := by decide
  trial := by decide
  short := by decide

theorem wit_Migration :
    let f := laneM 1
    let s := sMg f
    (featureOn s 1 = true ∧ guardTrue 0 false [f] = [f] ∧ (Instr.migr hd mg0).wellFormed = true ∧ AtHome [f] ∧ Clear [f] [8] ∧ checkRegs f [8] = none
        ∧ capCheck (capReg s f 1) (offVal f 8 false) 1 0 = none ∧ capOff (capReg s f 1) (offVal f 8 false) = 0x80 ∧ refusal s blk f (capReg s f 1) 0 96 = none
        ∧ objName s 0 1 = .local 1 ∧ farWindow s 0 1 = false ∧ liveWait s blk f 0 = none ∧ f.acts = false ∧ (1 < 64 ∧ 96 * 1 + 0 ≠ f.key.core)
        ∧ liveEntry s blk f 0 = some (0xF0, []) ∧ (released s [f] 4).2 = true)
      ∧ ((Instr.ld hd ldm).wellFormed = true ∧ Clear [f] [8, 3] ∧ accessCheck s 0 (capReg s f 1) (memOff ldm f) 4 rRD = none
        ∧ capOff (capReg s f 1) (memOff ldm f) = 0x80 ∧ liveWait s blk f (ldLive s f) = none ∧ refusal s blk f (capReg s f 1) (ldLive s f) 96 = none
        ∧ (liveEntry s blk f (ldLive s f)).isSome = true)
      ∧ (let g := laneM 0
         lanesFit (sMg g) [g] = true ∧ translate (sMg g) 0 1 0x80 g.xl = .place 0x30080 ∧ (sMg g).ue 0x30080 4 = false)
      ∧ Ready s c0 blk [f] ∧ Ready (sMg (laneM 0)) c0 blk [laneM 0] ∧ Ready sAw { c0 with core := 96 } blk [laneA] ∧ laneA.guest.isSome = true
      ∧ (Instr.migrh hd { live := 0 }).wellFormed = true ∧ featureOn sAw 1 = true ∧ liveWait sAw blk laneA 0 = none :=
  ⟨by decide, by decide, by decide, ready_mg1, ready_mg0, ready_sAw, by decide⟩

/-- R362, R120: a supervisor-level fibre's move is refused with cause 5. -/
theorem test_supervisor_stays : refusal (sMg (laneM 1)) blk { laneM 1 with level := 1 } (capReg (sMg (laneM 1)) (laneM 1) 1) 0 96 = some 5 := by decide

def mv0 : Move := { core := 96, fb := false, live := 0, mask := 0xF0, caps := [], pc := 0x108, limit := 1024 }
/-- The lane with a lookup, with a move that waits since cycle 0, and on its way home. -/
def laneL : Fibre := { lane 0 with own := some { obj := 1, off := 0x80, ans := none, ref := 0 } }
def laneV : Fibre := { lane 0 with move := some mv0, transit := .out, run := .waiting .guestSlot, slot := none }
def laneH : Fibre := { laneA with transit := .home, slot := none }
def guestN (n : Nat) : Fibre := { laneA with key := key (32 * n) }
/-- Two guests hold both slots of lane position 0 at core 96, and T_guest has passed. -/
def sFull : State := { sMg laneV with fibres := [laneV, guestN 1, guestN 2], now := 70000 }

theorem test_ownerLookup : (nx (exec (.ownerLookup 0 0 0) (sMg laneL))).map (fun t => t.fibres.map fun f => f.own.map (·.ans)) = some [some (some 0)] := by
  decide
/-- R113: v0 is INVALID at the target, v4 carried. -/
theorem test_billetArrival : (nx (exec (.billetArrival 0 0 0) (sMg laneV))).map (fun t => t.fibres.map fun f => (f.loc, f.run, (f.reg 0).tag, f.reg 4))
    = some [(96, .ready, tInvalid, i32 4)] := by decide
theorem test_guestWaitTimeout : (nx (exec (.guestWaitTimeout 0 0 0) sFull)).map (fun t => (t.fibres.map (·.move)).take 1) = some [none] := by decide
/-- R119: v4 comes home, v0 is as it was there. -/
theorem test_billetReturn : (nx (exec (.billetReturn 0 0 0) (sMg laneH))).map (fun t => t.fibres.map fun f => (f.guest, f.reg 0, f.reg 4))
    = some [(none, i32 9, i32 4)] := by decide
def laneB (t : Transit) (r : Run) : Fibre := { laneA with transit := t, run := r, slot := none }
theorem test_arrivalMessage : (nx (exec (.arrivalMessage 0 0 0) (sMg (laneB .joinArrival .joining)))).map (fun t => t.fibres.map (·.transit)) = some [.none] := by
  decide
theorem test_releaseMessage : (nx (exec (.releaseMessage 0 0 0) (sMg (laneB .release (.waiting (.bar 0 0)))))).map (fun t => t.fibres.map (·.run))
    = some [.ready] := by decide

/-- R116, R58: an away lane that reaches a SEND sets out for home, where it issues it. -/
theorem test_send_returns : (nx (exec (.send hd { mask := 8, s := 0, nw := 0, a := 4 }) sAw)).map (fun t =>
    t.fibres.map fun f => (f.transit, f.pc, f.slot)) = some [(.home, 0x100, none)] := by decide
/-- R385: a billet that is on its way to a cluster which has been fenced is refused once it has waited T_guest. -/
def sFen : State := { sMg laneV with fenced := [24], now := 70000 }
theorem test_fenced_target : nx (exec (.billetArrival 0 0 0) sFen) = some sFen ∧ (nx (exec (.guestWaitTimeout 0 0 0) sFen)).map (fun t =>
    t.fibres.map fun f => (f.move, f.run)) = some [(none, .ready)] := by decide

theorem wit_Journeys :
    (sAw.cur = some { c0 with core := 96 } ∧ lanesOf sAw { c0 with core := 96 } = [laneA] ∧ block? sAw laneA.blk = some blk
        ∧ laneA.canIssue sAw = true ∧ laneA.guest.any (fun g => homeBound g (.send hd { mask := 8, s := 0, nw := 0, a := 4 })) = true)
      ∧ (fibre? sFen (key 0) = some laneV ∧ coreFenced sFen 96 = true ∧ laneV.waitSince + mv0.limit ≤ sFen.now ∧ coreFenced (sMg laneV) 96 = false)
      ∧ (fibre? (sMg laneL) (key 0) = some laneL ∧ block? (sMg laneL) 0 = some blk ∧ laneL.transit = .none ∧ lookupWaits (sMg laneL) 0 1 0x80 = none ∧ ownerOf (sMg laneL) 0 laneL.stack 1 0x80 = .stack 0)
      ∧ (fibre? (sMg laneV) (key 0) = some laneV ∧ laneV.move = some mv0 ∧ unitAsleep (sMg laneV) 24 = false ∧ guestsAt (sMg laneV) 96 0 0 < 2 ∧ 4 < laneV.regs.length ∧ laneV.pend = [])
      ∧ (fibre? sFull (key 0) = some laneV ∧ 2 ≤ guestsAt sFull 96 0 0 ∧ laneV.waitSince + mv0.limit ≤ sFull.now)
      ∧ (fibre? (sMg laneH) (key 0) = some laneH ∧ laneH.guest.isSome = true ∧ laneH.transit = .home ∧ (∃ t, released (sMg laneH) [laneH] 4 = (t, true)) ∧ laneH.pend = [])
      ∧ ∀ f ∈ [laneB .barArrival (.waiting (.bar 0 0)), laneB .joinArrival .joining, laneB .release (.waiting (.bar 0 0))], fibre? (sMg f) (key 0) = some f :=
  ⟨by decide, by decide, by decide, by decide, by decide, ⟨by decide, by decide, by decide, ⟨_, rfl⟩, by decide⟩, by decide⟩
/-! ### The directory -/

def d0 : DirP := { imm := 0, wait := false, tv := false, stg := 0, st := 0, sn := 0, c := 0 }
def name23 : BitVec 64 := 0x300000002
def whole : CapWord := mkCap 1 255 4095 0
/-- Partition 0 with object 1 of one page, whose whole is in c2; the name in s2 and s3 bound where `bound`. -/
def sD (bound : Bool) : State :=
  { worldC 0 l1 with
    parts := [{ prt with c := prt.c.set 2 whole }]
    names := if bound then [{ part := 0, name := name23, k := 0, slots := [some { obj := 1, lenM1 := 4095, rights := 255 }] }] else [] }
theorem ready_sD0 : Ready (sD false) c0 blk l1 := ready (by decide)
theorem ready_sD1 : Ready (sD true) c0 blk l1 := ready (by decide)
/-- A list of one record at offset 0 of the object in c1. -/
def sDm : State := ((sD false).writeCap 0x40000 whole).write 0x40010 16 name23.toNat
theorem ready_sDm : Ready sDm c0 blk l1 := ready (by decide)

/-- The world in whose present cycle port 3 has written c3. -/
def sD3 : State :=
  { sD true with parts := (sD true).parts.map fun q => { q with was := some { cycle := 0, s := q.s, c := q.c, sbchk := false, uw := [], cw := [(3, 3)] } } }
theorem ready_sD3 : Ready sD3 c0 blk l1 := ready (by decide)

/-- A uniform and a capability register as the next cycle sees them (R48). -/
def uns (t : State) (n : Nat) : Word := uni { t with now := t.now + 1 } (lane 0) n
def cps (t : State) (n : Nat) : CapWord := capReg { t with now := t.now + 1 } (lane 0) n

theorem test_nopen : (nx (exec (.nopen hd { d0 with sn := 2, st := 5, c := 3 }) (sD true))).map (fun t =>
    (uns t 5, cps t 3, t.dirObjs.map (·.opens), t.parts.map (·.opens))) = some (0, whole, [1], [8]) := by decide
theorem test_nopen_unbound : (nx (exec (.nopen hd { d0 with sn := 2, st := 5, c := 3 }) (sD false))).map (fun t => (uns t 5, cps t 3))
    = some (1, 0) := by decide
theorem test_nclose : (nx (exec (.nclose hd { d0 with c := 2 }) (sD true))).map (fun t => cps t 2) = some 0 := by decide
theorem test_nbind : (nx (exec (.nbind hd { d0 with sn := 2, st := 5, c := 2 }) (sD false))).map (fun t =>
    (uns t 5, t.names.map (·.name), t.dirObjs.map (·.binds))) = some (0, [name23], [1]) := by decide
theorem test_nbindm : (nx (exec (.nbindm hd { d0 with imm := 1, sn := 8, st := 5, c := 1 }) sDm)).map (fun t =>
    (uns t 5, t.names.map (·.name), t.dirObjs.map (·.binds))) = some (0, [name23], [1]) := by decide
theorem test_nring : (nx (exec (.nring hd { d0 with imm := 4, sn := 2, st := 5 }) (sD true))).map (fun t => (uns t 5, t.names.map (·.k))) = some (0, [4]) := by
  decide
/-- R133: object 1 is bound, K is 0, no open. -/
theorem test_ninfo : (nx (exec (.ninfo hd { d0 with sn := 2, st := 10 }) (sD true))).map (fun t => (uns t 10, uns t 11, uns t 12))
    = some (1, 0x80000000, 0) := by decide
theorem test_ntag : (nx (exec (.ntag hd { d0 with sn := 3 }) (sD true))).map (fun t => t.parts.map (·.dtag)) = some [3] := by decide

theorem wit_DirectoryInstructions :
    let f := lane 0
    (Ready (sD true) c0 blk l1 ∧ Ready (sD false) c0 blk l1 ∧ AtHome l1 ∧ guardTrue 0 false l1 = f :: [] ∧ featureOn (sD true) 2 = true
        ∧ featureOn (sD false) 2 = true ∧ name23 ≠ 0 ∧ uniPair (sD true) f 2 = name23)
      ∧ ((Instr.nopen hd { d0 with sn := 2, st := 5, c := 3 }).wellFormed = true ∧ (∃ e, entry? (sD true) 0 name23 = some e
          ∧ e.slots.getD (slotOf e (dirTag (sD true) f d0)) none = some { obj := 1, lenM1 := 4095, rights := 255 })
        ∧ dirObj? (sD true) 0 (canonObj 1) = none ∧ entry? (sD false) 0 name23 = none ∧ acquiring f = false ∧ capOutdone (sD true) f 3 = false
        ∧ Ready sD3 c0 blk l1 ∧ capOutdone sD3 f 3 = true ∧ descHeld (clearMask (sD true) 0 0 4) 0 [capObj whole] = none)
      ∧ ((Instr.nclose hd { d0 with c := 2 }).wellFormed = true ∧ (Instr.nbind hd { d0 with imm := 7, sn := 2, st := 5, c := 2 }).wellFormed = true
        ∧ (Instr.nring hd { d0 with imm := 8, sn := 2, st := 5 }).wellFormed = true ∧ (Instr.ninfo hd { d0 with sn := 2, st := 253 }).wellFormed = true
        ∧ (Instr.ntag hd { d0 with sn := 3 }).wellFormed = true ∧ (released (sD true) [f] 4).2 = true)
      ∧ (Ready sDm c0 blk l1 ∧ (Instr.nbindm hd { d0 with imm := 1, sn := 8, st := 5, c := 1 }).wellFormed = true ∧ (uniPair sDm f 8).toInt = 0
        ∧ listCheck sDm 0 (capReg sDm f 1) 0 1 = none
        ∧ released sDm [f] 4 = (clearMask sDm 0 0 4, true)
        ∧ (∀ i, i < 2 → translate (clearMask sDm 0 0 4) 0 1 (capOff (capReg sDm f 1) 0 + 16 * i) f.xl = .place (0x40000 + 16 * i)
          ∧ rowWaits (clearMask sDm 0 0 4) (0x40000 + 16 * i) = false ∧ (clearMask sDm 0 0 4).ue (0x40000 + 16 * i) 16 = false)
        ∧ (clearMask sDm 0 0 4).capTags.contains 0x40000 = true ∧ badRecord [(0, name23, 0)] = none
        ∧ descHeld (touch (clearMask sDm 0 0 4) 0x40000) 0 [capObj whole] = none)
      ∧ (whole ≠ 0 ∧ capRights whole % 2 = 1 ∧ capBase whole = 0 ∧ objLenM1 (sD false) 0 whole = some (capLimit whole)
        ∧ dirObj? (sD false) 0 (canonObj 1) = none ∧ ((sD false).names.filter (fun e => e.part == 0)).length < (partnOf (sD false) 0).quota
        ∧ (sD false).names.length < 65536 ∧ (sD false).Inv ∧ objName (sD false) 0 1 = .local 1 ∧ (∃ d, descOf (sD false) 0 1 = .ok d))
      ∧ dirObj? { s1 with dirObjs := [DirObj.empty 0 1] } 0 1 = some (DirObj.empty 0 1) ∧ (DirObj.empty 0 1).binds = 0 ∧ (DirObj.empty 0 1).opens = 0
        ∧ (DirObj.empty 0 1).reclaimed = false ∧ (partnOf s1 0).reclaims.length < 256 :=
  ⟨⟨ready_sD1, ready_sD0, by decide⟩, ⟨by decide, ⟨_, rfl, by decide⟩, by decide, by decide, by decide, by decide, ready_sD3, by decide⟩,
   by decide, ⟨ready_sDm, by decide⟩, ⟨by decide, by decide, by decide, by decide, by decide, by decide, by decide, by decide, by decide,
   ⟨_, rfl⟩⟩, by decide⟩

/-- R124, R338: the first binding of object 1 sets bit 92 of its descriptor. -/
theorem test_dirm : (nx (exec (.nbind hd { d0 with sn := 2, st := 5, c := 2 }) (sD false))).map (fun t => t.read (placeTable + 32 + 11) 1) = some 0x90 := by
  decide

/-- R132: an object that nothing binds or opens is reclaimed. -/
theorem test_reclaim : ((reclaimCheck { s1 with dirObjs := [DirObj.empty 0 1] } 0 1).dirObjs.map (·.reclaimed)) = [true] := by decide
/-! ### Lathes -/

/-- Partition 0 with object 1 of four rows of bank 0 of stack 0, from row 192; its whole is in c2. -/
def lx : Fibre := { lane 0 with xl := [{ obj := 1, page := 0, place := some 0x30000, cause := 0, rx := true, top := 4096 }] }
def lx1 : List Fibre := [lx]
def sL : State :=
  { (worldC 0 lx1).write 0x10020 32 (2 ^ 94 + 2 ^ 95 + 2 ^ 100 + 0x20000 * 2 ^ 192 + 4095) with
    parts := [{ prt with c := prt.c.set 2 whole }], seq := 20, serves := [(0, 1)] }
theorem ready_sL : Ready sL c0 blk lx1 := ready (by decide)
def la0 : LatheP := { slot := 0, bf := 0, dm := false, o64 := false, a := 0, s := 0, c := 2, d := 4 }
/-- A once cut on that range. -/
def reg0 : Region := { Region.blank 0 0 1 0 192 4 with state := 1, fib := key 0, opId := 2 }
def sLr (r : Region) : State := setLathe (setFibre sL (key 0) fun f => f.addOp 2 2) 0 fun l => { l with regions := [r] }
def l1r : List Fibre := [lx.addOp 2 2]
theorem ready_sLr : Ready (sLr reg0) c0 blk l1r := ready (by decide)

def v4s (t : State) : List Word := t.fibres.map fun f => f.val 4

/-- The status of a CUTREG with cut words `w` is outstanding, into v4. -/
def outC (w : Nat) : Out := cutOut sL lx 1 0x30000 4 4 w
def laneC (w : Nat) : Fibre := { lx with outs := [outC w] }
def sLc (w : Nat) : State := { sL with fibres := [laneC w], seq := 21 }

/-- R310: CUTREG goes on with its status outstanding; v4 and the lathe are as they were. -/
theorem test_cutreg : (nx (exec (.cutreg hd { la0 with s := 8 }) sL)).map (fun t => (v4s t, (latheOf t 0).regions, t.fibres.map fun f => f.outs))
    = some ([4], [], [[{ outC 0 with pc := 0x100 }]]) := by decide
/-- R97, R270: at t_reg the cut is registered, row 192 to 195 of bank 0, with status 0. -/
theorem test_cutreg_entered : (nx (exec (.loadComplete 0 0 2048) (sLc 0))).map (fun t => (v4s t, (latheOf t 0).regions.map (fun r => [r.bank, r.row, r.n, r.state]),
    t.fibres.map fun f => (f.counter 2, f.outs))) = some ([0], [[0, 192, 4, 1]], [(1, [])]) := by decide
/-- R97: a region that meets another is not registered, status 4. -/
def sLcb : State := setLathe (sLc 0) 0 fun l => { l with regions := [reg0] }
theorem test_cutreg_overlap : (nx (exec (.loadComplete 0 0 2048) sLcb)).map (fun t => (v4s t, (latheOf t 0).regions)) = some ([4], [reg0]) := by decide
/-- R374: a stack that does not serve the partition has no entry for it, status 5. -/
theorem test_cutreg_full : (nx (exec (.loadComplete 0 0 2048) { sLc 0 with serves := [] })).map v4s = some [5] := by decide
/-- R28, R97: the cut of a lane that has exited is registered too. -/
def sLeft : State := { sLc 0 with fibres := [lane 1], leftCuts := [{ fib := key 0, blk := 0, fid := 0, out := outC 0 }] }
theorem test_cutreg_left : (nx (exec (.loadComplete 0 0 2048) sLeft)).map (fun t => (t.leftCuts, (latheOf t 0).regions.map (fun r => [r.row, r.n])))
    = some ([], [[192, 4]]) := by decide
/-- R310: a load after a CUTREG performs before its cut is entered. -/
theorem test_load_passes_cut :
    let o := { loadOut lx .load false 0x40080 4 3 tI32 0 0 1 0x80 with id := 1 }
    (nx (exec (.loadComplete 0 0 0) { sLc 0 with fibres := [{ lx with outs := [outC 0, o] }] })).map (fun t => t.fibres.map (·.outs.map (·.kind)))
      = some [[.cut]] := by decide
theorem test_cutdrop : (nx (exec (.cutdrop hd la0) (sLr reg0))).map (fun t => (v4s t, (latheOf t 0).regions, t.fibres.map fun f => f.counter 2))
    = some ([0], [], [0]) := by decide
theorem test_cutboost : (nx (exec (.cutboost hd { la0 with bf := 2 }) (sLr reg0))).map (fun t => (v4s t, (latheOf t 0).regions.map (·.boost)))
    = some ([0], [4]) := by decide
theorem test_rowstat : (nx (exec (.rowstat hd la0) (sLr { reg0 with state := 2 }))).map (fun t => (latheOf t 0).regions) = some [] := by decide
/-- R274: offset 0x80 of object 1, whose page lies at 0x40000: row 256 of bank 0. -/
theorem test_swpos : nx (exec (.swpos hd { la0 with a := 8, c := 1 }) s1)
    = some (past (setFibre (touch s1 0x40080) (key 0) fun x => x.writeNow (.reg 4 { val := swposWord s1 0x40080, tag := tI32 })) c0 l1 hd) := by decide
/-- R275: a program of COPY C1 into D0, END at offset 0x80 of the scratchpad. -/
def sLp : State := { spadWrite sL (spadCell blk 0x80) 8 (2 ^ 28 + 1 * 2 ^ 21 + 2 * 2 ^ 14) with seq := 21 }
theorem ready_sLp : Ready sLp c0 blk lx1 := ready (by decide)
def lp0 : LatheP := { la0 with slot := 3, a := 8 }
theorem test_rowprog : (nx (exec (.rowprog hd lp0) sLp)).map (fun t => (v4s t, (latheOf t 0).progs.map (·.1), slotWords (latheOf t 0) 3))
    = some ([0], [3], [0x10208000, 0]) := by decide
/-- The program of COPY C1 into X+1, END in slot 0. -/
def sLo : State := setLathe sL 0 fun l => { l with progs := [(0, 0, [BitVec.ofNat 32 (2 ^ 28 + 1 * 2 ^ 21 + 33 * 2 ^ 14), 0])] }
theorem ready_sLo : Ready sLo c0 blk lx1 := ready (by decide)
theorem test_rowop : (nx (exec (.rowop hd { la0 with s := 8 }) sLo)).map (fun t => (v4s t, (latheOf t 0).regions.map (fun r => (r.isProg, r.bank, r.sub)),
    t.fibres.map fun f => f.counter 2)) = some ([0], [(true, 0, 0)], [1]) := by decide

theorem wit_CutStatus :
    let s : Nat → State := sLc
    (∀ w ∈ [0, 0x200, 0x80000000], (∃ f, fibre? (s w) (key 0) = some f ∧ f.outs.find? (fun y => y.kind == .cut) = some (outC w)) ∧ (outC w).kind = .cut
        ∧ rowAt (outC w).addr = some { stack := 0, bank := 0, row := 192 } ∧ block? (s w) 0 = some blk ∧ asleep (s w) 0 = false
        ∧ regionBusy (latheOf (s w) 0) 0 192 4 = false ∧ freeEntry (s w) 0 0 = some 0)
      ∧ (∀ w ∈ [0, 0x200], cutWordsBad (BitVec.ofNat 32 w) 0 0 0 = false) ∧ cutWordsBad 0x80000000 0 0 0 = true
      ∧ (fibre? sLeft (key 0) = none ∧ (∃ q, sLeft.leftCuts.find? (fun c => c.fib == key 0) = some q ∧ q.blk = 0 ∧ q.out = outC 0))
      ∧ (fibre? sLcb (key 0) = some (laneC 0) ∧ regionBusy (latheOf sLcb 0) 0 192 4 = true) ∧ freeEntry { s 0 with serves := [] } 0 0 = none :=
  ⟨by intro w h; fin_cases h <;> exact ⟨⟨_, rfl, by decide⟩, by decide, by decide, by decide, by decide, by decide, by decide⟩,
   by decide, by decide, ⟨by decide, _, rfl, by decide⟩, by decide⟩

theorem wit_LatheInstructions :
    let f := lx
    (Ready sL c0 blk lx1 ∧ AtHome lx1 ∧ guardTrue 0 false lx1 = f :: [] ∧ featureOn sL 0 = true ∧ Clear lx1 [4] ∧ f.outs = [] ∧ storesOf sL f.key = []
        ∧ rangeOf sL 0 whole f.xl = .rows 0 0 192 4 ∧ latheRights sL 0 whole (rCUT + rWR) = none ∧ capReg sL f 2 = whole)
      ∧ ((Instr.cutreg hd { la0 with s := 8 }).wellFormed = true ∧ reqRoom sL 0 1 = true ∧ asleep sL 0 = false ∧ freeEntry sLo 0 0 = some 0
        ∧ f.counter 2 < 63)
      ∧ ((Instr.cutdrop hd la0).wellFormed = true ∧ cutEntry sL 0 0 0 192 4 = none ∧ Ready (sLr reg0) c0 blk l1r ∧ cutEntry (sLr reg0) 0 0 0 192 4 = some reg0
        ∧ rangeOf (sLr reg0) 0 whole f.xl = .rows 0 0 192 4)
      ∧ ((Instr.cutboost hd { la0 with bf := 2 }).wellFormed = true ∧ reg0.boost ≤ 2 ^ 2)
      ∧ ((Instr.swpos hd { la0 with a := 8, c := 1 }).wellFormed = true ∧ Clear l1 [8, 4] ∧ checkRegs (lane 0) [8] = none
        ∧ accessCheck s1 0 cap1 (offVal (lane 0) 8 false) 1 rRD = none ∧ translate s1 0 1 0x80 (lane 0).xl = .place 0x40080
        ∧ farWindow s1 0 1 = false ∧ rowAt 0x40080 = some { stack := 0, bank := 0, row := 256 } ∧ asleep s1 0 = false)
      ∧ ((Instr.rowstat hd { la0 with dm := true, a := 0 }).wellFormed = true ∧ checkTag none (f.reg 0) = none ∧ (f.val 0).toNat = 0 ∧ 0 + 512 ≤ blk.spadSize
        ∧ (∀ i ∈ List.range 32, (sLr reg0).isLive (spadCell blk (16 * i)) = false) ∧ fifoRoom (sLr reg0) 0 0 32 = true
        ∧ Clear l1r [0])
      ∧ ((Instr.rowstat hd la0).wellFormed = true ∧ Clear l1r [4, 5, 6, 7] ∧ anyEntry (sLr reg0) 0 0 0 192 4 = some reg0 ∧ reg0.isProg = false)
      ∧ (Ready sLp c0 blk lx1 ∧ (Instr.rowprog hd lp0).wellFormed = true ∧ Clear lx1 [8, 4] ∧ latheRights sLp 0 whole rCUT = none ∧ checkTag none (f.reg 8) = none
        ∧ readSteps sLp (spadCell blk 0x80) ((blk.spadSize - 0x80) / 4) 256 0 = ([0x10208000, 0], false) ∧ f.reading = false ∧ ownPending sLp f true 0 0x80 8 = false
        ∧ sLp.ue (spadCell blk 0x80) 8 = false ∧ translate sLp 0 1 0 f.xl = .place 0x30000 ∧ rowAt 0x30000 = some { stack := 0, bank := 0, row := 192 }
        ∧ badStep [0x10208000, 0] = none ∧ slotDenied sLp 0 0 3 = false ∧ (latheOf sLp 0).regions = []
        ∧ objName sLp 0 1 = .local (canonObj 1) ∧ asleep sLp 0 = false)
      ∧ Ready sLo c0 blk lx1 ∧ (Instr.rowop hd { la0 with s := 8 }).wellFormed = true ∧ (latheOf sLo 0).regions = []
        ∧ operandRows (slotWords (latheOf sLo 0) 0) 0 0 0 = [1] ∧ slotWords (latheOf sLo 0) 0 ≠ [] ∧ rangeOf sLo 0 whole f.xl = .rows 0 0 192 4 ∧ slotDenied sLo 0 0 0 = false ∧ asleep sLo 0 = false :=
  ⟨⟨ready_sL, by decide⟩, by decide, ⟨by decide, by decide, ready_sLr, by decide⟩, by decide, by decide, by decide, by decide, ⟨ready_sLp, by decide⟩, ready_sLo, by decide⟩

/-- R277: with DM a status of four words and a done map of 512 bytes, in 32 stores to the scratchpad. -/
theorem test_rowstat_dm : (nx (exec (.rowstat hd { la0 with dm := true, a := 0 }) (sLr { reg0 with dmap := [3] }))).map (fun t =>
    ((portOf t 0 0).fifo.map fun x => (x.off, x.data)).take 2 ++ [((portOf t 0 0).fifo.length, 0)]) = some [(0, 8), (16, 0), (32, 0)] := by decide

theorem test_rowRestore : (nx (exec (.rowRestore 0 0) { sLr { reg0 with row := 0 } with now := 10 ^ 9 })).map (fun t =>
    (mapGet (latheOf t 0).sweep 0 0, (latheOf t 0).regions.map (·.done))) = some (1, [1]) := by decide
/-- A held cut with a row that an access waits for since T_pf. -/
def sHeld : State := { setLathe (sLr { reg0 with held := true }) 0 (fun l => { l with waits := [(0, 193, 5)] }) with now := 10 }
theorem test_pullForward : (nx (exec (.pullForward 0 0 193) sHeld)).map (fun t => ((latheOf t 0).regions.map (·.dmap), (latheOf t 0).waits)) = some ([[1]], []) := by
  decide
/-- A running program at its END. -/
def regP (step : Nat) : Region := { reg0 with isProg := true, state := 0, running := true, step := step }
def sProg (r : Region) : State := setLathe (sLr r) 0 fun l => { l with progs := [(0, 0, [BitVec.ofNat 32 (2 ^ 28 + 1 * 2 ^ 21 + 2 * 2 ^ 14), BitVec.ofNat 32 (2 ^ 29 + 2 * 2 ^ 21 + 4 * 2 ^ 14 + 6 * 2 ^ 7), 0])] }
theorem test_rowProgramStep : (nx (exec (.rowProgramStep 0 0) (sProg (regP 2)))).map (fun t => ((latheOf t 0).regions, t.fibres.map fun f => f.counter 2))
    = some ([], [0]) := by decide
def sWdog : State := { sLr reg0 with now := 10 ^ 9 }
theorem test_sequencerWatchdogReset : (nx (exec (.sequencerWatchdogReset 0) sWdog)).map (fun t => (latheOf t 0).regions.map fun r => (r.state, r.aborted))
    = some [(4, true)] := by decide
theorem test_saveModeEnter : (nx (exec (.saveModeEnter 0) s1)).map (fun t => (latheOf t 0).save) = some true := by decide
theorem test_saveModeRestore : (nx (exec (.saveModeRestore 0) (setLathe s1 0 fun l => { l with save := true }))).map (fun t => (latheOf t 0).save) = some false := by
  decide

/-- R100: where the boost of a bank falls, a pending once cut keeps the turns that its bound asks for: a cut registered at a boost of 4, of whose
bank another region asked for it, keeps 4 when that region is dropped. -/
def reg4 : Region := { reg0 with floor := 4 }
def regB : Region := { Region.blank 1 0 1 0 200 4 with stand := true, state := 3, boost := 4 }
theorem test_boost_falls : (latheOf (delRegion (setLathe (sLr reg4) 0 fun l => { l with regions := [reg4, regB] }) 0 1) 0).regions.map (fun r => (r.idx, r.floor))
    = [(0, 4)] ∧ boostOf (latheOf (sLr reg4) 0) 0 = 4 := by decide
/-- R95, R100: above 85 °C the bound of a cut is W/b from then with the boost that its bank has. -/
theorem test_temperature : ((latheOf (sLr { reg0 with boost := 2 }) 0).holdBoost fun _ => true).regions.map (·.floor) = [2] := by decide

theorem wit_LatheEvents :
    ((latheOf (sLr reg0) 0).save = false ∧ mapGet (latheOf (sLr reg0) 0).turnAt 0 (tRow (latheOf (sLr reg0) 0) 0) ≤ 64 * 10 ^ 9
        ∧ 64 * (sLr reg0).now < mapGet (latheOf (sLr reg0) 0).turnAt 0 (tRow (latheOf (sLr reg0) 0) 0))
      ∧ (reg0.isProg = false ∧ reg0.stand = false ∧ reg0.state = 1 ∧ reg0.row ≤ 195 ∧ 195 < reg0.row + reg0.n ∧ (sLr reg0).ueMarks = []
        ∧ (∀ x ∈ (latheOf (sLr reg0) 0).regions, x.idx = reg0.idx → x = reg0) ∧ reg0.start < reg0.n ∧ reg0.done < reg0.n
        ∧ (reg0.start + reg0.done) % reg0.n = 192 - reg0.row ∧ (195 - 3 = reg0.row)
        ∧ reg0.oncePending = true ∧ 0 < reg0.floor ∧ reg0 ∈ (latheOf (sLr reg0) 0).regions)
      ∧ ((latheOf sHeld 0).regions.find? (fun x => x.idx == 0) = some { reg0 with held := true } ∧ Region.pendingAt { reg0 with held := true } 0 193 = true
        ∧ (0, 193, 5) ∈ (latheOf sHeld 0).waits ∧ 5 ≤ sHeld.now ∧ (latheOf sHeld 0).save = false ∧ (latheOf sWdog 0).save = false
        ∧ (latheOf (sProg (regP 0)) 0).save = false)
      ∧ ((latheOf s1 0).hot = false ∧ bankHead (latheOf (sProg { regP 0 with running := false }) 0) 0 = some { regP 0 with running := false })
      ∧ (∀ i ∈ [0, 1, 2], bankHead (latheOf (sProg (regP i)) 0) 0 = some (regP i) ∧ stepOpc ((slotWords (latheOf (sProg (regP i)) 0) 0).getD i 0) = (i + 1) % 3)
      ∧ (sysGet sWdog monPart 0x4005 % 2 ^ 32 * Config.cycles1us ≠ 0 ∧ hasWork (latheOf sWdog 0) = true
        ∧ (latheOf sWdog 0).workAt + sysGet sWdog monPart 0x4005 % 2 ^ 32 * Config.cycles1us ≤ sWdog.now)
      ∧ (latheOf s1 0).save = false ∧ (latheOf (setLathe s1 0 fun l => { l with save := true }) 0).save = true :=
  by decide
set_option exponentiation.threshold 2100
/-! ### Matrix engines and streamers -/

/-- The world with a 64-byte block `v` at offset 0x80 of the scratchpad and a live barrier object at offset 0x200, its block member 0 of a gang. -/
def bm : Nat := spadCell blk 0x200
def withBlock (v : Nat) : State :=
  { spadWrite (putBarObj (sG.setLive bm true) bm { phase := 0, expect := 2, arrived := 0, pending := 0, waiters := 0 }) (spadCell blk 0x80) 64 v with seq := 9 }
/-- BF16, one rung BF16, B from tile 1, C tile 0, K 64, A at 0x400. -/
def mxv : Nat := 2 * 2 ^ 8 + 1 * 2 ^ 4 + 1 * 2 ^ 10 + 4 * 2 ^ 12 + 0x400 * 2 ^ 96 + 16 * 2 ^ 128 + 0x200 * 2 ^ 192
def sMx : State := withBlock mxv
theorem ready_sMx : Ready sMx c0 blkG l1 := ready (by decide)

theorem test_mxop : (nx (exec (.mxop hd { a := 8 }) sMx)).map (fun t =>
    ((barObj t bm).pending, t.fibres.map (fun f => f.counter 1), (engineOf t 0).entries.map (·.idx))) = some (1, [1], [0]) := by decide

/-- A tile of I32 words whose element 5 is 55, whatever the others. -/
def sT : State := setTile s1 (tileNo blk 1) fun t => { t with tag := tI32, els := t.els.set 5 55 }
theorem ready_sT : Ready sT c0 blk l1 := ready (by decide)
def el0 : MxElemP := { w4 := false, m := 1, a := 5, d := 6 }

theorem test_mxrd : (nx (exec (.mxrd hd el0) sT)).map (fun t => t.fibres.map fun f => f.reg 6) = some [i32 55] := by decide
theorem test_mxwr : (nx (exec (.mxwr hd el0) sT)).map (fun t => ((tileOf t (tileNo blk 1)).els.getD 5 0, (tileOf t (tileNo blk 1)).tag)) = some (6, tI32) := by decide
theorem test_mxclr : (nx (exec (.mxclr hd { m := 1 }) sT)).map (fun t => ((tileOf t (tileNo blk 1)).els.getD 5 0, (tileOf t (tileNo blk 1)).tag)) = some (0, tRaw) := by
  decide
theorem test_mxstat : (nx (exec (.mxstat hd { sel := 0, d := 6 }) s1)).map (fun t => t.fibres.map fun f => (f.val 6, (f.reg 7).tag)) = some [(0, tI64hi)] := by decide

/-- 16 bytes from 0x400 to 0x800 of the scratchpad; with MMASK 1; one row of 16 bytes; from object 7 of another device to 0x800. -/
def cyS : Nat := 2 ^ 19 + 2 ^ 18 + 0x400 * 2 ^ 64 + 0x800 * 2 ^ 128 + 16 * 2 ^ 256
def cyM : Nat := cyS + 2 ^ 288
def cyT : Nat := 2 ^ 19 + 2 ^ 18 + 0x400 * 2 ^ 64 + 0x800 * 2 ^ 128 + 1 * 2 ^ 288 + 16 * 2 ^ 320 + 16 * 2 ^ 352 + 16 * 2 ^ 384
def cyX : Nat := 2 ^ 18 + 5 * 2 ^ 15 + 3 * 2 ^ 24 + 0x400 * 2 ^ 64 + 0x800 * 2 ^ 128 + 16 * 2 ^ 256
def far (d : Nat) : CapWord := mkCap (2 ^ 31 + 2 ^ 21 * d + 7) 255 65535 0
def sCyD (d v : Nat) : State := { withBlock v with parts := [{ prt with c := prt.c.set 3 (far d) }] }
def sCy (v : Nat) : State := sCyD 9 v
theorem ready_cyS : Ready (sCy cyS) c0 blkG l1 := ready (by decide)
theorem ready_cyM : Ready (sCy cyM) c0 blkG l1 := ready (by decide)
theorem ready_cyT : Ready (sCy cyT) c0 blkG l1 := ready (by decide)
theorem ready_cy8 : Ready (sCyD 8 cyX) c0 blkG l1 := ready (by decide)
theorem ready_cy9 : Ready (sCyD 9 cyX) c0 blkG l1 := ready (by decide)

/-- Device 8 or device 9 is another device, whichever this one is. -/
theorem far_remote (d : Nat) (hd : d = 8 ∨ d = 9) (h : Config.deviceNumber.toNat ≠ d) (s : State) (p : Nat) : objName s p (capObj (far d)) = .remote d 7 := by
  rcases hd with rfl | rfl
  · have e : capObj (far 8) = 2 ^ 31 + 2 ^ 21 * 8 + 7 := by decide
    rw [e, objName]; simp [Ne.symm h]
  · have e : capObj (far 9) = 2 ^ 31 + 2 ^ 21 * 9 + 7 := by decide
    rw [e, objName]; simp [Ne.symm h]

theorem remote_cy (d : Nat) (hd : d = 8 ∨ d = 9) (h : Config.deviceNumber.toNat ≠ d) (s : State) (p : Nat) : isRemote s p (far d) = true := by
  rw [isRemote, far_remote d hd h]

theorem chk_cy (d : Nat) (hd : d = 8 ∨ d = 9) (h : Config.deviceNumber.toNat ≠ d) (s : State) (hc : capReg s (lane 0) 3 = far d)
    (hk : kernel? s blkG.kernel = some kern) : firstTrap (cyChk s blkG (lane 0) 3 cyX) = none := by
  have r := remote_cy d hd h s blkG.part
  have e : cyScap cyX = 3 := by decide
  have m : cyMalformed s blkG 3 cyX (far d) (capReg s (lane 0) (cyDcap cyX)) = false := by
    unfold cyMalformed
    rw [r]
    generalize capReg s (lane 0) (cyDcap cyX) = k
    rcases hd with rfl | rfl <;> rfl
  have n := far_remote d hd h s blkG.part
  have q : (sideChk s blkG (cySsp cyX) (far d) (cySrc cyX) (srcShape 3 cyX).size rRD).map (·.1) = [none, none, none] := by
    unfold sideChk
    rw [n]
    rcases hd with rfl | rfl <;> decide
  unfold firstTrap cyChk
  dsimp only
  rw [e, hc, m, hk]
  simp only [Bool.false_eq_true, if_false, List.map_append, q]
  rfl

def cySeen (r : Result) : Option (List (Nat × Bool) × List Nat) :=
  (nx r).map fun t => (t.copies.map fun c => (c.kind, c.started), t.fibres.map fun f => f.counter 0)
theorem test_cpy : cySeen (exec (.cpy hd { a := 8 }) (sCy cyS)) = some ([(0, true)], [1]) := by decide
theorem test_cpym : cySeen (exec (.cpym hd { a := 8 }) (sCy cyM)) = some ([(1, true)], [1]) := by decide
theorem test_cpyt : cySeen (exec (.cpyt hd { a := 8 }) (sCy cyT)) = some ([(2, true)], [1]) := by decide

theorem wit_EngineInstructions :
    let f := lane 0
    (AtHome l1 ∧ guardTrue 0 false l1 = f :: [] ∧ (∀ g ∈ l1, g.lost = false) ∧ Clear l1 [8] ∧ checkTag none (f.reg 8) = none ∧ (f.val 8).toNat = 0x80)
      ∧ (Ready sMx c0 blkG l1 ∧ (Instr.mxop hd { a := 8 }).wellFormed = true ∧ sMx.read (spadCell blkG 0x80) 64 = mxv ∧ sMx.ue (spadCell blkG 0x80) 64 = false
        ∧ ownPending sMx f true 0 0x80 64 = false ∧ ownPending sMx f true 0 (mxIxoff mxv) 128 = false ∧ firstTrap (mxChk sMx blkG f mxv) = none
        ∧ lowestFree ((engineOf sMx blkG.cluster).entries.map (·.idx)) 32 = some 0 ∧ f.counter 1 < 63 ∧ tileBusy sMx blkG (mxBt mxv) true = false
        ∧ f.reading = false ∧ (∀ n ∈ mxTiles blkG mxv, tileLate sMx f.key.port n = false) ∧ (barObj sMx (mxBar blkG mxv)).pending < 2 ^ 24 - 1)
      ∧ (Ready sT c0 blk l1 ∧ 1 < blk.tileN ∧ tileHeld sT blk 1 [f] = false ∧ Clear l1 (5 :: elemRegs el0) ∧ (tileOf sT (tileNo blk 1)).tag ≠ tInvalid
        ∧ (Instr.mxrd hd el0).wellFormed = true ∧ (Instr.mxwr hd el0).wellFormed = true ∧ checkRegs f (5 :: elemRegs el0) = none
        ∧ (Instr.mxclr hd { m := 1 }).wellFormed = true)
      ∧ ((∀ k ∈ [0, 1, 2], (Instr.mxstat hd { sel := k, d := 6 }).wellFormed = true) ∧ Clear l1 [6, 7])
      ∧ (Ready (sCy cyS) c0 blkG l1 ∧ Ready (sCy cyM) c0 blkG l1 ∧ Ready (sCy cyT) c0 blkG l1
        ∧ ∃ d, Ready (sCyD d cyX) c0 blkG l1 ∧ (sCyD d cyX).read (spadCell blkG 0x80) 64 = cyX ∧ ownPending (sCyD d cyX) f true 0 0x80 64 = false
          ∧ firstTrap (cyChk (sCyD d cyX) blkG f 3 cyX) = none)
      ∧ ((Instr.cpy hd { a := 8 }).wellFormed = true ∧ (Instr.cpym hd { a := 8 }).wellFormed = true ∧ (Instr.cpyt hd { a := 8 }).wellFormed = true
        ∧ (Instr.cpyx hd { a := 8 }).wellFormed = true)
      ∧ (∀ x ∈ [(0, cyS), (1, cyM), (2, cyT)], (sCy x.2).read (spadCell blkG 0x80) 64 = x.2 ∧ ownPending (sCy x.2) f true 0 0x80 64 = false
        ∧ firstTrap (cyChk (sCy x.2) blkG f x.1 x.2) = none ∧ (sCy x.2).copies = [])
      ∧ lowestFree [] queueSize = some 0 ∧ f.counter 0 < 63 :=
  ⟨by decide, ⟨ready_sMx, by decide⟩, ⟨ready_sT, by decide⟩, by decide, ⟨ready_cyS, ready_cyM, ready_cyT,
   by
     by_cases h : Config.deviceNumber.toNat = 9
     · exact ⟨8, ready_cy8, by decide, by decide, chk_cy 8 (.inl rfl) (by omega) _ rfl (by decide)⟩
     · exact ⟨9, ready_cy9, by decide, by decide, chk_cy 9 (.inr rfl) h _ rfl (by decide)⟩⟩,
   by decide⟩

/-- Entries of the engine of cluster 0: one that waits for 32 words of its operand port, one that may become active, one that is active. -/
def me0 : MxEntry := mxEntry sMx blkG (lane 0) 0 mxv
def meP : MxEntry := mxEntry sMx blkG (lane 0) 0 (mxv + 2 ^ 25)
def meA : MxEntry := { me0 with active := true }
def meG : MxEntry := { meA with granted := true }
def sE (e : MxEntry) : State := setEngine sMx 0 fun g => { g with entries := [e] }
def blkP : Block := { blkG with opPort := [List.replicate 40 7] }
def sEP : State := { sE meP with blocks := [blkP] }
/-- At step 0, a long time after the first pass, and a long time later still. -/
def sE0 : State := { setEngine (sE meA) 0 (fun g => { g with firstPass := [(0, 0)] }) with now := 10 ^ 8 }

/-- R297: 32 of the 40 words are taken, each with two entries. -/
theorem test_gatherComplete : (nx (exec (.gatherComplete 0 0) sEP)).map (fun t =>
    ((engineOf t 0).entries.map (fun e => (e.needPort, e.index.take 2)), t.blocks.map (·.opPort))) = some ([(false, [7, 0])], [[List.replicate 8 7]]) := by decide
theorem test_passSlot : (nx (exec (.passSlot 0) sE0)).map (fun t => (engineOf t 0).entries.map (·.granted)) = some [true] := by decide
theorem test_passStarvation : (nx (exec (.passStarvation 0) { sE meA with now := 16384 })).map (fun t => (engineOf t 0).starving) = some (some 0) := by decide

/-- A copy command whose first granule comes next. -/
def cp0 : Copy :=
  { cluster := 0, id := 9, slot := 0, kind := 0, blk := 0, fib := key 0, fid := 0, pc := 0x100, opId := 9, words := wordsN cyS 16, scap := 0, dcap := 0
    started := true, index := 0, waits := [], xl := [] }
def sCopy : State := { setFibre (spadWrite (withBlock cyS) (spadCell blk 0x400) 16 0x1234) (key 0) (fun f => f.addOp 9 0) with copies := [cp0] }

/-- R259: the only granule is copied and filled, and the command completes. -/
theorem test_copyGranuleWrite : (nx (exec (.copyGranuleWrite 0 9) sCopy)).map (fun t =>
    (t.read (spadCell blk 0x800) 16, t.isFull (spadCell blk 0x800), t.copies, t.fibres.map fun f => f.counter 0)) = some (0x1234, true, [], [0]) := by decide

/-- R264: one row's granules go on past its stride. -/
theorem test_oneRow : ({ rows := 1, rb := 64, stride := 16 } : Shape).rowsAt 16 = [(0, 16)] := by decide

/-- R141, R144: a count above its budget passes it; none passes 0xFFFF. -/
theorem test_passes : (passes 4 3, passes 3 3, passes 0x10000 0xFFFF) = (true, false, false) := by decide

theorem wit_EngineEvents :
    (block? sEP 0 = some blkP ∧ blkP.cluster = 0 ∧ blkP.frozen = false ∧ (engineOf sEP 0).entries = [meP] ∧ meP.active = false ∧ meP.needPort = true
        ∧ 32 ≤ (blkP.opPort.map List.length).sum)
      ∧ (block? (sE me0) 0 = some blkG ∧ (engineOf (sE me0) 0).entries = [me0] ∧ me0.active = false ∧ me0.needPort = false ∧ mxBlocked [me0] me0 = false
        ∧ mxReady (sE me0) me0 = true ∧ (∀ i ∈ me0.index, rowEnd me0.blkBits i ≤ blkG.spadSize) ∧ gatherUe (sE me0) blkG me0.blkBits me0 = false
        ∧ keepMask (sE me0) blkG me0.blkBits = some [])
      ∧ (meA.granted = false ∧ (engineOf sE0 0).lastEnd ≤ sE0.now ∧ (engineOf sE0 0).slotAt ≤ sE0.now ∧ (engineOf sE0 0).entries = [meA] ∧ meA.waits = []
        ∧ passReady sE0 blkG meA = true ∧ passReady (sE meA) blkG meA = true ∧ starvedAt sE0.now (engineOf sE0 0) meA = true
        ∧ ((engineOf (sE meA) 0).entries = [meA] ∧ starvedAt (sE meA).now (engineOf (sE meA) 0) meA = false) ∧ 8 ≤ (engineOf sE0 0).credit + 8 - effStep sE0 (engineOf sE0 0) 0 0
        ∧ (engineOf (sE meA) 0).credit + 8 - effStep (sE meA) (engineOf (sE meA) 0) 0 0 < 8)
      ∧ (meA.active = true ∧ (engineOf sE0 0).starving = none ∧ meA.lastGrant + 16384 ≤ sE0.now)
      ∧ ((engineOf { sE meG with now := 1000 } 0).entries.find? (·.granted) = some meG ∧ meG.lastGrant + passClocks meG.blkBits meG ≤ 1000
        ∧ wideRows blkG meG.blkBits meG = [])
      ∧ (sysGet sE0 monPart 0x4005 / 2 ^ 32 * Config.cycles1us ≠ 0
        ∧ max (engineOf sE0 0).lastEnd meA.activeAt + sysGet sE0 monPart 0x4005 / 2 ^ 32 * Config.cycles1us ≤ sE0.now)
      ∧ (sCopy.copies.find? (fun x => x.cluster == 0 && x.id == 9) = some cp0 ∧ block? sCopy 0 = some blkG ∧ copyReady sCopy cp0 = true ∧ cySsp cp0.bits = true
        ∧ cyDsp cp0.bits = true ∧ (granBits 0 cp0.bits 0).length = 16 ∧ (∀ l ∈ granBits 0 cp0.bits 0, l.length = 1) ∧ sCopy.ueMarks = [] ∧ cp0.kind ≠ 1 ∧ blkG.frozen = false
        ∧ dstCells sCopy blkG cp0 0 = [spadCell blkG 0x800] ∧ sCopy.isLive (spadCell blkG 0x800) = false ∧ sCopy.lathes = []) :=
  by decide

/-- R135: an entry that has waited 16 384 cycles goes ahead of one of a higher priority. -/
def meY : MxEntry := { meA with idx := 1, lastGrant := 10 ^ 8, prio := 7 }
theorem test_starved : (nx (exec (.passSlot 0) (setEngine sE0 0 fun g => { g with entries := [meA, meY] }))).map (fun t =>
    (engineOf t 0).entries.map (·.granted)) = some [true, false] := by decide
/-! ### Gangs -/

/-- A second block and a gang of both, its member 0 in core 0. -/
def gang2 : Gang := { id := 5, kernel := 0, members := [0, 1], killed := [false, false], votes := [none, none], voteDom := false, voteFwd := none, voteKill := false, syncs := [false, false] }
def sG2 (g : Gang) (fs : List Fibre) : State := { world fs with blocks := [blkG, { blkG with id := 1, member := 1, spadAt := 8192 }], gangs := [g] }
theorem ready_sG2 : Ready (sG2 gang2 l2) c0 blkG l2 := ready (by decide)

theorem test_gsync : (nx (exec (.gsync hd { pd := 3 }) (sG2 gang2 l2))).map (fun t => (t.gangs.map (·.syncs), t.fibres.map (·.run)))
    = some ([[true, false]], [.waiting (.sync 3), .waiting (.sync 3)]) := by decide
/-- R152: p0 is true. -/
theorem test_nfvote : (nx (exec (.nfvote hd { dom := false, psn := false, ps := 0, pd := 3 }) (sG2 gang2 l2))).map (fun t =>
    (t.gangs.map (·.votes), t.fibres.map (·.run))) = some ([[some true, none]], [.waiting (.vote 3), .waiting (.vote 3)]) := by decide
theorem test_lscale : (nx (exec (.lscale hd { imm := 0xFC, s := 0, iv := true, acc := true }) (sG2 gang2 l2))).map (fun t => t.blocks.map (·.lsst.eacc))
    = some [0xFC, 0] := by decide
theorem test_lscale_send : (nx (exec (.lscale hd { imm := 0, s := 3, iv := false, acc := false }) (sG2 gang2 l2))).map (fun t =>
    (t.blocks.map (·.lsst.esend), t.msgs.map (·.kind))) = some ([3, 0], [.esend 1 3]) := by decide

/-- Both members have contributed, the lane of block 0 waiting. -/
def laneW (w : Wait) : Fibre := { lane 0 with run := .waiting w, slot := none }
def gangFull : Gang := { gang2 with votes := [some false, some true], syncs := [true, true] }
theorem test_voteRoundComplete : (nx (exec (.voteRoundComplete 5) (sG2 gangFull [laneW (.vote 3)]))).map (fun t =>
    (t.gangs.map (·.votes), t.fibres.map fun f => (f.pred 3, f.run))) = some ([[none, none]], [(true, .ready)]) := by decide
theorem test_syncRoundComplete : (nx (exec (.syncRoundComplete 5) (sG2 gangFull [laneW (.sync 3)]))).map (fun t =>
    (t.gangs.map (·.syncs), t.fibres.map fun f => (f.pred 3, f.run))) = some ([[false, false]], [(false, .ready)]) := by decide
/-- R153, R154: a domain round of one gang ends with the OR of its flags; in one whose other gang has retired with a killed member it is 1, with
VKILL. -/
def gangDom : Gang := { gangFull with votes := [some false, some false], voteDom := true }
theorem test_voteRound_domain : (nx (exec (.voteRoundComplete 5) (sG2 gangDom [laneW (.vote 3)]))).map (fun t =>
    (t.gangs.map (·.votes), t.fibres.map (·.pred 3), t.blocks.map (·.lsst.vkill))) = some ([[none, none]], [false], [false, false]) := by decide
theorem test_voteRound_retired : (nx (exec (.voteRoundComplete 5) (sG2 { gangDom with voteKill := true } [laneW (.vote 3)]))).map (fun t =>
    (t.fibres.map (·.pred 3), t.blocks.map (·.lsst.vkill))) = some ([true], [true, true]) := by decide
theorem test_voteRound_waits : nx (exec (.voteRoundComplete 5) (sG2 gang2 l2)) = some (sG2 gang2 l2) := by decide
theorem test_syncRound_waits : nx (exec (.syncRoundComplete 5) (sG2 gang2 l2)) = some (sG2 gang2 l2) := by decide

theorem wit_Gangs :
    (Ready (sG2 gang2 l2) c0 blkG l2 ∧ AtHome l2 ∧ guardTrue 0 false l2 = lane 0 :: [lane 1] ∧ featureOn (sG2 gang2 l2) 3 = true
        ∧ blkG.gang.bind (gang? (sG2 gang2 l2)) = some gang2 ∧ (Instr.gsync hd { pd := 3 }).wellFormed = true ∧ gang2.syncs.getD 0 false = false
        ∧ ∃ t, released (sG2 gang2 l2) l2 4 = (t, true))
      ∧ ((Instr.nfvote hd { dom := false, psn := false, ps := 0, pd := 3 }).wellFormed = true ∧ gang2.votes.getD 0 none = none
        ∧ (Instr.lscale hd { imm := 0xFC, s := 0, iv := true, acc := true }).wellFormed = true
        ∧ (Instr.lscale hd { imm := 0, s := 3, iv := false, acc := false }).wellFormed = true)
      ∧ (gang? (sG2 gangFull [laneW (.vote 3)]) 5 = some gangFull ∧ (sG2 gangFull [laneW (.vote 3)]).gangs.filter (fun x => x.id == 5) = [gangFull]
        ∧ (∀ m ∈ [0, 1], gangFull.killed.getD m false = false ∧ (gangFull.votes.getD m none).isSome ∧ gangFull.syncs.getD m false = true) ∧ gangFull.voteDom = false)
      ∧ (gang? (sG2 gangDom [laneW (.vote 3)]) 5 = some gangDom ∧ (∀ m ∈ [0, 1], (gangDom.votes.getD m none).isSome)
        ∧ (voteGroup (setGang (sG2 gangDom [laneW (.vote 3)]) 5 fun g => { g with voteFwd := some false }) gangDom).map (·.voteFwd) = [some false])
      ∧ gang? (sG2 gang2 l2) 5 = some gang2 ∧ gang2.killed.getD 1 false = false ∧ gang2.votes.getD 1 none = none ∧ gang2.syncs.getD 1 false = false :=
  ⟨⟨ready_sG2, by decide, by decide, by decide, by decide, by decide, by decide, ⟨_, rfl⟩⟩, by decide⟩

/-- R153: where a member was killed the vote gives 1 and the living member has VKILL. -/
theorem test_vote_killed : (nx (exec (.voteRoundComplete 5) (sG2 { gangFull with killed := [false, true], votes := [some false, none] } [laneW (.vote 3)]))).map (fun t =>
    (t.fibres.map fun f => f.pred 3, t.blocks.map fun b => (b.id, b.lsst.vkill))) = some ([true], [(0, true), (1, true)]) := by decide
/-- R152, R190: with p1 only lane 1 contributes, and the other lane of its batch waits too. -/
theorem test_gsync_mates : (nx (exec (.gsync hd1 { pd := 3 }) (sG2 gang2 l2p))).map (fun t => t.fibres.map fun f => f.canIssue t) = some [false, false] := by decide
/-! ### The supervisor -/

def sy0 : SysregP := { srn := 3, us := false, s := 0, v := 6 }
/-- T_guest is 1024 after reset. -/
theorem test_sysrd : nx (exec (.sysrd hd sy0) s1) = some (past (wrote s1 l1 none fun _ =>
    [.reg 6 { val := 1024, tag := tI64lo }, .reg 7 { val := 0, tag := tI64hi }]) c0 l1 hd) := by decide
/-- s4 and s5 hold 0x500000004, of which T_guest takes 16 bits. -/
def sy1 : SysregP := { srn := 3, us := true, s := 4, v := 0 }
theorem test_syswr : (nx (exec (.syswr hd sy1) s1)).map (fun t => (sysGet t 0 3, t.fibres.map (·.pc))) = some (4, [0x108]) := by decide

/-- T_pf keeps its value for 249 and takes 250 and 32000. -/
theorem test_tpf : (sysGet (sysWrite s1 0 4 249) 0 4, sysGet (sysWrite s1 0 4 250) 0 4, sysGet (sysWrite s1 0 4 32000) 0 4, sysGet (sysWrite s1 0 4 32001) 0 4)
    = (2000, 250, 32000, 2000) := by decide

theorem wit_SystemRegisters :
    Ready s1 c0 blk l1 ∧ AtHome l1 ∧ guardTrue 0 false l1 = lane 0 :: []
      ∧ (∀ n ∈ [3, 0x030C, 0x0300], sysAssigned n = true ∧ ∀ g ∈ l1, sysLevel n ≤ g.lvl)
      ∧ ((Instr.sysrd hd sy0).wellFormed = true ∧ (Instr.sysrd hd { sy1 with srn := 0x030C }).wellFormed = true ∧ Clear l1 (sysRegs sy0))
      ∧ ((Instr.syswr hd sy1).wellFormed = true ∧ (Instr.syswr hd sy0).wellFormed = true ∧ sysReadOnly 3 = false ∧ checkRegs (lane 0) (sysRegs sy0) = none
        ∧ released s1 [lane 0] 4 = (clearMask s1 0 0 4, true) ∧ writeHole (clearMask s1 0 0 4) 3 4 = none
        ∧ writeHeld (clearMask s1 0 0 4) 0 3 4 = none)
      ∧ Stays { (sysWrite (clearMask s1 0 0 4) 0 3 4) with sysAt := s1.now + 1 } blk l1 :=
  ⟨ready_s1, by decide, by decide, by decide, by decide, by decide, stays (by decide)⟩

def rec0 : TrapRec :=
  { siblings := 0, lanes := 1, parent := 0, blk := 0, fid := 0, port := 0, cmp := false, nest := false, pc := 0x700, detail := 0, cause := 0x11, info := 0 }
/-- A lane in its handler, with v0 to v7 saved as 100 to 107 and p1 saved. -/
def laneT : Fibre := { lane 0 with tm := true, trec := some rec0, savedRegs := (List.range 8).map fun i => i32 (100 + i), savedPreds := 3 }
def sTr : State := { s1 with fibres := [laneT] }
theorem ready_sTr : Ready sTr c0 blk [laneT] := ready (by decide)

/-- R353: USER_TRAP resumes past the instruction, with v0, v7 and p1 restored and v8 kept. -/
theorem test_tret : (nx (exec (.tret hd { s := 0, fr := false }) sTr)).map (fun t => t.fibres.map fun f => (f.pc, f.tm, [f.val 0, f.val 7, f.val 8], f.pred 1))
    = some [(0x708, false, [100, 107, 128], true)] := by decide
/-- R353, R390: after a comparator's BREAKPOINT the fibre executes the instruction, which is not matched again. -/
theorem test_tret_comparator : (nx (exec (.tret hd { s := 0, fr := false }) { s1 with fibres := [{ laneT with trec := some { rec0 with cause := 0x12, cmp := true } }] })).map
    (fun t => t.fibres.map fun f => (f.pc, f.cmpPass)) = some [(0x700, true)] := by decide
theorem test_tmask : nx (exec (.tmask hd { m := true }) s1) = some (past (onLanes s1 l1 fun g => { g with tm := true }) c0 l1 hd) := by decide

/-- The lane is fibre 5; a logged fibre has id 0. -/
def laneK : Fibre := { lane 0 with fid := 5 }
def laneLog : Fibre := { lane 0 with key := key 32, slot := none, run := .parked .trap, logRec := some rec0, frag := 1 }
def sLog : State := { world [laneK, laneLog] with partns := [{ Partn.empty 0 with tlog := [rec0] }] }
theorem ready_sLog : Ready sLog c0 blk [laneK] := ready (by decide)
theorem test_tret_fragment : (nx (exec (.tret hd { s := 8, fr := true }) sLog)).map (fun t => (t.fibres.map (fun f => (f.pc, f.run)), t.partns.map (·.tlog)))
    = some ([(0x108, .ready), (0x708, .ready)], [[]]) := by decide

theorem wit_HandlerReturn :
    (Ready sTr c0 blk [laneT] ∧ AtHome [laneT] ∧ guardTrue 0 false [laneT] = [laneT] ∧ 1 ≤ laneT.lvl ∧ blk.pre = false
        ∧ (Instr.tret hd { s := 0, fr := false }).wellFormed = true ∧ laneT.trec = some rec0 ∧ sTr.fibres.filter (fun g => g.key == laneT.key) = [laneT])
      ∧ (Ready sLog c0 blk [laneK] ∧ (Instr.tret hd { s := 8, fr := true }).wellFormed = true ∧ 1 ≤ laneK.lvl
        ∧ namedFibre sLog 0 (groupWord sLog laneK 8 0 % 2 ^ 17) (groupWord sLog laneK 8 1 % 2 ^ 13) = some laneLog ∧ laneLog.logged = true
        ∧ ∀ y ∈ fragment sLog laneLog, y.key ≠ laneK.key)
      ∧ (Instr.tmask hd { m := true }).wellFormed = true :=
  ⟨⟨ready_sTr, by decide⟩, ⟨ready_sLog, by decide⟩, by decide⟩

/-- The uniform registers changed in places. -/
def withS (s : State) (l : List (Nat × Word)) : State := { s with parts := s.parts.map fun q => { q with s := l.foldl (fun r x => r.set x.1 x.2) q.s } }
def blk1 : Block := { blk with id := 1, kernel := 1, spadAt := 8192 }
/-- Two blocks of two kernels, with a fault entry and a reclamation record posted. -/
def sSup : State :=
  { s1 with blocks := [blk, blk1], kernels := [kern, { kern with id := 1 }]
            partns := [{ Partn.empty 0 with faults := [{ fe0 with posted := true, ident := 0 }], reclaims := [0x77] }] }
theorem ready_sSup : Ready sSup c0 blk l1 := ready (by decide)
def sTrial : State := withS sSup [(8, 1), (9, 0), (10, 2), (11, 0x80000005)]
theorem ready_sTrial : Ready sTrial c0 blk l1 := ready (by decide)
/-- An extent of pages for object 1, whose page table lies at 0x50000, its first page entry absent. -/
def sPage : State :=
  withS ({ ((worldC 0 l1).write 0x20000 16 (2 ^ 64 + 2 ^ 45)).write 0x10020 32 (2 ^ 95 + 2 ^ 100 + 0x20000 * 2 ^ 192 + 0x50000 * 2 ^ 128 + 4095) with
    parts := [prt], seq := 3 }) [(8, 1)]
theorem ready_sPage : Ready sPage c0 blk l1 := ready (by decide)

theorem test_fqpop : (nx (exec (.fqpop hd { pd := 3, s := 16 }) sSup)).map (fun t =>
    (t.partns.map (fun q => q.faults.map (·.popped)), t.fibres.map (·.pred 3))) = some ([[true]], [true]) := by decide
theorem test_fqpop_empty : (nx (exec (.fqpop hd { pd := 0, s := 16 }) s1)).map (fun t => t.fibres.map (·.pc)) = some [0x108] := by decide
theorem test_prack : (nx (exec (.prack hd { pd := 3, s := 16 }) sSup)).map (fun t => (uns t 16, t.partns.map (·.reclaims), t.fibres.map (·.pred 3)))
    = some (0x77, [[]], [true]) := by decide
theorem test_fqres : (nx (exec (.fqres hd { bad := true, pd := 3, s := 8 }) sSup)).map (fun t => (t.partns.map (·.faults), t.fibres.map (·.pred 3)))
    = some ([[]], [true]) := by decide
/-- R346: a page that still does not resolve leaves a new entry, not yet posted. -/
theorem test_fqres_again : (nx (exec (.fqres hd { bad := false, pd := 3, s := 8 }) sSup)).map (fun t => t.partns.map fun q => q.faults.map fun e => (e.posted, e.eid))
    = some [[(false, 0)]] := by decide
theorem test_tlbinv : (nx (exec (.tlbinv hd { s := 0, mode := 0 }) { s1 with
    tlbs := [{ mport := 0, part := 0, range := false, obj := 1, lo := 0, hi := 4096, place := 0, cause := none, rx := false, top := 4096 }] })).map (fun t => t.tlbs) = some [] := by decide
/-- R370: MOVE of a page that is not moving gives status 1. -/
theorem test_objset : (nx (exec (.objset hd { st := 20, s := 8, op := 0 }) sPage)).map (fun t => uns t 20) = some 1 := by decide
/-- R109: MOVE may name the frame below the rows in which a stack keeps its lathe's state, and none of theirs. -/
theorem test_save_frames : (targetFrame { s1 with serves := [(0, 1)] } 0 0x3F7F 0).isSome = true ∧ targetFrame { s1 with serves := [(0, 1)] } 0 0x3F80 0 = none
    ∧ targetFrame { s1 with serves := [(0, 1)] } 0 0x3FFF 0 = none := by decide
theorem test_haltb : (nx (exec (.haltb hd { s := 8, fr := false }) sTrial)).map (fun t => t.blocks.map fun b => (b.id, b.killed)) = some [(0, false), (1, true)] := by
  decide
theorem test_trial : (nx (exec (.trial hd { st := 20, s := 8 }) sTrial)).map (fun t => (uns t 20, t.kernels.map (·.trial)))
    = some (0, [none, some (0, 2, 5)]) := by decide

theorem wit_SupervisorInstructions :
    (Ready sSup c0 blk l1 ∧ AtHome l1 ∧ guardTrue 0 false l1 = lane 0 :: [] ∧ (∀ g ∈ l1, 1 ≤ g.lvl) ∧ (Instr.fqpop hd { pd := 3, s := 16 }).wellFormed = true
        ∧ (partnOf sSup 0).faults.find? (fun e => e.posted && !e.popped) = some { fe0 with posted := true, ident := 0 }
        ∧ (partnOf s1 0).faults.find? (fun e => e.posted && !e.popped) = none)
      ∧ ((Instr.prack hd { pd := 3, s := 16 }).wellFormed = true ∧ (partnOf s1 0).reclaims = [] ∧ (partnOf sSup 0).reclaims = 0x77 :: []
        ∧ Stays (nextDeferred (setPartn sSup 0 fun q => { q with reclaims := [] }) 0) blk l1)
      ∧ ((Instr.fqres hd { bad := false, pd := 3, s := 8 }).wellFormed = true ∧ (Instr.fqres hd { bad := true, pd := 3, s := 8 }).wellFormed = true
        ∧ released sSup [lane 0] 4 = (clearMask sSup 0 0 4, true)
        ∧ (partnOf (clearMask sSup 0 0 4) 0).faults.find? (fun e => e.posted && e.ident == groupWord (clearMask sSup 0 0 4) (lane 0) 8 0 % 2 ^ 12)
            = some { fe0 with posted := true, ident := 0 }
        ∧ Stays (resolveEntry (setPartn (clearMask sSup 0 0 4) 0 fun q => { q with faults := [] }) 0 { fe0 with posted := true, ident := 0 }) blk l1
        ∧ Stays (failEntry (setPartn (clearMask sSup 0 0 4) 0 fun q => { q with faults := [] }) { fe0 with posted := true, ident := 0 }) blk l1)
      ∧ ((∀ m ∈ [0, 1, 2], (Instr.tlbinv hd { s := if m = 0 then 0 else 8, mode := m }).wellFormed = true) ∧ descHeld (clearMask sSup 0 0 4) 0 (tlbObjs (clearMask sSup 0 0 4) 0 0 1) = none
        ∧ Stays (deliver (freeInvalid (freshIds { clearMask sSup 0 0 4 with tlbs := [] } 0 0 1) 0 0 1)) blk l1)
      ∧ (Ready sPage c0 blk l1 ∧ (∀ op ∈ [0, 1, 2], (Instr.objset hd { st := 20, s := 8, op := op }).wellFormed = true)
        ∧ (∃ d e pte, pageOf sPage 0 (groupWord sPage (lane 0) 8 0) (groupWord sPage (lane 0) 8 1) = .page 1 d e pte ∧ moveWaits sPage 0 0 1 e pte 0 = false
          ∧ objsetHeld sPage 0 0 0 0 e pte = none ∧ pageHeld sPage 0 (groupWord sPage (lane 0) 8 0) (groupWord sPage (lane 0) 8 1) = none))
      ∧ (Ready sTrial c0 blk l1 ∧ (Instr.haltb hd { s := 8, fr := false }).wellFormed = true ∧ (Instr.haltb hd { s := 8, fr := true }).wellFormed = true
        ∧ ownBlock sTrial 0 (groupWord sTrial (lane 0) 8 0 % 2 ^ 17) = some blk1 ∧ Stays ((gangOf sTrial blk1).foldl killBlock sTrial) blk l1
        ∧ namedFibre sLog 0 0 0 = some laneLog ∧ Stays (deliver (killFibres sLog (fragment sLog laneLog))) blk [laneK])
      ∧ (Instr.trial hd { st := 20, s := 8 }).wellFormed = true ∧ (BitVec.ofNat 32 (groupWord sTrial (lane 0) 8 3)).msb = true
        ∧ groupWord sTrial (lane 0) 8 1 < groupWord sTrial (lane 0) 8 2 ∧ (kernel? sTrial 1).bind (·.trial) = none ∧ blk1.kernel ≠ blk.kernel
        ∧ (BitVec.ofNat 32 (groupWord sTrial (lane 0) 12 3)).msb = false :=
  ⟨⟨ready_sSup, by decide⟩, ⟨by decide, by decide, by decide, stays (by decide)⟩, ⟨by decide, by decide, by decide, by decide,
   stays (by decide), stays (by decide)⟩, ⟨by decide, by decide, stays (by decide)⟩, ⟨ready_sPage, by decide, ⟨_, _, _, rfl, by decide⟩⟩,
   ⟨ready_sTrial, by decide, by decide, by decide, stays (by decide), by decide, stays (by decide)⟩, by decide⟩

/-! ### Saved blocks -/

/-- Block 1 is stopped by pre-emption, with no fibre; s8 names it, and cluster 5 is the partition's. -/
def sCtx : State :=
  withS { worldC 0 l1 with blocks := [blk, { blk1 with kernel := 0, pre := true, lsq := true }], owners := [(5, 0)], seq := 40 } [(8, 1)]
theorem ready_sCtx : Ready sCtx c0 blk l1 := ready (by decide)
def cx0 : CtxP := { st := 20, s := 8, c := 1 }

theorem test_ctxsv : (nx (exec (.ctxsv hd cx0) sCtx)).map (fun t => (uns t 20, t.blocks.map (·.id), t.images.map (·.serial))) = some (0, [0], [40]) := by decide

def blkSaved : Block := { blk1 with kernel := 0, pre := true, lsq := true }
/-- A saved image of block 1 with the serial number 40, its header written at 0x40000. -/
def savedBase (stores : Bool) : State := { sCtx with mem := sCtx.mem ++ [(0x40010, 40)], images := [Image.bare 40 blkSaved stores], seq := 41 }
/-- The lane beside a saved block, named by s8 = 1, and beside saved stores. -/
def sSaved : State := (withS { savedBase false with blocks := [blk] } [(8, 1)]).write 0x40000 16 (imageHeader 0 1)
def sStored : State := (savedBase true).write 0x40000 16 (imageHeader 0 1)
/-- R371: CTXSV before LSQSAVE gives 3, and CTXRS of an image of another block NO_BLOCK, 1. -/
theorem test_ctxsv_early : (nx (exec (.ctxsv hd cx0) { sCtx with blocks := [blk, { blkSaved with lsq := false }] })).map (fun t => uns t 20) = some 3 := by decide
theorem test_lsqsave : (nx (exec (.lsqsave hd cx0) sCtx)).map (fun t => (uns t 20, t.blocks.map (·.id), t.images.map (·.isStores))) = some (0, [0, 1], [true]) := by decide
theorem ready_sSaved : Ready sSaved c0 blk l1 := ready (by decide)
theorem ready_sStored : Ready sStored c0 blk l1 := ready (by decide)
/-- The capability, the offset and the loaded image of the four instructions. -/
def off0 (s : State) : Nat := capOff (capReg s (lane 0) 1) (uniPair s (lane 0) 10).toInt
/-- An image without capabilities loads where its header and its serial number stand. -/
theorem loads {s : State} {stores : Bool} {i : Image} {l : List Nat} (hi : image? s 0 (s.read (imageCell l (off0 s) 16) 16) stores = some i)
    (hc : i.caps = []) (hh : s.read (imageCell l (off0 s) 0) 16 = imageHeader 0 i.block.id)
    (hr : 32 ≤ rangeLeft (capReg s (lane 0) 1) (off0 s))
    (ho : ownPending s (lane 0) false (capObj (capReg s (lane 0) 1)) (off0 s) (rangeLeft (capReg s (lane 0) 1) (off0 s)) = false)
    (hp : openImage s blk false (lane 0) (capObj (capReg s (lane 0) 1)) (off0 s) 32 = .places l)
    (ht : (granTrouble s (lane 0) (off0 s) (imageGrans l (off0 s) 32)).isNone = true)
    (hp2 : openImage ((imageGrans l (off0 s) 32).foldl touch s) blk false (lane 0) (capObj (capReg s (lane 0) 1)) (off0 s) 32 = .places l)
    (ht2 : (granTrouble ((imageGrans l (off0 s) 32).foldl touch s) (lane 0) (off0 s) (imageGrans l (off0 s) 32)).isNone = true) :
    loadImage s blk (lane 0) (capReg s (lane 0) 1) (off0 s) stores
      = .image ((imageGrans l (off0 s) 32).foldl touch ((imageGrans l (off0 s) 32).foldl touch s)) i [] := by
  have ht' := Option.isNone_iff_eq_none.1 ht
  have ht2' := Option.isNone_iff_eq_none.1 ht2
  have hq : (lane 0).reading = false := rfl
  have hg : (imageGrans l (off0 s) 32).drop 2 = [] := by
    simp [imageGrans, List.drop_eq_nil_iff]
  have hp1 : blk.part = 0 := rfl
  simp [loadImage, loadRest, Nat.not_lt.2 hr, ho, hp, ht', hi, hc, hh, hg, hp1, loadCaps, descHeld, hp2, ht2', hq, touchDescs]

/-- An image of block 1 fits where the capability points, in places of memory. -/
def saves0 (i : Image) (t : State) : Bool :=
  let len := 32 + 16 * i.caps.length
  decide (len ≤ rangeLeft (capReg sCtx (lane 0) 1) (off0 sCtx)) && settled sCtx (lane 0)
    && (match openImage sCtx blk true (lane 0) 1 (off0 sCtx) len with
        | .places l => l == [0x40000] && (imageGrans l (off0 sCtx) len).all fun a => !rowWaits sCtx a
        | _ => false)
    && staysB t blk l1

theorem saves {i : Image} {t : State} (h : saves0 i t = true) :
    let len := 32 + 16 * i.caps.length
    len ≤ rangeLeft (capReg sCtx (lane 0) 1) (off0 sCtx) ∧ settled sCtx (lane 0) = true
      ∧ openImage sCtx blk true (lane 0) 1 (off0 sCtx) len = .places [0x40000]
      ∧ (∀ a ∈ imageGrans [0x40000] (off0 sCtx) len, rowWaits sCtx a = false) ∧ Stays t blk l1 := by
  unfold saves0 at h
  simp only [Bool.and_eq_true, decide_eq_true_eq] at h
  obtain ⟨⟨⟨h1, h2⟩, h3⟩, h5⟩ := h
  split at h3
  · rename_i l hl
    simp only [Bool.and_eq_true, beq_iff_eq, List.all_eq_true, Bool.not_eq_true'] at h3
    obtain ⟨rfl, h4⟩ := h3
    exact ⟨h1, h2, hl, h4, stays h5⟩
  · cases h3

def img0 : Image := imageOf sCtx blkSaved 40
def img1 : Image := { Image.bare 40 blkSaved true with stores := fifosOf sCtx 1 }
def uOf (i : Image) : State :=
  writeImage ((imageGrans [0x40000] (off0 sCtx) (32 + 16 * i.caps.length)).foldl touch sCtx) [0x40000] (off0 sCtx) i
def tSaved : State := let u := uOf img0; freeSaved { u.fresh with images := u.images ++ [img0] } blkSaved 40
def tStored : State := let u := uOf img1; setBlock (takeStores { u.fresh with images := u.images ++ [img1] } 1) 1 fun d => { d with lsq := true }

/-- The header is a number of 128 bits. -/
theorem header_parts (n b : Nat) : ∃ k, imageHeader n b
    = 32 + 16 * n + Config.imageImpl.toNat * 4294967296 + Config.imageVersion.toNat * 281474976710656 + b * k ∧ k = 2 ^ 64 := ⟨_, rfl, rfl⟩
theorem header_bound (n b : Nat) (hn : n < 65536) (hb : b < 2 ^ 17) : imageHeader n b < 256 ^ 16 := by
  obtain ⟨k, h, hk⟩ := header_parts n b
  have h1 := Config.imageImpl.isLt
  have h2 := Config.imageVersion.isLt
  have h3 : b * k ≤ 2 ^ 17 * 2 ^ 64 := by rw [hk]; exact Nat.mul_le_mul_right _ (Nat.le_of_lt hb)
  rw [h]
  generalize Config.imageImpl.toNat = x at *
  generalize Config.imageVersion.toNat = y at *
  have h4 : 32 + 16 * n + x * 4294967296 + y * 281474976710656 ≤ 2 ^ 66 := by omega
  exact Nat.lt_of_le_of_lt (Nat.add_le_add h4 h3) (by norm_num)
theorem header_lt : imageHeader 0 1 < 256 ^ 16 := header_bound 0 1 (by decide) (by decide)

theorem readBack {s : State} (h : s.Inv) (a v n : Nat) : (s.write a n v).read a n = v % 256 ^ n := readMem_writeMem h a v n
theorem header_read {s : State} (h : s.Inv) : (s.write 0x40000 16 (imageHeader 0 1)).read 0x40000 16 = imageHeader 0 1 :=
  (readBack h _ _ _).trans (Nat.mod_eq_of_lt header_lt)

def img2 (stores : Bool) : Image := Image.bare 40 blkSaved stores
/-- A state whose stack 0 an image's read has reached. -/
def reached (s : State) : State := (imageGrans [0x40000] (off0 s) 32).foldl touch ((imageGrans [0x40000] (off0 s) 32).foldl touch s)
theorem loads_saved : loadImage sSaved blk (lane 0) (capReg sSaved (lane 0) 1) (off0 sSaved) false = .image (reached sSaved) (img2 false) [] := by
  have w : (withS { savedBase false with blocks := [blk] } [(8, 1)]).Inv := by decide
  refine loads (l := [0x40000]) ?_ rfl (header_read w) (by decide +kernel) (by decide +kernel) (by decide +kernel) (by decide +kernel)
    (by decide +kernel) (by decide +kernel)
  rw [show imageCell [0x40000] (off0 sSaved) 16 = 0x40010 by decide, sSaved, State.read_write_out w _ _ _ _ _ (by omega)]
  decide
theorem loads_stored : loadImage sStored blk (lane 0) (capReg sStored (lane 0) 1) (off0 sStored) true = .image (reached sStored) (img2 true) [] := by
  have w : (savedBase true).Inv := by decide
  refine loads (l := [0x40000]) ?_ rfl (header_read w) (by decide +kernel) (by decide +kernel) (by decide +kernel) (by decide +kernel)
    (by decide +kernel) (by decide +kernel)
  rw [show imageCell [0x40000] (off0 sStored) 16 = 0x40010 by decide, sStored, State.read_write_out w _ _ _ _ _ (by omega)]
  decide

theorem wit_SavedBlocks :
    (Ready sCtx c0 blk l1 ∧ Ready sSaved c0 blk l1 ∧ Ready sStored c0 blk l1 ∧ AtHome l1 ∧ guardTrue 0 false l1 = lane 0 :: [] ∧ (∀ g ∈ l1, 1 ≤ g.lvl)
        ∧ accessCheck sCtx 0 (capReg sCtx (lane 0) 1) (uniPair sCtx (lane 0) 10).toInt 16 (rWR ||| rCST) = none
        ∧ accessCheck sSaved 0 (capReg sSaved (lane 0) 1) (uniPair sSaved (lane 0) 10).toInt 16 (rRD ||| rCLD) = none
        ∧ accessCheck sStored 0 (capReg sStored (lane 0) 1) (uniPair sStored (lane 0) 10).toInt 16 (rRD ||| rCLD) = none)
      ∧ ((Instr.ctxsv hd cx0).wellFormed = true ∧ ctxBlock sCtx blk (lane 0) cx0 = some blkSaved ∧ blockStopped sCtx blkSaved = true ∧ blkSaved.lsq = true ∧ blockStores sCtx 1 = []
        ∧ closeHeld sCtx blkSaved.part [blkSaved.id] = none ∧ saves0 img0 tSaved = true)
      ∧ ((Instr.lsqsave hd cx0).wellFormed = true ∧ saves0 img1 tStored = true)
      ∧ ((Instr.ctxrs hd cx0).wellFormed = true ∧ groupWord sSaved (lane 0) 8 1 = 0 ∧ (img2 false).block.id = groupWord sSaved (lane 0) 8 0 % 2 ^ 17
        ∧ loadImage sSaved blk (lane 0) (capReg sSaved (lane 0) 1) (off0 sSaved) false = .image (reached sSaved) (img2 false) []
        ∧ (homeOf (reached sSaved) (img2 false)).isSome = true
        ∧ ∀ y, homeOf (reached sSaved) (img2 false) = some y → Stays (restoreBlock (reached sSaved) ((img2 false).withCaps []) y) blk l1)
      ∧ (Instr.lsqrst hd cx0).wellFormed = true ∧ ctxBlock sStored blk (lane 0) cx0 = some blkSaved ∧ blockStopped sStored blkSaved = true
      ∧ loadImage sStored blk (lane 0) (capReg sStored (lane 0) 1) (off0 sStored) true = .image (reached sStored) (img2 true) []
      ∧ fifosRoom (reached sStored) blkSaved (capData (img2 true).stores []) = true
      ∧ Stays (letIssue (reached sStored) blkSaved) blk l1
      ∧ (32 ≤ rangeLeft (capReg sCtx (lane 0) 1) (off0 sCtx) ∧ ∃ o ∈ [loadOut (lane 0) .load false 0x40080 4 12 tI32 0 0 1 128], o.kind ≠ .cut)
      ∧ settled sCtx { lane 0 with outs := [loadOut (lane 0) .load false 0x40080 4 12 tI32 0 0 1 128] } = false :=
  ⟨⟨ready_sCtx, ready_sSaved, ready_sStored, by decide, by decide, by decide, by decide, by decide +kernel, by decide +kernel⟩,
    ⟨by decide, by decide, by decide, by decide, by decide, by decide, by decide +kernel⟩, ⟨by decide, by decide +kernel⟩,
    ⟨by decide, by decide, by decide, loads_saved, by decide, fun y hy => stays (by
      have h : (homeOf (reached sSaved) (img2 false)).all
          (fun y => staysB (restoreBlock (reached sSaved) ((img2 false).withCaps []) y) blk l1) = true := by decide +kernel
      simpa [hy] using h)⟩,
    by decide, by decide, by decide, loads_stored, by decide, stays (by decide), by decide⟩

/-! ### Work -/

def sAt (s : State) (now : Nat) : State := { s with now := now }
/-- The lane in no batch. -/
def sLoose : State := { s1 with fibres := [{ lane 0 with slot := none }], slots := [] }
theorem test_batcherFill : (nx (exec (.batcherFill 0 0) sLoose)).map (fun t => (t.fibres.map (·.slot), t.slots.map (·.idx))) = some ([some 0], [0]) := by decide
/-- R35: at 4096 cycles without an issue, not at 4095. -/
theorem test_starvation : ((nx (exec (.ageStarvationIssue 0 0) (sAt s1 4096))).map fun t => (portOf t 0 0).forced) = some (some 0)
    ∧ ((nx (exec (.ageStarvationIssue 0 0) (sAt s1 4095))).map fun t => (portOf t 0 0).forced) = some none := by decide
def laneWait : Fibre := { lane 0 with run := .waiting (.vote 0) }
def sWait : State := sAt { s1 with fibres := [laneWait] } 64
theorem test_slotRelease : (nx (exec (.slotRelease 0 0 0) sWait)).map (fun t => (t.fibres.map (·.slot), t.slots.length)) = some ([none], 0) := by decide
/-- A bin of one lane due at cycle 10. -/
def bin0 : Bin := { idx := 2, bp := 0, entry := 0x100, start := 0, timer := 10, ctxs := [0] }
def sBin : State := sAt (setPort sLoose 0 0 fun p => { p with bins := [bin0] }) 10
/-- R42: a batch that has waited before issue for 64 cycles gives its slot up. -/
def laneRetry : Fibre := { lane 0 with run := .waiting .retry, waitSince := 0 }
def sRetry : State := sAt { s1 with fibres := [laneRetry] } 64
theorem test_slotRelease_retry : (nx (exec (.slotRelease 0 0 0) sRetry)).map (fun t => t.fibres.map (·.slot)) = some [none]
    ∧ (nx (exec (.slotRelease 0 0 0) (sAt sRetry 63))).map (fun t => t.fibres.map (·.slot)) = some [some 0] := by decide
theorem test_binLaunch : (nx (exec (.binLaunch 0 0 2) sBin)).map (fun t => ((portOf t 0 0).bins, t.fibres.map (·.slot))) = some ([], [some 0]) := by decide
/-- The lane joins, alone in its set. -/
def laneJ : Fibre := { lane 0 with run := .joining, joins := [(3, 1)], slot := none }
def sJoin : State := { s1 with fibres := [laneJ], slots := [] }
theorem test_joinComplete : (nx (exec (.joinComplete 0 0 3) sJoin)).map (fun t => t.fibres.map fun f => (f.joins, f.run, f.slot)) = some [([], .ready, some 0)] := by decide
/-- No fibre is left. -/
def sOver (b : Block) : State := { s1 with fibres := [], slots := [], blocks := [b], kernels := [{ kern with nextBlk := 1, liveBlks := 1 }] }
theorem test_blockRetire : (nx (exec (.blockRetire 0) (sOver blk))).map (fun t => (t.blocks, t.parts, t.kernels.map (·.liveBlks))) = some ([], [], [0]) := by decide
/-- One chunk is open, to be written at 0x50000 of stack 0, which sleeps. -/
def chunk0 : RrChunk := { j := 0, coord := 0, fid := 0, run := 1, hash := 0, addr := 0 }
def sChunk (power : List (Nat × Nat)) : State :=
  { sysPut (sysPut (sOver blk) 0 0x0529 0x50000) 0 0x052A 4 with partns := [{ Partn.empty 0 with rrOpen := [chunk0] }], power := power }
/-- R397: the last block of its partition retires once its chunk can be written. -/
theorem test_blockRetire_chunk : (nx (exec (.blockRetire 0) (sChunk [(384, 1)]))).map (fun t => (t.blocks.length, t.partns.map (·.rrUsed))) = some (1, [0])
    ∧ (nx (exec (.blockRetire 0) (sChunk []))).map (fun t => (t.blocks.length, t.partns.map (·.rrUsed))) = some (0, [1]) := by decide
def blkD : Block := { blk with gang := some 5, done := true }
def sGangOver : State := { sOver blkD with gangs := [gang0] }
theorem test_gangRetire : (nx (exec (.gangRetire 5) sGangOver)).map (fun t => (t.blocks, t.gangs)) = some ([], []) := by decide
/-- The kernel's queue writes 7 at host address 0x80. -/
def kernD : Kernel := { kern with nextBlk := 1, liveBlks := 0, doneVal := 7 }
def sDone : State := { sOver blk with blocks := [], kernels := [kernD], queues := [{ LQueue.empty 0 0 with doneAddr := 0x80 }] }
theorem test_kernelComplete : (nx (exec (.kernelComplete 0) sDone)).map (fun t => (t.read (Config.hostBase + 0x80) 8, t.kernels)) = some (7, []) := by decide

/-- R335: a kernel that completed later does not write before the first. -/
def sDone2 : State := { sDone with kernels := [kernD, { kernD with id := 3 }] }
theorem test_kernelComplete_order : nx (exec (.kernelComplete 3) sDone2) = some sDone2 := by decide

theorem wit_WorkEvents :
    (looseOf sLoose 0 0 = [{ lane 0 with slot := none }] ∧ freeSlot sLoose 0 0 = some 0)
      ∧ ((portOf s1 0 0).forced = none ∧ (∀ x ∈ s1.slots, x.core = 0 ∧ x.port = 0 ∧ slotReady (sAt s1 4096) x = true ∧ x.last + 4096 ≤ (sAt s1 4096).now))
      ∧ ((slot? sWait c0).isSome = true ∧ laneWait ∈ lanesOf sWait c0 ∧ laneWait.run = .waiting (.vote 0) ∧ (∀ x ∈ sWait.slots, x.last + 64 ≤ sWait.now)
        ∧ laneRetry ∈ lanesOf sRetry c0 ∧ laneRetry.run = .waiting .retry ∧ laneRetry.waitSince + 64 ≤ sRetry.now)
      ∧ ((portOf sBin 0 0).bins.find? (fun y => y.idx == bin0.idx) = some bin0 ∧ (∀ q ∈ sBin.parts, ∀ b ∈ sBin.blocks, b.frozen = false)
        ∧ bin0.start + bin0.timer ≤ sBin.now)
      ∧ (joinReady (joinSet sJoin 0 0 0 3) = true ∧ joinReady (joinSet sJoin 0 0 0 4) = false)
      ∧ (block? (sOver blk) 0 = some blk ∧ blk.done = false ∧ blockOver (sOver blk) blk = true ∧ blk.gang = none
        ∧ blockOver (sOver { blk with gang := some 5 }) { blk with gang := some 5 } = true
        ∧ closeHeld (sOver blk) 0 [0] = none ∧ closeHeld (sChunk [(384, 1)]) 0 [0] = some 0x50000 ∧ blockOver (sChunk [(384, 1)]) blk = true)
      ∧ (block? s1 0 = some blk ∧ lane 0 ∈ s1.fibres ∧ (lane 0).run ≠ .exited)
      ∧ (gang? sGangOver 5 = some gang0 ∧ (∀ m ∈ gang0.members, (block? sGangOver m).any (·.done) = true) ∧ closeHeld sGangOver 0 gang0.members = none)
      ∧ kernel? sDone 0 = some kernD ∧ (overKernels sDone).head? = some kernD ∧ kernD.part ≠ 8 ∧ mapped (Config.hostBase + 0x80) = true
        ∧ (kernel? sDone2 3).isSome = true ∧ (overKernels sDone2).head? = some kernD :=
  by decide

/-! ### Launch queues -/

/-- Queue 0 of partition 0, enabled, its ring at offset 0x400 of object 1, which lies at 0x30000, with one packet there. -/
def q0 : LQueue := { LQueue.empty 0 0 with en := true, ring := 2 ^ 32 + 0x400, tail := some 1, tailAddr := 0x40 }
/-- Cells of a packet at 0x30400: a type, FIBRES 1 where it is a LAUNCH, a code capability for 4096 bytes of object 1 with EX. -/
def pktCells (type : Byte) : List Host.Cell :=
  (if type = 0 then [] else [(0x30400, type)]) ++ [(0x30401, 0x20), (0x30445, 0xF0), (0x30446, 0xFF), (0x3044B, BitVec.ofNat 8 rEX), (0x3044C, 1)]
def sQueue (q : LQueue) (cells : List Host.Cell) : State :=
  { worldC 0 [] with mem := (worldC 0 []).mem ++ cells, queues := [q], owners := [(5, 0)], kernels := [], blocks := [], parts := [], slots := [], seq := 30 }
def ring0 (n : Nat) : Nat := readMem (sQueue q0 (pktCells (BitVec.ofNat 8 n))).mem 0x30400 256
theorem packet0 (n : Nat) (h : n = 0 ∨ n = 1 ∨ n = 2) : packetAt (sQueue q0 (pktCells (BitVec.ofNat 8 n))) q0 = .bytes (ring0 n) := by
  rcases h with rfl | rfl | rfl <;> decide +kernel
theorem wf0 : Memory.wf (sQueue q0 (pktCells 1)).mem = true := by decide
theorem test_launchPacket : (nx (exec (.launchPacket 0 0) (sQueue q0 (pktCells 1)))).map (fun t => (t.queues.map (·.head), t.kernels.map fun k => (k.id, k.fibres)))
    = some ([1], [(30, 1)]) := by decide +kernel
/-- R328: TYPE 2 is error 1. -/
theorem test_launchPacket_type : (nx (exec (.launchPacket 0 0) (sQueue q0 (pktCells 2)))).map (fun t => t.queues.map fun q => (q.halt, q.err, q.index))
    = some [(true, 1, 0)] := by decide +kernel
theorem test_nopPacket : (nx (exec (.nopPacket 0 0) (sQueue q0 []))).map (fun t => t.queues.map fun q => (q.head, q.halt)) = some [(1, false)] := by decide +kernel
/-- A kernel of one fibre waits in the queue. -/
def kernQ : Kernel := { kern with id := 30, nextBlk := 0, liveBlks := 0, fibres := 1, partsN := 1, spadK := 0, tilesN := 0 }
def sAdmit (k : Kernel) : State := { sQueue { q0 with tail := none } [] with kernels := [k] }
theorem test_admitBlock : (nx (exec (.admitBlock 0 0) (sAdmit kernQ))).map (fun t => (t.blocks.map (·.id), t.fibres.map (·.key), t.kernels.map (·.nextBlk)))
    = some ([1280], [{ core := 20, port := 0, ctx := 0 }], [1]) := by decide +kernel
def kernG : Kernel := { kernQ with gangN := 2 }
def sAdmitG : State := { sAdmit kernG with owners := [(5, 0), (7, 0)] }
theorem test_admitGang : (nx (exec (.admitGang 0 0) sAdmitG)).map (fun t => (t.blocks.map (·.id), t.gangs.map (·.members))) = some ([1280, 1792], [[1280, 1792]]) := by
  decide +kernel
theorem test_tailLineSnoop : (nx (exec (.tailLineSnoop 0 0 9) (sQueue q0 []))).map (fun t => t.queues.map (·.tail)) = some [some 9] := by decide
theorem test_queueResume : (nx (exec (.queueResume 0 0 256) (sQueue { q0 with halt := true } []))).map (fun t => t.queues.map (·.halt)) = some [false] := by decide
/-- R328, R385: where every cluster of the partition is fenced, the head packet halts its queue NO_FIT. -/
def sFenced : State := { sAdmit kernQ with queues := [{ q0 with tail := none, halt := true }], fenced := [5] }
theorem test_queueResume_fenced : (nx (exec (.queueResume 0 0 256) sFenced)).map (fun t => t.queues.map fun q => (q.halt, q.err)) = some [(true, 6)] := by decide
/-- R325: a TAIL more than 2^4 past HEAD halts the queue as it is seen. -/
theorem test_tail_overrun : (nx (exec (.tailLineSnoop 0 0 17) (sQueue q0 []))).map (fun t => t.queues.map fun q => (q.halt, q.err)) = some [(true, 5)] := by decide
theorem test_ageingStep : (nx (exec (.ageingStep 0 0) { sAdmit kernQ with now := 1 })).map (fun t => t.queues.map (·.reached)) = some [1] := by decide
theorem test_monitorQueueTail : (nx (exec (.monitorQueueTail 1 9) (sQueue q0 []))).map (fun t => (queueOf t 8 1).tail) = some (some 9) := by decide

def q5 : LQueue := { q0 with tail := some 17 }
/-- The queue, kernel and places chosen. -/
def chosen (s : State) (p : LQueue → Kernel → List Place → Bool) : Bool :=
  match chooseQueue s 0 (waitingQueues s 0) [] with
  | some (y, k, ps) => p y k ps
  | none => false

theorem wit_QueueEvents :
    (q5.pending = true ∧ q5.overrun = true ∧ queueOf (sQueue q5 []) 0 0 = q5)
      ∧ (q0.pending = true ∧ q0.overrun = false
        ∧ (packetAt (sQueue q0 []) q0 = .bytes 0 ∧ pkType 0 = 0 ∧ pkReserved 0 = false)
        ∧ (packetAt (sQueue q0 [(0x30450, 1)]) q0 = .bytes (2 ^ 640) ∧ pkType (2 ^ 640) = 0 ∧ pkReserved (2 ^ 640) = true)
        ∧ (packetAt (sQueue q0 [(0x30400, 2)]) q0 = .bytes 2 ∧ 2 ≤ pkType 2)
        ∧ (packetAt (sQueue q0 [(0x30400, 1), (0x30450, 1)]) q0 = .bytes (1 + 2 ^ 640) ∧ pkType (1 + 2 ^ 640) = 1 ∧ pkReserved (1 + 2 ^ 640) = true)
        ∧ (packetAt (sQueue q0 [(0x30400, 1)]) q0 = .bytes 1 ∧ pkType 1 = 1 ∧ pkReserved 1 = false ∧ pkBad 1 = true ∧ judgeLaunch (sQueue q0 [(0x30400, 1)]) 0 1 = .err 3)
        ∧ packetAt (sQueue q0 (pktCells 1)) q0 = .bytes (ring0 1) ∧ pkType (ring0 1) = 1 ∧ pkReserved (ring0 1) = false
        ∧ judgeLaunch (sQueue q0 (pktCells 1)) 0 (ring0 1) = .args 0)
      ∧ ((∀ v, packetAt (sQueue { q0 with ring := 0 } []) { q0 with ring := 0 } ≠ .bytes v) ∧ LQueue.pending { q0 with ring := 0 } = true
        ∧ LQueue.overrun { q0 with ring := 0 } = false)
      ∧ Nat.testBit 256 8 = true
      ∧ ((headKernel (sAdmit kernQ) 0 0).isSome = true ∧ q0.prio.toNat + q0.reached < 7 ∧ q0.waitAt ≤ (sAdmit kernQ).now)
      ∧ ((sQueue q0 []).queues.map (fun y => (y.part, y.q)) = [(0, 0)] ∧ q0.halt = false ∧ ¬ 16 < (9 - q0.head : Word).toNat ∧ 16 < (17 - q0.head : Word).toNat)
      ∧ (clustersOf sFenced 0 = [5] ∧ working sFenced 0 = [] ∧ (headKernel sFenced 0 0).isSome = true ∧ working (sQueue { q0 with halt := true } []) 0 ≠ [])
      ∧ chosen (sAdmit kernQ) (fun y k ps => y.q == 0 && k.gangN == 0 && ps.length == 1) = true
      ∧ chosen sAdmitG (fun y k _ => y.q == 0 && k.gangN == 2) = true :=
  ⟨by decide, ⟨by decide, by decide, ⟨by decide +kernel, by decide⟩, ⟨by decide +kernel, by decide +kernel, by decide +kernel⟩,
   ⟨by decide +kernel, by decide⟩, ⟨by decide +kernel, by decide +kernel, by decide +kernel⟩, ⟨by decide +kernel, by decide,
   by decide +kernel, by decide, by decide +kernel⟩, packet0 1 (by decide), by decide +kernel, by decide +kernel, by decide +kernel⟩,
   ⟨fun v h => have e : packetAt (sQueue { q0 with ring := 0 } []) { q0 with ring := 0 } = .unres fNoObject := by decide +kernel
                absurd (e.symm.trans h) (by simp),
   by decide⟩, by decide, by decide, by decide +kernel, by decide +kernel⟩

/-! ### The device -/

def blkPre : Block := { blk with pre := true }
/-- A lane in its masked handler in a block that pre-emption stops, 65 536 cycles after the request. -/
def laneTm : Fibre := { lane 0 with tm := true }
def sPre : State := sAt { s1 with blocks := [blkPre], fibres := [laneTm] } 65536
theorem test_preq : (nx (exec (.preq 0 (2 ^ 17)) s1)).map (fun t => t.blocks.map (·.pre)) = some [true] := by decide
theorem test_budget : (nx (exec (.handlerBudgetExpiry 0 0 0) sPre)).map (fun t => t.fibres.map fun f => f.expired) = some [true] := by decide
theorem test_tcode1 : (nx (exec (.tcode1 0 (2 ^ 20)) s1)).map (fun t => (sysGet t 0 0x0301, sysGet t 0 0x0302)) = some (0, 0) := by decide
theorem test_tlog0 : (nx (exec (.tlog0 0) sLog)).map (fun t => t.partns.map fun q => (q.latch == rec0.bits, q.tlog)) = some [(true, [])] := by decide
theorem test_bfstatAck : (nx (exec (.bfstatAck 0 32) { s1 with blocks := [{ blk with fovf := true }] })).map (fun t => t.blocks.map (·.fovf)) = some [false] := by decide
theorem test_ownapply : (nx (exec (.ownapply 1) s1)).map (fun t => (mapGet t.owners 5 0xFE, mapGet t.serves 3 9)) = some (0, 0) := by decide
theorem test_feataccept : (nx (exec (.feataccept 0x1F) { s1 with sys := [] })).map (fun t => sysGet t 8 0x4001) = some 15 := by decide
theorem test_debugStop : (nx (exec (.debugStop 0 (2 ^ 17)) s1)).map (fun t => t.blocks.map (·.dbg)) = some [true] := by decide
theorem test_debugResume : (nx (exec (.debugResume 0 (2 ^ 18)) { s1 with blocks := [{ blk with dbg := true }] })).map (fun t => t.blocks.map (·.dbg)) = some [false] := by decide
theorem test_traceEnable : (nx (exec (.traceEnable 0 (2 ^ 40)) { s1 with partns := [{ Partn.empty 0 with trDrops := 3 }] })).map (fun t => (partnOf t 0).trDrops) = some 0 := by decide
theorem test_recordMode : (nx (exec (.recordMode 0 1) s1)).map (fun t => rrMode t 0) = some 1 := by decide
theorem test_replayMode : (nx (exec (.replayMode 0 2) { s1 with blocks := [{ blk with level := 0 }] })).map (fun t => rrMode t 0) = some 0 := by decide
/-- R394: the first chunk that the log holds for an object is malformed (its RUN is 0), so replay begins with BADLOG. -/
theorem test_replay_badlog : (nx (exec (.replayMode 0 2) (sysPut (sysPut s1 0 0x0529 0x50000) 0 0x052A 1))).map
    (fun t => (sysRead t 0 (lane 0) 0x052B, (partnOf t 0).rrDone)) = some (4, [0]) := by decide +kernel
/-- R389: DSTAT reads 1 while a fibre waits at an instruction it has issued, 2 once every fibre has stopped. -/
theorem test_dstat : (nx (exec (.debugStop 0 (2 ^ 17)) (world [{ lane 0 with run := .waiting .gate }, lane 1]))).map (dstat · 0 0) = some 1
    ∧ (nx (exec (.debugStop 0 (2 ^ 17)) s1)).map (dstat · 0 0) = some 2 := by decide +kernel
theorem test_scratchpadWindow : (nx (exec (.scratchpadWindow 0 7 16 32) s1)).map (fun t => t.windows) = some [{ part := 0, obj := 7, blk := 0, wb := 16, wl := 32, ended := false }] := by decide
theorem test_unitFence : ((nx (exec (.unitFence 0) s1)).map fun t => (t.fenced, t.fencePend)) = some ([], [0]) ∧ ((nx (exec (.unitFence 7) s1)).map fun t => (t.fenced, t.fencePend)) = some ([7], []) := by decide
theorem test_deviceReset : (nx (exec (.deviceReset 0 0 0) s1)).map (fun t => (t.fibres, t.blocks, t.bootStep)) = some ([], [], 1) := by decide
/-- The device has been brought up; before its link is trained the host reaches nothing. -/
def sUp : State := { s1 with bootStep := 6 }
theorem test_hostAccess : (nx (exec (.hostAccess 1 0x40000 2 0x1234) sUp)).map (fun t => t.mem) = some [(0x40000, 0x34), (0x40001, 0x12)]
    ∧ nx (exec (.hostAccess 1 0x40000 2 0x1234) s1) = some s1 := by decide
/-- The monitor kernel has trapped in step 3. -/
def sMonTrap : State := { s1 with bootStep := 3, blocks := [{ blk with part := 8 }], fibres := [{ lane 0 with trec := some rec0 }] }
/-- R386, R387: bring-up goes no further, and the failure is MONITOR_FAULT alone. -/
theorem test_monitor_fault : nx (exec (.deviceReset 1 0 0) sMonTrap) = some sMonTrap ∧ nx (exec (.deviceReset 2 0x0301 0) sMonTrap) = some sMonTrap
    ∧ (nx (exec (.deviceReset 2 0x0303 0) sMonTrap)).map (fun t => (t.dvsec.fail, t.dvsec.code, t.dvsec.detail)) = some (true, 0x0303, 0x70011) := by decide
def sTab : State := worldC 0 l1
theorem test_remote : (nx (exec (.remoteDeviceRequest 1 0 1 0x40 2 0x1234) sTab)).map (fun t => t.read 0x30040 2) = some 0x1234 := by decide
theorem test_path : (nx (exec (.pathStateChange 3 0) s1)).map (fun t => t.pathsDown) = some [3] := by decide
theorem test_weight : (nx (exec (.weightStoreWrite 1 16 5) s1)).map (fun t => t.read (Config.weightBase + 2 ^ 32 + 16) 2) = some 5 := by decide
theorem test_ue : (nx (exec (.uncorrectableError 0x1234) s1)).map (fun t => t.ueMarks) = some [0x1230] := by decide
/-- Partition 0, which owns cluster 7, bears 3000 ns. -/
def sPow : State := sAt (sysPut { s1 with owners := [(7, 0)] } 0 0x0400 3000) 4000
theorem test_powerEntry : (nx (exec (.powerStateEntry 7) sPow)).map (fun t => mapGet t.power 7 0) = some 2 := by decide
def sPowX : State := sAt { s1 with idleAt := [(385, 0)], power := [(385, 1)] } 6000
theorem test_powerExit : (nx (exec (.powerStateExit 385) sPowX)).map (fun t => t.power) = some [] := by decide
theorem test_refresh : (nx (exec (.weightRefreshWindow 0) (sAt s1 320))).map (fun t => wrefOf t 0) = some (2, 320) := by decide
def sLim : State := sAt { s1 with belowSince := some 0, engines := [{ engineOf s1 0 with step := 3 }] } 4000000
theorem test_powerLimit : (nx (exec (.powerLimitStep 2849) sLim)).map (fun t => t.engines.map (·.step)) = some [2] := by decide
/-- The part holds a capability for the weight store of die 0. -/
def sHold : State := { s1 with parts := [{ prt with c := [mkCap 0x7FFFFFF8 255 65535 0] }] }
theorem test_weightHeld : (nx (exec (.weightStoreWrite 0 16 5) sHold)).map (fun t => t.mem) = some [] := by decide

/-- The lane has gone past an atomic whose result is outstanding: no damage comes to its word before that (log 9). -/
def sPast : State := { sOut outA with fibres := [{ lane 0 with outs := [outA], pc := 0x110, waitPc := 0x108 }] }

theorem wit_DeviceEvents :
    (Nat.testBit 0 17 = false ∧ Nat.testBit (2 ^ 17) 17 = true ∧ block? s1 (2 ^ 17 % 2 ^ 17) = some blk ∧ blk.part = 0)
      ∧ (fibre? sPre (key 0) = some laneTm ∧ block? sPre laneTm.blk = some blkPre ∧ blkPre.pre = true ∧ laneTm.tm = true ∧ laneTm.expired = false
        ∧ laneTm.run ≠ .exited ∧ blkPre.preAt + sysGet sPre 0 0x0303 ≤ sPre.now)
      ∧ (rootCap s1 0 (BitVec.ofNat 128 (sysGet s1 0 0x0301 + 2 ^ 64 * 0)) = true
        ∧ rootCap s1 0 (BitVec.ofNat 128 (sysGet s1 0 0x0301 + 2 ^ 64 * 2 ^ 20)) = false)
      ∧ (descHeld s1 0 [capObj (BitVec.ofNat 128 (sysGet s1 0 0x0301))] = none ∧ writeHeld s1 0 0x0528 2 = none ∧ (ownCells s1).find? (rowWaits s1) = none)
      ∧ (readPast s1 0x1230 = false ∧ readPast sPast 0x40080 = true)
      ∧ (partnOf sLog 0).tlog = [rec0]
      ∧ (block? s1 (sysGet s1 0 0x0204) = some blk ∧ Nat.testBit 32 5 = true)
      ∧ (Nat.testBit 1 0 = true ∧ ownHole s1 = none)
      ∧ (0 = 2 ^ 17 % 2 ^ 17 ∧ Nat.testBit (2 ^ 17) 18 = false ∧ Nat.testBit (2 ^ 18) 17 = false ∧ Nat.testBit (2 ^ 18) 18 = true ∧ 0 = 2 ^ 18 % 2 ^ 17)
      ∧ Nat.testBit (2 ^ 40) 40 = true
      ∧ (userResident s1 0 = false ∧ userResident { s1 with blocks := [{ blk with level := 0 }] } 0 = true)
      ∧ (16 % 16 = 0 ∧ 16 + 32 ≤ blk.spadSize ∧ s1.windows = [])
      ∧ (0 ∉ s1.fenced ∧ unitHeld s1 0 = true ∧ unitHeld s1 7 = false)
      ∧ (2 ≤ sUp.bootStep ∧ oneLine 0x40000 2 = true ∧ mapped 0x40000 = true ∧ rowWaits sUp 0x40000 = false ∧ sUp.ue 0x40000 2 = false
        ∧ rowWaits { sUp with power := [(384, 1)] } 0x40000 = true ∧ s1.bootStep < 2 ∧ monTrap sMonTrap ≠ none ∧ sMonTrap.dvsec.fail = false)
      ∧ (writeHeld s1 0 0x0528 0 = none ∧ writeHeld (sysPut (sChunk [(384, 1)]) 0 0x0528 1) 0 0x0528 0 = some 0x50000)
      ∧ (remoteWidth 1 0x40 2 = true ∧ window? sTab 0 1 = none ∧ translate { sTab with tlbs := [] } 0 1 0x40 [] = .miss
        ∧ window? { s1 with windows := [{ part := 0, obj := 7, blk := 0, wb := 16, wl := 32, ended := true }] } 0 7
            = some { part := 0, obj := 7, blk := 0, wb := 16, wl := 32, ended := true }
        ∧ translate sTab 0 1 0x40 [] = .place 0x30040 ∧ rowWaits sTab 0x30040 = false ∧ partialUe sTab 0x30040 2 = false)
      ∧ (storeHeld sHold 0 = true ∧ storeHeld s1 0 = false)
      ∧ (sysGet s1 8 0x4004 < 3001 ∧ 100 * 2849 < 95 * sysGet sLim 8 0x4004 ∧ sLim.belowSince = some 0 ∧ 0 + 4000000 ≤ sLim.now)
      ∧ ((∀ b ∈ sPow.blocks, b.cluster ≠ 7) ∧ mapGet sPow.idleAt 7 0 + 4000 ≤ sPow.now ∧ mapGet sPow.power 7 0 = 0 ∧ tolerates sPow 7 3000 = true
        ∧ (∀ f ∈ sPow.fibres, f.loc / 4 ≠ 7) ∧ (latheOf sPow 1).regions = [] ∧ mapGet sPow.reqAt 1 0 + 4000 ≤ sPow.now ∧ mapGet sPow.power (384 + 1) 0 = 0
        ∧ tolerates sPow (384 + 1) 1500 = true)
      ∧ (sPowX.idleAt.find? (fun x => x.1 == 384 + 1) = some (384 + 1, 0) ∧ mapGet sPowX.power (384 + 1) 0 = 1 ∧ 0 + 6000 ≤ sPowX.now)
      ∧ 0 < 8 :=
  ⟨by decide, by decide, by decide, by decide, by decide, by decide, by decide, by decide⟩

/-! ### Words: fields at the bit positions of spec/12 to 16 and 25 -/

/-- The bytes of a word of `n` bytes with the given fields, each as its lowest bit and its value. -/
def word (n : Nat) (fs : List (Nat × Nat)) : List (BitVec 8) := bytesLE n (fs.foldl (fun a x => a + x.2 * 2 ^ x.1) 0)
/-- The bytes are exactly this instruction. -/
noncomputable def isWord (bs : List (BitVec 8)) (i : Instr) : Bool := decide (decode bs = .ok (i, []))

/-- R184, R185: OP4 0 to 15 with S 1, D 17, A 9. -/
theorem test_decode_formH :
    ([Instr.movFormH, .addFormH, .subFormH, .mulFormH, .andFormH, .orFormH, .xorFormH, .shlFormH, .shrFormH, .sarFormH, .minSFormH, .maxSFormH,
      .faddFormH, .fmulFormH, .fminFormH, .fmaxFormH].zipIdx.all fun x =>
        isWord (word 2 [(1, 1), (3, x.2), (7, 17), (12, 9)]) (x.1 { a := 9, d := 17, stall := 1 })) = true := by decide +kernel

/-- OP6 values that read no B (R187). -/
def noBs : List Nat := [0x12, 0x13, 0x14, 0x18, 0x1D, 0x1E, 0x26, 0x27, 0x31, 0x32, 0x33, 0x34, 0x35, 0x36]
/-- B of an operation: 7, or 0 where it reads none. -/
def bOf (op : Nat) : Nat := if noBs.contains op then 0 else 7

/-- R186, R187: OP6 0 to 0x37 with S 2, D 5, A 6, G 3. -/
theorem test_decode_formA :
    ([Instr.addFormA, .subFormA, .mulFormA, .mulhSFormA, .mulhZFormA, .madFormA, .minSFormA, .minZFormA, .maxSFormA, .maxZFormA, .andFormA, .orFormA,
      .xorFormA, .andnFormA, .shlFormA, .shrFormA, .sarFormA, .rotlFormA, .clzFormA, .popcFormA, .brevFormA, .bfxFormA, .bfiFormA, .selFormA, .movFormA,
      .divSFormA, .divZFormA, .remSFormA, .remZFormA, .absFormA, .negFormA, .addsatSFormA, .faddFormA, .fsubFormA, .fmulFormA, .ffmaFormA, .fminFormA,
      .fmaxFormA, .fabsFormA, .fnegFormA, .fcpsgnFormA, .hadd2FormA, .hsub2FormA, .hmul2FormA, .hfma2FormA, .hmin2FormA, .hmax2FormA, .idot4FormA,
      .qdot4FormA, .f2iFormA, .i2fFormA, .ffloorFormA, .fceilFormA, .ftruncFormA, .frintFormA, .fscaleFormA].zipIdx.all fun x =>
        isWord (word 4 [(0, 1), (2, 2), (5, x.2), (11, 5), (17, 6), (23, bOf x.2), (29, 3)])
          (x.1 { g := 3, b := BitVec.ofNat 6 (bOf x.2), a := 6, d := 5, stall := 2 })) = true := by decide +kernel

/-- A 64-bit word with S 5, Y 1, G7 9, GN 1. -/
def word64 (op8 : Nat) (fs : List (Nat × Nat)) : List (BitVec 8) := word 8 ([(0, 3), (2, 5), (5, op8), (13, 1), (14, 9), (21, 1)] ++ fs)
def h9 : Head := { gn := true, g := 9, y := true, stall := 5 }

/-- R191: SAT, RM 2, B s200 or v7 of the lane 6 above, or no B. -/
def xFields (op : Nat) : List (Nat × Nat) :=
  [(22, op), (28, 5), (34, 6), (58, 2), (62, 1)] ++ if noBs.contains op then [] else if op % 2 = 0 then [(40, 200), (48, 1)] else [(40, 7), (49, 3), (52, 6), (57, 1)]
def xOp (op : Nat) : OpX :=
  let o : OpX := { sat := true, ftz := false, rm := 2, xf := false, xk := 0, xm := 0, bu := false, b := 0, a := 6, d := 5 }
  if noBs.contains op then o else if op % 2 = 0 then { o with bu := true, b := 200 } else { o with b := 7, xm := 3, xk := 6, xf := true }

theorem test_decode_formX :
    ([Instr.addFormX, .subFormX, .mulFormX, .mulhSFormX, .mulhZFormX, .madFormX, .minSFormX, .minZFormX, .maxSFormX, .maxZFormX, .andFormX, .orFormX,
      .xorFormX, .andnFormX, .shlFormX, .shrFormX, .sarFormX, .rotlFormX, .clzFormX, .popcFormX, .brevFormX, .bfxFormX, .bfiFormX, .selFormX, .movFormX,
      .divSFormX, .divZFormX, .remSFormX, .remZFormX, .absFormX, .negFormX, .addsatSFormX, .faddFormX, .fsubFormX, .fmulFormX, .ffmaFormX, .fminFormX,
      .fmaxFormX, .fabsFormX, .fnegFormX, .fcpsgnFormX, .hadd2FormX, .hsub2FormX, .hmul2FormX, .hfma2FormX, .hmin2FormX, .hmax2FormX, .idot4FormX,
      .qdot4FormX, .f2iFormX, .i2fFormX, .ffloorFormX, .fceilFormX, .ftruncFormX, .frintFormX, .fscaleFormX].zipIdx.all fun x =>
        isWord (word64 0 (xFields x.2)) (x.1 h9 (xOp x.2))) = true := by decide +kernel

/-- R187, R193: the OP6 values that form I has, with IMM -3, D 5, A 6 (0 for MOV). -/
theorem test_decode_formI :
    ([(0, Instr.addFormI), (1, .subFormI), (2, .mulFormI), (3, .mulhSFormI), (4, .mulhZFormI), (5, .madFormI), (6, .minSFormI), (7, .minZFormI),
      (8, .maxSFormI), (9, .maxZFormI), (10, .andFormI), (11, .orFormI), (12, .xorFormI), (13, .andnFormI), (14, .shlFormI), (15, .shrFormI),
      (16, .sarFormI), (17, .rotlFormI), (0x15, .bfxFormI), (0x16, .bfiFormI), (0x17, .selFormI), (0x18, .movFormI), (0x19, .divSFormI), (0x1A, .divZFormI),
      (0x1B, .remSFormI), (0x1C, .remZFormI), (0x1F, .addsatSFormI), (0x37, .fscaleFormI)].all fun x =>
        let a := if x.1 = 0x18 then 0 else 6
        isWord (word64 1 [(22, x.1), (28, 5), (34, a), (40, 0xFFFFFD)]) (x.2 h9 { imm := 0xFFFFFD, a := BitVec.ofNat 6 a, d := 5 })) = true := by
  decide +kernel

/-- R205 to R215. -/
theorem test_decode_lanes :
    ([(word64 0x02 [(58, 1), (54, 4), (52, 2), (51, 1), (44, 33), (37, 17), (36, 1), (28, 200), (22, 12)],
        Instr.icmp h9 { h := false, fmt := 1, cc := 4, bop := 2, qn := true, q := 33, pd := 17, bu := true, b := 200, a := 12 }),
      (word64 0x03 [(60, 1), (58, 1), (54, 9), (37, 17), (28, 13), (22, 12)],
        .fcmp h9 { h := true, fmt := 1, cc := 9, bop := 0, qn := false, q := 0, pd := 17, bu := false, b := 13, a := 12 }),
      (word64 0x04 [(58, 4), (54, 8), (50, 6), (43, 60), (36, 40), (29, 20), (22, 10)],
        .pcomb h9 { nm1 := 4, f1 := 8, f0 := 6, pz := 60, py := 40, px := 20, pd := 10 }),
      (word64 0x05 [(28, 32), (22, 7)], .ptov h9 { sm := 0, pb := 32, v := 7 }),
      (word64 0x06 [(35, 66), (28, 32), (22, 7)], .vtop h9 { sm := 66, pb := 32, v := 7 }),
      (word64 0x07 [(46, 5), (39, 17), (30, 2), (29, 1), (22, 33)], .psurv h9 { k := 5, pd := 17, d := 0, mode := 2, psn := true, ps := 33 }),
      (word64 0x07 [(33, 7), (30, 4), (22, 33)], .psurv h9 { k := 0, pd := 0, d := 7, mode := 4, psn := false, ps := 33 }),
      (word64 0x08 [(49, 1), (43, 20), (42, 1), (37, 9), (34, 3), (28, 12), (22, 7)],
        .shfl h9 { gv := true, gm := 20, xf := true, xk := 9, xm := 3, a := 12, d := 7 }),
      (word64 0x09 [(34, 1), (28, 12), (22, 7)], .matchOp h9 { k64 := true, a := 12, d := 7 }),
      (word64 0x0A [(52, 1), (51, 1), (45, 20), (44, 1), (28, 12), (22, 7)],
        .redux h9 { xf := true, gv := true, gm := 20, sat := true, ftz := false, rm := 0, fmt := 0, op := 0, a := 12, d := 7 }),
      (word64 0x0B [(43, 1), (40, 2), (38, 1), (34, 8), (28, 12), (22, 7)],
        .scan h9 { xf := false, gv := false, gm := 0, sat := false, ftz := true, rm := 2, fmt := 1, op := 8, a := 12, d := 7 }),
      (word64 0x0C [(36, 1), (28, 200), (22, 7)], .umov h9 { imm := 0, dir := 1, s := 200, v := 7 }),
      (word64 0x0C [(40, 0xFFFFF0), (36, 2), (28, 200)], .umov h9 { imm := 0xFFFFF0, dir := 2, s := 200, v := 0 })].all
        fun x => isWord x.1 x.2) = true := by decide +kernel

/-- R216 to R225. JOIN has no guard. -/
theorem test_decode_control :
    ([(word64 0x10 [(22, 2 ^ 42 - 13)], Instr.bra h9 { disp := -13 }),
      (word64 0x11 [(40, 2 ^ 24 - 8), (28, 3), (22, 12)], .brx h9 { toff := -8, nm1 := 3, a := 12 }),
      (word64 0x12 [(28, 2 ^ 36 - 6), (22, 8)], .call h9 { disp := -6, d := 8 }),
      (word64 0x13 [(22, 8)], .ret h9 { a := 8 }), (word64 0x14 [(22, 8)], .jmp h9 { a := 8 }),
      (word64 0x15 [(35, 2 ^ 29 - 4), (28, 17), (22, 12)], .spawn h9 { disp := -4, pd := 17, a := 12 }),
      (word64 0x16 [], .exit h9), (word 8 [(0, 3), (2, 5), (5, 0x17), (13, 1)], .join { gn := false, g := 0, y := true, stall := 5 }),
      (word64 0x18 [], .yieldOp h9),
      (word64 0x19 [(44, 1), (36, 200), (28, 0x0A)], .setsr h9 { us := true, s := 200, sr := 0x0A, v := 0 }),
      (word64 0x1F [(28, 0x0A), (22, 7)], .getsr h9 { us := false, s := 0, sr := 0x0A, v := 7 }),
      (word64 0x1A [(25, 40), (22, 3)], .waitc h9 { n := 40, cls := 3 }), (word64 0x1B [(27, 200), (26, 1), (22, 9)], .bar h9 { s := 200, cnt := true, id := 9 }),
      (word64 0x1C [(22, 0xBEEF)], .utrap h9 { code := 0xBEEF }), (word64 0x1D [(22, 0xBEEF)], .bkpt h9 { code := 0xBEEF }),
      (word64 0x1E [(22, 0xBEEF)], .mark h9 { code := 0xBEEF })].all fun x => isWord x.1 x.2) = true := by decide +kernel

/-- R194, R235 to R246. -/
theorem test_decode_memory :
    (let m : MemP := { off := 0xFFD, o64 := false, qc := 0, sc := 0, t := 0, w := 2, c := 0, a := 12, d := 8 }
     let fm := fun (o64 qc sc t w c : Nat) => [(52, 0xFFD), (51, o64), (48, qc), (45, sc), (41, t), (38, w), (34, c), (28, 12), (22, 8)]
     [(word64 0x20 (fm 1 6 4 1 2 3), Instr.ld h9 { m with o64 := true, qc := 6, sc := 4, t := 1, c := 3 }),
      (word64 0x21 (fm 1 7 4 0 3 3), .st h9 { m with o64 := true, qc := 7, sc := 4, w := 3, c := 3 }),
      (word64 0x22 (fm 0 2 1 1 2 0), .ldl h9 { m with qc := 2, sc := 1, t := 1 }),
      (word64 0x23 (fm 0 3 1 0 0 0), .stl h9 { m with qc := 3, sc := 1, w := 0 }),
      (word64 0x24 (fm 0 0 0 2 1 3), .ldw h9 { m with t := 2, w := 1, c := 3 }),
      (word64 0x29 (fm 0 0 2 0 4 3), .capld h9 { m with sc := 2, w := 4, c := 3 }),
      (word64 0x2A (fm 0 0 2 0 4 3), .capst h9 { m with sc := 2, w := 4, c := 3 }),
      (word64 0x25 [(45, 9), (42, 4), (41, 1), (38, 3), (34, 3), (28, 12), (22, 7)], .lda h9 { b := 9, sc := 4, o64 := true, w := 3, c := 3, a := 12, d := 7 }),
      (word64 0x26 [(56, 14), (52, 1), (50, 3), (47, 4), (46, 1), (45, 1), (40, 3), (34, 10), (28, 12), (22, 8)],
        .atom h9 { e := 14, aop := 1, ord := 3, sc := 4, w64 := true, o64 := true, sp := false, c := 3, b := 10, a := 12, d := 8 }),
      (word64 0x26 [(52, 9), (47, 1), (44, 1), (34, 10), (28, 12), (22, 7)],
        .atom h9 { e := 0, aop := 9, ord := 0, sc := 1, w64 := false, o64 := false, sp := true, c := 0, b := 10, a := 12, d := 7 }),
      (word64 0x27 [(53, 4), (50, 5), (49, 1), (46, 4), (45, 1), (40, 3), (34, 10), (28, 12)],
        .red h9 { rfmt := 4, rop := 5, rel := true, sc := 4, o64 := true, q := false, c := 3, b := 10, a := 12, d := 0 }),
      (word64 0x28 [(22, 4)], .fence h9 { sc := 4 }),
      (word64 0x2B [(38, 10), (30, 12), (26, 3), (22, 5)], .cnarrow h9 { sl := 10, sb := 12, cs := 3, cd := 5 }),
      (word64 0x2C [(30, 0xA5), (26, 3), (22, 5)], .crights h9 { mask := 0xA5, cs := 3, cd := 5 }),
      (word64 0x2D [(26, 8), (22, 3)], .cinfo h9 { sd := 8, cs := 3 }),
      (word64 0x2E [(34, 0xFFFE), (22, 12)], .feset h9 { pd := 0, off := 0xFFFE, v := 0, a := 12 }),
      (word64 0x2F [(34, 0xFFFE), (22, 12)], .feclr h9 { pd := 0, off := 0xFFFE, v := 0, a := 12 }),
      (word64 0x30 [(50, 17), (34, 0xFFFE), (22, 12)], .fetest h9 { pd := 17, off := 0xFFFE, v := 0, a := 12 }),
      (word64 0x31 [(34, 2), (28, 9), (22, 12)], .binit h9 { pd := 0, off := 2, v := 9, a := 12 }),
      (word64 0x32 [(34, 2), (28, 9), (22, 12)], .barv h9 { pd := 0, off := 2, v := 9, a := 12 }),
      (word64 0x33 [(34, 2), (28, 9), (22, 12)], .bexpt h9 { pd := 0, off := 2, v := 9, a := 12 }),
      (word64 0x34 [(34, 2), (28, 9), (22, 12)], .bwait h9 { pd := 0, off := 2, v := 9, a := 12 })].all fun x => isWord x.1 x.2) = true := by decide +kernel

/-- R253 to R278: messages, migration, lathe and directory. -/
theorem test_decode_engines :
    (let l : LatheP := { slot := 0, bf := 0, dm := false, o64 := false, a := 0, s := 0, c := 3, d := 7 }
     let n : DirP := { imm := 0, wait := false, tv := false, stg := 0, st := 0, sn := 0, c := 0 }
     [(word64 0x40 [(38, 0x49), (30, 200), (28, 2), (22, 12)], Instr.send h9 { mask := 0x49, s := 200, nw := 2, a := 12 }),
      (word64 0x41 [(38, 17), (37, 1), (35, 1), (34, 1), (28, 9), (22, 8)], .recv h9 { pd := 17, wait := true, nw := 1, hv := true, h := 9, d := 8 }),
      (word64 0x42 [(28, 2), (22, 7)], .qpoll h9 { sel := 2, d := 7 }),
      (word64 0x43 [(22, 12)], .cpy h9 { a := 12 }), (word64 0x44 [(22, 12)], .cpym h9 { a := 12 }), (word64 0x45 [(22, 12)], .cpyt h9 { a := 12 }),
      (word64 0x46 [(22, 12)], .cpyx h9 { a := 12 }),
      (word64 0x47 [(56, 0xFD), (53, 2), (40, 200), (39, 1), (28, 12), (22, 9)],
        .radd h9 { off := 0xFD, gl := false, fmt := 2, c := 0, o64 := false, g := 200, gu := true, a := 12, b := 9 }),
      (word64 0x47 [(55, 1), (53, 1), (49, 3), (48, 1), (28, 12), (22, 9)],
        .radd h9 { off := 0, gl := true, fmt := 1, c := 3, o64 := true, g := 0, gu := false, a := 12, b := 9 }),
      (word64 0x48 [(39, 1), (33, 44), (32, 1), (28, 3), (22, 12)], .migr h9 { fb := true, live := 44, o64 := true, c := 3, a := 12 }),
      (word64 0x49 [(22, 44)], .migrh h9 { live := 44 }),
      (word64 0x50 [(32, 8), (28, 3), (22, 7)], .cutreg h9 { l with s := 8 }), (word64 0x51 [(28, 3), (22, 7)], .cutdrop h9 l),
      (word64 0x52 [(46, 1), (40, 12), (28, 3), (22, 7)], .swpos h9 { l with o64 := true, a := 12 }),
      (word64 0x53 [(48, 2), (28, 3), (22, 7)], .cutboost h9 { l with bf := 2 }), (word64 0x54 [(32, 8), (28, 3), (22, 7)], .rowop h9 { l with s := 8 }),
      (word64 0x55 [(50, 11), (40, 12), (28, 3), (22, 7)], .rowprog h9 { l with slot := 11, a := 12 }),
      (word64 0x56 [(47, 1), (40, 12), (28, 3), (22, 8)], .rowstat h9 { l with dm := true, a := 12, d := 8 }),
      (word64 0x58 [(51, 1), (50, 1), (42, 30), (34, 20), (26, 16), (22, 3)],
        .nopen h9 { n with wait := true, tv := true, stg := 30, st := 20, sn := 16, c := 3 }),
      (word64 0x59 [(22, 3)], .nclose h9 { n with c := 3 }),
      (word64 0x5A [(52, 5), (34, 20), (26, 16), (22, 3)], .nbind h9 { n with imm := 5, st := 20, sn := 16, c := 3 }),
      (word64 0x5B [(52, 16), (34, 20), (26, 16), (22, 3)], .nbindm h9 { n with imm := 16, st := 20, sn := 16, c := 3 }),
      (word64 0x5C [(50, 1), (42, 30), (34, 20), (26, 16)], .ninfo h9 { n with tv := true, stg := 30, st := 20, sn := 16 }),
      (word64 0x5D [(52, 8), (34, 20), (26, 16)], .nring h9 { n with imm := 8, st := 20, sn := 16 }),
      (word64 0x5E [(26, 17)], .ntag h9 { n with sn := 17 })].all fun x => isWord x.1 x.2) = true := by decide +kernel

/-- R285 to R308: transcendental functions, conversions, tags, tiles, gangs. -/
theorem test_decode_numbers :
    (let t : TransP := { sat := true, ftz := true, rm := 2, fmt := 1, b := 0, a := 12, d := 7 }
     let ft := [(48, 1), (47, 1), (44, 2), (42, 1), (28, 12), (22, 7)]
     [(word64 0x70 ft, Instr.frcp h9 t), (word64 0x71 ft, .frsq h9 t), (word64 0x72 ft, .fsqrt h9 t), (word64 0x73 ft, .fex2 h9 t),
      (word64 0x74 ft, .flg2 h9 t), (word64 0x75 ft, .fsin h9 t), (word64 0x76 ft, .fcos h9 t), (word64 0x77 ft, .ftanh h9 t),
      (word64 0x7C ((34, 9) :: ft), .fdiv h9 { t with b := 9 }),
      (word64 0x78 [(51, 1), (50, 1), (47, 2), (45, 1), (43, 3), (39, 1), (35, 3), (28, 12), (22, 7)],
        .fcvt h9 { sat := true, ftz := true, rm := 2, dsel := 1, ssel := 3, df := 1, sf := 3, a := 12, d := 7 }),
      (word64 0x79 [(42, 1), (40, 2), (34, 9), (28, 13), (22, 8)], .fpack h9 { spx := true, hr := 2, h := 9, a := 13, d := 8 }),
      (word64 0x7A [(34, 9), (28, 12), (22, 7)], .funpk h9 { spx := false, hr := 0, h := 9, a := 12, d := 7 }),
      (word64 0x7B [(38, 17), (37, 1), (34, 4), (28, 12), (22, 7)], .fclass h9 { pd := 17, pv := true, fmt := 4, a := 12, d := 7 }),
      (word64 0x7D [(28, 2), (22, 7)], .tagset h9 { tag := 2, d := 7 }),
      (word64 0x7E [(34, 1), (28, 11), (22, 7)], .tagget h9 { tm := true, a := 11, d := 7 }),
      (word64 0x60 [(22, 12)], .mxop h9 { a := 12 }),
      (word64 0x61 [(38, 1), (34, 11), (28, 13), (22, 8)], .mxrd h9 { w4 := true, m := 11, a := 13, d := 8 }),
      (word64 0x62 [(34, 11), (28, 13), (22, 7)], .mxwr h9 { w4 := false, m := 11, a := 13, d := 7 }),
      (word64 0x63 [(22, 11)], .mxclr h9 { m := 11 }), (word64 0x64 [(28, 2), (22, 8)], .mxstat h9 { sel := 2, d := 8 }),
      (word64 0x65 [(22, 17)], .gsync h9 { pd := 17 }),
      (word64 0x66 [(37, 1), (36, 1), (29, 33), (22, 17)], .nfvote h9 { dom := true, psn := true, ps := 33, pd := 17 }),
      (word64 0x67 [(32, 0xFC), (23, 1), (22, 1)], .lscale h9 { imm := 0xFC, s := 0, iv := true, acc := true }),
      (word64 0x67 [(24, 200)], .lscale h9 { imm := 0, s := 200, iv := false, acc := false })].all fun x => isWord x.1 x.2) = true := by decide +kernel

/-- R363. -/
theorem test_decode_system :
    ([(word64 0xF0 [(37, 0x304), (36, 1), (28, 8)], Instr.sysrd h9 { srn := 0x304, us := true, s := 8, v := 0 }),
      (word64 0xF1 [(37, 0x304), (22, 8)], .syswr h9 { srn := 0x304, us := false, s := 0, v := 8 }),
      (word64 0xF2 [(23, 6), (22, 1)], .tret h9 { s := 6, fr := true }), (word64 0xF3 [(22, 1)], .tmask h9 { m := true }),
      (word64 0xF4 [(36, 17), (28, 8)], .fqpop h9 { pd := 17, s := 8 }), (word64 0xF5 [(43, 1), (36, 17), (28, 9)], .fqres h9 { bad := true, pd := 17, s := 9 }),
      (word64 0xF6 [(24, 6), (22, 2)], .tlbinv h9 { s := 6, mode := 2 }), (word64 0xF7 [(34, 21), (26, 8), (22, 2)], .objset h9 { st := 21, s := 8, op := 2 }),
      (word64 0xF8 [(36, 17), (28, 12)], .prack h9 { pd := 17, s := 12 }),
      (word64 0xF9 [(34, 21), (26, 8), (22, 4)], .ctxsv h9 { st := 21, s := 8, c := 4 }), (word64 0xFA [(34, 21), (26, 8), (22, 4)], .ctxrs h9 { st := 21, s := 8, c := 4 }),
      (word64 0xFB [(34, 21), (26, 8), (22, 4)], .lsqrst h9 { st := 21, s := 8, c := 4 }),
      (word64 0xFC [(34, 21), (26, 8), (22, 4)], .lsqsave h9 { st := 21, s := 8, c := 4 }),
      (word64 0xFD [(23, 6), (22, 1)], .haltb h9 { s := 6, fr := true }), (word64 0xFE [(34, 21), (26, 8)], .trial h9 { st := 21, s := 8 })].all
        fun x => isWord x.1 x.2) = true := by decide +kernel

/-- Words that the spec's own examples and programs print. -/
theorem test_decode_printed :
    (let h0 : Head := { gn := false, g := 0, y := false, stall := 0 }
     let m : MemP := { off := 0, o64 := false, qc := 0, sc := 0, t := 0, w := 2, c := 0, a := 0, d := 0 }
     [(0x0080008070800043, Instr.icmp h0 { h := false, fmt := 0, cc := 2, bop := 0, qn := false, q := 0, pd := 4, bu := false, b := 7, a := 2 }),
      (0x0009002062404143, .redux { h0 with g := 1 } { xf := false, gv := true, gm := 8, sat := false, ftz := false, rm := 0, fmt := 0, op := 8, a := 6, d := 9 }),
      (0x0000048010800403, .ld h0 { m with d := 2, a := 1, t := 2 }), (0x0017808410C00423, .st h0 { m with d := 3, a := 1, c := 1, sc := 4, qc := 7, off := 1 }),
      (0x0A1C8220418004C3, .atom h0 { e := 10, aop := 1, ord := 3, sc := 1, w64 := false, o64 := false, sp := false, c := 2, b := 8, a := 4, d := 6 }),
      (0x0000024001000803, .send h0 { mask := 9, s := 0, nw := 0, a := 4 }), (0x0000000000800863, .cpy h0 { a := 2 }),
      (0x0004305021400B03, .nopen h0 { imm := 0, wait := false, tv := true, stg := 12, st := 20, sn := 8, c := 5 }),
      (0x0401020448000003, .faddFormX h0 { sat := false, ftz := false, rm := 1, xf := false, xk := 0, xm := 0, bu := true, b := 2, a := 1, d := 4 }),
      (0x0000000021800E43, .fsqrt h0 { sat := false, ftz := false, rm := 0, fmt := 0, b := 0, a := 2, d := 6 }),
      (0x0000003080001E83, .fqpop h0 { pd := 3, s := 8 }), (0x00000000404003C3, .mark h0 { code := 0x101 }),
      (0x0000020013800027, .shlFormI { h0 with stall := 1 } { imm := 2, a := 0, d := 1 }),
      (0xFFFFFFFFFCE04203, .bra { h0 with gn := true, g := 1 } { disp := -13 }), (0x00000000000002E3, .join h0),
      (0x000D030061000403, .ld h0 { m with d := 4, a := 6, o64 := true, w := 4, t := 1, qc := 5 }),
      (0x0000340040800223, .brx h0 { toff := 0x34, nm1 := 4, a := 2 }),
      (0x0000000440C0CC43, .mxwr { h0 with g := 3 } { w4 := false, m := 1, a := 4, d := 3 }),
      (0x0010005020000B43, .nbind h0 { imm := 1, wait := false, tv := false, stg := 0, st := 20, sn := 8, c := 0 })].all
        fun x => isWord (bytesLE 8 x.1) x.2) = true := by decide +kernel

/-! ### Ill-formed terms, one for each check of R197 and of the entries it names -/

theorem test_illformed :
    (let hBad : Head := { hd with g := 96 }
     let x0 : OpX := { sat := false, ftz := false, rm := 0, xf := false, xk := 0, xm := 0, bu := false, b := 0, a := 0, d := 0 }
     let c0 : CmpP := { h := false, fmt := 0, cc := 0, bop := 0, qn := false, q := 0, pd := 0, bu := false, b := 0, a := 0 }
     let s0 : PsurvP := { k := 0, pd := 0, d := 0, mode := 0, psn := false, ps := 0 }
     let f0 : ShflP := { gv := false, gm := 0, xf := false, xk := 0, xm := 1, a := 0, d := 0 }
     let r0 : ReduxP := { xf := false, gv := false, gm := 0, sat := false, ftz := false, rm := 0, fmt := 0, op := 0, a := 0, d := 0 }
     let m0 : MemP := { off := 0, o64 := false, qc := 0, sc := 0, t := 0, w := 2, c := 0, a := 0, d := 0 }
     let a0 : AtomP := { e := 0, aop := 0, ord := 0, sc := 0, w64 := false, o64 := false, sp := false, c := 0, b := 0, a := 0, d := 0 }
     let q0 : RedP := { rfmt := 0, rop := 0, rel := false, sc := 0, o64 := false, q := false, c := 0, b := 0, a := 0, d := 0 }
     let g0 : GranP := { pd := 0, off := 0, v := 0, a := 0 }
     let l0 : LatheP := { slot := 0, bf := 0, dm := false, o64 := false, a := 0, s := 0, c := 0, d := 0 }
     let n0 : DirP := { imm := 0, wait := false, tv := false, stg := 0, st := 0, sn := 0, c := 0 }
     let t0 : TransP := { sat := false, ftz := false, rm := 0, fmt := 0, b := 0, a := 0, d := 0 }
     [Instr.exit hBad, .clzFormA { g := 0, b := 1, a := 0, d := 0, stall := 0 }, .clzFormX hd { x0 with xm := 1 }, .addFormX hd { x0 with rm := 4 },
      .addFormX hd { x0 with xm := 6 }, .addFormX hd { x0 with xm := 1, bu := true }, .addFormX hd { x0 with xk := 1 }, .addFormX hd { x0 with xf := true },
      .addFormX hd { x0 with b := 64 }, .movFormI hd { imm := 0, a := 1, d := 0 },
      .icmp hd { c0 with h := true }, .icmp hd { c0 with cc := 6 }, .icmp hd { c0 with fmt := 2, a := 1 }, .icmp hd { c0 with q := 1 }, .icmp hd { c0 with pd := 96 },
      .icmp hd { c0 with bop := 1, q := 96 }, .icmp hd { c0 with b := 64 }, .fcmp hd { c0 with fmt := 3 }, .fcmp hd { c0 with cc := 14 }, .fcmp hd { c0 with h := true },
      .pcomb hd { nm1 := 31, f1 := 0, f0 := 0, pz := 0, py := 0, px := 0, pd := 65 }, .ptov hd { sm := 1, pb := 0, v := 0 }, .vtop hd { sm := 0, pb := 65, v := 0 },
      .psurv hd { s0 with mode := 5 }, .psurv hd { s0 with k := 33 }, .psurv hd { s0 with d := 1 }, .psurv hd { s0 with mode := 3, pd := 1 }, .psurv hd { s0 with ps := 96 },
      .shfl hd { f0 with xm := 0 }, .shfl hd { f0 with xm := 6 }, .shfl hd { f0 with gm := 1 }, .matchOp hd { k64 := true, a := 1, d := 0 },
      .redux hd { r0 with op := 11 }, .redux hd { r0 with fmt := 1 }, .redux hd { r0 with op := 8, fmt := 3 }, .redux hd { r0 with xf := true }, .scan hd { r0 with op := 8, rm := 4 },
      .umov hd { imm := 0, dir := 3, s := 0, v := 0 }, .umov hd { imm := 1, dir := 0, s := 0, v := 0 }, .umov hd { imm := 0, dir := 2, s := 0, v := 1 },
      .call hd { disp := 0, d := 1 }, .ret hd { a := 1 }, .jmp hd { a := 1 }, .spawn hd { disp := 0, pd := 96, a := 0 }, .join { hd with g := 1 },
      .waitc hd { n := 0, cls := 5 }, .bar hd { s := 1, cnt := false, id := 0 }, .getsr hd { us := false, s := 0, sr := 0x13, v := 0 },
      .getsr hd { us := false, s := 0, sr := 0x08, v := 1 }, .getsr hd { us := true, s := 0, sr := 0, v := 1 }, .setsr hd { us := false, s := 0, sr := 0, v := 0 },
      .ld hd { m0 with sc := 6 }, .ld hd { m0 with w := 5 }, .ld hd { m0 with t := 12 }, .ld hd { m0 with qc := 1 }, .ld hd { m0 with w := 3, d := 1 },
      .ld hd { m0 with w := 4, d := 2 }, .ld hd { m0 with o64 := true, a := 1 }, .st hd { m0 with t := 1 }, .st hd { m0 with qc := 6 }, .ldl hd { m0 with c := 1 },
      .ldl hd { m0 with o64 := true }, .ldl hd { m0 with sc := 2 }, .ldl hd { m0 with qc := 3 }, .stl hd { m0 with qc := 2 }, .ldw hd { m0 with sc := 1 },
      .capld hd m0, .capst hd { m0 with w := 4, d := 16 }, .lda hd { b := 0, sc := 0, o64 := false, w := 1, c := 0, a := 0, d := 0 },
      .atom hd { a0 with aop := 11 }, .atom hd { a0 with e := 1 }, .atom hd { a0 with aop := 10, w64 := true }, .atom hd { a0 with sp := true, sc := 2 },
      .atom hd { a0 with sp := true, c := 1 }, .atom hd { a0 with w64 := true, b := 1 }, .red hd { q0 with rfmt := 5 }, .red hd { q0 with rfmt := 1, rop := 3 },
      .red hd { q0 with d := 1 }, .red hd { q0 with q := true, b := 1 }, .red hd { q0 with rfmt := 4, b := 1 }, .fence hd { sc := 6 },
      .cnarrow hd { sl := 1, sb := 0, cs := 0, cd := 0 }, .cinfo hd { sd := 2, cs := 0 }, .feset hd { g0 with v := 1 }, .fetest hd { g0 with pd := 96 },
      .binit hd { g0 with pd := 1 }, .send hd { mask := 0, s := 0, nw := 0, a := 0 }, .send hd { mask := 1, s := 1, nw := 0, a := 0 },
      .send hd { mask := 1, s := 0, nw := 3, a := 0 }, .recv hd { pd := 0, wait := false, nw := 2, hv := false, h := 0, d := 2 },
      .recv hd { pd := 0, wait := false, nw := 0, hv := false, h := 1, d := 0 },
      .radd hd { off := 0, gl := false, fmt := 3, c := 0, o64 := false, g := 0, gu := false, a := 0, b := 0 },
      .radd hd { off := 0, gl := false, fmt := 0, c := 1, o64 := false, g := 0, gu := false, a := 0, b := 0 },
      .radd hd { off := 0, gl := true, fmt := 0, c := 0, o64 := false, g := 1, gu := false, a := 0, b := 0 },
      .migr hd { fb := false, live := 0, o64 := true, c := 0, a := 1 }, .cutreg hd { l0 with s := 2 }, .cutdrop hd { l0 with slot := 1 }, .cutboost hd { l0 with bf := 3 },
      .rowstat hd { l0 with a := 1 }, .rowstat hd { l0 with d := 2 }, .nopen hd { n0 with stg := 1 }, .nopen hd { n0 with sn := 1 }, .nclose hd { n0 with st := 1 },
      .nbind hd { n0 with imm := 8 }, .nbindm hd n0, .nring hd { n0 with imm := 9 }, .ninfo hd { n0 with st := 254 }, .mxrd hd { w4 := true, m := 0, a := 0, d := 2 },
      .mxstat hd { sel := 3, d := 0 }, .gsync hd { pd := 96 }, .nfvote hd { dom := false, psn := false, ps := 96, pd := 0 },
      .lscale hd { imm := 0, s := 1, iv := true, acc := false }, .lscale hd { imm := 1, s := 0, iv := false, acc := false },
      .frcp hd { t0 with b := 1 }, .frcp hd { t0 with fmt := 3 }, .fdiv hd { t0 with rm := 4 },
      .fcvt hd { sat := false, ftz := false, rm := 0, dsel := 1, ssel := 0, df := 0, sf := 0, a := 0, d := 0 },
      .fpack hd { spx := false, hr := 0, h := 0, a := 0, d := 2 }, .funpk hd { spx := true, hr := 0, h := 0, a := 0, d := 0 },
      .fclass hd { pd := 1, pv := false, fmt := 0, a := 0, d := 0 }, .fclass hd { pd := 0, pv := false, fmt := 5, a := 0, d := 0 },
      .tagset hd { tag := 12, d := 0 }, .tagget hd { tm := true, a := 16, d := 0 }, .sysrd hd { srn := 0, us := true, s := 1, v := 0 },
      .sysrd hd { srn := 0, us := false, s := 2, v := 0 }, .tret hd { s := 2, fr := false }, .haltb hd { s := 1, fr := false }, .fqpop hd { pd := 0, s := 4 },
      .fqres hd { bad := false, pd := 96, s := 0 }, .prack hd { pd := 0, s := 2 }, .tlbinv hd { s := 0, mode := 3 }, .tlbinv hd { s := 2, mode := 0 },
      .objset hd { st := 0, s := 0, op := 3 }, .ctxsv hd { st := 0, s := 2, c := 0 }, .trial hd { st := 0, s := 2 }].all fun i => !i.wellFormed) = true := by decide +kernel

/-! ### One step -/

/-- The halfword of `add v1, v2` where the machine fetches next. -/
def sFetch : State := State.reset.withFetchWord 16 0x2088
def i0 : Instr := .addFormH { stall := 0, d := 1, a := 2 }
/-- The state in which the batch issues. -/
def wFetch : State := { sFetch with agenda := [], cur := some c0 }
theorem test_step : (nx (step sFetch)).map (fun t => t.fibres.map fun f => (f.pc, f.reg 1)) = some [(2, raw 0)] := by decide +kernel
theorem test_decodeTableWord : decodeTableWord 16 0x2088 = some i0 := by decide +kernel
/-- R197: a reserved bit set raises ILLEGAL_OP, here at user level. -/
theorem test_step_illegal : (nx (step (State.reset.withFetchWord 64 0x8000000000000003))).map (fun t => t.fibres.map fun f =>
    (f.run == .parked .trap, f.logRec.map (·.cause))) = some [(true, some 1)] := by decide +kernel

/-- What the machine fetches: eight bytes from the batch's program counter. -/
def fetched (s : State) (n v : Nat) : Bool :=
  match (lanesOf s c0).head? with
  | some f => (match block? s f.blk with | some b => fetch s b f == .bytes n v | none => false)
  | none => false
theorem wit_StepRunsDecoded :
    (∃ m, sFetch.agenda = [m] ∧ m.mover = .issue 0 0 ∧ m.dt = 0)
      ∧ ((portOf { sFetch with agenda := [] } 0 0).issued ≠ sFetch.now + 1 ∧ (waitingLoose { sFetch with agenda := [] } 0 0).length = 0)
      ∧ portOrder { sFetch with agenda := [] } 0 0 = [c0]
      ∧ fetched wFetch 2 0x2088 = true ∧ decode (bytesLE 2 0x2088) = .ok (i0, [])
      ∧ ((nx (exec i0 wFetch)).map fun t => stillWaits t c0) = some false
      ∧ (let s := State.reset.withFetchWord 64 0x8000000000000003
         let w : State := { s with agenda := [], cur := some c0 }
         fetched w 8 0x8000000000000003 = true ∧ decode (bytesLE 8 0x8000000000000003) = .error .reservedBits
          ∧ ((nx (issue { early := some 0x01 } (fun s _ _ => acted s []) w)).map fun t => stillWaits t c0) = some false)
      ∧ (bootStopped { sFetch with agenda := [] } = false ∧ sFetch.sysAt ≠ sFetch.now + 1 ∧ isReset (.deviceReset 0 0 0) = true)
      ∧ (nx (exec (.batcherFill 0 0) State.reset)).isSome = true :=
  ⟨⟨_, rfl, rfl, rfl⟩, ⟨by decide +kernel, by decide +kernel⟩, by decide +kernel, by decide +kernel, by decide +kernel, by decide +kernel,
    ⟨by decide +kernel, by decide +kernel, by decide +kernel⟩,
    by decide +kernel, by decide +kernel⟩
theorem wit_EncodeDecode : i0.wellFormed = true ∧ i0.view ≠ .event ∧ encode i0 = [0x88, 0x20] := by
  refine ⟨by decide, ?_, by decide⟩
  simp [i0, Instr.view]
theorem wit_InvariantKept : sFetch.Inv ∧ (nx (step sFetch)).isSome = true := ⟨by decide +kernel, by decide +kernel⟩
theorem wit_LaneFrame :
    (∃ x, instrH (op4Of .add) x = some i0) ∧ (nx (exec i0 wFetch)).isSome = true ∧ wFetch.cur = some c0 ∧ wFetch.fencePend = [] ∧ ∀ f ∈ lanesOf wFetch c0, f.key ≠ key 1 ∧ f.away = false :=
  ⟨⟨_, rfl⟩, by decide +kernel, rfl, rfl, by decide +kernel⟩
theorem wit_LittleEndian :
    State.reset.Inv ∧ decode [0x88, 0x20] = .ok (i0, []) ∧ (State.reset.write 0x1000 2 0x1234).mem = [(0x1000, 0x34), (0x1001, 0x12)]
      ∧ (State.reset.writeCap 0x40 cap1).read (0x40 + 12) 1 = 1 := ⟨by decide, by decide +kernel, by decide, by decide⟩
/-- The two constants of `Obligations.DecodesSpecWords` and `Obligations.AfterReset` have no hypotheses; the latter's registers at a boundary. -/
theorem test_reset_last_partition : sysGet State.reset 7 0x0003 = 1024 ∧ sysGet State.reset 8 0x4004 = 3000 := by decide

end Sys2Proof.Tests
end

section
/-!
LAWS. What leaves memory alone: an operation of the state that writes no byte gives a state with the same `mem`. Each lemma is a `simp`
rule, in the order of the definitions they speak of. First the rules for the shapes of an update: a branch, a fold, a write.
-/
namespace Sys2Proof.Machine

/-! ### Rules for the shapes of an update -/

@[simp] theorem State.mem_ite (c : Prop) [Decidable c] (s t : State) : (if c then s else t).mem = if c then s.mem else t.mem :=
  apply_ite State.mem c s t

@[simp] theorem Memory.wf_ite (c : Prop) [Decidable c] (m n : List Host.Cell) :
    Memory.wf (if c then m else n) = if c then Memory.wf m else Memory.wf n :=
  apply_ite Memory.wf c m n

@[simp] theorem Acted.s_ite (c : Prop) [Decidable c] (a b : Acted) : (if c then a else b).s = if c then a.s else b.s :=
  apply_ite Acted.s c a b

@[simp] theorem mem_fst_ite {α : Type} (c : Prop) [Decidable c] (a b : State × α) : (if c then a else b).1 = if c then a.1 else b.1 :=
  apply_ite Prod.fst c a b

theorem State.wf_ite {c : Prop} [Decidable c] {s t : State} (hs : Memory.wf s.mem) (ht : Memory.wf t.mem) :
    Memory.wf (if c then s else t).mem := by split <;> assumption

theorem Acted.wf_ite {c : Prop} [Decidable c] {a b : Acted} (ha : Memory.wf a.s.mem) (hb : Memory.wf b.s.mem) :
    Memory.wf (if c then a else b).s.mem := by split <;> assumption

/-- Updates in turn, each of which leaves memory alone. -/
@[simp] theorem foldl_mem {α : Type} {g : State → α → State} (hg : ∀ s x, (g s x).mem = s.mem) (l : List α) (s : State) :
    (l.foldl g s).mem = s.mem := by
  induction l generalizing s with
  | nil => rfl
  | cons x xs ih => rw [List.foldl_cons, ih, hg]

/-- Updates in turn, each of which keeps the form. -/
theorem foldl_wf {α : Type} {g : State → α → State} (hg : ∀ s x, Memory.wf s.mem → Memory.wf (g s x).mem) (l : List α)
    {s : State} (h : Memory.wf s.mem) : Memory.wf (l.foldl g s).mem := by
  induction l generalizing s with
  | nil => exact h
  | cons x xs ih => exact ih (hg s x h)

@[simp] theorem write_wf {s : State} (h : Memory.wf s.mem) (a n v : Nat) : Memory.wf (s.write a n v).mem := State.Inv_write h a n v

@[simp] theorem writeCap_wf {s : State} (h : Memory.wf s.mem) (a : Nat) (c : CapWord) : Memory.wf (s.writeCap a c).mem :=
  State.Inv_writeCap h a c

@[simp] theorem spadWrite_wf {s : State} (h : Memory.wf s.mem) (a n v : Nat) : Memory.wf (spadWrite s a n v).mem :=
  State.Inv_spadWrite h a n v

@[simp] theorem elim_mem {α : Type} {g : α → State} {s : State} (hg : ∀ x, (g x).mem = s.mem) (o : Option α) :
    (o.elim s g).mem = s.mem := by
  cases o <;> simp [hg]

/-- Updates of a memory in turn, each of which keeps the form. -/
theorem Memory.foldl_wf {α : Type} {g : List Host.Cell → α → List Host.Cell} (hg : ∀ m x, Memory.wf m → Memory.wf (g m x))
    (l : List α) {m : List Host.Cell} (h : Memory.wf m) : Memory.wf (l.foldl g m) := by
  induction l generalizing m with
  | nil => exact h
  | cons x xs ih => exact ih (hg m x h)

/-! ### Traps, slots and the end of an issue -/

@[simp] theorem pushAll_mem (s : State) (lanes : List Fibre) : (pushAll s lanes).mem = s.mem := by simp [pushAll]

@[simp] theorem takeTrap_mem (s : State) (p : Nat) (ks : List FKey) (code : Nat) (info : BitVec 64) (detail : Nat) (cmp : Bool) :
    (takeTrap s p ks code info detail cmp).mem = s.mem := by
  simp only [takeTrap]
  split <;> simp

@[simp] theorem dropSlot_mem (s : State) (c : Cur) : (dropSlot s c).mem = s.mem := by simp [dropSlot]

@[simp] theorem acted_mem (s : State) (fates : List (FKey × Fate)) : (acted s fates).s.mem = s.mem := by simp [acted]

@[simp] theorem actWait_mem (s : State) : (actWait s).s.mem = s.mem := by simp [actWait]

@[simp] theorem placeBatch_mem (s : State) (core port : Nat) (ks : List FKey) (age next : Nat) :
    (placeBatch s core port ks age next).mem = s.mem := by
  unfold placeBatch
  split <;> simp

@[simp] theorem placeGroups_mem (c : Cur) (lanes : List Fibre) (a : Acted) (len age next bid : Nat) (s : State) (ws : List Nat) :
    (placeGroups c lanes a len age next bid s ws).mem = s.mem := by
  induction ws generalizing s with
  | nil => rfl
  | cons w ws ih => simp [placeGroups, ih]

@[simp] theorem stopGroups_mem (p : Nat) (lanes : List Fibre) (fates : List (FKey × Fate)) (s : State) (ws : List Nat) :
    (stopGroups p lanes fates s ws).mem = s.mem := by
  induction ws generalizing s with
  | nil => rfl
  | cons w ws ih => simp only [stopGroups, ih]; split <;> simp

@[simp] theorem finish_mem (c : Cur) (b : Block) (lanes : List Fibre) (len dist : Nat) (a : Acted) :
    (finish c b lanes len dist a).mem = a.s.mem := by simp [finish]

/-! ### Walks, rows, fault entries and stores -/

@[simp] theorem joinWalk_mem (s : State) (cur part obj off : Nat) (w : Waiter) : (joinWalk s cur part obj off w).mem = s.mem := by
  simp [joinWalk]

@[simp] theorem noteIdle_mem (s : State) (cluster : Nat) : (noteIdle s cluster).mem = s.mem := by simp [noteIdle]

@[simp] theorem noteWake_mem (s : State) (u : Nat) : (noteWake s u).mem = s.mem := by simp [noteWake]

@[simp] theorem noteWait_mem (s : State) (a : Nat) : (noteWait s a).mem = s.mem := by
  unfold noteWait
  split
  · rfl
  · simp only; split <;> simp

@[simp] theorem touch_mem (s : State) (a : Nat) : (touch s a).mem = s.mem := by
  unfold touch
  split <;> simp

@[simp] theorem touchDescs_mem (s : State) (part : Nat) (objs : List Nat) : (touchDescs s part objs).mem = s.mem := by
  simp [touchDescs]

@[simp] theorem holdEntry_mem (s : State) (part obj off cause kind : Nat) (w : Bool) (core port slot : Nat) (lanes : BitVec 32)
    (pc : BitVec 44) (fid blk : Nat) (waiter : Waiter) :
    (holdEntry s part obj off cause kind w core port slot lanes pc fid blk waiter).mem = s.mem := by
  simp [holdEntry]

@[simp] theorem forget_mem (s : State) (gone : Waiter → Bool) : (forget s gone).mem = s.mem := by simp [forget]

@[simp] theorem fillFault_mem (s : State) (blk obj : Nat) (pc : BitVec 44) (fid code : Nat) (gone : Bool) :
    (fillFault s blk obj pc fid code gone).mem = s.mem := by
  simp [fillFault]

@[simp] theorem storeLost_mem (s : State) (x : Store) : (storeLost s x).mem = s.mem := by simp [storeLost]

@[simp] theorem pushStore_mem (s : State) (f : Fibre) (b : Block) (kind : StKind) (spad : Bool) (obj off w data scope : Nat)
    (rel : Bool) (hash : BitVec 64) (opId : Option Nat) : (pushStore s f b kind spad obj off w data scope rel hash opId).mem = s.mem := by
  simp [pushStore]

@[simp] theorem sendMarkers_mem (s : State) (core port scope : Nat) : (sendMarkers s core port scope).1.mem = s.mem := by
  simp [sendMarkers]

@[simp] theorem clearMask_mem (s : State) (core port scope : Nat) : (clearMask s core port scope).mem = s.mem := by
  simp [clearMask]

@[simp] theorem released_mem (s : State) (ls : List Fibre) (scope : Nat) : (released s ls scope).1.mem = s.mem := by
  unfold released
  split
  · rfl
  · simp only; split_ifs <;> simp

/-! ### Records for the host -/

@[simp] theorem setHmOvf_mem (s : State) : (setHmOvf s).mem = s.mem := by simp [setHmOvf]

/-! ### Fences and idle units -/

@[simp] theorem boostFell_mem (old : Lathe) (s : State) : (boostFell old s).mem = s.mem := by simp [boostFell]

@[simp] theorem relaxW_mem (s : State) (stack : Nat) : (relaxW s stack).mem = s.mem := by simp [relaxW]

/-! ### Issue -/

@[simp] theorem setUnis_mem (s : State) (f : Fibre) (n : Nat) (ws : List Word) : (setUnis s f n ws).mem = s.mem := by
  induction ws generalizing s n with
  | nil => rfl
  | cons w ws ih => simp [setUnis, ih]

@[simp] theorem startReturn_mem (s : State) (ks : List FKey) : (startReturn s ks).mem = s.mem := by simp [startReturn]

@[simp] theorem waitBatch_mem (s : State) (lanes : List Fibre) (mx : Bool) : (waitBatch s lanes mx).mem = s.mem := by
  simp [waitBatch]

@[simp] theorem regAct_mem (lat : Option Nat) (check : Fibre → Option Nat) (out : Fibre → List PendDest) (s : State)
    (ls : List Fibre) : (regAct lat check out s ls).s.mem = s.mem := by
  simp [regAct]

@[simp] theorem op6Act_mem (o : Op6) (rm : Rm) (sat ftz : Bool) (a d : Nat) (x : BSrc) (lat : Option Nat) (s : State) (x10 : Block)
    (ls : List Fibre) : (op6Act o rm sat ftz a d x lat s x10 ls).s.mem = s.mem := by
  simp [op6Act]

/-! ### Fibres, barriers, spawning and joining -/

@[simp] theorem reap_mem (s : State) : (reap s).mem = s.mem := by simp [reap]

@[simp] theorem holdMates_mem (s : State) (ls : List Fibre) : (holdMates s ls).mem = s.mem := by
  unfold holdMates
  split
  · rfl
  · split <;> simp

@[simp] theorem freeMates_mem (s : State) : (freeMates s).mem = s.mem := by simp [freeMates]

@[simp] theorem setBar_mem (s : State) (blk id : Nat) (g : NBar → NBar) : (setBar s blk id g).mem = s.mem := by simp [setBar]

@[simp] theorem barCheck_mem (s : State) (blk id : Nat) : (barCheck s blk id).mem = s.mem := by
  unfold barCheck
  split <;> simp

@[simp] theorem barArrive_mem (s : State) (k : FKey) (blk id : Nat) (cnt : Option Nat) : (barArrive s k blk id cnt).mem = s.mem := by
  unfold barArrive
  split <;> simp

@[simp] theorem barRecount_mem (s : State) (blk : Nat) : (barRecount s blk).mem = s.mem := by simp [barRecount]

@[simp] theorem launchBin_mem (s : State) (core port idx : Nat) : (launchBin s core port idx).mem = s.mem := by
  unfold launchBin
  split <;> simp

@[simp] theorem binFor_mem (s : State) (core port bp : Nat) (entry : BitVec 44) (timer : Nat) :
    (binFor s core port bp entry timer).1.mem = s.mem := by
  simp only [binFor]
  split
  · rfl
  · simp only [setPort_frame]; split
    · rfl
    · split <;> simp

@[simp] theorem spawnOne_mem (s : State) (b : Block) (timer : Nat) (f : Fibre) (entry : BitVec 44) (arg : VReg) :
    (spawnOne s b timer f entry arg).1.mem = s.mem := by
  unfold spawnOne
  dsimp only
  split
  · rfl
  · split
    · rfl
    · simp only [State.mem_ite, launchBin_mem, setPort_frame, binFor_mem, ite_self]
      split
      · split <;> simp
      · rfl

@[simp] theorem launchZero_mem (s : State) (core port : Nat) : (launchZero s core port).mem = s.mem := by simp [launchZero]

@[simp] theorem joinDone_mem (s : State) (l : List Fibre) : (joinDone s l).mem = s.mem := by
  refine (foldl_mem (fun s w => ?_) _ _).trans (by simp)
  simp only; split <;> simp

/-! ### Full and empty granules, barrier objects, translation of requests -/

@[simp] theorem healGran_mem (s : State) (a w : Nat) : (healGran s a w).mem = s.mem := by simp [healGran]

@[simp] theorem trapOut_mem (s : State) (k : FKey) (o : Out) (code : Nat) : (trapOut s k o code).mem = s.mem := by simp [trapOut]

@[simp] theorem feRead_mem (s : State) (x : Fibre × Out) : (feRead s x).mem = s.mem := by simp [feRead]

@[simp] theorem freeFe_mem (s : State) (k : FKey) : (freeFe s k).mem = s.mem := by simp [freeFe]

@[simp] theorem trapLater_mem (s : State) (ks : List FKey) (code info : Nat) : (trapLater s ks code info).mem = s.mem := by
  simp [trapLater]

@[simp] theorem holdPages_mem (s : State) (part : Nat) (w : Bool) (bad : List (Req × Nat)) (ps : List (Nat × Nat)) :
    (holdPages s part w bad ps).mem = s.mem := by
  induction ps generalizing s with
  | nil => rfl
  | cons p ps ih => simp only [holdPages, ih]; split <;> simp

@[simp] theorem ask_mem (s : State) (part : Nat) (w : Bool) (reqs : List Req) : (ask s part w reqs).s.mem = s.mem := by
  simp only [ask]; split <;> simp

/-! ### Billets -/

theorem liveWait_mem {s t : State} {b : Block} {f : Fibre} {idx : Nat} (e : liveWait s b f idx = some t) : t.mem = s.mem := by
  unfold liveWait at e
  split at e
  · cases e; simp
  · cases e; simp
  · cases e

@[simp] theorem departLane_mem (s : State) (b : Block) (f : Fibre) (live target : Nat) (fb : Bool) (pc : BitVec 44) :
    (departLane s b f live target fb pc).mem = s.mem := by
  unfold departLane
  split <;> simp

@[simp] theorem fromLookup_mem (s : State) (part : Nat) (eids : List Nat) : (fromLookup s part eids).mem = s.mem := by
  simp [fromLookup]

@[simp] theorem route_mem (s : State) (b : Block) (fb : Bool) (c : Fibre → CapWord) (off live : Fibre → Nat) (pc : Fibre → BitVec 44)
    (ls : List Fibre) : (route s b fb c off live pc ls).s.mem = s.mem := by
  simp only [route]
  split
  · simp
  · split
    · rfl
    · split
      · rename_i t ht
        obtain ⟨f, _, e⟩ := List.mem_filterMap.1 (List.mem_of_mem_head? ht)
        exact liveWait_mem e
      · split
        · simp
        · refine (foldl_mem (fun s x => ?_) _ _).trans (by simp)
          split <;> simp

@[simp] theorem landHere_mem (s : State) (fb : Bool) (here : List (Fibre × Nat)) : (landHere s fb here).mem = s.mem := by
  simp [landHere]

@[simp] theorem stayHere_mem (s : State) (here : List (Fibre × Nat)) : (stayHere s here).mem = s.mem := by simp [stayHere]

/-! ### The directory -/

@[simp] theorem setDirObj_mem (s : State) (part obj : Nat) (g : DirObj → DirObj) : (setDirObj s part obj g).mem = s.mem := by
  simp [setDirObj]

@[simp] theorem setEntry_mem (s : State) (part : Nat) (name : BitVec 64) (e : NameEntry) : (setEntry s part name e).mem = s.mem := by
  simp [setEntry]

@[simp] theorem delEntry_mem (s : State) (part : Nat) (name : BitVec 64) : (delEntry s part name).mem = s.mem := by
  simp [delEntry]

@[simp] theorem unbindCount_mem (s : State) (part : Nat) (old : Option Binding) : (unbindCount s part old).mem = s.mem := by
  unfold unbindCount
  split <;> simp

@[simp] theorem wakeName_mem (s : State) (part : Nat) (name : BitVec 64) : (wakeName s part name).mem = s.mem := by
  simp [wakeName]

@[simp] theorem dirStatus_mem (s : State) (f : Fibre) (p : DirP) (code detail : Nat) : (dirStatus s f p code detail).mem = s.mem := by
  simp [dirStatus]

@[simp] theorem ringSet_mem (s : State) (part : Nat) (name : BitVec 64) (k : Nat) : (ringSet s part name k).s.mem = s.mem := by
  simp only [ringSet]
  split
  · rfl
  · split
    · split <;> simp
    · simp

/-! ### Memory instructions -/

@[simp] theorem reach_mem (s : State) (b : Block) (write ue : Bool) (w : Nat) (obj off : Fibre → Nat) (ls : List Fibre) :
    (reach s b write ue w obj off ls).s.mem = s.mem := by
  simp [reach]

@[simp] theorem pushOut_mem (s : State) (f : Fibre) (o : Out) : (pushOut s f o).mem = s.mem := by simp [pushOut]

@[simp] theorem feedLane_mem (s : State) (b : Block) (f : Fibre) (obj off w data : Nat) :
    (feedLane s b f obj off w data).mem = s.mem := by
  simp [feedLane]

@[simp] theorem loadLanes_mem (s : State) (b : Block) (p : MemP) (ls : List Fibre) (traps : List (FKey × Fate)) :
    (loadLanes s b p ls traps).s.mem = s.mem := by
  simp only [loadLanes]
  split
  · simp
  · split <;> simp

@[simp] theorem noteLdl_mem (s : State) (ls : List Fibre) (regs : List Nat) : (noteLdl s ls regs).mem = s.mem := by simp [noteLdl]

/-! ### Messages and queues -/

theorem enqueue_mem {s t : State} {q : Part} {m : QMsg} (e : enqueue s q m = some t) : t.mem = s.mem := by
  unfold enqueue at e
  split at e
  · split at e
    · cases e; simp
    · cases e
  · split at e
    · cases e; simp
    · cases e

theorem putToken_mem {s t : State} {b : Block} {key : Nat} (e : putToken s b key = some t) : t.mem = s.mem := by
  simp only [putToken] at e
  split at e
  · cases e
  · split at e <;> cases e <;> rfl

theorem enqueueOwn_mem {s t : State} {b : Block} {f : Fibre} {q : Part} {m : QMsg} (e : enqueueOwn s b f q m = some t) :
    t.mem = s.mem := by
  unfold enqueueOwn at e
  split at e
  · cases e
  · exact enqueue_mem e

@[simp] theorem recvLane_mem (p : RecvP) (s : State) (f : Fibre) : (recvLane p s f).mem = s.mem := by
  simp only [recvLane]
  split
  · rfl
  · split <;> simp

@[simp] theorem markOp_mem (s : State) (k : FKey) (id : Nat) (err : Bool) : (markOp s k id err).mem = s.mem := by simp [markOp]

@[simp] theorem dropMsg_mem (s : State) (id : Nat) : (dropMsg s id).mem = s.mem := by simp [dropMsg]

/-! ### Gangs -/

@[simp] theorem gangFibres_mem (s : State) (g : Gang) (h : Fibre → Fibre) : (gangFibres s g h).mem = s.mem := by simp [gangFibres]

@[simp] theorem gangVkill_mem (s : State) (g : Gang) : (gangVkill s g).mem = s.mem := by simp [gangVkill]

@[simp] theorem endVote_mem (r vkill : Bool) (s : State) (g : Gang) : (endVote r vkill s g).mem = s.mem := by simp [endVote]

@[simp] theorem leaveRound_mem (s : State) (g : Gang) : (leaveRound s g).mem = s.mem := by simp [leaveRound]

/-! ### Special registers -/

@[simp] theorem chargeEnergy_mem (s : State) (kernel : Nat) : (chargeEnergy s kernel).mem = s.mem := by simp [chargeEnergy]

/-! ### Lathes -/

@[simp] theorem settleBank_mem (s : State) (stack bank : Nat) : (settleBank s stack bank).mem = s.mem := by simp [settleBank]

@[simp] theorem hasten_mem (s : State) (stack bank : Nat) : (hasten s stack bank).mem = s.mem := by simp [hasten]

@[simp] theorem putStatus_mem (s : State) (f : Fibre) (d code detail : Nat) : (putStatus s f d code detail).mem = s.mem := by
  simp [putStatus]

@[simp] theorem parkRange_mem (s : State) (b : Block) (f : Fibre) (obj : Nat) (pages : List (Nat × Nat)) :
    (parkRange s b f obj pages).s.mem = s.mem := by
  simp [parkRange]

@[simp] theorem awaitPages_mem (s : State) (b : Block) (f : Fibre) (obj : Nat) (pages : List Nat) :
    (awaitPages s b f obj pages).s.mem = s.mem := by
  simp [awaitPages]

@[simp] theorem addRegion_mem (s : State) (stack : Nat) (r : Region) : (addRegion s stack r).mem = s.mem := by simp [addRegion]

@[simp] theorem setRegion_mem (s : State) (stack idx : Nat) (g : Region → Region) : (setRegion s stack idx g).mem = s.mem := by
  simp [setRegion]

@[simp] theorem enterCut_mem (s : State) (k : FKey) (blk : Nat) (left : Bool) (o : Out) : (enterCut s k blk left o).mem = s.mem := by
  unfold enterCut
  split
  · simp only
    split
    · simp
    · split
      · simp
      · split <;> simp
  · rfl

/-! ### Accesses that perform -/

@[simp] theorem meetChunk_mem (s : State) (part j i : Nat) : (meetChunk s part j i).mem = s.mem := by simp [meetChunk]

@[simp] theorem openGate_mem (s : State) (k : FKey) : (openGate s k).mem = s.mem := by simp [openGate]

@[simp] theorem unfeed_mem (s : State) (x : Store) : (unfeed s x).mem = s.mem := by simp [unfeed]

@[simp] theorem setStore_mem (s : State) (core port id : Nat) (g : Store → Store) : (setStore s core port id g).mem = s.mem := by
  simp [setStore]

@[simp] theorem popStore_mem (s : State) (core port id : Nat) : (popStore s core port id).mem = s.mem := by simp [popStore]

@[simp] theorem noteDest_mem (s : State) (core port : Nat) (x : Store) (a : Nat) : (noteDest s core port x a).mem = s.mem := by
  unfold noteDest
  split
  · simp
  · split <;> simp

theorem turnOf_stay {s t : State} {core port : Nat} {x : Store} (e : turnOf s core port x = .stay t) : t.mem = s.mem := by
  simp only [turnOf] at e
  split_ifs at e
  · cases e; rfl
  · cases e; simp
  · cases e; rfl
  · cases e; rfl
  · split at e
    · cases e; simp
    · cases e; simp
    · cases e
    · split_ifs at e; cases e; simp

@[simp] theorem loseStore_mem (s : State) (core port : Nat) (x : Store) : (loseStore s core port x).mem = s.mem := by
  unfold loseStore
  split <;> simp

@[simp] theorem putTlb_mem (s : State) (t : Tlb) : (putTlb s t).mem = s.mem := by simp [putTlb]

@[simp] theorem remoteUnresolved_mem (s : State) (part obj off cause kind : Nat) :
    (remoteUnresolved s part obj off cause kind).mem = s.mem := by
  simp [remoteUnresolved]

@[simp] theorem answer_mem (s : State) (part : Nat) (x : Xlate) (w : Waiter) : (answer s part x w).mem = s.mem := by
  unfold answer
  split <;> simp

/-! ###  -/

@[simp] theorem setTile_mem (s : State) (n : Nat) (g : Tile → Tile) : (setTile s n g).mem = s.mem := by simp [setTile]

@[simp] theorem useTile_mem (s : State) (port n : Nat) : (useTile s port n).mem = s.mem := by simp [useTile]

/-! ### Matrix engines -/

@[simp] theorem setMx_mem (s : State) (c i : Nat) (g : MxEntry → MxEntry) : (setMx s c i g).mem = s.mem := by simp [setMx]

@[simp] theorem takePort_mem (s : State) (b : Block) (e : MxEntry) : (takePort s b e).mem = s.mem := by simp [takePort]

@[simp] theorem holdMx_mem (s : State) (b : Block) (e : MxEntry) (obj : Nat) (pages : List (Nat × Nat)) :
    (holdMx s b e obj pages).mem = s.mem := by
  simp [holdMx]

/-! ### Copies -/

@[simp] theorem takeToken_mem (s : State) (b : Block) (key : Nat) : (takeToken s b key).1.mem = s.mem := by
  unfold takeToken
  split <;> simp

@[simp] theorem setCopy_mem (s : State) (id : Nat) (g : Copy → Copy) : (setCopy s id g).mem = s.mem := by simp [setCopy]

@[simp] theorem endCopy_mem (s : State) (c : Copy) (err : Bool) : (endCopy s c err).mem = s.mem := by simp [endCopy]

@[simp] theorem holdCopy_mem (s : State) (b : Block) (c : Copy) (l : List ((Nat × CapWord × Bool) × Nat)) :
    (holdCopy s b c l).mem = s.mem := by
  simp [holdCopy]

/-! ### Retirement -/

@[simp] theorem overLast_mem (s : State) (kid : Nat) : (overLast s kid).mem = s.mem := by
  unfold overLast
  split <;> simp

/-! ### Launch -/

@[simp] theorem cpTouch_mem (s : State) (part obj off n : Nat) : (cpTouch s part obj off n).mem = s.mem := by
  unfold cpTouch
  split
  · simp only; split <;> simp
  · simp
  · rfl

@[simp] theorem cpLeave_mem (s : State) (part obj fuel off n : Nat) : (cpLeave s part obj fuel off n).mem = s.mem := by
  induction fuel generalizing s off n with
  | zero => rfl
  | succ fuel ih => simp [cpLeave, ih]

@[simp] theorem packetTouch_mem (s : State) (q : LQueue) : (packetTouch s q).mem = s.mem := by simp [packetTouch]

/-! ### Admission -/

@[simp] theorem placeRuns_mem (s : State) (x : Seat) (now next : Nat) : (placeRuns s x now next).mem = s.mem := by
  refine foldl_mem (fun s j => ?_) _ s
  simp only; split <;> simp

@[simp] theorem admitted_mem (s : State) (q : LQueue) (k : Kernel) : (admitted s q k).mem = s.mem := by simp [admitted]

/-! ### Control -/

@[simp] theorem transfer_mem (s : State) (fates : List (FKey × Fate)) (back : Bool) : (transfer s fates back).s.mem = s.mem := by
  simp [transfer]

@[simp] theorem waitTogether_mem (s : State) (ls : List Fibre) : (waitTogether s ls).mem = s.mem := by simp [waitTogether]

@[simp] theorem countMark_mem (s : State) (b : Block) (code : Nat) : (countMark s b code).mem = s.mem := by simp [countMark]

/-! ### Stops -/

@[simp] theorem dropFeStores_mem (s : State) (k : FKey) : (dropFeStores s k).mem = s.mem := by
  unfold dropFeStores
  split <;> simp

@[simp] theorem stopFibre_mem (s : State) (k : FKey) : (stopFibre s k).mem = s.mem := by
  unfold stopFibre
  split <;> simp

@[simp] theorem stopAll_mem (s : State) (b : Block) : (stopAll s b).mem = s.mem := by simp [stopAll]

@[simp] theorem preempt_mem (s : State) (id : Nat) : (preempt s id).mem = s.mem := by
  unfold preempt
  split <;> simp

@[simp] theorem requestStop_mem (s : State) (part id : Nat) : (requestStop s part id).mem = s.mem := by
  unfold requestStop
  split <;> simp

@[simp] theorem stopNow_mem (s : State) (b : Block) (ks : List FKey) : (stopNow s b ks).mem = s.mem := by simp [stopNow]

@[simp] theorem writePreq_mem (s : State) (part value : Nat) : (writePreq s part value).mem = s.mem := by simp [writePreq]

@[simp] theorem debugRelease_mem (s : State) (part id : Nat) : (debugRelease s part id).mem = s.mem := by
  unfold debugRelease
  split <;> simp

/-! ### System registers -/

@[simp] theorem latchLog_mem (s : State) (part : Nat) : (latchLog s part).mem = s.mem := by simp [latchLog]

@[simp] theorem writeTage_mem (s : State) (part v : Nat) : (writeTage s part v).mem = s.mem := by simp [writeTage]

@[simp] theorem writeBfstat_mem (s : State) (part v : Nat) : (writeBfstat s part v).mem = s.mem := by
  unfold writeBfstat
  split <;> simp

@[simp] theorem writeTcode1_mem (s : State) (part v : Nat) : (writeTcode1 s part v).mem = s.mem := by simp [writeTcode1]

@[simp] theorem writeTrctl_mem (s : State) (part v : Nat) : (writeTrctl s part v).mem = s.mem := by simp [writeTrctl]

@[simp] theorem writeFeatures_mem (s : State) (v : Nat) : (writeFeatures s v).mem = s.mem := by simp [writeFeatures]

@[simp] theorem writeHmstat_mem (s : State) (v : Nat) : (writeHmstat s v).mem = s.mem := by simp [writeHmstat]

@[simp] theorem assign_mem (s : State) (x : Nat) : (assign s x).mem = s.mem := by
  unfold assign
  split <;> simp

/-! ### Supervisor instructions -/

@[simp] theorem putPred_mem (s : State) (f : Fibre) (pd : Nat) (b : Bool) : (putPred s f pd b).mem = s.mem := by simp [putPred]

@[simp] theorem putCode_mem (s : State) (f : Fibre) (st : BitVec 8) (code : Nat) : (putCode s f st code).mem = s.mem := by
  simp [putCode]

@[simp] theorem dropLog_mem (s : State) (fs : List Fibre) : (dropLog s fs).mem = s.mem := by simp [dropLog]

@[simp] theorem resumeFragment_mem (s : State) (part blk fid : Nat) : (resumeFragment s part blk fid).mem = s.mem := by
  unfold resumeFragment
  split
  · rfl
  · simp only
    split
    · rfl
    · split <;> simp

@[simp] theorem repost_mem (s : State) (part : Nat) (e : FaultEntry) (cause : Nat) : (repost s part e cause).mem = s.mem := by
  simp [repost]

@[simp] theorem resolveEntry_mem (s : State) (part : Nat) (e : FaultEntry) : (resolveEntry s part e).mem = s.mem := by
  simp only [resolveEntry]
  cases stillUnres s part e with
  | none => split <;> simp
  | some c => split <;> simp

@[simp] theorem freshIds_mem (s : State) (part mode obj : Nat) : (freshIds s part mode obj).mem = s.mem := by simp [freshIds]

@[simp] theorem objsetTouch_mem (s : State) (part op frame mem id : Nat) (e : Ext) (pte page : Nat) :
    (objsetTouch s part op frame mem id e pte page).mem = s.mem := by
  simp [objsetTouch]

@[simp] theorem dropHeld_mem (s : State) (f : Fibre) : (dropHeld s f).mem = s.mem := by simp [dropHeld]

/-! ### Saved contexts -/

theorem openImage_wait {s t : State} {b : Block} {write : Bool} {f : Fibre} {obj off len : Nat}
    (e : openImage s b write f obj off len = .wait t) : t.mem = s.mem := by
  simp only [openImage] at e
  split at e
  · cases e; simp
  · split at e <;> cases e

theorem openImage_stop {s t : State} {b : Block} {write : Bool} {f : Fibre} {obj off len : Nat} {fates : List (FKey × Fate)}
    (e : openImage s b write f obj off len = .stop t fates) : t.mem = s.mem := by
  simp only [openImage] at e
  split at e
  · cases e
  · split at e <;> cases e; simp

@[simp] theorem noteRows_mem (s : State) (cells : List Nat) : (noteRows s cells).mem = s.mem := by simp [noteRows]

@[simp] theorem takeStores_mem (s : State) (blk : Nat) : (takeStores s blk).mem = s.mem := by simp [takeStores]

@[simp] theorem renumber_mem (s : State) (b : Block) (old new : Nat) : (renumber s b old new).mem = s.mem := by
  unfold renumber
  split <;> simp

/-- The memory of the state that a look at an image leaves. -/
def Loaded.mem : Loaded → List Host.Cell
  | .wait s | .stop s _ | .status s _ | .image s _ _ => s.mem

theorem granTrouble_mem {s : State} {f : Fibre} {off : Nat} {cells : List Nat} {r : Loaded} (e : granTrouble s f off cells = some r) :
    r.mem = s.mem := by
  unfold granTrouble at e
  split at e
  · cases e; simp [Loaded.mem]
  · obtain ⟨x, _, rfl⟩ := Option.map_eq_some_iff.1 e; rfl

theorem granTrouble_getD_mem {s : State} {f : Fibre} {off : Nat} {cells : List Nat} {r : Loaded} (hr : r.mem = s.mem) :
    ((granTrouble s f off cells).getD r).mem = s.mem := by
  cases e : granTrouble s f off cells with
  | none => exact hr
  | some q => exact granTrouble_mem e

theorem loadRest_mem (s : State) (b : Block) (f : Fibre) (c : CapWord) (off : Nat) (i : Image) :
    (loadRest s b f c off i).mem = s.mem := by
  simp only [loadRest]
  split
  · rfl
  · split
    · exact openImage_wait ‹_›
    · exact openImage_stop ‹_›
    · refine granTrouble_getD_mem ?_
      split
      · simp [Loaded.mem]
      · split <;> simp [Loaded.mem]

theorem loadImage_mem (s : State) (b : Block) (f : Fibre) (c : CapWord) (off : Nat) (stores : Bool) :
    (loadImage s b f c off stores).mem = s.mem := by
  simp only [loadImage]
  split
  · rfl
  · split
    · rfl
    · split
      · exact openImage_wait ‹_›
      · exact openImage_stop ‹_›
      · refine granTrouble_getD_mem ?_
        split
        · simp [Loaded.mem]
        · split
          · simp [Loaded.mem]
          · simp [loadRest_mem]

@[simp] theorem putBins_mem (s : State) (x : Home) (l : List (Nat × Nat × Bin)) : (putBins s x l).mem = s.mem := by
  induction l generalizing s with
  | nil => rfl
  | cons b r ih => simp [putBins, ih]

@[simp] theorem putOps_mem (s : State) (x : Home) (i : Image) : (putOps s x i).mem = s.mem := by simp [putOps]

@[simp] theorem letIssue_mem (s : State) (b : Block) : (letIssue s b).mem = s.mem := by simp [letIssue]

/-! ### The device -/

@[simp] theorem mapSteps_mem (s : State) (g : Engine → Nat) : (mapSteps s g).mem = s.mem := by simp [mapSteps]

@[simp] theorem loseCredit_mem (s : State) (u d : Nat) : (loseCredit s u d).mem = s.mem := by simp [loseCredit]

@[simp] theorem farNews_mem (s : State) (what dev obj off : Nat) : (farNews s what dev obj off).mem = s.mem := by simp [farNews]

@[simp] theorem nextStep_mem (s : State) : (nextStep s).mem = s.mem := by simp [nextStep]

/-! ### Lane operations -/

@[simp] theorem reduxAct_mem (p : ReduxP) (scan : Bool) (s : State) (ls : List Fibre) : (reduxAct p scan s ls).s.mem = s.mem := by
  simp [reduxAct]

/-! ### Steps -/

@[simp] theorem issuedBy_mem (s : State) (c : Cur) (t : State) : (issuedBy s c t).mem = t.mem := by simp [issuedBy]

end Sys2Proof.Machine
end

section
/-!
LAWS. What keeps memory canonical (`Memory.wf`, log 2): an operation that may write bytes, run in a state whose memory is canonical, gives
one whose memory is canonical. First the rules for the shapes of an effect over lanes.
-/
namespace Sys2Proof.Machine
/-! ### Shapes of an effect -/

theorem eachLane_wf {g : State → Fibre → State × Option Fate} (hg : ∀ s f, Memory.wf s.mem → Memory.wf (g s f).1.mem) {s : State}
    (h : Memory.wf s.mem) (ls : List Fibre) : Memory.wf (eachLane g s ls).1.mem := by
  induction ls generalizing s with
  | nil => exact h
  | cons f fs ih => exact ih (hg s f h)

theorem laneAct_wf {g : State → Fibre → State × Option Fate} (hg : ∀ s f, Memory.wf s.mem → Memory.wf (g s f).1.mem) {s : State}
    (h : Memory.wf s.mem) (ls : List Fibre) : Memory.wf (laneAct g s ls).s.mem := eachLane_wf hg h ls

theorem firstLane_wf {g : State → Fibre → Acted} (hg : ∀ s f, Memory.wf s.mem → Memory.wf (g s f).s.mem) {s : State}
    (h : Memory.wf s.mem) (ls : List Fibre) : Memory.wf (firstLane g s ls).s.mem := by
  cases ls with
  | nil => exact h
  | cons f fs => exact hg s f h

theorem dirOp_wf {g : State → Fibre → Acted} (hg : ∀ s f, Memory.wf s.mem → Memory.wf (g s f).s.mem) {s : State}
    (h : Memory.wf s.mem) (ls : List Fibre) : Memory.wf (dirOp g s ls).s.mem := by
  refine firstLane_wf (fun s f h => ?_) h ls
  split
  · simp [h]
  · exact hg s f h

theorem onImage_wf {f : Fibre} {p : CtxP} {r : Loaded} (h : Memory.wf r.mem) {act : State → Image → List CapWord → Acted}
    (ha : ∀ s i cs, Memory.wf s.mem → Memory.wf (act s i cs).s.mem) : Memory.wf (onImage f p r act).s.mem := by
  cases r with
  | wait s => exact h
  | stop s fates => exact h
  | status s code => simpa [onImage, Loaded.mem] using h
  | image s i cs => exact ha s i cs h

section
variable {s : State} (h : Memory.wf s.mem)
include h

/-! ### Walks, rows, fault entries and stores -/

@[simp] theorem devWrite_wf (a n v : Nat) : Memory.wf (devWrite s a n v).mem := by simp [devWrite, h]

@[simp] theorem devWriteDue_wf : Memory.wf (devWriteDue s).mem := by
  unfold devWriteDue
  split <;> simp [h]

/-! ### Records for the host -/

@[simp] theorem putHm_wf (i code part unit detail : Nat) : Memory.wf (putHm s i code part unit detail).mem := by simp [putHm, h]

@[simp] theorem postHost_wf (code part unit detail : Nat) : Memory.wf (postHost s code part unit detail).mem := by simp [postHost, h]

/-! ### Fences and idle units -/

@[simp] theorem haltQueue_wf (part q : Nat) (index : BitVec 32) (err : Nat) :
    Memory.wf (haltQueue s part q index err).mem := by simp [haltQueue, h]

@[simp] theorem haltFenced_wf (part : Nat) : Memory.wf (haltFenced s part).mem := by
  refine foldl_wf (fun s q h => ?_) _ h
  split <;> simp [h]

@[simp] theorem fenceUnit_wf (u : Nat) : Memory.wf (fenceUnit s u).mem :=
  foldl_wf (fun _ _ h => haltFenced_wf h _) _ (by simp [h])

@[simp] theorem fenceDue_wf : Memory.wf (fenceDue s).mem := foldl_wf (fun _ _ h => fenceUnit_wf h _) _ h

@[simp] theorem guestLeft_wf (core : Nat) : Memory.wf (guestLeft s core).mem := by simp [guestLeft, h]

@[simp] theorem latheEnds_wf (old : Lathe) : Memory.wf (latheEnds old s).mem := by simp [latheEnds, h]

/-! ### Trace records -/

@[simp] theorem traceWrite_wf (b : Block) (f : Fibre) (kind code data : Nat) :
    Memory.wf (traceWrite s b f kind code data).mem := by simp [traceWrite, h]

/-! ### Fibres, barriers, spawning and joining -/

@[simp] theorem exitFibre_wf (k : FKey) : Memory.wf (exitFibre s k).mem := by
  unfold exitFibre
  split <;> simp [h]

/-! ### Full and empty granules, barrier objects, translation of requests -/

@[simp] theorem serveGran_wf (fuel g : Nat) : Memory.wf (serveGran fuel s g).mem := by
  induction fuel generalizing s with
  | zero => exact h
  | succ fuel ih =>
    simp only [serveGran]
    split
    · split
      · simp [h]
      · exact ih (by simp [h])
    · split
      · exact h
      · split <;> exact ih (by simp [h])

@[simp] theorem fireTraps_wf (l : List Fibre) : Memory.wf (fireTraps s l).mem := by
  induction l generalizing s with
  | nil => exact h
  | cons x xs ih =>
    simp only [fireTraps]
    split
    · exact ih h
    · split
      · split
        · exact ih (by simp [h])
        · split
          · exact ih (by simp [h])
          · exact ih (foldl_wf (fun _ _ h => guestLeft_wf h _) _ (by simp [h]))
      · exact ih h

@[simp] theorem deliver_wf : Memory.wf (deliver s).mem := by simp [deliver, h]

@[simp] theorem fillGran_wf (g : Nat) (full : Bool) : Memory.wf (fillGran s g full).mem := by simp [fillGran, h]

@[simp] theorem putBarObj_wf (g : Nat) (o : BarObj) : Memory.wf (putBarObj s g o).mem := by simp [putBarObj, h]

@[simp] theorem countHeld_wf (g : Nat) (f : Fibre) : Memory.wf (countHeld s g f).mem := by simp [countHeld, h]

@[simp] theorem phaseCheck_wf (fuel g : Nat) : Memory.wf (phaseCheck fuel s g).mem := by
  induction fuel generalizing s with
  | zero => exact h
  | succ fuel ih =>
    simp only [phaseCheck]
    split
    · exact h
    · split
      · split
        · exact h
        · exact ih (by simp [h])
      · split
        · exact h
        · exact ih (countHeld_wf h _ _)

@[simp] theorem pendingDown_wf (g : Nat) : Memory.wf (pendingDown s g).mem := by simp [pendingDown, h]

@[simp] theorem pendingUp_wf (g n : Nat) : Memory.wf (pendingUp s g n).mem := by simp [pendingUp, h]

/-! ### The directory -/

@[simp] theorem freeRegions_wf (part obj : Nat) : Memory.wf (freeRegions s part obj).mem :=
  foldl_wf (fun _ _ h => latheEnds_wf h _) _ (by simpa using h)

@[simp] theorem reclaimCheck_wf (part obj : Nat) : Memory.wf (reclaimCheck s part obj).mem := by
  unfold reclaimCheck
  split <;> simp [h]

@[simp] theorem dropOpen_wf (part obj : Nat) : Memory.wf (dropOpen s part obj).mem := by
  simp only [dropOpen]
  split <;> simp [h]

@[simp] theorem setCap_wf (part : Nat) (f : Fibre) (n : Nat) (c : CapWord) : Memory.wf (setCap s part f n c).mem := by
  unfold setCap
  split <;> simp [h]

@[simp] theorem setOpen_wf (part : Nat) (f : Fibre) (n : Nat) (c : CapWord) : Memory.wf (setOpen s part f n c).mem := by simp [setOpen, h]

@[simp] theorem putCap_wf (part : Nat) (f : Fibre) (n : Nat) (c : CapWord) : Memory.wf (putCap s part f n c).mem := by
  unfold putCap
  split <;> simp [h]

@[simp] theorem dropOpens_wf (part : Nat) (q : Part) : Memory.wf (dropOpens s part q).mem :=
  foldl_wf (fun _ _ h => by simp [h]) _ h

@[simp] theorem setDirm_wf (part obj : Nat) : Memory.wf (setDirm s part obj).mem := by
  unfold setDirm
  split <;> simp [h]

@[simp] theorem bindOne_wf (part : Nat) (name : BitVec 64) (slot : Nat) (c : CapWord) : Memory.wf (bindOne s part name slot c).s.mem := by
  cases he : entry? s part name with
  | none => simp [bindOne, he, h, apply_ite DirRes.s]
  | some e => simp [bindOne, he, h, apply_ite DirRes.s]

omit h in
@[simp] theorem judge_wf {part : Nat} {r : DirRes} (h : Memory.wf r.s.mem) : Memory.wf (judge part r).mem :=
  foldl_wf (fun _ _ h => reclaimCheck_wf h _ _) _ h

theorem bindAll_wf {s₀ : State} (h₀ : Memory.wf s₀.mem) (part : Nat) (fell : List Nat) (i : Nat)
    (l : List (CapWord × BitVec 64 × Nat)) : Memory.wf (bindAll s₀ s part fell i l).2.2.mem := by
  induction l generalizing s fell i with
  | nil => exact judge_wf h
  | cons x r ih =>
    simp only [bindAll]
    split
    · exact h₀
    · exact ih (bindOne_wf h _ _ _ _) _ _

/-! ### Memory instructions -/

@[simp] theorem clobberWaiters_wf (g : Nat) : Memory.wf (clobberWaiters s g).mem :=
  fireTraps_wf (by simpa using h) _

@[simp] theorem binitLane_wf (b : Block) (p : GranP) (f : Fibre) : Memory.wf (binitLane s b p f).1.mem := by
  simp only [binitLane]
  split
  · split <;> simp [h]
  · split
    · exact h
    · split <;> simp [h]

@[simp] theorem barvLane_wf (b : Block) (p : GranP) (f : Fibre) : Memory.wf (barvLane s b p f).1.mem := by
  simp only [barvLane]
  split
  · exact h
  · split <;> simp [h]

/-! ### Messages and queues -/

theorem accept_wf {t : State} {b : Block} {p : SendP} {f : Fibre} {m : Nat} (e : accept s b p f m = some t) :
    Memory.wf t.mem := by
  unfold accept at e
  split at e
  · obtain ⟨q, _, e⟩ := Option.bind_eq_some_iff.1 e
    rwa [enqueueOwn_mem e]
  · split at e
    · split at e
      · cases e; simp [h]
      · cases e
    · cases e
  · rwa [putToken_mem e]
  · cases e; simp [h]
  · cases e; simp [h]
  · obtain ⟨q, _, e⟩ := Option.bind_eq_some_iff.1 e
    rwa [enqueueOwn_mem e]

@[simp] theorem sendAll_wf (b : Block) (p : SendP) (l : List (FKey × Nat)) : Memory.wf (sendAll b p s l).1.mem := by
  induction l generalizing s with
  | nil => exact h
  | cons x r ih =>
    simp only [sendAll]
    split
    · exact ih h
    · split
      · exact ih h
      · split
        · exact h
        · exact ih (by simpa using accept_wf h ‹_›)

/-! ### Lathes -/

theorem onRange_wf (b : Block) (f : Fibre) (c : CapWord) {none' : Nat → Acted}
    {g : State → Nat → Nat → Nat → Nat → Acted} (hn : ∀ e, Memory.wf (none' e).s.mem)
    (hg : ∀ s k bank row n, Memory.wf s.mem → Memory.wf (g s k bank row n).s.mem) : Memory.wf (onRange s b f c none' g).s.mem := by
  unfold onRange
  split
  · simp only
    split
    · simp [h]
    · exact hg _ _ _ _ _ (by simp [h])
  · exact hn _
  · simp [h]
  · simp [h]

@[simp] theorem delRegion_wf (stack idx : Nat) : Memory.wf (delRegion s stack idx).mem := by
  unfold delRegion
  split <;> simp [h]

/-! ### Accesses that perform -/

@[simp] theorem writeChunk_wf (part : Nat) (c : RrChunk) : Memory.wf (writeChunk s part c).mem := by simp [writeChunk, h]

@[simp] theorem closeChunks_wf (part : Nat) : Memory.wf (closeChunks s part).mem := by
  simpa [closeChunks] using foldl_wf (fun _ _ h => writeChunk_wf h _ _) _ h

@[simp] theorem recordGrant_wf (part j : Nat) (coord : BitVec 48) (fid : BitVec 13) (hash : BitVec 64) :
    Memory.wf (recordGrant s part j coord fid hash).mem := by
  unfold recordGrant
  split <;> simp [h]

@[simp] theorem takeGrant_wf (part obj : Nat) (coord : BitVec 48) (fid : BitVec 13) (hash : BitVec 64) :
    Memory.wf (takeGrant s part obj coord fid hash).mem := by
  unfold takeGrant
  split
  · exact h
  · split
    · simp [h]
    · split <;> simp [h]

@[simp] theorem divergeAt_wf (part : Nat) (k : FKey) : Memory.wf (divergeAt s part k).mem := by simp [divergeAt, h]

@[simp] theorem redApply_wf (a w rop rfmt v : Nat) : Memory.wf (redApply s a w rop rfmt v).1.mem := by
  simp only [redApply]
  split
  · exact Memory.wf_writeMem h _ _ _
  · exact h

@[simp] theorem performSpad_wf (core port : Nat) (x : Store) : Memory.wf (performSpad s core port x).mem := by
  simp only [performSpad]
  split
  · simp [h]
  · split <;> simp [h]

@[simp] theorem performRed_wf (core port : Nat) (x : Store) (a rop rfmt : Nat) : Memory.wf (performRed s core port x a rop rfmt).mem := by
  simp only [performRed]
  split
  · exact h
  · simp [h]
  · split <;> simp [h]

@[simp] theorem cutDue_wf (k : FKey) : Memory.wf (cutDue s k).mem := by
  unfold cutDue
  split
  · simp [h]
  · split <;> simp [h]

@[simp] theorem atomDo_wf (part : Nat) (f : Fibre) (o : Out) : Memory.wf (atomDo s part f o).mem := by simp [atomDo, h]

@[simp] theorem atomHurt_wf (f : Fibre) (o : Out) : Memory.wf (atomHurt s f o).mem := by simp [atomHurt, h]

/-! ### Cuts -/

@[simp] theorem rowstatPut_wf (b : Block) (p : LatheP) (f : Fibre) (ws : List Word) (dm : Nat)
    (r : Option (Nat × Region)) : Memory.wf (rowstatPut s b p f ws dm r).mem := by
  simp only [rowstatPut]
  split <;> simp [h]

@[simp] theorem endOnce_wf (stack idx : Nat) : Memory.wf (endOnce s stack idx).mem := by
  unfold endOnce
  split <;> simp [h]

@[simp] theorem applyCut_wf (stack : Nat) (r : Region) (row : Nat) : Memory.wf (applyCut s stack r row).mem := by simp [applyCut, h]

@[simp] theorem turnIn_wf (stack row : Nat) (r : Region) : Memory.wf (turnIn stack row s r).mem := by simp [turnIn, h]

/-- Save mode clears its rows and writes the entries, the done maps, the slots and the last row there. -/
@[simp] theorem saveRows_wf (stack : Nat) : Memory.wf (saveRows s stack).mem := by
  simp only [saveRows]
  refine Memory.wf_writeMem (Memory.foldl_wf (fun _ _ h => Memory.foldl_wf (fun _ _ h => Memory.wf_writeMem h _ _ _) _ h) _ ?_) _ _ _
  have hw : ∀ m, Memory.wf m → ∀ a n v, Memory.wf (writeMem m a n v) := fun _ h _ _ _ => Memory.wf_writeMem h _ _ _
  exact Memory.foldl_wf (fun _ _ h => hw _ h _ _ _) _ (Memory.foldl_wf (fun _ _ h => hw _ h _ _ _) _ (Memory.wf_filter h _))

/-! ### Saved rows and row programs -/

@[simp] theorem selWrite_wf (stack : Nat) (r : Region) (q v : Nat) : Memory.wf (selWrite s stack r q v).mem := by
  unfold selWrite
  split <;> simp [h]

@[simp] theorem doStep_wf (stack : Nat) (r : Region) (w : Word) : Memory.wf (doStep s stack r w).mem := by
  unfold doStep
  split
  · simp [h]
  · exact selWrite_wf (selWrite_wf (selWrite_wf h _ _ _ _) _ _ _ _) _ _ _ _

/-! ### Matrix engines -/

@[simp] theorem endMx_wf (b : Block) (e : MxEntry) (err : Bool) : Memory.wf (endMx s b e err).mem := by simp [endMx, h]

@[simp] theorem commitMx_wf (b : Block) (e : MxEntry) (ex : Bool) : Memory.wf (commitMx s b e ex).mem := by simp [commitMx, h]

@[simp] theorem fetchPages_wf (b : Block) (e : MxEntry) : Memory.wf (fetchPages s b e).mem := by
  simp only [fetchPages]
  split
  · simp [h]
  · split
    · simp [h]
    · split
      · simp [h]
      · split <;> simp [h]

@[simp] theorem judgePass_wf (b : Block) (e : MxEntry) : Memory.wf (judgePass s b e).mem := by simp [judgePass, h]

@[simp] theorem loseEngine_wf (b : Block) : Memory.wf (loseEngine s b).mem := by
  refine fireTraps_wf ?_ _
  simpa using foldl_wf (fun _ _ h => endMx_wf h _ _ _) _ (by simpa using h)

/-! ### Copies -/

@[simp] theorem signalBars_wf (b : Block) (c : Copy) (ms : List Nat) : Memory.wf (signalBars s b c ms).mem :=
  foldl_wf (fun _ _ h => pendingDown_wf h _) _ h

@[simp] theorem killCopy_wf (b : Block) (c : Copy) (obj : Nat) : Memory.wf (killCopy s b c obj).mem := by simp [killCopy, h]

@[simp] theorem putGran_wf (sp : Bool) (v : Nat) (a : Nat) : Memory.wf (putGran sp v s a).mem := by simp [putGran, h]

@[simp] theorem afterGran_wf (b : Block) (c : Copy) : Memory.wf (afterGran s b c).mem := by simp [afterGran, h]

/-! ### Retirement -/

@[simp] theorem removeBlock_wf (b : Block) : Memory.wf (removeBlock s b).mem := by simp [removeBlock, h]

@[simp] theorem retireBlock_wf (b : Block) : Memory.wf (retireBlock s b).mem := by
  have hd := foldl_wf (fun s q h => dropOpens_wf h b.part q) (s.parts.filter (fun q => q.blk == b.id)) h
  simp [retireBlock, hd]

/-! ### Launch -/

@[simp] theorem seeTail_wf (part q : Nat) : Memory.wf (seeTail s part q).mem := by simp [seeTail, h]

/-! ### Admission -/

@[simp] theorem clearSpad_wf (lo n : Nat) : Memory.wf (clearSpad s lo n).mem := Memory.wf_filter h _

@[simp] theorem placeIn_wf (k : Kernel) (p : Place) (gang : Option Nat) (member : Nat) :
    Memory.wf (placeIn s k p gang member).mem := by simp [placeIn, h]

/-! ### Stops -/

@[simp] theorem debugGo_wf (part id : Nat) : Memory.wf (debugGo s part id).mem := by
  unfold debugGo
  split
  · exact h
  · split
    · exact h
    · refine foldl_wf (fun s l h => ?_) _ (by simp [h])
      split <;> simp [h]

@[simp] theorem writeDstop_wf (part value : Nat) : Memory.wf (writeDstop s part value).mem := by simp [writeDstop, h]

/-! ### System registers -/

@[simp] theorem writeQctl_wf (part q v : Nat) : Memory.wf (writeQctl s part q v).mem := by simp [writeQctl, h]

@[simp] theorem writeTail_wf (q v : Nat) : Memory.wf (writeTail s q v).mem := by simp [writeTail, h]

@[simp] theorem writeQueue_wf (part q i v : Nat) : Memory.wf (writeQueue s part q i v).mem := by
  unfold writeQueue
  split <;> simp [h]

@[simp] theorem writeMode_wf (part v : Nat) : Memory.wf (writeMode s part v).mem := by simp [writeMode, h]

@[simp] theorem applyOwners_wf : Memory.wf (applyOwners s).mem :=
  foldl_wf (fun _ _ h => haltFenced_wf h _) _ (by simp [h])

@[simp] theorem writeReg_wf (part n v : Nat) : Memory.wf (writeReg s part n v).mem := by
  unfold writeReg
  refine State.wf_ite (by simp [h]) (State.wf_ite (by simp [h]) (State.wf_ite (by simp [h]) ?_))
  split <;> simp [h]

@[simp] theorem sysWrite_wf (part n v : Nat) : Memory.wf (sysWrite s part n v).mem := by simp [sysWrite, h]

/-! ### Supervisor instructions -/

@[simp] theorem nextDeferred_wf (part : Nat) : Memory.wf (nextDeferred s part).mem :=
  foldl_wf (fun _ _ h => reclaimCheck_wf h _ _) _ (by simpa using h)

@[simp] theorem failEntry_wf (e : FaultEntry) : Memory.wf (failEntry s e).mem := by
  unfold failEntry
  split
  · exact h
  · exact h
  · split <;> simp [h]
  · split <;> simp [h]
  · exact h

@[simp] theorem freeInvalid_wf (part mode obj : Nat) : Memory.wf (freeInvalid s part mode obj).mem :=
  foldl_wf (fun _ _ h => freeRegions_wf h _ _) _ h

@[simp] theorem movePage_wf (a b : Nat) : Memory.wf (movePage s a b).mem := by
  simp only [movePage]
  exact Memory.wf_foldl (write_wf h _ _ _) _ _ _

@[simp] theorem objsetOn_wf (part op frame mem d : Nat) (e : Ext) (pte : Nat) : Memory.wf (objsetOn s part op frame mem d e pte).1.mem := by
  simp only [objsetOn]
  split
  · exact h
  · split
    · exact h
    · split
      · exact h
      · split
        · split
          · split <;> simp [h]
          · exact h
        · split <;> simp [h]
        · split <;> simp [h]

@[simp] theorem killFibres_wf (fs : List Fibre) : Memory.wf (killFibres s fs).mem := by
  simpa [killFibres] using foldl_wf (fun s f h => by simp [h]) fs (by simpa using h)

@[simp] theorem endKilled_wf (b : Block) (c : Copy) : Memory.wf (endKilled s b c).mem := by simp [endKilled, h]

@[simp] theorem killBlock_wf (id : Nat) : Memory.wf (killBlock s id).mem := by
  unfold killBlock
  split
  · exact h
  · rename_i b _
    have hc := foldl_wf (fun _ c h => endKilled_wf h b c) ((killFibres s (aliveOf s id)).copies.filter (fun c => c.blk == id))
      (killFibres_wf h (aliveOf s id))
    refine deliver_wf ?_
    split
    · simpa only [reap_mem, setGang_frame, setBlock_frame] using foldl_wf (fun _ e h => endMx_wf h b e true) _ hc
    · simpa only [reap_mem, setBlock_frame] using foldl_wf (fun _ e h => endMx_wf h b e true) _ hc

/-! ### Saved contexts -/

@[simp] theorem writeCaps_wf (l : List (Nat × CapWord)) : Memory.wf (writeCaps s l).mem := by
  induction l generalizing s with
  | nil => exact h
  | cons x xs ih =>
    rw [writeCaps]
    exact ih (by simp [h])

@[simp] theorem writeImage_wf (places : List Nat) (off : Nat) (i : Image) : Memory.wf (writeImage s places off i).mem := by
  simp only [writeImage]
  refine writeCaps_wf ?_ _
  simp [h]

theorem saveImage_wf (b : Block) (f : Fibre) (p : CtxP) (c : CapWord) (off : Nat) (i : Image) (held : Option Nat) {done : State → State}
    (hd : ∀ s, Memory.wf s.mem → Memory.wf (done s).mem) : Memory.wf (saveImage s b f p c off i held done).s.mem := by
  simp only [saveImage]
  split
  · simp [h]
  · split
    · exact h
    · split
      · rename_i e; simp [openImage_wait e, h]
      · rename_i e; simp [openImage_stop e, h]
      · split
        · simp [h]
        · simp only [acted_mem, putCode_mem]
          exact hd _ (writeImage_wf (by simp [h]) _ _ _)

@[simp] theorem freeSaved_wf (b : Block) (serial : Nat) : Memory.wf (freeSaved s b serial).mem := by simp [freeSaved, h]

@[simp] theorem putSpad_wf (lo : Nat) (i : Image) : Memory.wf (putSpad s lo i).mem :=
  Memory.wf_foldl (clearSpad_wf h _ _) _ _ _

@[simp] theorem restoreBlock_wf (i : Image) (x : Home) : Memory.wf (restoreBlock s i x).mem := by simp [restoreBlock, h]

/-! ### The device -/

@[simp] theorem windowAccess_wf (b : Block) (w : Window) (kind off n value : Nat) :
    Memory.wf (windowAccess s b w kind off n value).mem := by simp [windowAccess, h]

@[simp] theorem memoryAccess_wf (a kind n value : Nat) : Memory.wf (memoryAccess s a kind n value).mem := by
  unfold memoryAccess
  simp only; split <;> simp [h]

@[simp] theorem resetState_wf : Memory.wf (resetState s).mem := Memory.wf_filter h _

@[simp] theorem bootFail_wf (code detail : Nat) : Memory.wf (bootFail s code detail).mem := by simp [bootFail, h]

end
end Sys2Proof.Machine
end

section
/-!
LAWS. `WfAfter`: a result of a step is canonical where it has a state. What holds of an effect holds of its instruction (`issue_wf`).
-/
namespace Sys2Proof.Machine

/-- The state after a step, where there is one, has a memory in canonical form. -/
def WfAfter : Result → Prop
  | .next t => Memory.wf t.mem
  | _ => True

@[simp] theorem wfAfter_next (t : State) : WfAfter (.next t) ↔ Memory.wf t.mem := Iff.rfl

@[simp] theorem wfAfter_fault (e : Fault) : WfAfter (.fault e) := trivial

@[simp] theorem wfAfter_ite (c : Prop) [Decidable c] (r q : Result) :
    WfAfter (if c then r else q) = if c then WfAfter r else WfAfter q :=
  apply_ite WfAfter c r q

theorem WfAfter.ite {c : Prop} [Decidable c] {r q : Result} (hr : WfAfter r) (hq : WfAfter q) : WfAfter (if c then r else q) := by
  split <;> assumption

section
variable {s : State} (h : Memory.wf s.mem)
include h

theorem conclude_wf (c : Cur) (b : Block) (lanes : List Fibre) (u : Use) {a : Acted} (ha : Memory.wf a.s.mem) :
    WfAfter (conclude s c b lanes u a) := by
  simp only [conclude]
  split
  · simp [h]
  · split
    · simp [ha]
    · split
      · simp [h]
      · split
        · simp [h]
        · split
          · trivial
          · exact foldl_wf (fun _ _ h => guestLeft_wf h _) _ (by simp [ha])

/-- Everything before and after the effect of an instruction keeps the form. -/
theorem issue_wf {u : Use} {act : State → Block → List Fibre → Acted} (ha : ∀ b ls, Memory.wf (act s b ls).s.mem) :
    WfAfter (issue u act s) := by
  unfold issue
  split
  · exact h
  · extract_lets lanes
    split
    · exact h
    · split
      · exact h
      · split
        · simp [h]
        · extract_lets hit rest
          split
          · exact conclude_wf h _ _ _ _ h
          · split
            · exact conclude_wf h _ _ _ _ h
            · split
              · simp [h]
              · split
                · exact conclude_wf h _ _ _ _ h
                · exact conclude_wf h _ _ _ _ (ha _ _)
end
end Sys2Proof.Machine
end

section
/-!
PROOFS. Each instruction and each event of the machine keeps memory canonical, in the order of the model's files.
-/
namespace Sys2Proof.Machine
section
variable {s : State} (h : Memory.wf s.mem)
include h

/-! ###  -/

theorem op6A_wf (o : Op6) (f : FormA) : WfAfter (op6A o f s) :=
  issue_wf h fun b ls => by simp [h]

theorem op6H_wf (o : Op6) (f : FormH) : WfAfter (op6H o f s) :=
  issue_wf h fun b ls => by simp [h]

theorem op6X_wf (o : Op6) (hd : Head) (f : OpX) : WfAfter (op6X o hd f s) :=
  issue_wf h fun b ls => by simp [h]

theorem op6I_wf (o : Op6) (hd : Head) (f : OpI) : WfAfter (op6I o hd f s) :=
  issue_wf h fun b ls => by split <;> simp [h]

/-! ### Billets -/

theorem execOwnerLookup_wf (core port ctx : Nat) : WfAfter (execOwnerLookup core port ctx s) := by
  simp only [execOwnerLookup]
  split
  · simp [h]
  · split
    · split
      · simp [h]
      · split
        · simp [h]
        · split <;> simp [h]
    · simp [h]

theorem execBilletArrival_wf (core port ctx : Nat) : WfAfter (execBilletArrival core port ctx s) := by
  simp only [execBilletArrival]
  split
  · simp [h]
  · split <;> simp [h]

theorem execGuestWaitTimeout_wf (core port ctx : Nat) : WfAfter (execGuestWaitTimeout core port ctx s) := by
  simp only [execGuestWaitTimeout]
  split
  · simp [h]
  · split <;> simp [h]

theorem execBilletReturn_wf (core port ctx : Nat) : WfAfter (execBilletReturn core port ctx s) := by
  simp only [execBilletReturn]
  split <;> simp [h]

theorem execArrivalMessage_wf (core port ctx : Nat) : WfAfter (execArrivalMessage core port ctx s) := by
  simp only [execArrivalMessage]
  split
  · simp [h]
  · split <;> simp [h]

theorem execReleaseMessage_wf (core port ctx : Nat) : WfAfter (execReleaseMessage core port ctx s) := by
  simp only [execReleaseMessage]
  split <;> simp [h]

theorem execMigr_wf (hd : Head) (p : MigrP) : WfAfter (execMigr hd p s) := by
  dsimp only [execMigr]
  refine issue_wf h fun b ls => ?_
  simp [h]

theorem execMigrh_wf (hd : Head) (p : MigrhP) : WfAfter (execMigrh hd p s) := by
  unfold execMigrh
  refine issue_wf h fun b ls => ?_
  extract_lets +onlyGivenNames away
  split
  · rename_i t e
    obtain ⟨f, -, e⟩ := List.mem_filterMap.mp (List.mem_of_mem_head? e)
    simp [liveWait_mem e, h]
  · simp [h]

/-! ### Batches -/

theorem execBatcherFill_wf (core port : Nat) : WfAfter (execBatcherFill core port s) := by
  simp only [execBatcherFill]
  split <;> simp [h]

theorem execAgeStarvationIssue_wf (core port : Nat) : WfAfter (execAgeStarvationIssue core port s) := by
  simp only [execAgeStarvationIssue]
  split
  · simp [h]
  · split <;> simp [h]

theorem execSlotRelease_wf (core port slot : Nat) : WfAfter (execSlotRelease core port slot s) := by
  simp only [execSlotRelease]
  split <;> simp [h]

theorem execBinLaunch_wf (core port bin : Nat) : WfAfter (execBinLaunch core port bin s) := by
  simp only [execBinLaunch]
  split <;> simp [h]

theorem execJoinComplete_wf (blk part id : Nat) : WfAfter (execJoinComplete blk part id s) := by
  simp only [execJoinComplete]
  split <;> simp [h]

/-! ### The directory -/

theorem execNopen_wf (hd : Head) (p : DirP) : WfAfter (execNopen hd p s) := by
  dsimp only [execNopen]
  refine issue_wf h fun b ls => dirOp_wf (fun s f h => ?_) h ls
  split <;> simp [h]

theorem execNclose_wf (hd : Head) (p : DirP) : WfAfter (execNclose hd p s) :=
  issue_wf h fun b ls => dirOp_wf (fun s f h => by simp [h]) h ls

theorem execNbind_wf (hd : Head) (p : DirP) : WfAfter (execNbind hd p s) := by
  dsimp only [execNbind]
  refine issue_wf h fun b ls => firstLane_wf (fun s f h => ?_) h ls
  split
  · simp [h]
  · split <;> simp [h]

theorem execNbindm_wf (hd : Head) (p : DirP) : WfAfter (execNbindm hd p s) := by
  unfold execNbindm
  refine issue_wf h fun b ls => firstLane_wf (fun s f h => ?_) h ls
  extract_lets c x n q t q' g t' at' rec' objs t'' r
  have ht : Memory.wf t.mem := by simp [t, q, h]
  have ht' : Memory.wf t'.mem := by simp [t', ht]
  have ht'' : Memory.wf t''.mem := by simp [t'', ht']
  split
  · simp [h]
  refine Acted.wf_ite (by simp [ht]) (Acted.wf_ite (by simp [q', ht]) (Acted.wf_ite (by simp [q', ht]) (Acted.wf_ite (by simp [ht]) ?_)))
  split
  · simp [ht']
  · simp [ht']
  · split
    · simp [ht']
    · split
      · simp [ht']
      · rw [acted_mem, dirStatus_mem]
        exact bindAll_wf ht'' ht'' _ _ _ _

theorem execNinfo_wf (hd : Head) (p : DirP) : WfAfter (execNinfo hd p s) :=
  issue_wf h fun b ls => dirOp_wf (fun s f h => by simp [h]) h ls

theorem execNring_wf (hd : Head) (p : DirP) : WfAfter (execNring hd p s) :=
  issue_wf h fun b ls => firstLane_wf (fun s f h => by simp [h]) h ls

theorem execNtag_wf (hd : Head) (p : DirP) : WfAfter (execNtag hd p s) :=
  issue_wf h fun b ls => firstLane_wf (fun s f h => by simp [h]) h ls

/-! ### Memory operations -/

theorem execLd_wf (hd : Head) (p : MemP) : WfAfter (execLd hd p s) := by
  dsimp only [execLd]
  refine issue_wf h fun b ls => ?_
  simp [h]

theorem execSt_wf (hd : Head) (p : MemP) : WfAfter (execSt hd p s) :=
  issue_wf h fun b ls => by simp [h]

theorem execLdl_wf (hd : Head) (p : MemP) : WfAfter (execLdl hd p s) := by
  dsimp only [execLdl]
  refine issue_wf h fun b ls => ?_
  simp [h]

theorem execStl_wf (hd : Head) (p : MemP) : WfAfter (execStl hd p s) :=
  issue_wf h fun b ls => by simp [h]

theorem execLdw_wf (hd : Head) (p : MemP) : WfAfter (execLdw hd p s) :=
  issue_wf h fun b ls => by simp [h]

theorem execLda_wf (hd : Head) (p : LdaP) : WfAfter (execLda hd p s) := by
  dsimp -zeta only [execLda]
  extract_lets a w src x dst bar
  refine issue_wf h fun b ls => ?_
  extract_lets chk chk' left ok c q room take t
  have hq : Memory.wf q.s.mem := by simp [q, h]
  have ht : ∀ s, Memory.wf s.mem → Memory.wf (take s).mem := fun s h =>
    foldl_wf (fun s y h => State.wf_ite h (by simp [h])) _ h
  refine Acted.wf_ite (by simp [hq]) ?_
  exact Acted.wf_ite (by rw [actWait_mem]; exact ht s h) (by rw [acted_mem]; exact ht q.s hq)

theorem execAtom_wf (hd : Head) (p : AtomP) : WfAfter (execAtom hd p s) := by
  dsimp only [execAtom]
  refine issue_wf h fun b ls => ?_
  simp [h]

theorem execRed_wf (hd : Head) (p : RedP) : WfAfter (execRed hd p s) := by
  dsimp only [execRed]
  refine issue_wf h fun b ls => ?_
  simp [h]

theorem execFence_wf (hd : Head) (p : FenceP) : WfAfter (execFence hd p s) := by
  dsimp only [execFence]
  refine issue_wf h fun b ls => ?_
  simp [h]

theorem execCapld_wf (hd : Head) (p : MemP) : WfAfter (execCapld hd p s) := by
  dsimp only [execCapld]
  refine issue_wf h fun b ls => firstLane_wf (fun s f h => ?_) h ls
  split
  · simp [h]
  · split <;> simp [h]

theorem execCapst_wf (hd : Head) (p : MemP) : WfAfter (execCapst hd p s) :=
  issue_wf h fun b ls => by simp [h]

theorem execCnarrow_wf (hd : Head) (p : CnarrowP) : WfAfter (execCnarrow hd p s) :=
  issue_wf h fun b ls => firstLane_wf (fun s f h => by simp [h]) h ls

theorem execCrights_wf (hd : Head) (p : CrightsP) : WfAfter (execCrights hd p s) :=
  issue_wf h fun b ls => firstLane_wf (fun s f h => by simp [h]) h ls

theorem execCinfo_wf (hd : Head) (p : CinfoP) : WfAfter (execCinfo hd p s) :=
  issue_wf h fun b ls => firstLane_wf (fun s f h => by simp [h]) h ls

theorem granStore_wf (kind : StKind) (hd : Head) (p : GranP) (legal : Bool) : WfAfter (granStore kind hd p legal s) :=
  issue_wf h fun b ls => by simp [h]

theorem execFeset_wf (hd : Head) (p : GranP) : WfAfter (execFeset hd p s) := granStore_wf h _ _ _ _

theorem execFeclr_wf (hd : Head) (p : GranP) : WfAfter (execFeclr hd p s) := granStore_wf h _ _ _ _

theorem execFetest_wf (hd : Head) (p : GranP) : WfAfter (execFetest hd p s) :=
  issue_wf h fun b ls => by simp [h]

theorem execBinit_wf (hd : Head) (p : GranP) : WfAfter (execBinit hd p s) := by
  refine issue_wf h fun b ls => ?_
  extract_lets
  refine Acted.wf_ite (by simp [h]) ?_
  rw [acted_mem]
  exact eachLane_wf (fun s f h => binitLane_wf h _ _ _) h _

theorem execBarv_wf (hd : Head) (p : GranP) : WfAfter (execBarv hd p s) := by
  refine issue_wf h fun b ls => ?_
  extract_lets
  refine Acted.wf_ite (by simp [h]) ?_
  rw [acted_mem]
  exact eachLane_wf (fun s f h => barvLane_wf h _ _ _) h _

theorem execBexpt_wf (hd : Head) (p : GranP) : WfAfter (execBexpt hd p s) := by
  refine issue_wf h fun b ls => ?_
  extract_lets
  refine Acted.wf_ite (by simp [h]) ?_
  rw [acted_mem]
  refine eachLane_wf (fun s f h => ?_) h _
  extract_lets
  rw [mem_fst_ite]
  exact State.wf_ite h (pendingUp_wf h _ _)

theorem execBwait_wf (hd : Head) (p : GranP) : WfAfter (execBwait hd p s) := by
  refine issue_wf h fun b ls => ?_
  extract_lets
  refine Acted.wf_ite (by simp [h]) ?_
  rw [acted_mem]
  refine eachLane_wf (fun s f h => ?_) h _
  extract_lets
  split
  · exact h
  · split
    · exact h
    · simp [h]

/-! ### Queues and messages -/

theorem execSend_wf (hd : Head) (p : SendP) : WfAfter (execSend hd p s) := by
  dsimp only [execSend]
  refine issue_wf h fun b ls => ?_
  split
  · simp [h]
  · split <;> simp [h]

theorem execRecv_wf (hd : Head) (p : RecvP) : WfAfter (execRecv hd p s) := by
  dsimp only [execRecv]
  refine issue_wf h fun b ls => ?_
  simp [h]

theorem execQpoll_wf (hd : Head) (p : QpollP) : WfAfter (execQpoll hd p s) :=
  issue_wf h fun b ls => by simp [h]

theorem execFabCompletion_wf (core port ctx : Nat) : WfAfter (execFabCompletion core port ctx s) := by simp [execFabCompletion, h]

theorem execQueueEntryArrival_wf (op : Nat) : WfAfter (execQueueEntryArrival op s) := by
  unfold execQueueEntryArrival
  split
  · exact h
  split
  case h_2 => exact h
  split
  · exact h
  split
  · simp [h]
  split
  · simp [h]
  split
  · simp [h]
  split
  · rename_i e; simp [enqueue_mem e, h]
  · exact h

theorem execRadd_wf (hd : Head) (p : RaddP) : WfAfter (execRadd hd p s) := by
  dsimp only [execRadd]
  refine issue_wf h fun b ls => ?_
  simp [h]

theorem execRaddArrival_wf (op : Nat) : WfAfter (execRaddArrival op s) := by
  unfold execRaddArrival
  split
  · exact h
  split
  case h_2 => exact h
  split
  · simp [h]
  extract_lets a r t
  split
  · simp [h]
  · have ht : Memory.wf t.mem := spadWrite_wf (by simp [h]) _ _ _
    simp [ht]

theorem execEsendUpdate_wf (op : Nat) : WfAfter (execEsendUpdate op s) := by
  simp only [execEsendUpdate]
  split
  · simp [h]
  · split <;> simp [h]

/-! ### Gangs -/

theorem execGsync_wf (hd : Head) (p : GsyncP) : WfAfter (execGsync hd p s) := by
  dsimp only [execGsync]
  refine issue_wf h fun b ls => ?_
  split
  · simp [h]
  · split <;> simp [h]

theorem execNfvote_wf (hd : Head) (p : VoteP) : WfAfter (execNfvote hd p s) := by
  dsimp only [execNfvote]
  refine issue_wf h fun b ls => ?_
  split
  · simp [h]
  · split <;> simp [h]

theorem execLscale_wf (hd : Head) (p : LscaleP) : WfAfter (execLscale hd p s) :=
  issue_wf h fun b ls => firstLane_wf (fun s f h => by simp [h]) h ls

theorem execVoteRoundComplete_wf (gang : Nat) : WfAfter (execVoteRoundComplete gang s) := by
  simp only [execVoteRoundComplete]
  split <;> simp [h]

theorem execSyncRoundComplete_wf (gang : Nat) : WfAfter (execSyncRoundComplete gang s) := by
  simp only [execSyncRoundComplete]
  split <;> simp [h]

/-! ### Special registers -/

theorem execGetsr_wf (hd : Head) (p : SrP) : WfAfter (execGetsr hd p s) := by
  dsimp -zeta only [execGetsr]
  extract_lets
  refine issue_wf h fun b ls => ?_
  extract_lets t
  have ht : Memory.wf t.mem := State.wf_ite (by simp [h]) h
  split
  · exact firstLane_wf (fun s f h => by simp [h]) ht _
  · simp [ht]

theorem execSetsr_wf (hd : Head) (p : SrP) : WfAfter (execSetsr hd p s) := by
  dsimp only [execSetsr]
  refine issue_wf h fun b ls => ?_
  split
  · simp [h]
  · split <;> simp [h]

/-! ### Stores, loads and walks as they perform -/

theorem execStorePerform_wf (core port : Nat) : WfAfter (execStorePerform core port s) := by
  unfold execStorePerform
  split
  · exact devWriteDue_wf h
  split
  · exact h
  split
  · exact h
  split
  · rename_i e; simp [turnOf_stay e, h]
  · simp [h]
  extract_lets t
  have ht : Memory.wf t.mem := by simp [t, h]
  split
  · split
    · simp [ht]
    · exact deliver_wf (performRed_wf ht _ _ _ _ _ _)
  · exact deliver_wf (State.wf_ite (by simp [ht]) (by simp [ht]))
  · exact deliver_wf (by simp [ht])
  · exact deliver_wf (performSpad_wf ht _ _ _)

theorem execRaddGlobalApply_wf (core port : Nat) : WfAfter (execRaddGlobalApply core port s) := by
  unfold execRaddGlobalApply
  split
  · exact h
  split
  case h_2 => exact h
  split
  case h_1 t e => simp [turnOf_stay e, h]
  case h_2 => simp [h]
  extract_lets t coord fid lost held stored opened
  have ht : Memory.wf t.mem := by simp [t, h]
  split
  · simp [ht]
  · exact ht
  · exact divergeAt_wf (by simp [lost, ht]) _ _
  · have hheld : Memory.wf held.mem := takeGrant_wf ht _ _ _ _ _
    split
    · simp [hheld]
    · refine deliver_wf ?_
      rw [reap_mem]
      split <;> simp [opened, stored, hheld]

theorem execLoadComplete_wf (core port ctx : Nat) : WfAfter (execLoadComplete core port ctx s) := by
  simp only [execLoadComplete]
  split
  · simp [h]
  · split
    · simp [h]
    · split <;> simp [h]

theorem execLdlLaneComplete_wf (core port ctx op : Nat) : WfAfter (execLdlLaneComplete core port ctx op s) := by
  simp only [execLdlLaneComplete]
  split
  · simp [h]
  · split <;> simp [h]

theorem execAtomRmwPerform_wf (core port ctx op : Nat) : WfAfter (execAtomRmwPerform core port ctx op s) := by
  have hs : WfAfter (.next s) := h
  unfold execAtomRmwPerform
  split
  · exact hs
  split
  case h_2 => exact hs
  extract_lets mine q t fid
  have ht : Memory.wf t.mem := by simp [t, h]
  refine WfAfter.ite hs (WfAfter.ite ?_ ?_)
  · exact WfAfter.ite (by simp [h]) (WfAfter.ite (by simp [h]) (by simp [h]))
  refine WfAfter.ite (by simp [h]) (WfAfter.ite (by simp [h]) (WfAfter.ite (by simp [q, h]) (WfAfter.ite hs ?_)))
  split
  · simp [ht]
  · exact ht
  · simp [ht]
  · simp [ht]

theorem execLdaTransaction_wf (core port ctx op : Nat) : WfAfter (execLdaTransaction core port ctx op s) := by
  unfold execLdaTransaction
  split
  · exact h
  extract_lets busy g bad popped touched filled
  have ht : Memory.wf touched.mem := by simp [touched, popped, h]
  have hf : Memory.wf filled.mem := State.wf_ite ht (fillGran_wf (by simp [ht]) _ _)
  split
  · exact h
  split
  · simp [h]
  · exact deliver_wf (by simp [hf])

theorem execFlushMarkerGather_wf (core port op : Nat) : WfAfter (execFlushMarkerGather core port op s) := by
  simp [execFlushMarkerGather, h]

theorem execTableWalkComplete_wf (walk : Nat) : WfAfter (execTableWalkComplete walk s) := by
  simp only [execTableWalkComplete]
  split
  · simp [h]
  · split
    · simp [h]
    · split
      · simp [h]
      · split <;> simp [h]

theorem execFaultEntryPost_wf (held : Nat) : WfAfter (execFaultEntryPost held s) := by
  simp only [execFaultEntryPost]
  split
  · simp [h]
  · split <;> simp [h]

/-! ### Cuts and rows -/

theorem execCutreg_wf (hd : Head) (p : LatheP) : WfAfter (execCutreg hd p s) := by
  unfold execCutreg
  refine issue_wf h fun b ls => firstLane_wf (fun s f h => ?_) h ls
  extract_lets c
  split
  · simp [h]
  · rw [Acted.s_ite]
    split
    · simp [h]
    · exact onRange_wf h _ _ _ (fun e => by simp [h]) fun s k bank row n h => by simp [h]

theorem execCutdrop_wf (hd : Head) (p : LatheP) : WfAfter (execCutdrop hd p s) := by
  dsimp only [execCutdrop]
  refine issue_wf h fun b ls => firstLane_wf (fun s f h => ?_) h ls
  split
  · simp [h]
  · refine onRange_wf h _ _ _ (fun e => ?_) fun s k bank row n h => ?_
    · simp [h]
    · split <;> simp [h]

theorem execCutboost_wf (hd : Head) (p : LatheP) : WfAfter (execCutboost hd p s) := by
  dsimp only [execCutboost]
  refine issue_wf h fun b ls => firstLane_wf (fun s f h => ?_) h ls
  split
  · simp [h]
  · refine onRange_wf h _ _ _ (fun e => ?_) fun s k bank row n h => ?_
    · simp [h]
    · split <;> simp [h]

theorem execSwpos_wf (hd : Head) (p : LatheP) : WfAfter (execSwpos hd p s) := by
  dsimp only [execSwpos]
  refine issue_wf h fun b ls => ?_
  split
  · simp [h]
  · split <;> simp [h]

theorem execRowstat_wf (hd : Head) (p : LatheP) : WfAfter (execRowstat hd p s) := by
  dsimp only [execRowstat]
  refine issue_wf h fun b ls => firstLane_wf (fun s f h => ?_) h ls
  split
  · simp [h]
  · split
    · simp [h]
    · refine onRange_wf h _ _ _ (fun e => ?_) fun s k bank row n h => ?_
      · simp [h]
      · simp [h]

theorem execRowRestore_wf (stack bank : Nat) : WfAfter (execRowRestore stack bank s) := by
  unfold execRowRestore
  extract_lets l d row t
  split
  · exact h
  · exact foldl_wf (fun _ _ h => turnIn_wf h _ _ _) _ h

theorem execPullForward_wf (stack entry row : Nat) : WfAfter (execPullForward stack entry row s) := by
  simp only [execPullForward]
  split <;> simp [h]

theorem execTemperatureChange_wf (stack hot : Nat) : WfAfter (execTemperatureChange stack hot s) := by simp [execTemperatureChange, h]

theorem execSequencerWatchdogReset_wf (stack : Nat) : WfAfter (execSequencerWatchdogReset stack s) := by
  unfold execSequencerWatchdogReset
  extract_lets l wd ends t t'
  split
  · exact h
  · have ht' : Memory.wf t'.mem := by simp [t', t, h]
    exact postHost_wf (latheEnds_wf ht' _) _ _ _ _

theorem execSaveModeEnter_wf (stack : Nat) : WfAfter (execSaveModeEnter stack s) := by simp [execSaveModeEnter, h]

theorem execSaveModeRestore_wf (stack : Nat) : WfAfter (execSaveModeRestore stack s) := by simp [execSaveModeRestore, h]

/-! ### Row programs -/

theorem execRowprog_wf (hd : Head) (p : LatheP) : WfAfter (execRowprog hd p s) := by
  dsimp only [execRowprog]
  refine issue_wf h fun b ls => firstLane_wf (fun s f h => ?_) h ls
  split
  · simp [h]
  · split
    · simp [h]
    · split
      · simp [h]
      · split
        · split
          · simp [h]
          · split
            · simp [h]
            · simp [h]
            · simp [h]
            · split
              · simp [h]
              · split
                · simp [h]
                · split <;> simp [h]
        · simp [h]

theorem execRowop_wf (hd : Head) (p : LatheP) : WfAfter (execRowop hd p s) := by
  dsimp -zeta only [execRowop]
  extract_lets
  refine issue_wf h fun b ls => firstLane_wf (fun s f h => ?_) h ls
  extract_lets
  split
  · simp [h]
  refine Acted.wf_ite (by simp [h]) (onRange_wf h _ _ _ (fun e => by simp [h]) fun s k bank row n h => ?_)
  extract_lets
  refine Acted.wf_ite (by simp [h]) ?_
  split
  · simp [h]
  exact Acted.wf_ite (by simp [h]) (Acted.wf_ite (by simp [h]) (Acted.wf_ite (by simp [h]) (Acted.wf_ite (by simp [h]) (by simp [h]))))

theorem execRowProgramStep_wf (stack bank : Nat) : WfAfter (execRowProgramStep stack bank s) := by
  simp only [execRowProgramStep]
  split <;> simp [h]

/-! ### Conversions and functions -/

theorem transAct_wf (fn : TransFn) (hd : Head) (p : TransP) (legal : Bool) : WfAfter (transAct fn hd p legal s) := by
  dsimp only [transAct]
  refine issue_wf h fun b ls => ?_
  simp [h]

theorem execFrcp_wf (hd : Head) (p : TransP) : WfAfter (execFrcp hd p s) := transAct_wf h _ _ _ _

theorem execFrsq_wf (hd : Head) (p : TransP) : WfAfter (execFrsq hd p s) := transAct_wf h _ _ _ _

theorem execFsqrt_wf (hd : Head) (p : TransP) : WfAfter (execFsqrt hd p s) := transAct_wf h _ _ _ _

theorem execFex2_wf (hd : Head) (p : TransP) : WfAfter (execFex2 hd p s) := transAct_wf h _ _ _ _

theorem execFlg2_wf (hd : Head) (p : TransP) : WfAfter (execFlg2 hd p s) := transAct_wf h _ _ _ _

theorem execFsin_wf (hd : Head) (p : TransP) : WfAfter (execFsin hd p s) := transAct_wf h _ _ _ _

theorem execFcos_wf (hd : Head) (p : TransP) : WfAfter (execFcos hd p s) := transAct_wf h _ _ _ _

theorem execFtanh_wf (hd : Head) (p : TransP) : WfAfter (execFtanh hd p s) := transAct_wf h _ _ _ _

theorem execFdiv_wf (hd : Head) (p : TransP) : WfAfter (execFdiv hd p s) := transAct_wf h _ _ _ _

theorem execFcvt_wf (hd : Head) (p : FcvtP) : WfAfter (execFcvt hd p s) := by
  dsimp only [execFcvt]
  refine issue_wf h fun b ls => ?_
  simp [h]

theorem execFpack_wf (hd : Head) (p : BlkP) : WfAfter (execFpack hd p s) := by
  dsimp only [execFpack]
  refine issue_wf h fun b ls => ?_
  simp [h]

theorem execFunpk_wf (hd : Head) (p : BlkP) : WfAfter (execFunpk hd p s) := by
  dsimp only [execFunpk]
  refine issue_wf h fun b ls => ?_
  simp [h]

theorem execFclass_wf (hd : Head) (p : FclassP) : WfAfter (execFclass hd p s) := by
  dsimp only [execFclass]
  refine issue_wf h fun b ls => ?_
  simp [h]

theorem execTagset_wf (hd : Head) (p : TagsetP) : WfAfter (execTagset hd p s) :=
  issue_wf h fun b ls => by simp [h]

theorem execTagget_wf (hd : Head) (p : TaggetP) : WfAfter (execTagget hd p s) := by
  dsimp only [execTagget]
  refine issue_wf h fun b ls => ?_
  simp [h]

/-! ### Tiles -/

theorem execMxrd_wf (hd : Head) (p : MxElemP) : WfAfter (execMxrd hd p s) := by
  dsimp only [execMxrd]
  refine issue_wf h fun b ls => ?_
  simp [h]

theorem execMxwr_wf (hd : Head) (p : MxElemP) : WfAfter (execMxwr hd p s) := by
  dsimp only [execMxwr]
  refine issue_wf h fun b ls => ?_
  simp [h]

theorem execMxclr_wf (hd : Head) (p : MxclrP) : WfAfter (execMxclr hd p s) := by
  dsimp only [execMxclr]
  refine issue_wf h fun b ls => ?_
  simp [h]

theorem execMxstat_wf (hd : Head) (p : MxstatP) : WfAfter (execMxstat hd p s) :=
  issue_wf h fun b ls => by simp [h]

/-! ### The engine -/

theorem execMxop_wf (hd : Head) (p : RegP) : WfAfter (execMxop hd p s) := by
  unfold execMxop
  refine issue_wf h fun b ls => firstLane_wf (fun s f h => ?_) h ls
  extract_lets +onlyGivenNames o v
  cases firstTrap _
  case some => simp [h]
  refine Acted.wf_ite (by simp [h]) ?_
  cases firstTrap _
  case some => simp [h]
  extract_lets +onlyGivenNames used
  cases lowestFree _ _
  case none => simp [h]
  refine Acted.wf_ite (by simp [h]) ?_
  simp [h]

theorem execGatherComplete_wf (cluster entry : Nat) : WfAfter (execGatherComplete cluster entry s) := by
  have hs : WfAfter (.next s) := h
  unfold execGatherComplete
  extract_lets g
  split
  · exact hs
  split
  · exact hs
  refine WfAfter.ite hs (WfAfter.ite ?_ ?_)
  · exact WfAfter.ite hs (by simp [h])
  refine WfAfter.ite hs (WfAfter.ite (by simp [h]) ?_)
  split <;> simp [h]

theorem execPassSlot_wf (cluster : Nat) : WfAfter (execPassSlot cluster s) := by
  unfold execPassSlot
  extract_lets g t g' cand
  have ht : Memory.wf t.mem := by
    refine foldl_wf (fun s e h => ?_) _ h
    split
    · exact State.wf_ite h (fetchPages_wf h _ _)
    · exact h
  split
  · exact h
  · split
    · exact ht
    · split
      · exact ht
      · simp [ht]

theorem execPassStarvation_wf (cluster : Nat) : WfAfter (execPassStarvation cluster s) := by
  simp only [execPassStarvation]
  split
  · simp [h]
  · split <;> simp [h]

theorem execPassEnd_wf (cluster : Nat) : WfAfter (execPassEnd cluster s) := by
  simp only [execPassEnd]
  split
  · simp [h]
  · split <;> simp [h]

theorem execEngineWatchdogReset_wf (cluster : Nat) : WfAfter (execEngineWatchdogReset cluster s) := by
  unfold execEngineWatchdogReset
  extract_lets g wd t t' own
  split
  · exact h
  · have ht' : Memory.wf t'.mem := foldl_wf (g := loseEngine) (fun _ _ h => loseEngine_wf h _) _ h
    exact postHost_wf ht' _ _ _ _

/-! ### Copies -/

theorem copyAct_wf (kind : Nat) (hd : Head) (p : RegP) (legal : Bool) :
    WfAfter (copyAct kind hd p legal s) := by
  unfold copyAct
  refine issue_wf h fun b ls => firstLane_wf (fun s f h => ?_) h ls
  extract_lets +onlyGivenNames o v
  cases firstTrap _
  case some => simp [h]
  refine Acted.wf_ite (by simp [h]) ?_
  cases firstTrap _
  case some => simp [h]
  extract_lets +onlyGivenNames mine counts
  cases lowestFree _ _
  case none => simp [h]
  refine Acted.wf_ite (by simp [h]) ?_
  extract_lets q c src t t'
  have ht : Memory.wf t.mem := by
    change Memory.wf q.1.mem
    unfold q
    split <;> simp [h]
  have ht' : Memory.wf t'.mem := by
    unfold t'; split <;> simp [ht]
  simp [ht']

theorem execCpy_wf (hd : Head) (p : RegP) : WfAfter (execCpy hd p s) := copyAct_wf h _ _ _ _

theorem execCpym_wf (hd : Head) (p : RegP) : WfAfter (execCpym hd p s) := copyAct_wf h _ _ _ _

theorem execCpyt_wf (hd : Head) (p : RegP) : WfAfter (execCpyt hd p s) := copyAct_wf h _ _ _ _

theorem execCpyx_wf (hd : Head) (p : RegP) : WfAfter (execCpyx hd p s) := copyAct_wf h _ _ _ _

theorem execCopyGranuleWrite_wf (cluster op : Nat) : WfAfter (execCopyGranuleWrite cluster op s) := by
  have hs : WfAfter (.next s) := h
  have hkill : ∀ b c o, WfAfter (.next (deliver (killCopy s b c o))) := fun b c o => deliver_wf (killCopy_wf h b c o)
  have ht : ∀ l : List Nat, Memory.wf (l.foldl touch s).mem := fun l => by simp [h]
  unfold execCopyGranuleWrite
  split
  · exact hs
  split
  · exact hs
  refine WfAfter.ite hs ?_
  extract_lets
  refine WfAfter.ite (hkill ..) (WfAfter.ite (hkill ..) (WfAfter.ite (by simp [h]) ?_))
  split
  · simp [h]
  refine WfAfter.ite ?_ (WfAfter.ite (hkill ..) (WfAfter.ite (hkill ..) (WfAfter.ite (hkill ..) ?_)))
  · exact foldl_wf (fun s a h => State.wf_ite (by simp [h]) h) _ h
  · rw [wfAfter_next]
    refine deliver_wf (afterGran_wf ?_ _ _)
    refine foldl_wf (fun _ _ h => putGran_wf h _ _ _) _ ?_
    refine State.wf_ite ?_ ?_
    · exact ht _
    · exact ht _

/-! ### Retirement -/

theorem execBlockRetire_wf (blk : Nat) : WfAfter (execBlockRetire blk s) := by
  simp only [execBlockRetire]
  split
  · simp [h]
  · split
    · simp [h]
    · split
      · simp [h]
      · split <;> simp [h]

theorem execGangRetire_wf (gang : Nat) : WfAfter (execGangRetire gang s) := by
  unfold execGangRetire
  split
  · exact h
  · split
    · extract_lets bs t
      split
      · simp [h]
      · exact foldl_wf (fun _ _ h => retireBlock_wf h _) _ (by simp [h])
    · exact h

theorem execKernelComplete_wf (kid : Nat) : WfAfter (execKernelComplete kid s) := by
  simp only [execKernelComplete]
  split <;> simp [h]

/-! ### Launches -/

theorem execTailLineSnoop_wf (part queue value : Nat) : WfAfter (execTailLineSnoop part queue value s) := by
  unfold execTailLineSnoop
  split
  · exact h
  · exact foldl_wf (fun _ _ h => seeTail_wf h _ _) _ (write_wf h _ _ _)

theorem execLaunchPacket_wf (part queue : Nat) : WfAfter (execLaunchPacket part queue s) := by
  have hs : WfAfter (.next s) := h
  have hhalt : ∀ i e, WfAfter (.next (haltQueue s part queue i e)) := fun i e => haltQueue_wf h part queue i e
  unfold execLaunchPacket
  extract_lets
  refine WfAfter.ite hs (WfAfter.ite (hhalt ..) ?_)
  split
  · refine WfAfter.ite hs (WfAfter.ite (hhalt ..) (WfAfter.ite (hhalt ..) ?_))
    split
    · exact hhalt ..
    · simp [h]
    · exact haltFenced_wf (by simp [h]) _
  · simp [h]
  · exact hhalt ..

theorem execNopPacket_wf (part queue : Nat) : WfAfter (execNopPacket part queue s) := by
  simp only [execNopPacket]
  split
  · simp [h]
  · split <;> simp [h]

theorem execAgeingStep_wf (part queue : Nat) : WfAfter (execAgeingStep part queue s) := by simp [execAgeingStep, h]

/-! ### Admission -/

theorem execAdmitBlock_wf (part queue : Nat) : WfAfter (execAdmitBlock part queue s) := by
  unfold execAdmitBlock
  split
  · exact h
  · split
    · exact h
    · exact foldl_wf (fun _ _ h => placeIn_wf h _ _ _ _) _ (by simp [h])

theorem execAdmitGang_wf (part queue : Nat) : WfAfter (execAdmitGang part queue s) := by
  unfold execAdmitGang
  split
  · exact h
  · split
    · exact h
    · exact foldl_wf (fun _ _ h => placeIn_wf h _ _ _ _) _ (by simp [h])

/-! ### Control -/

theorem execBra_wf (hd : Head) (p : BraP) : WfAfter (execBra hd p s) :=
  issue_wf h fun b ls => by simp [h]

theorem execBrx_wf (hd : Head) (p : BrxP) : WfAfter (execBrx hd p s) := by
  dsimp only [execBrx]
  refine issue_wf h fun b ls => ?_
  split <;> simp [h]

theorem execCall_wf (hd : Head) (p : CallP) : WfAfter (execCall hd p s) := by
  dsimp only [execCall]
  refine issue_wf h fun b ls => ?_
  simp [h]

theorem pairJump_wf (u : Use) (a : Nat) : WfAfter (pairJump u a s) :=
  issue_wf h fun b ls => by simp [h]

theorem execRet_wf (hd : Head) (p : RegP) : WfAfter (execRet hd p s) := pairJump_wf h _ _

theorem execJmp_wf (hd : Head) (p : RegP) : WfAfter (execJmp hd p s) := pairJump_wf h _ _

theorem execSpawn_wf (hd : Head) (p : SpawnP) : WfAfter (execSpawn hd p s) := by
  dsimp only [execSpawn]
  refine issue_wf h fun b ls => ?_
  split
  · simp [h]
  · dsimp only
    refine foldl_wf (fun s x h => ?_) _ ?_
    · simp [h]
    · refine laneAct_wf (fun s f h => ?_) ?_ _
      · split
        · exact h
        · simp [h]
      · exact h

theorem execExit_wf (hd : Head) : WfAfter (execExit hd s) :=
  issue_wf h fun _ _ => foldl_wf (fun _ _ h => exitFibre_wf h _) _ h

theorem execJoin_wf (hd : Head) : WfAfter (execJoin hd s) :=
  issue_wf h fun b ls => by simp [h]

theorem execYieldOp_wf (hd : Head) : WfAfter (execYieldOp hd s) :=
  issue_wf h fun b ls => by simp [h]

theorem execWaitc_wf (hd : Head) (p : WaitcP) : WfAfter (execWaitc hd p s) :=
  issue_wf h fun b ls => by simp [h]

theorem execBar_wf (hd : Head) (p : BarP) : WfAfter (execBar hd p s) := by
  dsimp -zeta only [execBar]
  extract_lets
  refine issue_wf h fun b ls => ?_
  extract_lets r a
  refine Acted.wf_ite (by simp [r, h]) ?_
  rw [waitTogether_mem]
  refine laneAct_wf (fun s f h => ?_) (by simp [r, h]) _
  extract_lets
  split
  · exact h
  · split
    · simp [h]
    · simp [h]

theorem execUtrap_wf (hd : Head) (p : CodeP) : WfAfter (execUtrap hd p s) :=
  issue_wf h fun b ls => by simp [h]

theorem execBkpt_wf (hd : Head) (p : CodeP) : WfAfter (execBkpt hd p s) :=
  issue_wf h fun b ls => by simp [h]

theorem execMark_wf (hd : Head) (p : CodeP) : WfAfter (execMark hd p s) :=
  issue_wf h fun b ls => firstLane_wf (fun s f h => by simp [h]) h ls

/-! ### Stops -/

theorem execPreq_wf (part value : Nat) : WfAfter (execPreq part value s) := by simp [execPreq, h]

theorem execHandlerBudgetExpiry_wf (core port ctx : Nat) : WfAfter (execHandlerBudgetExpiry core port ctx s) := by
  simp only [execHandlerBudgetExpiry]
  split
  · simp [h]
  · split <;> simp [h]

theorem execDebugStop_wf (part value : Nat) : WfAfter (execDebugStop part value s) := by simp [execDebugStop, h]

theorem execDebugResume_wf (part value : Nat) : WfAfter (execDebugResume part value s) := by simp [execDebugResume, h]

/-! ### System registers -/

theorem whenRead_wf (part n v : Nat) {t : State} (ht : Memory.wf t.mem) : WfAfter (whenRead s part n v t) := by
  unfold whenRead
  split
  · simp [h]
  · exact ht

theorem execSysrd_wf (hd : Head) (p : SysregP) : WfAfter (execSysrd hd p s) := by
  dsimp -zeta only [execSysrd]
  extract_lets
  refine issue_wf h fun b ls => ?_
  extract_lets t
  have ht : Memory.wf t.mem := State.wf_ite (by simp [h]) h
  split
  · exact firstLane_wf (fun s f h => by simp [h]) ht _
  · simp [ht]

theorem execSyswr_wf (hd : Head) (p : SysregP) : WfAfter (execSyswr hd p s) := by
  dsimp only [execSyswr]
  refine issue_wf h fun b ls => firstLane_wf (fun s f h => ?_) h ls
  split
  · simp [h]
  · split
    · simp [h]
    · split <;> simp [h]

theorem execQueueResume_wf (part queue value : Nat) : WfAfter (execQueueResume part queue value s) := by simp [execQueueResume, h]

theorem execMonitorQueueTail_wf (queue value : Nat) : WfAfter (execMonitorQueueTail queue value s) := by simp [execMonitorQueueTail, h]

theorem execTcode1_wf (part value : Nat) : WfAfter (execTcode1 part value s) :=
  whenRead_wf h _ _ _ (by simp [writeTcode1, h])

theorem execTlog0_wf (part : Nat) : WfAfter (execTlog0 part s) := by simp [execTlog0, h]

theorem execBfstatAck_wf (part value : Nat) : WfAfter (execBfstatAck part value s) := by simp [execBfstatAck, h]

theorem execOwnapply_wf (value : Nat) : WfAfter (execOwnapply value s) := by
  unfold execOwnapply
  split
  · simp [h]
  · split
    · trivial
    · exact whenRead_wf h _ _ _ (sysWrite_wf h _ _ _)

theorem execFeataccept_wf (value : Nat) : WfAfter (execFeataccept value s) := by simp [execFeataccept, h]

theorem execTraceEnable_wf (part value : Nat) : WfAfter (execTraceEnable part value s) := by simp [execTraceEnable, h]

theorem execRecordMode_wf (part value : Nat) : WfAfter (execRecordMode part value s) := by simp [execRecordMode, h]

theorem execReplayMode_wf (part value : Nat) : WfAfter (execReplayMode part value s) := by
  unfold execReplayMode
  split
  · exact whenRead_wf h _ _ _ (writeMode_wf h _ _)
  · exact h

theorem execModeOff_wf (part value : Nat) : WfAfter (execModeOff part value s) := by
  unfold execModeOff
  split
  · exact whenRead_wf h _ _ _ (writeMode_wf h _ _)
  · exact h

/-! ### The supervisor -/

theorem execTret_wf (hd : Head) (p : FrP) : WfAfter (execTret hd p s) := by
  dsimp only [execTret]
  refine issue_wf h fun b ls => ?_
  split
  · refine firstLane_wf (fun s f h => ?_) h ls
    simp [h]
  · simp [h]

theorem execTmask_wf (hd : Head) (p : TmaskP) : WfAfter (execTmask hd p s) :=
  issue_wf h fun b ls => by simp [h]

theorem execFqpop_wf (hd : Head) (p : PopP) : WfAfter (execFqpop hd p s) :=
  issue_wf h fun b ls => firstLane_wf (fun s f h => by split <;> simp [h]) h ls

theorem execPrack_wf (hd : Head) (p : PopP) : WfAfter (execPrack hd p s) :=
  issue_wf h fun b ls => firstLane_wf (fun s f h => by split <;> simp [h]) h ls

theorem execFqres_wf (hd : Head) (p : FqresP) : WfAfter (execFqres hd p s) := by
  dsimp only [execFqres]
  refine issue_wf h fun b ls => firstLane_wf (fun s f h => ?_) h ls
  split
  · simp [h]
  · split <;> simp [h]

theorem execTlbinv_wf (hd : Head) (p : TlbinvP) : WfAfter (execTlbinv hd p s) := by
  dsimp only [execTlbinv]
  refine issue_wf h fun b ls => firstLane_wf (fun s f h => ?_) h ls
  split
  · simp [h]
  · split
    · simp [h]
    · split <;> simp [h]

theorem execObjset_wf (hd : Head) (p : ObjsetP) : WfAfter (execObjset hd p s) := by
  dsimp only [execObjset]
  refine issue_wf h fun b ls => firstLane_wf (fun s f h => ?_) h ls
  split
  · simp [h]
  · simp [h]
  · simp [h]
  · split
    · simp [h]
    · split <;> simp [h]

theorem execHaltb_wf (hd : Head) (p : FrP) : WfAfter (execHaltb hd p s) := by
  refine issue_wf h fun b ls => ?_
  cases ls with
  | nil => exact h
  | cons f fs =>
    rw [acted_mem]
    split
    · split
      · exact deliver_wf (killFibres_wf h _)
      · exact h
    · split
      · exact foldl_wf (fun _ _ h => killBlock_wf h _) _ h
      · exact h

theorem execTrial_wf (hd : Head) (p : TrialP) : WfAfter (execTrial hd p s) := by
  dsimp only [execTrial]
  refine issue_wf h fun b ls => firstLane_wf (fun s f h => ?_) h ls
  split <;> simp [h]

/-! ### Saved contexts -/

theorem ctxUse_wf (hd : Head) (p : CtxP) (legal : Bool) (need : Nat) {act : State → Block → Fibre → CapWord → Nat → Acted}
    (ha : ∀ s b f c off, Memory.wf s.mem → Memory.wf (act s b f c off).s.mem) : WfAfter (ctxUse hd p legal need act s) := by
  refine issue_wf h fun b ls => firstLane_wf (fun s f h => ?_) h ls
  extract_lets
  split
  · exact h
  · exact ha _ _ _ _ _ h

theorem execCtxsv_wf (hd : Head) (p : CtxP) : WfAfter (execCtxsv hd p s) := by
  refine ctxUse_wf h _ _ _ _ fun s b f c off h => ?_
  split
  · simp [h]
  · split
    · simp [h]
    · split
      · simp [h]
      · exact saveImage_wf h _ _ _ _ _ _ _ fun t ht => freeSaved_wf ht _ _

theorem execLsqsave_wf (hd : Head) (p : CtxP) : WfAfter (execLsqsave hd p s) := by
  refine ctxUse_wf h _ _ _ _ fun s b f c off h => ?_
  split
  · simp [h]
  · split
    · simp [h]
    · exact saveImage_wf h _ _ _ _ _ _ _ fun t ht => by simp [ht]

theorem execCtxrs_wf (hd : Head) (p : CtxP) : WfAfter (execCtxrs hd p s) := by
  refine ctxUse_wf h _ _ _ _ fun s b f c off h => ?_
  split
  · simp [h]
  · refine onImage_wf (by rw [loadImage_mem]; exact h) fun s i cs h => ?_
    split
    · simp [h]
    · split
      · simp [h]
      · simp [h]

theorem execLsqrst_wf (hd : Head) (p : CtxP) : WfAfter (execLsqrst hd p s) := by
  refine ctxUse_wf h _ _ _ _ fun s b f c off h => ?_
  split
  · simp [h]
  · split
    · simp [h]
    · refine onImage_wf (by rw [loadImage_mem]; exact h) fun s i cs h => ?_
      exact Acted.wf_ite (by simp [h]) (by simp [h])

/-! ### The device -/

theorem execPowerLimitStep_wf (average : Nat) : WfAfter (execPowerLimitStep average s) := by
  simp only [execPowerLimitStep]
  split
  · simp [h]
  · split
    · split <;> simp [h]
    · simp [h]

theorem execPowerStateEntry_wf (unit : Nat) : WfAfter (execPowerStateEntry unit s) := by simp [execPowerStateEntry, h]

theorem execPowerStateExit_wf (unit : Nat) : WfAfter (execPowerStateExit unit s) := by
  simp only [execPowerStateExit]
  split <;> simp [h]

theorem execWeightRefreshWindow_wf (die : Nat) : WfAfter (execWeightRefreshWindow die s) := by simp [execWeightRefreshWindow, h]

theorem execWeightStoreWrite_wf (die off value : Nat) : WfAfter (execWeightStoreWrite die off value s) := by
  simp [execWeightStoreWrite, h]

theorem execScratchpadWindow_wf (blk obj wb wl : Nat) : WfAfter (execScratchpadWindow blk obj wb wl s) := by
  simp only [execScratchpadWindow]
  split <;> simp [h]

theorem execUnitFence_wf (unit : Nat) : WfAfter (execUnitFence unit s) := by simp [execUnitFence, h]

theorem execUncorrectableError_wf (addr : Nat) : WfAfter (execUncorrectableError addr s) := by simp [execUncorrectableError, h]

theorem execPathStateChange_wf (path up : Nat) : WfAfter (execPathStateChange path up s) := by simp [execPathStateChange, h]

theorem execHostAccess_wf (write addr n value : Nat) : WfAfter (execHostAccess write addr n value s) := by simp [execHostAccess, h]

theorem execRemoteDeviceRequest_wf (kind part obj off w value : Nat) : WfAfter (execRemoteDeviceRequest kind part obj off w value s) := by
  simp only [execRemoteDeviceRequest]
  split
  · simp [h]
  · split
    · simp [h]
    · split
      · split
        · simp [h]
        · split
          · simp [h]
          · split <;> simp [h]
      · split <;> simp [h]

theorem execDeviceReset_wf (what a b : Nat) : WfAfter (execDeviceReset what a b s) := by
  unfold execDeviceReset
  split
  · simp [h]
  · simp [h]
  · simp [h]
  · split
    · exact h
    · split
      · trivial
      · exact whenRead_wf h _ _ _ (sysWrite_wf h _ _ _)
  · simp [h]
  · exact h

/-! ### Lanes -/

theorem execIcmp_wf (hd : Head) (p : CmpP) : WfAfter (execIcmp hd p s) := by
  dsimp only [execIcmp]
  refine issue_wf h fun b ls => ?_
  simp [h]

theorem execFcmp_wf (hd : Head) (p : CmpP) : WfAfter (execFcmp hd p s) := by
  dsimp only [execFcmp]
  refine issue_wf h fun b ls => ?_
  simp [h]

theorem execPcomb_wf (hd : Head) (p : PcombP) : WfAfter (execPcomb hd p s) := by
  dsimp only [execPcomb]
  refine issue_wf h fun b ls => ?_
  simp [h]

theorem execPtov_wf (hd : Head) (p : PredVecP) : WfAfter (execPtov hd p s) := by
  dsimp only [execPtov]
  refine issue_wf h fun b ls => ?_
  simp [h]

theorem execVtop_wf (hd : Head) (p : PredVecP) : WfAfter (execVtop hd p s) := by
  dsimp only [execVtop]
  refine issue_wf h fun b ls => ?_
  simp [h]

theorem execPsurv_wf (hd : Head) (p : PsurvP) : WfAfter (execPsurv hd p s) := by
  dsimp only [execPsurv]
  refine issue_wf h fun b ls => ?_
  simp [h]

theorem execShfl_wf (hd : Head) (p : ShflP) : WfAfter (execShfl hd p s) := by
  dsimp only [execShfl]
  refine issue_wf h fun b ls => ?_
  simp [h]

theorem execMatchOp_wf (hd : Head) (p : MatchP) : WfAfter (execMatchOp hd p s) := by
  dsimp only [execMatchOp]
  refine issue_wf h fun b ls => ?_
  simp [h]

theorem execRedux_wf (hd : Head) (p : ReduxP) : WfAfter (execRedux hd p s) :=
  issue_wf h fun b ls => by simp [h]

theorem execScan_wf (hd : Head) (p : ReduxP) : WfAfter (execScan hd p s) :=
  issue_wf h fun b ls => by simp [h]

theorem execUmov_wf (hd : Head) (p : UmovP) : WfAfter (execUmov hd p s) := by
  unfold execUmov
  extract_lets
  split
  · exact issue_wf h fun b ls => by simp [h]
  · refine issue_wf h fun b ls => ?_
    extract_lets
    split
    · rw [acted_mem]
      exact State.wf_ite (by simp [h]) h
    · simp [h]
  · exact issue_wf h fun b ls => firstLane_wf (fun s f h => by simp [h]) h _

/-! ### Fetches -/

theorem parkFetch_wf (cause off : Nat) : WfAfter (parkFetch cause off s) :=
  issue_wf h fun b ls => by split <;> simp [h]

theorem awaitFetch_wf (off : Nat) : WfAfter (awaitFetch off s) :=
  issue_wf h fun b ls => by split <;> simp [h]

end
end Sys2Proof.Machine
end

section
/-!
PROOFS. O58: what `exec` keeps, a slot, a port, a move and a step keep.
-/
namespace Sys2Proof.Machine
section
variable {s : State} (h : Memory.wf s.mem)
include h

/-- Every instruction and every event of the machine keeps the form. -/
theorem exec_wf (i : Instr) : WfAfter (exec i s) := by
  cases i
  case movFormH | addFormH | subFormH | mulFormH | andFormH | orFormH | xorFormH | shlFormH | shrFormH | sarFormH | minSFormH | maxSFormH
    | faddFormH | fmulFormH | fminFormH | fmaxFormH => exact op6H_wf h _ _
  case addFormA | subFormA | mulFormA | mulhSFormA | mulhZFormA | madFormA | minSFormA | minZFormA | maxSFormA | maxZFormA | andFormA
    | orFormA | xorFormA | andnFormA | shlFormA | shrFormA | sarFormA | rotlFormA | clzFormA | popcFormA | brevFormA | bfxFormA | bfiFormA
    | selFormA | movFormA | divSFormA | divZFormA | remSFormA | remZFormA | absFormA | negFormA | addsatSFormA | faddFormA | fsubFormA
    | fmulFormA | ffmaFormA | fminFormA | fmaxFormA | fabsFormA | fnegFormA | fcpsgnFormA | hadd2FormA | hsub2FormA | hmul2FormA
    | hfma2FormA | hmin2FormA | hmax2FormA | idot4FormA | qdot4FormA | f2iFormA | i2fFormA | ffloorFormA | fceilFormA | ftruncFormA
    | frintFormA | fscaleFormA => exact op6A_wf h _ _
  case addFormX | subFormX | mulFormX | mulhSFormX | mulhZFormX | madFormX | minSFormX | minZFormX | maxSFormX | maxZFormX | andFormX
    | orFormX | xorFormX | andnFormX | shlFormX | shrFormX | sarFormX | rotlFormX | clzFormX | popcFormX | brevFormX | bfxFormX | bfiFormX
    | selFormX | movFormX | divSFormX | divZFormX | remSFormX | remZFormX | absFormX | negFormX | addsatSFormX | faddFormX | fsubFormX
    | fmulFormX | ffmaFormX | fminFormX | fmaxFormX | fabsFormX | fnegFormX | fcpsgnFormX | hadd2FormX | hsub2FormX | hmul2FormX
    | hfma2FormX | hmin2FormX | hmax2FormX | idot4FormX | qdot4FormX | f2iFormX | i2fFormX | ffloorFormX | fceilFormX | ftruncFormX
    | frintFormX | fscaleFormX => exact op6X_wf h _ _ _
  case addFormI | subFormI | mulFormI | mulhSFormI | mulhZFormI | madFormI | minSFormI | minZFormI | maxSFormI | maxZFormI | andFormI
    | orFormI | xorFormI | andnFormI | shlFormI | shrFormI | sarFormI | rotlFormI | bfxFormI | bfiFormI | selFormI | movFormI | divSFormI
    | divZFormI | remSFormI | remZFormI | addsatSFormI | fscaleFormI => exact op6I_wf h _ _ _
  case icmp => exact execIcmp_wf h _ _
  case fcmp => exact execFcmp_wf h _ _
  case pcomb => exact execPcomb_wf h _ _
  case ptov => exact execPtov_wf h _ _
  case vtop => exact execVtop_wf h _ _
  case psurv => exact execPsurv_wf h _ _
  case shfl => exact execShfl_wf h _ _
  case matchOp => exact execMatchOp_wf h _ _
  case redux => exact execRedux_wf h _ _
  case scan => exact execScan_wf h _ _
  case umov => exact execUmov_wf h _ _
  case bra => exact execBra_wf h _ _
  case brx => exact execBrx_wf h _ _
  case call => exact execCall_wf h _ _
  case ret => exact execRet_wf h _ _
  case jmp => exact execJmp_wf h _ _
  case spawn => exact execSpawn_wf h _ _
  case exit => exact execExit_wf h _
  case join => exact execJoin_wf h _
  case yieldOp => exact execYieldOp_wf h _
  case setsr => exact execSetsr_wf h _ _
  case waitc => exact execWaitc_wf h _ _
  case bar => exact execBar_wf h _ _
  case utrap => exact execUtrap_wf h _ _
  case bkpt => exact execBkpt_wf h _ _
  case mark => exact execMark_wf h _ _
  case getsr => exact execGetsr_wf h _ _
  case ld => exact execLd_wf h _ _
  case st => exact execSt_wf h _ _
  case ldl => exact execLdl_wf h _ _
  case stl => exact execStl_wf h _ _
  case ldw => exact execLdw_wf h _ _
  case lda => exact execLda_wf h _ _
  case atom => exact execAtom_wf h _ _
  case red => exact execRed_wf h _ _
  case fence => exact execFence_wf h _ _
  case capld => exact execCapld_wf h _ _
  case capst => exact execCapst_wf h _ _
  case cnarrow => exact execCnarrow_wf h _ _
  case crights => exact execCrights_wf h _ _
  case cinfo => exact execCinfo_wf h _ _
  case feset => exact execFeset_wf h _ _
  case feclr => exact execFeclr_wf h _ _
  case fetest => exact execFetest_wf h _ _
  case binit => exact execBinit_wf h _ _
  case barv => exact execBarv_wf h _ _
  case bexpt => exact execBexpt_wf h _ _
  case bwait => exact execBwait_wf h _ _
  case send => exact execSend_wf h _ _
  case recv => exact execRecv_wf h _ _
  case qpoll => exact execQpoll_wf h _ _
  case cpy => exact execCpy_wf h _ _
  case cpym => exact execCpym_wf h _ _
  case cpyt => exact execCpyt_wf h _ _
  case cpyx => exact execCpyx_wf h _ _
  case radd => exact execRadd_wf h _ _
  case migr => exact execMigr_wf h _ _
  case migrh => exact execMigrh_wf h _ _
  case cutreg => exact execCutreg_wf h _ _
  case cutdrop => exact execCutdrop_wf h _ _
  case swpos => exact execSwpos_wf h _ _
  case cutboost => exact execCutboost_wf h _ _
  case rowop => exact execRowop_wf h _ _
  case rowprog => exact execRowprog_wf h _ _
  case rowstat => exact execRowstat_wf h _ _
  case nopen => exact execNopen_wf h _ _
  case nclose => exact execNclose_wf h _ _
  case nbind => exact execNbind_wf h _ _
  case nbindm => exact execNbindm_wf h _ _
  case ninfo => exact execNinfo_wf h _ _
  case nring => exact execNring_wf h _ _
  case ntag => exact execNtag_wf h _ _
  case mxop => exact execMxop_wf h _ _
  case mxrd => exact execMxrd_wf h _ _
  case mxwr => exact execMxwr_wf h _ _
  case mxclr => exact execMxclr_wf h _ _
  case mxstat => exact execMxstat_wf h _ _
  case gsync => exact execGsync_wf h _ _
  case nfvote => exact execNfvote_wf h _ _
  case lscale => exact execLscale_wf h _ _
  case frcp => exact execFrcp_wf h _ _
  case frsq => exact execFrsq_wf h _ _
  case fsqrt => exact execFsqrt_wf h _ _
  case fex2 => exact execFex2_wf h _ _
  case flg2 => exact execFlg2_wf h _ _
  case fsin => exact execFsin_wf h _ _
  case fcos => exact execFcos_wf h _ _
  case ftanh => exact execFtanh_wf h _ _
  case fcvt => exact execFcvt_wf h _ _
  case fpack => exact execFpack_wf h _ _
  case funpk => exact execFunpk_wf h _ _
  case fclass => exact execFclass_wf h _ _
  case fdiv => exact execFdiv_wf h _ _
  case tagset => exact execTagset_wf h _ _
  case tagget => exact execTagget_wf h _ _
  case sysrd => exact execSysrd_wf h _ _
  case syswr => exact execSyswr_wf h _ _
  case tret => exact execTret_wf h _ _
  case tmask => exact execTmask_wf h _ _
  case fqpop => exact execFqpop_wf h _ _
  case fqres => exact execFqres_wf h _ _
  case tlbinv => exact execTlbinv_wf h _ _
  case objset => exact execObjset_wf h _ _
  case prack => exact execPrack_wf h _ _
  case ctxsv => exact execCtxsv_wf h _ _
  case ctxrs => exact execCtxrs_wf h _ _
  case lsqrst => exact execLsqrst_wf h _ _
  case lsqsave => exact execLsqsave_wf h _ _
  case haltb => exact execHaltb_wf h _ _
  case trial => exact execTrial_wf h _ _
  case batcherFill => exact execBatcherFill_wf h _ _
  case ageStarvationIssue => exact execAgeStarvationIssue_wf h _ _
  case slotRelease => exact execSlotRelease_wf h _ _ _
  case binLaunch => exact execBinLaunch_wf h _ _ _
  case joinComplete => exact execJoinComplete_wf h _ _ _
  case blockRetire => exact execBlockRetire_wf h _
  case gangRetire => exact execGangRetire_wf h _
  case kernelComplete => exact execKernelComplete_wf h _
  case tailLineSnoop => exact execTailLineSnoop_wf h _ _ _
  case launchPacket => exact execLaunchPacket_wf h _ _
  case nopPacket => exact execNopPacket_wf h _ _
  case queueResume => exact execQueueResume_wf h _ _ _
  case ageingStep => exact execAgeingStep_wf h _ _
  case admitBlock => exact execAdmitBlock_wf h _ _
  case admitGang => exact execAdmitGang_wf h _ _
  case monitorQueueTail => exact execMonitorQueueTail_wf h _ _
  case storePerform => exact execStorePerform_wf h _ _
  case loadComplete => exact execLoadComplete_wf h _ _ _
  case ldlLaneComplete => exact execLdlLaneComplete_wf h _ _ _ _
  case atomRmwPerform => exact execAtomRmwPerform_wf h _ _ _ _
  case tableWalkComplete => exact execTableWalkComplete_wf h _
  case faultEntryPost held => exact execFaultEntryPost_wf h held
  case ownerLookup => exact execOwnerLookup_wf h _ _ _
  case flushMarkerGather => exact execFlushMarkerGather_wf h _ _ _
  case ldaTransaction => exact execLdaTransaction_wf h _ _ _ _
  case copyGranuleWrite => exact execCopyGranuleWrite_wf h _ _
  case queueEntryArrival => exact execQueueEntryArrival_wf h _
  case fabCompletion => exact execFabCompletion_wf h _ _ _
  case raddArrival => exact execRaddArrival_wf h _
  case raddGlobalApply => exact execRaddGlobalApply_wf h _ _
  case esendUpdate => exact execEsendUpdate_wf h _
  case voteRoundComplete => exact execVoteRoundComplete_wf h _
  case syncRoundComplete => exact execSyncRoundComplete_wf h _
  case billetArrival => exact execBilletArrival_wf h _ _ _
  case guestWaitTimeout => exact execGuestWaitTimeout_wf h _ _ _
  case billetReturn => exact execBilletReturn_wf h _ _ _
  case arrivalMessage => exact execArrivalMessage_wf h _ _ _
  case releaseMessage => exact execReleaseMessage_wf h _ _ _
  case rowRestore => exact execRowRestore_wf h _ _
  case pullForward => exact execPullForward_wf h _ _ _
  case temperatureChange => exact execTemperatureChange_wf h _ _
  case rowProgramStep => exact execRowProgramStep_wf h _ _
  case sequencerWatchdogReset => exact execSequencerWatchdogReset_wf h _
  case saveModeEnter => exact execSaveModeEnter_wf h _
  case saveModeRestore => exact execSaveModeRestore_wf h _
  case gatherComplete => exact execGatherComplete_wf h _ _
  case passSlot => exact execPassSlot_wf h _
  case passStarvation => exact execPassStarvation_wf h _
  case passEnd => exact execPassEnd_wf h _
  case engineWatchdogReset => exact execEngineWatchdogReset_wf h _
  case powerLimitStep => exact execPowerLimitStep_wf h _
  case powerStateEntry => exact execPowerStateEntry_wf h _
  case powerStateExit => exact execPowerStateExit_wf h _
  case weightRefreshWindow => exact execWeightRefreshWindow_wf h _
  case preq => exact execPreq_wf h _ _
  case handlerBudgetExpiry => exact execHandlerBudgetExpiry_wf h _ _ _
  case tcode1 => exact execTcode1_wf h _ _
  case tlog0 => exact execTlog0_wf h _
  case bfstatAck => exact execBfstatAck_wf h _ _
  case ownapply => exact execOwnapply_wf h _
  case feataccept => exact execFeataccept_wf h _
  case debugStop => exact execDebugStop_wf h _ _
  case debugResume => exact execDebugResume_wf h _ _
  case traceEnable => exact execTraceEnable_wf h _ _
  case recordMode => exact execRecordMode_wf h _ _
  case replayMode => exact execReplayMode_wf h _ _
  case modeOff => exact execModeOff_wf h _ _
  case scratchpadWindow => exact execScratchpadWindow_wf h _ _ _ _
  case unitFence => exact execUnitFence_wf h _
  case deviceReset => exact execDeviceReset_wf h _ _ _
  case hostAccess => exact execHostAccess_wf h _ _ _ _
  case remoteDeviceRequest => exact execRemoteDeviceRequest_wf h _ _ _ _ _ _
  case pathStateChange => exact execPathStateChange_wf h _ _
  case weightStoreWrite => exact execWeightStoreWrite_wf h _ _ _
  case uncorrectableError => exact execUncorrectableError_wf h _

theorem runBytes_wf (k v : Nat) : WfAfter (runBytes k v s) := by
  unfold runBytes
  split
  · exact exec_wf h _
  · exact issue_wf h fun _ _ => h

theorem runSlot_wf (c : Cur) : WfAfter (runSlot c s) := by
  have hc : Memory.wf ({ s with cur := some c } : State).mem := h
  unfold runSlot
  extract_lets t
  split
  · exact hc
  · exact runBytes_wf hc _ _
  · exact issue_wf hc fun _ _ => hc
  · exact parkFetch_wf hc _ _
  · exact awaitFetch_wf hc _
  · exact issue_wf hc fun _ _ => by simp [h]

theorem recheck_wf (core port bid : Nat) : Memory.wf (recheck core port s bid).mem := by
  unfold recheck
  extract_lets fs ks c
  split
  · rename_i t e
    have ht : WfAfter (.next t) := e ▸ runSlot_wf (by simp [h]) c
    exact State.wf_ite ht h
  · exact h

theorem tryBatches_wf (cs : List Cur) : WfAfter (tryBatches s cs) := by
  induction cs generalizing s with
  | nil => exact h
  | cons c cs ih =>
    have hr := runSlot_wf h c
    unfold tryBatches
    split
    · rename_i t e
      have ht : Memory.wf t.mem := by rw [e] at hr; exact hr
      exact WfAfter.ite (ih ht) (by simp [ht])
    · exact hr

theorem runPort_wf (core port : Nat) : WfAfter (runPort core port s) := by
  unfold runPort
  exact WfAfter.ite h (tryBatches_wf (foldl_wf (fun _ _ h => recheck_wf h _ _ _) _ h) _)

theorem runMove_wf (m : Mover) : WfAfter (runMove m s) := by
  have hs : WfAfter (.next s) := h
  unfold runMove
  split
  · exact WfAfter.ite hs (runPort_wf h _ _)
  · exact WfAfter.ite hs (exec_wf h _)

theorem firstMove_wf {ms : List Mover} {r : Result} (e : firstMove s ms = some r) : WfAfter r := by
  induction ms with
  | nil => cases e
  | cons m ms ih =>
    have hm := runMove_wf h m
    unfold firstMove at e
    split at e
    · rename_i t hr
      split at e
      · exact ih e
      · cases e; rw [hr] at hm; exact hm
    · cases e; exact hm

theorem idle_wf : WfAfter (idle s) := by
  unfold idle
  extract_lets a b t
  have ht : Memory.wf t.mem := h
  split
  · rename_i e; exact firstMove_wf ht e
  · exact ht

theorem step_wf : WfAfter (step s) := by
  unfold step
  split
  · rename_i m ms _
    exact runMove_wf (s := { s with agenda := ms, now := s.now + m.dt }) h m.mover
  · exact idle_wf h

end

/-- Settles O58: every move of a step keeps memory in its canonical form (`runMove_wf`), since every instruction does (`exec_wf`). -/
theorem invariantKept : Obligations.InvariantKept := by
  intro s t h e
  have hstep := step_wf h
  rw [e] at hstep
  exact hstep

end Sys2Proof.Machine
end

section
/-!
PROOFS. O60: the bytes of memory, of a capability and of an instruction, least significant first (R4).
-/
namespace Sys2Proof.Machine

/-! ### Bytes of memory -/

theorem pow_256 (i : Nat) : 256 ^ i = 2 ^ (8 * i) := by rw [show 256 = 2 ^ 8 by decide, ← pow_mul]

theorem State.read_byte (s : State) (b : Nat) : s.read b 1 = (memGet s.mem b).toNat := by simp [State.read, readMem]

theorem State.read_write {s : State} (h : s.Inv) (a n v : Nat) : (s.write a n v).read a n = v % 2 ^ (8 * n) := by
  rw [← pow_256]
  exact readMem_writeMem h a v n

/-- Byte `i` from the lowest address holds bits 8i+7 to 8i of what was written (R4). -/
theorem State.read_write_byte {s : State} (h : s.Inv) (a n v i : Nat) (hi : i < n) :
    (s.write a n v).read (a + i) 1 = v / 2 ^ (8 * i) % 2 ^ 8 := by
  rw [State.read_byte, ← pow_256]
  exact (congrArg BitVec.toNat (memGet_writeMem_in h a v n i hi)).trans (BitVec.toNat_ofNat _ _)

/-- A capability is written as the 16 bytes of its word. -/
theorem State.writeCap_read (s : State) (a b n : Nat) (c : CapWord) : (s.writeCap a c).read b n = (s.write a 16 c.toNat).read b n := rfl

theorem State.read_writeCap_byte {s : State} (h : s.Inv) (a i : Nat) (c : CapWord) (hi : i < 16) :
    (s.writeCap a c).read (a + i) 1 = (c.extractLsb' (8 * i) 8).toNat := by
  rw [State.writeCap_read, State.read_write_byte h a 16 _ i hi, BitVec.extractLsb'_toNat, Nat.shiftRight_eq_div_pow]

/-! ### Bytes of an instruction -/

theorem bytesLE_getElem? (n x k : Nat) (hk : k < n) : (bytesLE n x)[k]? = some (BitVec.ofNat 8 (x / 256 ^ k)) := by
  induction n generalizing x k with
  | zero => omega
  | succ n ih =>
    cases k with
    | zero => simp [bytesLE]
    | succ k =>
      rw [bytesLE, List.getElem?_cons_succ, ih (x / 256) k (by omega), Nat.div_div_eq_div_mul, Nat.pow_succ, Nat.mul_comm]

theorem encode_getElem? (i : Instr) (k : Nat) (hk : 8 * k < (encodeBits i).1) (h8 : (encodeBits i).1 % 8 = 0) :
    (encode i)[k]? = some (BitVec.ofNat 8 ((encodeBits i).2 / 2 ^ (8 * k))) := by
  rw [encode, bytesLE_getElem? _ _ _ (by omega), pow_256]

/-- What decoding takes from the bytes is as long as the first of them says (R183). -/
theorem decode_length {x : BitVec 8} {bs after : List (BitVec 8)} {i : Instr} (e : decode (x :: bs) = .ok (i, after)) :
    (x :: bs).length = after.length + lengthOf x / 8 := by
  simp only [decode] at e
  split at e
  · cases e
  · rename_i hlen
    split at e
    · cases e
      rw [List.length_drop]
      omega
    · cases e

/-- The low bits of the first halfword are those of the first byte. -/
theorem lengthOf_halfword (x y : BitVec 8) :
    lengthOf x / 8 = if (x.toNat + 256 * y.toNat) % 2 = 0 then 2 else if (x.toNat + 256 * y.toNat) % 4 = 1 then 4 else 8 := by
  have h2 : (x.toNat + 256 * y.toNat) % 2 = x.toNat % 2 := by omega
  have h4 : (x.toNat + 256 * y.toNat) % 4 = x.toNat % 4 := by omega
  simp only [lengthOf, beq_iff_eq, h2, h4]
  split_ifs <;> rfl

/-- Settles O60: a write, a capability and an instruction are little-endian byte by byte, and the first halfword tells the length. -/
theorem littleEndian : Obligations.LittleEndian :=
  ⟨fun _ a n v h => ⟨State.Inv_write h a n v, State.read_write h a n v, fun i hi => State.read_write_byte h a n v i hi,
      fun b hb => State.read_write_out h a v n b 1 (by omega)⟩,
    fun _ a i c h hi => State.read_writeCap_byte h a i c hi,
    fun x y _ _ _ e => (decode_length e).trans (congrArg _ (lengthOf_halfword x y)),
    encode_getElem?⟩

end Sys2Proof.Machine
end
section
/-!
LAWS. Records and values by their numbers: what a look-up finds after a write (engines, partitions, blocks, system registers), and the head
of a list sorted by a number.
-/
namespace Sys2Proof.Machine

/-! ### Records -/

/-- The record that `upsert` changes is the one that `findD` finds, where the change keeps what it is found by. -/
theorem findD_upsert {α : Type} {p : α → Bool} {d : α} {g : α → α} (hd : p d = true) (hg : ∀ x, p x = true → p (g x) = true) (l : List α) :
    findD p d (upsert p d g l) = g (findD p d l) := by
  have hmap : (l.map fun x => if p x then g x else x).find? p = (l.find? p).map g := by
    induction l with
    | nil => rfl
    | cons x xs ih => cases hx : p x <;> simp [hx, hg, ih]
  by_cases h : l.any p = true
  · obtain ⟨x, hx⟩ := Option.isSome_iff_exists.mp (List.find?_isSome.mpr (List.any_eq_true.mp h))
    simp [findD, upsert, h, hmap, hx]
  · have hn : l.find? p = none := by simpa using h
    simp [findD, upsert, h, hn, hg d hd]

theorem findD_of_key {α : Type} {p : α → Bool} {d : α} (hd : p d = true) (l : List α) : p (findD p d l) = true := by
  unfold findD
  split
  · exact List.find?_some ‹_›
  · exact hd

theorem engineOf_setEngine (s : State) (c : Nat) {g : Engine → Engine} (hg : ∀ x, (g x).cluster = x.cluster) :
    engineOf (setEngine s c g) c = g (engineOf s c) :=
  findD_upsert (by simp [Engine.empty]) (by simp [hg]) _

theorem engineOf_cluster (s : State) (c : Nat) : (engineOf s c).cluster = c :=
  eq_of_beq (findD_of_key (p := fun e : Engine => e.cluster == c) (by simp [Engine.empty]) s.engines)

theorem engineOf_congr {s t : State} (h : t.engines = s.engines) (c : Nat) : engineOf t c = engineOf s c := by
  simp only [engineOf, h]

theorem partnOf_setPartn (s : State) (p : Nat) {g : Partn → Partn} (hg : ∀ x, (g x).part = x.part) :
    partnOf (setPartn s p g) p = g (partnOf s p) :=
  findD_upsert (by simp [Partn.empty]) (by simp [hg]) _

theorem partnOf_congr {s t : State} (h : t.partns = s.partns) (p : Nat) : partnOf t p = partnOf s p := by
  simp only [partnOf, h]

theorem block?_congr {s t : State} (h : t.blocks = s.blocks) (id : Nat) : block? t id = block? s id := by
  simp only [block?, h]

theorem block?_id {s : State} {id : Nat} {b : Block} (h : block? s id = some b) : b.id = id := by
  simpa using List.find?_some h

theorem block?_setBlock {s : State} {id : Nat} {b : Block} {g : Block → Block} (hg : ∀ x, (g x).id = x.id) (h : block? s id = some b) :
    block? (setBlock s id g) id = some (g b) := by
  have hid := block?_id h
  have hp : (fun x : Block => (if x.id == id then g x else x).id == id) = fun x => x.id == id := by
    funext x
    split <;> simp [hg]
  simp only [block?, setBlock, List.find?_map, Function.comp_def, hp]
  simp only [block?] at h
  simp [h, hid]

/-! ### Values -/

theorem mapGet_cons (p : Nat × Nat) (l : List (Nat × Nat)) (k d : Nat) : mapGet (p :: l) k d = if p.1 = k then p.2 else mapGet l k d := by
  by_cases h : p.1 = k <;> simp [mapGet, h]

theorem mapGet_mapPut (k v : Nat) (l : List (Nat × Nat)) (n d : Nat) : mapGet (mapPut k v l) n d = if k = n then v else mapGet l n d := by
  induction l with
  | nil => rw [mapPut, mapGet_cons]
  | cons p ps ih =>
    simp only [mapPut]
    split
    · rw [mapGet_cons]
    · split
      next h => rw [mapGet_cons, mapGet_cons, ← eq_of_beq h]; split <;> simp_all
      next h =>
        have hk : ¬k = p.1 := by simpa using h
        rw [mapGet_cons, mapGet_cons, ih]
        split <;> simp_all

theorem mapGet_mapDel (k : Nat) (l : List (Nat × Nat)) (n d : Nat) : mapGet (mapDel k l) n d = if k = n then d else mapGet l n d := by
  induction l with
  | nil => simp [mapDel, mapGet]
  | cons p ps ih =>
    by_cases h : p.1 = k
    · rw [show mapDel k (p :: ps) = mapDel k ps by simp [mapDel, h], ih, mapGet_cons, h]
      split <;> simp_all
    · rw [show mapDel k (p :: ps) = p :: mapDel k ps by simp [mapDel, h], mapGet_cons, mapGet_cons, ih]
      by_cases hk : k = n
      · simp [hk, hk ▸ h]
      · simp [hk]

/-- A map made of a function on the numbers below a bound. -/
theorem mapGet_table {n k : Nat} (hk : k < n) (f : Nat → Nat) (d : Nat) : mapGet ((List.range n).map fun i => (i, f i)) k d = f k := by
  have hfind : (List.range n).find? (fun i => i == k) = some k := by
    rw [List.find?_range_eq_some]
    exact ⟨by simp, by simpa using hk, by simp; omega⟩
  simp [mapGet, List.find?_map, hfind]

theorem sysGet_congr {s t : State} (h : t.sys = s.sys) (p n : Nat) : sysGet t p n = sysGet s p n := by simp only [sysGet, h]

/-- A register is held by its number and its partition's. -/
theorem sysGet_sysPut (s : State) (p n v q m : Nat) :
    sysGet (sysPut s p n v) q m = if n * 16 + p = m * 16 + q then (if v = sysReset n then sysReset m else v) else sysGet s q m := by
  simp only [sysGet, sysPut, beq_iff_eq]
  split
  · rw [mapGet_mapDel]
  · rw [mapGet_mapPut]

theorem sysGet_sysPut_same (s : State) (p n v : Nat) : sysGet (sysPut s p n v) p n = v := by
  rw [sysGet_sysPut, if_pos rfl]
  split <;> simp_all

/-- Writing a register leaves every other one of the partition as it is. -/
theorem sysGet_sysPut_ne (s : State) (p v : Nat) {n m : Nat} (h : n ≠ m) : sysGet (sysPut s p n v) p m = sysGet s p m := by
  rw [sysGet_sysPut, if_neg (by omega)]

/-! ### Sorting -/

theorem head?_insBy {α : Type} (w : α → Nat) (x : α) (l : List α) :
    (insBy w x l).head? = some (match l.head? with | some y => if w x ≤ w y then x else y | none => x) := by
  cases l with
  | nil => rfl
  | cons y ys => simp only [insBy, List.head?_cons]; split <;> rfl

/-- The first of a sorted list has the least number. -/
theorem head?_sortBy_least {α : Type} (w : α → Nat) {l : List α} (h : l ≠ []) :
    ∃ x ∈ l, (sortBy w l).head? = some x ∧ ∀ y ∈ l, w x ≤ w y := by
  induction l with
  | nil => exact absurd rfl h
  | cons a as ih =>
    have hstep : (sortBy w (a :: as)).head? = _ := head?_insBy w a (sortBy w as)
    cases as with
    | nil => exact ⟨a, by simp, hstep, by simp⟩
    | cons b bs =>
      obtain ⟨x, hx, hhead, hmin⟩ := ih (by simp)
      rw [hhead] at hstep
      by_cases hax : w a ≤ w x
      · refine ⟨a, by simp, by simpa [hax] using hstep, fun y hy => ?_⟩
        obtain rfl | hy := List.mem_cons.mp hy
        · exact le_refl _
        · exact hax.trans (hmin y hy)
      · refine ⟨x, by simp [hx], by simpa [hax] using hstep, fun y hy => ?_⟩
        obtain rfl | hy := List.mem_cons.mp hy
        · omega
        · exact hmin y hy

/-- An element whose number is below that of every other one is first. -/
theorem head?_sortBy {α : Type} {w : α → Nat} {l : List α} {e : α} (he : e ∈ l) (hmin : ∀ x ∈ l, x ≠ e → w e < w x) :
    (sortBy w l).head? = some e := by
  obtain ⟨x, hx, hhead, hle⟩ := head?_sortBy_least w (List.ne_nil_of_mem he)
  by_cases hxe : x = e
  · rw [hhead, hxe]
  · exact absurd (hmin x hx hxe) (not_lt.mpr (hle e he))

end Sys2Proof.Machine
end
section
/-!
LAWS. What leaves the engines alone: an operation of the state that is no engine's own gives a state with the same `engines`. Each lemma is a
`simp` rule, in the order of the definitions they speak of, up to the delivery of traps and the transactions of a barrier object.
-/
namespace Sys2Proof.Machine

/-- A field, or whatever else is read off a state, that no update in turn changes. -/
theorem foldl_keeps {α β : Type} {r : State → β} {g : State → α → State} (hg : ∀ s x, r (g s x) = r s) (l : List α) (s : State) :
    r (l.foldl g s) = r s := by
  induction l generalizing s with
  | nil => rfl
  | cons x xs ih => rw [List.foldl_cons, ih, hg]

@[simp] theorem engines_ite (c : Prop) [Decidable c] (s t : State) : (if c then s else t).engines = if c then s.engines else t.engines :=
  apply_ite State.engines c s t

@[simp] theorem foldl_engines {α : Type} {g : State → α → State} (hg : ∀ s x, (g s x).engines = s.engines) (l : List α) (s : State) :
    (l.foldl g s).engines = s.engines :=
  foldl_keeps hg l s

/-! ### Traps, rows, releases -/

@[simp] theorem pushAll_engines (s : State) (lanes : List Fibre) : (pushAll s lanes).engines = s.engines := by simp [pushAll]

@[simp] theorem takeTrap_engines (s : State) (p : Nat) (ks : List FKey) (code : Nat) (info : BitVec 64) (detail : Nat) (cmp : Bool) :
    (takeTrap s p ks code info detail cmp).engines = s.engines := by
  simp only [takeTrap]
  split <;> simp

@[simp] theorem noteIdle_engines (s : State) (cluster : Nat) : (noteIdle s cluster).engines = s.engines := by simp [noteIdle]

@[simp] theorem noteWake_engines (s : State) (u : Nat) : (noteWake s u).engines = s.engines := by simp [noteWake]

@[simp] theorem noteWait_engines (s : State) (a : Nat) : (noteWait s a).engines = s.engines := by
  unfold noteWait
  split
  · rfl
  · dsimp only
    split <;> simp

@[simp] theorem touch_engines (s : State) (a : Nat) : (touch s a).engines = s.engines := by
  unfold touch
  split <;> rfl

@[simp] theorem forget_engines (s : State) (gone : Waiter → Bool) : (forget s gone).engines = s.engines := rfl

@[simp] theorem sendMarkers_engines (s : State) (core port scope : Nat) : (sendMarkers s core port scope).1.engines = s.engines := by
  simp [sendMarkers]

@[simp] theorem clearMask_engines (s : State) (core port scope : Nat) : (clearMask s core port scope).engines = s.engines := by
  simp [clearMask]

@[simp] theorem released_engines (s : State) (ls : List Fibre) (scope : Nat) : (released s ls scope).1.engines = s.engines := by
  unfold released
  split
  · rfl
  · dsimp only
    split_ifs <;> simp

/-! ### Host messages and fenced units -/

@[simp] theorem putHm_engines (s : State) (i code part unit detail : Nat) : (putHm s i code part unit detail).engines = s.engines := by
  simp [putHm]

@[simp] theorem setHmOvf_engines (s : State) : (setHmOvf s).engines = s.engines := by simp [setHmOvf]

@[simp] theorem postHost_engines (s : State) (code part unit detail : Nat) : (postHost s code part unit detail).engines = s.engines := by
  simp [postHost]

@[simp] theorem haltQueue_engines (s : State) (part q : Nat) (index : BitVec 32) (err : Nat) :
    (haltQueue s part q index err).engines = s.engines := by
  simp [haltQueue]

@[simp] theorem haltFenced_engines (s : State) (part : Nat) : (haltFenced s part).engines = s.engines := by
  refine foldl_engines (fun t q => ?_) _ _
  split <;> simp

@[simp] theorem fenceUnit_engines (s : State) (u : Nat) : (fenceUnit s u).engines = s.engines := by simp [fenceUnit]

@[simp] theorem fenceDue_engines (s : State) : (fenceDue s).engines = s.engines := by simp [fenceDue]

@[simp] theorem guestLeft_engines (s : State) (core : Nat) : (guestLeft s core).engines = s.engines := by simp [guestLeft]

/-! ### Traps that are delivered, barrier objects, tiles -/

@[simp] theorem fireTraps_engines (s : State) (l : List Fibre) : (fireTraps s l).engines = s.engines := by
  induction l generalizing s with
  | nil => rfl
  | cons x xs ih =>
    simp only [fireTraps]
    split
    · exact ih s
    · split
      · split
        · rw [ih]
          cases Option.filter _ _ <;> simp
        · split
          · simp [ih]
          · simp only [ih]
            rw [foldl_engines (by simp)]
            cases vectorCell _ _ _ _ <;> simp
      · exact ih s

@[simp] theorem deliver_engines (s : State) : (deliver s).engines = s.engines := fireTraps_engines _ _

@[simp] theorem putBarObj_engines (s : State) (g : Nat) (o : BarObj) : (putBarObj s g o).engines = s.engines := by simp [putBarObj]

@[simp] theorem countHeld_engines (s : State) (g : Nat) (f : Fibre) : (countHeld s g f).engines = s.engines := by simp [countHeld]

@[simp] theorem phaseCheck_engines (fuel : Nat) (s : State) (g : Nat) : (phaseCheck fuel s g).engines = s.engines := by
  induction fuel generalizing s with
  | zero => rfl
  | succ fuel ih =>
    simp only [phaseCheck]
    split
    · rfl
    · split
      · split
        · rfl
        · simp [ih]
      · split
        · rfl
        · simp [ih]

@[simp] theorem pendingDown_engines (s : State) (g : Nat) : (pendingDown s g).engines = s.engines := by simp [pendingDown]

@[simp] theorem setTile_engines (s : State) (n : Nat) (g : Tile → Tile) : (setTile s n g).engines = s.engines := rfl

end Sys2Proof.Machine
end
section
/-!
PROOFS. O45: the events of a matrix engine (R135, R138, R143 to R146, R297, R298, R305, R376, R379) and of a streamer (R259 to R261).
-/
namespace Sys2Proof.Machine

/-! ### The engine's reset: what is left of its entries -/

theorem endMx_entries (s : State) (b : Block) (e : MxEntry) (err : Bool) :
    (engineOf (endMx s b e err) b.cluster).entries = (engineOf s b.cluster).entries.filter fun y => y.idx != e.idx := by
  have h : (endMx s b e err).engines = (setEngine s b.cluster fun x =>
      { x with entries := x.entries.filter (fun y => y.idx != e.idx), starving := if x.starving == some e.idx then none else x.starving }).engines := by
    simp [endMx]
  rw [engineOf_congr h, engineOf_setEngine _ _ (by intro; rfl)]

theorem foldl_endMx_entries (b : Block) (err : Bool) (es : List MxEntry) (s : State) :
    (engineOf (es.foldl (fun s e => endMx s b e err) s) b.cluster).entries
      = (engineOf s b.cluster).entries.filter fun y => es.all fun e => y.idx != e.idx := by
  induction es generalizing s with
  | nil => simp
  | cons e es ih => simp [ih, endMx_entries, List.filter_filter, Bool.and_comm]

/-- An affected block loses its entries; none comes to its engine (R305). -/
theorem loseEngine_entries {s : State} {b : Block} {x : MxEntry} (hx : x ∈ (engineOf (loseEngine s b) b.cluster).entries) :
    x ∈ (engineOf s b.cluster).entries ∧ x.blk ≠ b.id := by
  have h : (loseEngine s b).engines = (((engineOf s b.cluster).entries.filter fun e => e.blk == b.id).foldl (fun s e => endMx s b e true)
      ((List.range b.tileN).foldl (fun s m => setTile s (tileNo b m) fun t => { t with tag := tInvalid }) s)).engines :=
    deliver_engines _
  rw [engineOf_congr h, foldl_endMx_entries, engineOf_congr (foldl_engines (by simp) _ _), List.mem_filter, List.all_eq_true] at hx
  obtain ⟨hold, hidx⟩ := hx
  refine ⟨hold, fun hblk => ?_⟩
  simpa using hidx x (List.mem_filter.mpr ⟨hold, by simpa using hblk⟩)

theorem foldl_loseEngine_entries {k : Nat} {x : MxEntry} {bs : List Block} (hk : ∀ b ∈ bs, b.cluster = k) {s : State}
    (hx : x ∈ (engineOf (bs.foldl loseEngine s) k).entries) : x ∈ (engineOf s k).entries ∧ ∀ b ∈ bs, x.blk ≠ b.id := by
  induction bs generalizing s with
  | nil => exact ⟨hx, by simp⟩
  | cons b bs ih =>
    obtain ⟨hb, hbs⟩ := List.forall_mem_cons.mp hk
    obtain ⟨hx, hrest⟩ := ih hbs hx
    rw [← hb] at hx ⊢
    obtain ⟨hold, hne⟩ := loseEngine_entries hx
    exact ⟨hold, List.forall_mem_cons.mpr ⟨hne, hrest⟩⟩

/-- After the reset no block of the cluster has an entry: a block without one was not affected (R305). -/
theorem reset_entries {s : State} {k : Nat} {x : MxEntry} {y : Block} (hy : y ∈ s.blocks) (hk : y.cluster = k)
    (hx : x ∈ (engineOf ((s.blocks.filter (affected (engineOf s k))).foldl loseEngine s) k).entries) : x.blk ≠ y.id := by
  have hcl : ∀ b ∈ s.blocks.filter (affected (engineOf s k)), b.cluster = k := by
    intro b hb
    have := (List.mem_filter.mp hb).2
    simp only [affected, engineOf_cluster, Bool.and_eq_true, beq_iff_eq] at this
    exact this.1
  obtain ⟨hold, hne⟩ := foldl_loseEngine_entries hcl hx
  intro hblk
  refine hne y (List.mem_filter.mpr ⟨hy, ?_⟩) hblk
  simp only [affected, engineOf_cluster, hk, beq_self_eq_true, Bool.true_and, Bool.or_eq_true, List.any_eq_true, beq_iff_eq]
  exact Or.inr ⟨x, hold, hblk⟩

/-! ### The engine's events -/

theorem foldl_eq_self {α β : Type} {g : β → α → β} {l : List α} {s : β} (h : ∀ x ∈ l, g s x = s) : l.foldl g s = s := by
  induction l with
  | nil => rfl
  | cons x xs ih => rw [List.foldl_cons, h x (by simp), ih fun y hy => h y (by simp [hy])]

/-- R305, R376: `wd` cycles without the end of a pass, while an entry is active. -/
theorem engineWatchdogReset_ends {s : State} {k wd : Nat} {e : MxEntry} (hwd : sysGet s monPart 0x4005 / 2 ^ 32 * Config.cycles1us = wd)
    (hpos : wd ≠ 0) (he : e ∈ (engineOf s k).entries) (hact : e.active = true) (hdue : max (engineOf s k).lastEnd e.activeAt + wd ≤ s.now) :
    ∃ t, execEngineWatchdogReset k s = .next t ∧ (engineOf t k).credit = 0 ∧ (engineOf t k).starving = none
      ∧ ∀ y ∈ s.blocks, y.cluster = k → ∀ x ∈ (engineOf t k).entries, x.blk ≠ y.id := by
  have hstuck : ((engineOf s k).entries.any fun e => e.active && decide (max (engineOf s k).lastEnd e.activeAt + wd ≤ s.now)) = true :=
    List.any_eq_true.mpr ⟨e, he, by simp [hact, hdue]⟩
  have hgo : ¬(wd == 0 || !(engineOf s k).entries.any fun e => e.active && decide (max (engineOf s k).lastEnd e.activeAt + wd ≤ s.now)) = true := by
    simp [hstuck, hpos]
  simp only [execEngineWatchdogReset, hwd, if_neg hgo]
  refine ⟨_, rfl, ?_⟩
  simp only [engineOf_congr (postHost_engines _ _ _ _ _)]
  rw [engineOf_setEngine _ _ (by intro; rfl)]
  exact ⟨rfl, rfl, fun y hy hk x hx => reset_entries hy hk hx⟩

theorem passStarvation_next {s : State} {k : Nat} {e : MxEntry} {b : Block} (hb : block? s e.blk = some b) (hfr : b.frozen = false)
    (hnone : (engineOf s k).starving = none) (he : e ∈ (engineOf s k).entries) (hact : e.active = true) (hgr : e.granted = false)
    (hlong : e.lastGrant + 16384 ≤ s.now)
    (hfirst : ∀ x ∈ (engineOf s k).entries, x.active = true → x.granted = false → x ≠ e → e.lastGrant < x.lastGrant) :
    execPassStarvation k s = .next (setEngine s k fun g => { g with starving := some e.idx }) := by
  have hhead := head?_sortBy (w := fun e : MxEntry => e.lastGrant) (e := e) (l := (engineOf s k).entries.filter fun e =>
      e.active && !e.granted && !(block? s e.blk).any Block.frozen && decide (e.lastGrant + 16384 ≤ s.now))
    (by simp [he, hact, hgr, hb, hfr, hlong]) (by
      intro x hx hne
      simp only [List.mem_filter, Bool.and_eq_true, Bool.not_eq_true'] at hx
      obtain ⟨hx, ⟨⟨hxa, hxg⟩, -⟩, -⟩ := hx
      exact hfirst x hx hxa hxg hne)
  obtain ⟨rest, hsort⟩ := List.head?_eq_some_iff.mp hhead
  simp only [execPassStarvation, hnone, Option.isSome_none, Bool.false_eq_true, if_false]
  rw [hsort]

/-! #### The next pass slot -/

/-- The entries that the next slot may go to. -/
def passCands (s : State) (g : Engine) : List MxEntry :=
  g.entries.filter fun e => (block? s e.blk).any fun b => !b.frozen && passReady s b e

theorem mem_passCands {s : State} {g : Engine} {e : MxEntry} {b : Block} (he : e ∈ g.entries) (hb : block? s e.blk = some b)
    (hfr : b.frozen = false) (hr : passReady s b e = true) : e ∈ passCands s g :=
  List.mem_filter.mpr ⟨he, by simp [hb, hfr, hr]⟩

theorem active_of_mem_passCands {s : State} {g : Engine} {x : MxEntry} (hx : x ∈ passCands s g) : x ∈ g.entries ∧ x.active = true := by
  obtain ⟨hx, hb⟩ := List.mem_filter.mp hx
  cases hy : block? s x.blk with
  | none => simp [hy] at hb
  | some y =>
    simp only [hy, Option.any_some, passReady, Bool.and_eq_true] at hb
    exact ⟨hx, hb.2.1.1.1⟩

/-- A starved entry goes before all others, the one that has waited longest first (R135). -/
theorem passCands_first_starved {s : State} {g : Engine} {e : MxEntry} (he : e ∈ passCands s g) (hst : starvedAt s.now g e = true)
    (hmin : ∀ x ∈ g.entries, x.active = true → x ≠ e → starvedAt s.now g x = true → e.lastGrant < x.lastGrant) :
    (sortBy (fun e : MxEntry => e.lastGrant) ((passCands s g).filter (starvedAt s.now g)) ++ sortBy mxRank (passCands s g)).head? = some e := by
  rw [List.head?_append, head?_sortBy (List.mem_filter.mpr ⟨he, hst⟩)]
  · rfl
  · intro x hx hne
    obtain ⟨hx, hxs⟩ := List.mem_filter.mp hx
    obtain ⟨hx, hxa⟩ := active_of_mem_passCands hx
    exact hmin x hx hxa hne hxs

/-- Where none is starved the order is that of service (R135). -/
theorem passCands_first_rank {s : State} {g : Engine} {e : MxEntry} (he : e ∈ passCands s g)
    (hno : ∀ x ∈ g.entries, starvedAt s.now g x = false) (hmin : ∀ x ∈ g.entries, x.active = true → x ≠ e → mxRank e < mxRank x) :
    (sortBy (fun e : MxEntry => e.lastGrant) ((passCands s g).filter (starvedAt s.now g)) ++ sortBy mxRank (passCands s g)).head? = some e := by
  have hnil : (passCands s g).filter (starvedAt s.now g) = [] := by
    rw [List.filter_eq_nil_iff]
    intro x hx
    simp [hno x (active_of_mem_passCands hx).1]
  rw [hnil]
  refine head?_sortBy he fun x hx hne => ?_
  obtain ⟨hx, hxa⟩ := active_of_mem_passCands hx
  exact hmin x hx hxa hne

/-- A slot that finds no granted pass and every waiting page in place goes to the first candidate, by the credit (R14, R379). -/
theorem passSlot_next {s : State} {k : Nat} {e : MxEntry} {b : Block} (hb : block? s e.blk = some b)
    (hidle : ∀ x ∈ (engineOf s k).entries, x.granted = false) (hat : (engineOf s k).slotAt ≤ s.now)
    (hpages : ∀ x ∈ (engineOf s k).entries, x.active = true → x.waits = [] → ∀ y, block? s x.blk = some y → y.frozen = false →
      passReady s y x = true)
    (hfirst : (sortBy (fun e : MxEntry => e.lastGrant) ((passCands s (engineOf s k)).filter (starvedAt s.now (engineOf s k)))
      ++ sortBy mxRank (passCands s (engineOf s k))).head? = some e) :
    execPassSlot k s =
      let credit := (engineOf s k).credit + 8 - effStep s (engineOf s k) b.kernel b.part
      if 8 ≤ credit then .next (setMx (setEngine s k fun g =>
          { g with credit := credit - 8, starving := none
                   firstPass := if g.firstPass.any (fun x => x.1 == b.kernel) then g.firstPass else mapPut b.kernel s.now g.firstPass })
          k e.idx fun e => { e with granted := true, lastGrant := s.now })
      else .next (setEngine s k fun g => { g with credit := credit, slotAt := s.now + passClocks e.blkBits e }) := by
  have hgo : ¬((engineOf s k).entries.any (·.granted) || decide (s.now < (engineOf s k).slotAt)) = true := by
    simp only [Bool.or_eq_true, List.any_eq_true, decide_eq_true_eq, not_or, not_exists, not_and, not_lt]
    exact ⟨fun x hx => by simp [hidle x hx], hat⟩
  simp only [passCands] at hfirst
  simp only [execPassSlot, if_neg hgo]
  rw [foldl_eq_self (s := s)]
  · simp only [hfirst, hb]
    rfl
  · intro x hx
    simp only [List.mem_filter, Bool.and_eq_true, List.isEmpty_iff] at hx
    obtain ⟨hx, ⟨hxa, hxw⟩, hxf⟩ := hx
    cases hy : block? s x.blk with
    | none => rfl
    | some y => simp [hpages x hx hxa hxw y hy (by simpa [hy] using hxf)]

/-! #### Index vectors and active entries -/

/-- The block's oldest entry that waits for the operand port takes its index vector (R297). -/
theorem gatherComplete_takePort {s : State} {k : Nat} {e : MxEntry} {b : Block}
    (he : (engineOf s k).entries.find? (fun x => x.idx == e.idx) = some e) (hb : block? s e.blk = some b) (hfr : b.frozen = false)
    (hact : e.active = false) (hport : e.needPort = true)
    (hold : ∀ x ∈ (engineOf s k).entries, x.blk = e.blk → x.needPort = true → e.opId ≤ x.opId) (hwords : 32 ≤ (b.opPort.map List.length).sum) :
    execGatherComplete k e.idx s = .next (takePort s b e) := by
  have hgo : ((engineOf s k).entries.any (fun x => x.blk == e.blk && x.needPort && decide (x.opId < e.opId))
      || decide ((b.opPort.map List.length).sum < 32)) = false := by
    simp only [Bool.or_eq_false_iff, List.any_eq_false, Bool.and_eq_true, beq_iff_eq, decide_eq_true_eq, decide_eq_false_iff_not, not_and, not_lt]
    exact ⟨fun x hx h => hold x hx h.1 h.2, hwords⟩
  simp only [execGatherComplete, he, hb, hact, hfr, hport, hgo, Bool.or_self, Bool.false_eq_true, if_true, if_false]

/-- An entry that can become active but for the engine's room (R135, R138). -/
def MxEntry.couldActivate (s : State) (g : Engine) (x : MxEntry) : Prop :=
  x.active = false ∧ x.needPort = false ∧ mxBlocked g.entries x = false ∧ mxReady s x = true
    ∧ ∀ y, block? s x.blk = some y → y.frozen = false

theorem MxEntry.couldActivate_iff (s : State) (g : Engine) (x : MxEntry) :
    ((!x.active && !x.needPort && !mxBlocked g.entries x && !(block? s x.blk).any Block.frozen) && mxReady s x) = true ↔ x.couldActivate s g := by
  simp only [couldActivate, Bool.and_eq_true, Bool.not_eq_true', and_assoc]
  cases block? s x.blk <;> simp [and_comm]

/-- The first of the entries that can becomes active, where its operands are in place and undamaged (R135, R138, R298). -/
theorem gatherComplete_activate {s : State} {k : Nat} {e : MxEntry} {b : Block} {keep : List Bool}
    (he : (engineOf s k).entries.find? (fun x => x.idx == e.idx) = some e) (hb : block? s e.blk = some b)
    (hready : e.couldActivate s (engineOf s k)) (hroom : ((engineOf s k).entries.filter (·.active)).length < 2)
    (hfirst : ∀ x ∈ (engineOf s k).entries, x.couldActivate s (engineOf s k) → mxRank e ≤ mxRank x)
    (hrows : ∀ i ∈ e.index, rowEnd e.blkBits i ≤ b.spadSize) (hue : gatherUe s b e.blkBits e = false) (hkeep : keepMask s b e.blkBits = some keep) :
    execGatherComplete k e.idx s = .next (setMx s k e.idx fun x =>
      { x with active := true, activeAt := s.now, lastGrant := s.now, shadow := gatherA s b e.blkBits x, keep := keep
               acc := (tileOf s (tileNo b (mxCt e.blkBits))).els }) := by
  have hnext : (!(!e.active && !e.needPort && !mxBlocked (engineOf s k).entries e && !(block? s e.blk).any Block.frozen) || !mxReady s e
      || decide (2 ≤ ((engineOf s k).entries.filter (·.active)).length)
      || (engineOf s k).entries.any fun x => (!x.active && !x.needPort && !mxBlocked (engineOf s k).entries x
        && !(block? s x.blk).any Block.frozen) && mxReady s x && decide (mxRank x < mxRank e)) = false := by
    have hself := (MxEntry.couldActivate_iff s (engineOf s k) e).mpr hready
    rw [← Bool.not_and, hself]
    simp only [Bool.not_true, Bool.false_or, Bool.or_eq_false_iff, decide_eq_false_iff_not, not_le, List.any_eq_false, not_and,
      Bool.and_eq_true _ (decide _), MxEntry.couldActivate_iff, decide_eq_true_eq, not_lt]
    exact ⟨hroom, hfirst⟩
  have hgood : (e.index.any (fun x => decide (b.spadSize < rowEnd e.blkBits x)) || gatherUe s b e.blkBits e) = false := by
    simp only [hue, Bool.or_false, List.any_eq_false, decide_eq_true_eq, not_lt]
    exact hrows
  obtain ⟨hact, hport, -, -, hfr⟩ := hready
  have hgo : (e.active || b.frozen) = false := by simp [hact, hfr b hb]
  simp only [hb, hport] at hnext
  simp only [execGatherComplete, he, hb, hgo, hport, hnext, hgood, hkeep, Bool.false_eq_true, if_false]

/-! #### The end of a pass -/

theorem passes_eq (n budget : Nat) : passes n budget = decide (budget < n ∧ budget ≠ 2 ^ 16 - 1) := by
  rw [Bool.eq_iff_iff]
  simp [passes, and_comm]

/-- A granted pass whose clocks have gone by ends (R13, R143 to R146, R298). -/
theorem passEnd_judges {s : State} {k : Nat} {e : MxEntry} {b : Block} (hb : block? s e.blk = some b)
    (he : (engineOf s k).entries.find? (·.granted) = some e) (hdue : e.lastGrant + passClocks e.blkBits e ≤ s.now)
    (hrows : ∀ a ∈ wideRows b e.blkBits e, rowWaits s a = false) :
    let t := (wideRows b e.blkBits e).foldl touch (setEngine s k fun g =>
      { g with lastEnd := s.now, slotAt := s.now, lastPass := mapPut b.kernel s.now g.lastPass })
    execPassEnd k s = .next (if passUe t b e.blkBits e then endMx t b e true else judgePass t b (doPass t b e.blkBits e)) := by
  have hheld : (wideRows b e.blkBits e).any (rowWaits s) = false := by simpa using hrows
  simp only [execPassEnd, he, hb, if_neg (not_lt.mpr hdue), hheld, Bool.false_eq_true, if_false]
  exact (apply_ite Host.Outcome.next _ _ _).symm

/-! ### The streamer -/

theorem mem_of_mem_setIns {x a : Nat} {l : List Nat} (h : x ∈ setIns a l) : x = a ∨ x ∈ l := by
  induction l with
  | nil => simpa [setIns] using h
  | cons y ys ih =>
    simp only [setIns] at h
    split_ifs at h
    · simpa using h
    · exact Or.inr h
    · obtain rfl | h := List.mem_cons.mp h
      · simp
      · exact (ih h).imp_right (List.mem_cons_of_mem _)

theorem mem_of_mem_distinct {x : Nat} {l : List Nat} (h : x ∈ distinct l) : x ∈ l := by
  induction l with
  | nil => simp [distinct] at h
  | cons y ys ih =>
    obtain rfl | h := mem_of_mem_setIns h
    · simp
    · exact List.mem_cons_of_mem _ (ih h)


theorem Tr.found_of_place {x : Tr} (h : ∃ a, x = .place a) : (x == .miss) = false ∧ (x == .ended) = false := by
  obtain ⟨a, rfl⟩ := h
  exact ⟨rfl, rfl⟩

/-- Object offset, or local offset, of the source's first byte. -/
def copySbase (c : Copy) : Nat := (sideOff (cySsp c.bits) c.scap (cySrc c.bits)).toNat

/-- Offsets of the bytes that a command's next granule comes from (R264). -/
def copyOffs (c : Copy) : List Nat :=
  distinct (((granBits c.kind c.bits c.index).flatMap fun l => l.flatMap id).map fun x => copySbase c + x.1)

/-- The place that the port gives for an offset. -/
def copyPlace (s : State) (b : Block) (c : Copy) (x : Nat) (cap : CapWord) : Nat :=
  match copyTr s b c cap x with | .place a => a | _ => 0

/-- Cell of a byte of the source, from its first. -/
def copyCell (s : State) (b : Block) (c : Copy) (o : Nat) : Nat :=
  if cySsp c.bits then spadCell b (cySrc c.bits + o) else copyPlace s b c (copySbase c + o) c.scap

/-- Cells that the next granule is read from, and those that it is written at (R259, R263). -/
def copySrcs (s : State) (b : Block) (c : Copy) : List Nat := (copyOffs c).map fun o => copyCell s b c (o - copySbase c)
def copyDsts (s : State) (b : Block) (c : Copy) : List Nat :=
  if cyDsp c.bits then dstCells s b c c.index else [copyPlace s b c (copyDoff c) c.dcap]

/-- The state in which a granule is written: its rows reached, free values taken where the source is ambiguous (R377, log 13). -/
def copyReached (s : State) (b : Block) (c : Copy) : State :=
  let u := (copySrcs s b c ++ copyDsts s b c).foldl touch s
  if (granBits c.kind c.bits c.index).any (fun l => (oneSource l).isNone) then { u with freeCtr := u.freeCtr + 16 } else u

/-- The 16 bytes of the next granule as a number. -/
def copyValue (s : State) (b : Block) (c : Copy) : Nat :=
  (((granBits c.kind c.bits c.index).zipIdx).map fun y =>
    copyByte ((copySrcs s b c ++ copyDsts s b c).foldl touch s) (copyCell s b c) y.2 y.1 * 256 ^ y.2).sum

/-- A granule that nothing holds back is written at every cell that receives it (R259). -/
theorem copyGranuleWrite_puts {s : State} {k op : Nat} {c : Copy} {b : Block}
    (hc : s.copies.find? (fun x => x.cluster == k && x.id == op) = some c) (hb : block? s c.blk = some b) (hfr : b.frozen = false)
    (hgang : c.kind = 1 → gangAway s b = false) (hready : copyReady s c = true)
    (hsp : cySsp c.bits = false → unreachable s c.scap = false ∧ ∀ o ∈ copyOffs c, ∃ a, copyTr s b c c.scap (o / 4096 * 4096) = .place a)
    (hdp : cyDsp c.bits = false → unreachable s c.dcap = false ∧ (∃ a, copyTr s b c c.dcap (copyDoff c) = .place a)
      ∧ ∀ a ∈ copyDsts s b c, farLive s a = false)
    (hs : ∀ a ∈ copySrcs s b c, rowWaits s a = false ∧ s.ue a 1 = false)
    (hd : ∀ a ∈ copyDsts s b c, rowWaits s a = false ∧ (cyDsp c.bits = true → s.isLive a = false)) :
    execCopyGranuleWrite k op s
      = .next (deliver (afterGran ((copyDsts s b c).foldl (putGran (cyDsp c.bits) (copyValue s b c)) (copyReached s b c)) b c)) := by
  have hgo : ¬(b.frozen || (c.kind == 1 && gangAway s b) || !copyReady s c) = true := by
    by_cases h1 : c.kind = 1 <;> simp [hfr, hready, h1, hgang]
  have hreach : ¬((!cySsp c.bits && unreachable s c.scap) || (!cyDsp c.bits && unreachable s c.dcap)) = true := by
    cases h1 : cySsp c.bits <;> cases h2 : cyDsp c.bits <;> simp_all
  have hrows : ¬(copySrcs s b c ++ copyDsts s b c).any (rowWaits s) = true := by
    simp only [List.any_append, Bool.or_eq_true, List.any_eq_true, not_or, not_exists, not_and]
    exact ⟨fun a ha => by simp [hs a ha], fun a ha => by simp [hd a ha]⟩
  have hue : ¬(copySrcs s b c).any (fun a => s.ue a 1) = true := by
    simp only [List.any_eq_true, not_exists, not_and]
    exact fun a ha => by simp [hs a ha]
  have hlive : ¬(cyDsp c.bits && (copyDsts s b c).any s.isLive) = true := by
    simp only [Bool.and_eq_true, List.any_eq_true, not_and, not_exists]
    exact fun h a ha => by simp [(hd a ha).2 h]
  have hfar : ¬(!cyDsp c.bits && (copyDsts s b c).any (farLive s)) = true := by
    simp only [Bool.and_eq_true, Bool.not_eq_true', List.any_eq_true, not_and, not_exists]
    exact fun h a ha => by simp [(hdp h).2.2 a ha]
  have htr : ∀ x ∈ (((if cySsp c.bits then [] else distinct ((copyOffs c).map fun o => o / 4096 * 4096)).map fun p => (p, c.scap, false))
      ++ if cyDsp c.bits then [] else [(copyDoff c, c.dcap, true)]).map fun x => (x, copyTr s b c x.2.1 x.1), ∃ a, x.2 = .place a := by
    intro x hx
    obtain ⟨y, hy, rfl⟩ := List.mem_map.mp hx
    obtain hy | hy := List.mem_append.mp hy
    · obtain ⟨p, hp, rfl⟩ := List.mem_map.mp hy
      cases hsp1 : cySsp c.bits with
      | true => simp [hsp1] at hp
      | false =>
        simp only [hsp1, Bool.false_eq_true, if_false] at hp
        obtain ⟨o, ho, rfl⟩ := List.mem_map.mp (mem_of_mem_distinct hp)
        exact (hsp hsp1).2 o ho
    · cases hdp1 : cyDsp c.bits with
      | true => simp [hdp1] at hy
      | false =>
        simp only [hdp1, Bool.false_eq_true, if_false, List.mem_singleton] at hy
        exact hy ▸ (hdp hdp1).2.1
  unfold execCopyGranuleWrite
  rw [hc]
  dsimp only
  rw [hb]
  dsimp only
  refine (if_neg hgo).trans ?_
  refine (if_neg hreach).trans ?_
  refine (if_neg (?_ : ¬List.any _ _ = true)).trans ?_
  · simp only [List.any_eq_true, not_exists, not_and]
    exact fun x hx => by simp [(Tr.found_of_place (htr x hx)).2]
  refine (if_neg (?_ : ¬(!List.isEmpty (List.filter _ _)) = true)).trans ?_
  · simp only [Bool.not_eq_true', Bool.not_eq_false, List.isEmpty_iff, List.filter_eq_nil_iff]
    exact fun x hx => by simp [(Tr.found_of_place (htr x hx)).1]
  split
  next y ys hun =>
    obtain ⟨x, hx, hxy⟩ := List.mem_filterMap.mp (hun ▸ List.mem_cons_self : y ∈ List.filterMap _ _)
    obtain ⟨a, ha⟩ := htr x hx
    simp [ha] at hxy
  · refine (if_neg hrows).trans ?_
    refine (if_neg hue).trans ?_
    refine (if_neg hlive).trans ?_
    exact if_neg hfar

end Sys2Proof.Machine

namespace Sys2Proof
open Machine

/-- Settles O45: each event has its lemma above, whose conclusion is the clause; for a pass that ends `passes_eq` reads the budgets. -/
theorem engineEvents : Obligations.EngineEvents := by
  unfold Obligations.EngineEvents
  constructor
  · intro s k e b g v ready hb hk hfr
    refine ⟨?_, ?_, ?_, ?_, ?_, ?_⟩
    · intro he hact hport hold hwords q
      subst hk
      exact gatherComplete_takePort he hb hfr hact hport hold hwords
    · exact fun keep he hready hroom hfirst hrows hue hkeep =>
        gatherComplete_activate he hb hready hroom hfirst hrows hue hkeep
    · intro hidle hat he hpages hr hfirst credit
      have hcand := mem_passCands he hb hfr hr
      have hnext := passSlot_next hb hidle hat hpages (hfirst.elim (fun h => passCands_first_starved hcand h.1 h.2)
        fun h => passCands_first_rank hcand h.1 h.2)
      exact ⟨fun h => hnext.trans (if_pos h), fun h => hnext.trans (if_neg (not_le.mpr h))⟩
    · exact passStarvation_next hb hfr
    · intro he hdue hrows t r top passed past
      refine (passEnd_judges hb he hdue hrows).trans ?_
      simp only [judgePass, passes_eq]
      subst hk
      rfl
    · exact engineWatchdogReset_ends rfl
  · intro s k op c b v bits sbase offs place cell srcs doff dsts hc hb hfr hgang hready hsp hdp hs hd
    exact copyGranuleWrite_puts hc hb hfr hgang hready hsp hdp hs hd

end Sys2Proof
end
section
/-!
LAWS. What the writes of the device's own registers leave alone: the fields that the events of the device are stated with.
-/
namespace Sys2Proof.Machine

/-! ### Rows and trace records -/

@[simp] theorem touch_sys (s : State) (a : Nat) : (touch s a).sys = s.sys := by
  unfold touch
  split <;> rfl

@[simp] theorem touch_ueMarks (s : State) (a : Nat) : (touch s a).ueMarks = s.ueMarks := by
  unfold touch
  split <;> rfl

@[simp] theorem touch_ue (s : State) (c a n : Nat) : (touch s c).ue a n = s.ue a n := by simp [State.ue]

@[simp] theorem noteWake_blocks (s : State) (u : Nat) : (noteWake s u).blocks = s.blocks := by
  unfold noteWake
  split <;> rfl

@[simp] theorem noteWait_blocks (s : State) (a : Nat) : (noteWait s a).blocks = s.blocks := by
  unfold noteWait
  split
  · rfl
  · dsimp only
    split <;> simp

@[simp] theorem touch_blocks (s : State) (a : Nat) : (touch s a).blocks = s.blocks := by
  unfold touch
  split <;> rfl

@[simp] theorem devWrite_blocks (s : State) (a n v : Nat) : (devWrite s a n v).blocks = s.blocks := by
  unfold devWrite
  split <;> simp

@[simp] theorem traceWrite_blocks (s : State) (b : Block) (f : Fibre) (kind code data : Nat) :
    (traceWrite s b f kind code data).blocks = s.blocks := by
  unfold traceWrite
  dsimp only
  split_ifs <;> simp

/-! ### Host messages and halted queues -/

/-- Nothing is written before HMRING is set (R384). -/
theorem postHost_unset {s : State} (h : sysGet s monPart 0x4006 = 0) (code part unit detail : Nat) : postHost s code part unit detail = s := by
  simp [postHost, h]

/-- Without a message ring a halt of a partition's queues changes the queues alone (R384). -/
theorem haltQueue_unset {s : State} (h : sysGet s monPart 0x4006 = 0) (part q : Nat) (index : BitVec 32) (err : Nat) :
    (haltQueue s part q index err).mem = s.mem ∧ (haltQueue s part q index err).sys = s.sys := by
  unfold haltQueue
  rw [postHost_unset (by rwa [sysGet_congr (s := s) (by simp)])]
  simp

theorem haltFenced_unset {s : State} (h : sysGet s monPart 0x4006 = 0) (part : Nat) :
    (haltFenced s part).mem = s.mem ∧ (haltFenced s part).sys = s.sys := by
  refine List.foldlRecOn (motive := fun t : State => t.mem = s.mem ∧ t.sys = s.sys) _ _ ⟨rfl, rfl⟩ ?_
  rintro t ⟨hm, hs⟩ q -
  have hq := haltQueue_unset (s := t) (by rwa [sysGet_congr hs]) part q.q
  split
  · split
    · exact ⟨hm, hs⟩
    · exact ⟨(hq _ _).1.trans hm, (hq _ _).2.trans hs⟩
  · exact ⟨hm, hs⟩

theorem haltQueue_maps (s : State) (part q : Nat) (index : BitVec 32) (err : Nat) :
    (haltQueue s part q index err).owners = s.owners ∧ (haltQueue s part q index err).serves = s.serves := by
  simp only [haltQueue, postHost, putHm, setHmOvf]
  split_ifs <;> simp

/-- A halt of queues leaves the ownership map as it is. -/
theorem haltFenced_maps (s : State) (part : Nat) : (haltFenced s part).owners = s.owners ∧ (haltFenced s part).serves = s.serves := by
  refine List.foldlRecOn (motive := fun t : State => t.owners = s.owners ∧ t.serves = s.serves) _ _ ⟨rfl, rfl⟩ ?_
  rintro t ⟨ho, hs⟩ q -
  split
  · split
    · exact ⟨ho, hs⟩
    · exact ⟨(haltQueue_maps ..).1.trans ho, (haltQueue_maps ..).2.trans hs⟩
  · exact ⟨ho, hs⟩

end Sys2Proof.Machine
end
section
/-!
PROOFS. O53: the events of the device, of its registers written from outside, of the host and of other devices. `Obligations.DeviceEvents`
is a conjunction over the events; the lemmas stand in its order.
-/
namespace Sys2Proof.Machine

section
variable {s : State} {part : Nat}

/-! ### Pre-emption, handlers, fault records (R347, R348, R356, R365) -/

theorem ownBlock_own {id : Nat} {b : Block} (hb : block? s id = some b) (hp : b.part = part) : ownBlock s part id = some b := by
  rw [ownBlock, hb]
  simp [hp]

theorem preq_stops {v : Nat} {b : Block} (hgo : v.testBit 17 = true) (hb : block? s (v % 2 ^ 17) = some b) (hp : b.part = part) :
    writePreq s part v = (gangOf (sysPut s part 0x0304 (v % 2 ^ 17)) b).foldl preempt (sysPut s part 0x0304 (v % 2 ^ 17)) := by
  have hown : ownBlock (sysPut s part 0x0304 (v % 2 ^ 17)) part (v % 2 ^ 17) = some b := ownBlock_own hb hp
  simp only [writePreq, hgo, if_true, requestStop, hown]

theorem handlerBudgetExpiry_stops {core port ctx : Nat} {f : Fibre} {b : Block} (hf : fibre? s (keyOf core port ctx) = some f)
    (hb : block? s f.blk = some b) (hpre : b.pre = true) (htm : f.tm = true) (hexp : f.expired = false) (hrun : f.run ≠ .exited)
    (hdue : b.preAt + sysGet s b.part 0x0303 ≤ s.now) :
    execHandlerBudgetExpiry core port ctx s
      = .next (cleanSlots (stopFibre (setFibre s f.key fun g => { g with expired := true }) f.key)) := by
  have hgo : (b.pre && f.tm && !f.expired && f.run != .exited && decide (b.preAt + sysGet s b.part 0x0303 ≤ s.now)) = true := by
    simp [hpre, htm, hexp, hrun, hdue]
  simp only [execHandlerBudgetExpiry, hf, hb, hgo, if_true]

theorem whenRead_free {n v : Nat} (h : writeHeld s part n v = none) (t : State) : whenRead s part n v t = .next t := by
  simp only [whenRead, h]

theorem whenRead_held {n v a : Nat} (h : writeHeld s part n v = some a) (t : State) : whenRead s part n v t = .next (noteWait s a) := by
  simp only [whenRead, h]

theorem latchLog_moves {r : TrapRec} {rs : List TrapRec} (h : (partnOf s part).tlog = r :: rs) :
    (partnOf (latchLog s part) part).latch = r.bits ∧ (partnOf (latchLog s part) part).tlog = rs := by
  rw [latchLog, partnOf_setPartn _ _ (by intro x; split <;> rfl)]
  simp [h]

theorem writeBfstat_acks {v : Nat} {b : Block} (hb : block? s (sysGet s part 0x0204) = some b) (hp : b.part = part) (hv : v.testBit 5 = true) :
    writeBfstat s part v = setBlock s b.id fun x => { x with faults := [], fovf := false } := by
  have hbf : bfBlock s part = some b := ownBlock_own hb hp
  simp only [writeBfstat, hbf, hv, if_true]

/-! ### The ownership map (R374) -/

theorem foldl_haltFenced_unset {s : State} (h : sysGet s monPart 0x4006 = 0) (ps : List Nat) : (ps.foldl haltFenced s).mem = s.mem := by
  induction ps generalizing s with
  | nil => rfl
  | cons p ps ih =>
    obtain ⟨hm, hs⟩ := haltFenced_unset h p
    exact (ih ((sysGet_congr hs _ _).trans h)).trans hm

/-- The map is read where OWNBASE points, and memory stays as it is but for the messages of queues that halt (R374, R384, R385). -/
theorem applyOwners_reads (s : State) :
    (sysGet s 8 0x4006 = 0 → (applyOwners s).mem = s.mem)
    ∧ (∀ c < 384, mapGet (applyOwners s).owners c 0xFE = s.read (sysGet s 8 0x4002 + c) 1)
    ∧ ∀ k < 16, mapGet (applyOwners s).serves k 0 = s.read (sysGet s 8 0x4002 + 384 + k) 1 := by
  have hmem : ((ownCells s).foldl touch s).mem = s.mem := foldl_mem touch_mem _ _
  have hsys : ((ownCells s).foldl touch s).sys = s.sys := foldl_keeps touch_sys _ _
  have hbyte : ∀ i, ownByte ((ownCells s).foldl touch s) i = s.read (sysGet s 8 0x4002 + i) 1 := by
    intro i
    simp only [ownByte, State.read, hmem, sysGet_congr hsys]
    rfl
  simp only [applyOwners]
  generalize (ownCells s).foldl touch s = u at hmem hsys hbyte
  have howners := foldl_keeps (r := State.owners) (fun s p => (haltFenced_maps s p).1) (List.range 9)
  have hserves := foldl_keeps (r := State.serves) (fun s p => (haltFenced_maps s p).2) (List.range 9)
  refine ⟨fun hring => ?_, fun c hc => ?_, fun k hk => ?_⟩
  · rw [foldl_haltFenced_unset]
    · exact hmem
    · exact (sysGet_congr (t := { u with owners := _, serves := _ }) hsys _ _).trans hring
  · rw [howners, ← hbyte]
    exact mapGet_table (show c < Config.clusterCount from hc) (ownByte u) _
  · rw [hserves, Nat.add_assoc, ← hbyte]
    exact mapGet_table (show k < Config.stackCount from hk) (fun k => ownByte u (Config.clusterCount + k)) _

theorem ownapply_applies {v : Nat} (hv : v < 2 ^ 64) (hgo : v.testBit 0 = true) (hhole : ownHole s = none)
    (hrows : (ownCells s).find? (rowWaits s) = none) : execOwnapply v s = .next (applyOwners s) := by
  have hmap : writeHole s 0x4003 v = none := by simp only [writeHole, hgo, hhole, Bool.and_true, ite_self]
  have hheld : writeHeld s monPart 0x4003 v = none := by simp only [writeHeld, hgo, hrows, if_true]
  have hwrite : sysWrite s monPart 0x4003 v = applyOwners s := by simp [sysWrite, writeReg, hgo]
  simp only [execOwnapply, if_neg (not_le.mpr hv), hmap, whenRead_free hheld, hwrite]

/-! ### Stops for debugging and trace (R388, R389, R391) -/

theorem debugGo_stops {b : Block} (hb : block? s b.id = some b) (hp : b.part = part) :
    ∃ d, block? (debugGo s part b.id) b.id = some d ∧ d.dbg = true ∧ d.part = part := by
  simp only [debugGo, ownBlock_own hb hp]
  split
  next h => exact ⟨b, hb, h, hp⟩
  next =>
    rw [block?_congr (foldl_keeps (r := State.blocks) (fun s l => by cases l <;> simp) _ _)]
    exact ⟨_, block?_setBlock (by intro; rfl) hb, rfl, hp⟩

theorem dstat_stopped {d : Block} {id : Nat} (hd : block? s id = some d) (hdbg : d.dbg = true) (hp : d.part = part) (hid : d.id = id) :
    dstat s part id = if (aliveOf s id).all Fibre.atBoundary then 2 else 1 := by
  simp [dstat, ownBlock_own hd hp, hdbg, hid]

theorem debugStop_stops {v : Nat} {b : Block} (hb : block? s b.id = some b) (hp : b.part = part) (hv : b.id = v % 2 ^ 17)
    (hgo : v.testBit 17 = true) (hres : v.testBit 18 = false) :
    ∃ t d, execDebugStop part v s = .next t ∧ block? t b.id = some d ∧ d.dbg = true
      ∧ dstat t part b.id = if (aliveOf t b.id).all Fibre.atBoundary then 2 else 1 := by
  obtain ⟨d, hd, hdbg, hdp⟩ := debugGo_stops (s := sysPut s part 0x0500 b.id) hb hp
  refine ⟨debugGo (sysPut s part 0x0500 b.id) part b.id, d, ?_, hd, hdbg, dstat_stopped hd hdbg hdp (block?_id hd)⟩
  simp only [execDebugStop, writeDstop, ← hv, hgo, hres, if_true, Bool.false_eq_true, if_false]

theorem debugResume_releases {v : Nat} {b : Block} (hb : block? s b.id = some b) (hp : b.part = part) (hv : b.id = v % 2 ^ 17)
    (hgo : v.testBit 17 = false) (hres : v.testBit 18 = true) :
    execDebugResume part v s = .next (setBlock (sysPut s part 0x0500 (v % 2 ^ 17)) b.id fun x => { x with dbg := false }) := by
  have hown : ownBlock (sysPut s part 0x0500 b.id) part b.id = some b := ownBlock_own hb hp
  simp only [execDebugResume, writeDstop, ← hv, hgo, hres, if_true, Bool.false_eq_true, if_false, debugRelease, hown]

theorem writeTrctl_clears {v : Nat} (h : v.testBit 40 = true) :
    (partnOf (writeTrctl s part v) part).trDrops = 0 ∧ (partnOf (writeTrctl s part v) part).trTail = 0 := by
  simp only [writeTrctl, h, if_true]
  rw [partnOf_setPartn _ _ (by intro; rfl)]
  exact ⟨rfl, rfl⟩

/-! ### Recording and replay (R388, R394, R397) -/

/-- The first chunk of object `j` in the log is malformed (R394). -/
def firstBad (s : State) (part j : Nat) : Bool := (findChunk s part j (sysGet s part 0x052A) 0).any (badChunk s part)

theorem State.read_congr {t : State} (h : t.mem = s.mem) : t.read = s.read := by
  funext a n
  simp only [State.read, h]

theorem findChunk_congr {t : State} (hm : t.mem = s.mem) (hr : sysGet t part 0x0529 = sysGet s part 0x0529) (j n i : Nat) :
    findChunk t part j n i = findChunk s part j n i := by
  induction n generalizing i with
  | zero => rfl
  | succ n ih => rw [findChunk, findChunk, ih, hr, State.read_congr hm]

/-- Whether it is rests on memory and on the registers beside RRCTL. -/
theorem firstBad_congr {t : State} (hm : t.mem = s.mem) (hr : ∀ n, 0x0528 ≠ n → sysGet t part n = sysGet s part n) (j : Nat) :
    firstBad t part j = firstBad s part j := by
  have hbad : badChunk t part = badChunk s part := by
    funext i
    simp only [badChunk, State.read_congr hm, hr 0x0529 (by decide)]
    rw [hr _ (by omega)]
  rw [firstBad, firstBad, hbad, findChunk_congr hm (hr _ (by decide)), hr _ (by decide)]

theorem meetChunk_first (s : State) (part j : Nat) :
    (meetChunk s part j 0).mem = s.mem ∧ (meetChunk s part j 0).sys = s.sys
      ∧ (partnOf (meetChunk s part j 0) part).rrUsed = (partnOf s part).rrUsed
      ∧ (partnOf (meetChunk s part j 0) part).rrFull = (partnOf s part).rrFull
      ∧ (partnOf (meetChunk s part j 0) part).rrBad = ((partnOf s part).rrBad || firstBad s part j) := by
  have hmeet : meetChunk s part j 0 =
      if firstBad s part j then setPartn s part fun p => { p with rrDone := p.rrDone ++ [j], rrBad := true } else s := rfl
  rw [hmeet]
  split
  next h => simp [partnOf_setPartn _ _ (g := fun p => { p with rrDone := p.rrDone ++ [j], rrBad := true }) (by intro; rfl), h]
  next h => simp [h]

/-- The ports come to the first chunk of every object, and BADLOG tells whether one of those is malformed (R394). -/
theorem foldl_meetChunk_first (js : List Nat) (s : State) (part : Nat) :
    let t := js.foldl (fun t j => meetChunk t part j 0) s
    t.sys = s.sys ∧ (partnOf t part).rrUsed = (partnOf s part).rrUsed ∧ (partnOf t part).rrFull = (partnOf s part).rrFull
      ∧ (partnOf t part).rrBad = ((partnOf s part).rrBad || js.any (firstBad s part)) := by
  induction js generalizing s with
  | nil => simp
  | cons j js ih =>
    obtain ⟨hm, hs, hu, hf, hb⟩ := meetChunk_first s part j
    obtain ⟨hs', hu', hf', hb'⟩ := ih (meetChunk s part j 0)
    have hany : firstBad (meetChunk s part j 0) part = firstBad s part := funext (firstBad_congr hm fun n _ => sysGet_congr hs _ _)
    exact ⟨hs'.trans hs, hu'.trans hu, hf'.trans hf, by simp [hb', hb, hany, Bool.or_assoc]⟩

/-- RRCTL and RRSTAT as MODE `m` begins (R388). -/
def modeStart (s : State) (part m : Nat) : State :=
  setPartn (sysPut s part 0x0528 m) part fun p =>
    { p with rrUsed := 0, rrFull := false, rrBad := false, rrOpen := [], rrCur := [], rrDone := [] }

theorem writeMode_start {v m : Nat} (hm : m = 1 ∨ m = 2) (hv : v % 4 = m) (hres : userResident s part = false) :
    writeMode s part v = if m = 2 then (List.range 8).foldl (fun t j => meetChunk t part j 0) (modeStart s part m) else modeStart s part m := by
  obtain rfl | rfl := hm <;> simp [writeMode, modeStart, hv, hres]

theorem rrMode_modeStart (s : State) (part m : Nat) : rrMode (modeStart s part m) part = m % 4 :=
  congrArg (· % 4) (sysGet_sysPut_same s part 0x0528 m)

theorem partnOf_modeStart (s : State) (part m : Nat) : partnOf (modeStart s part m) part =
    { partnOf s part with rrUsed := 0, rrFull := false, rrBad := false, rrOpen := [], rrCur := [], rrDone := [] } :=
  partnOf_setPartn _ _ (by intro; rfl)

theorem firstBad_modeStart (s : State) (part m : Nat) : firstBad (modeStart s part m) part = firstBad s part :=
  funext (firstBad_congr rfl fun _ hn => sysGet_sysPut_ne s part m hn)

/-- MODE 1 or 2 begins with nothing used, and with BADLOG where replay meets a malformed first chunk (R388, R394, R397). -/
theorem writeMode_begins {v m : Nat} (hm : m = 1 ∨ m = 2) (hv : v % 4 = m) (hres : userResident s part = false) :
    rrMode (writeMode s part v) part = m ∧ (partnOf (writeMode s part v) part).rrUsed = 0 ∧ (partnOf (writeMode s part v) part).rrFull = false
      ∧ ((partnOf (writeMode s part v) part).rrBad = true ↔ m = 2 ∧ ∃ j < 8, firstBad s part j = true) := by
  rw [writeMode_start hm hv hres]
  obtain rfl | rfl := hm
  · simp [rrMode_modeStart, partnOf_modeStart]
  · obtain ⟨hsys, hused, hfull, hbad⟩ := foldl_meetChunk_first (List.range 8) (modeStart s part 2) part
    rw [if_pos rfl]
    refine ⟨(congrArg (· % 4) (sysGet_congr hsys _ _)).trans (rrMode_modeStart s part 2), ?_, ?_, ?_⟩
    · rw [hused, partnOf_modeStart]
    · rw [hfull, partnOf_modeStart]
    · rw [hbad, partnOf_modeStart, firstBad_modeStart]
      simp

theorem writeMode_off {v : Nat} (hv : v % 4 = 0) : rrMode (writeMode s part v) part = 0 := by
  simp only [writeMode, hv, beq_self_eq_true, if_true, rrMode, sysGet_sysPut_same]

theorem writeMode_resident {v m : Nat} (hm : m = 1 ∨ m = 2) (hv : v % 4 = m) (hres : userResident s part = true) : writeMode s part v = s := by
  obtain rfl | rfl := hm <;> simp [writeMode, hv, hres]

theorem recordMode_writes {v : Nat} (hv : v % 4 = 1) : execRecordMode part v s = .next (writeMode s part v) :=
  if_pos (by simp [hv])

theorem replayMode_writes {v : Nat} (hv : v % 4 = 2) (hfree : writeHeld s part 0x0528 v = none) :
    execReplayMode part v s = .next (writeMode s part v) :=
  (if_pos (by simp [hv])).trans (whenRead_free hfree _)

theorem modeOff_reads {v : Nat} (hv : v % 4 = 0) : execModeOff part v s = whenRead s part 0x0528 v (writeMode s part v) :=
  if_pos (by simp [hv])

/-- Replay reads nothing of the log while a user-level block is resident. -/
theorem writeHeld_resident {v : Nat} (hv : v % 4 = 2) (hres : userResident s part = true) : writeHeld s part 0x0528 v = none := by
  simp [writeHeld, hv, hres]

/-! ### Windows, fencing, reset (R317, R385 to R387) -/

theorem scratchpadWindow_made {b : Block} {obj wb wl : Nat} (hb : block? s b.id = some b) (hwb : wb % 16 = 0) (hwl : wl % 16 = 0) (hpos : wl ≠ 0)
    (hin : wb + wl ≤ b.spadSize) (hobj : obj ≠ 0) (hid : obj < 2 ^ 21)
    (hold : ∀ w ∈ s.windows, w.part = b.part → w.obj = obj → w.ended = true) :
    execScratchpadWindow b.id obj wb wl s = .next { s with
      windows := s.windows.filter (fun w => !(w.part == b.part && w.obj == obj)) ++
        [{ part := b.part, obj := obj, blk := b.id, wb := wb, wl := wl, ended := false }] } := by
  have hlive : s.windows.any (fun w => w.part == b.part && w.obj == obj && !w.ended) = false := by
    simp only [List.any_eq_false, Bool.and_eq_true, beq_iff_eq, Bool.not_eq_true', not_and]
    exact fun w hw h => by simp [hold w hw h.1 h.2]
  have hgo : ¬(wb % 16 != 0 || wl % 16 != 0 || wl == 0 || decide (b.spadSize < wb + wl) || obj == 0 || decide (2 ^ 21 ≤ obj)
      || s.windows.any (fun w => w.part == b.part && w.obj == obj && !w.ended)) = true := by
    rw [hlive]
    simp [hwb, hwl, hpos, hin, hobj]
    exact hid
  simp only [execScratchpadWindow, hb, if_neg hgo]

theorem unitFence_fences {u : Nat} (hu : u < 384 + 16 + 1536) (hnot : u ∉ s.fenced) :
    execUnitFence u s = .next (if unitHeld s u then { s with fencePend := setIns u s.fencePend } else fenceUnit s u) := by
  have hgo : ¬(s.fenced.contains u || decide (Config.clusterCount + Config.stackCount + Config.coreCount ≤ u)) = true := by
    simp only [Bool.or_eq_true, List.contains_iff_mem, decide_eq_true_eq, not_or, not_le]
    exact ⟨hnot, hu⟩
  simp only [execUnitFence, if_neg hgo]
  exact (apply_ite Host.Outcome.next _ _ _).symm

theorem bootStep_of_monTrap (h : monTrap s ≠ none) : s.bootStep = 3 := by
  by_contra hne
  exact h (by simp [monTrap, hne])

/-- Bring-up that has stopped at a trap of the monitor goes no further, and fails by no code but MONITOR_FAULT (R386, R387). -/
theorem nextStep_of_monTrap (h : monTrap s ≠ none) : nextStep s = s := by
  simp [nextStep, bootStopped, Option.isSome_iff_ne_none.mpr h]

theorem bootFail_of_monTrap {code y : Nat} (h : monTrap s ≠ none) (hcode : code ≠ 0x0303) : bootFail s code y = s := by
  simp [bootFail, bootFails, bootStep_of_monTrap h, Option.isSome_iff_ne_none.mpr h, hcode]

/-! ### The host and other devices (R57, R98, R317, R319, R341, R351) -/

theorem hostAccess_early {wr a n v : Nat} (h : s.bootStep < 2) : execHostAccess wr a n v s = .next s := by
  simp [execHostAccess, h]

/-- An access of the host to device memory, once the link is trained, waits for its row or is made (R98, R99, R351). -/
theorem hostAccess_reaches {wr a n v : Nat} (hboot : 2 ≤ s.bootStep) (ha : a < Config.hostBase) (hline : oneLine a n = true) (hmap : mapped a = true) :
    execHostAccess wr a n v s =
      if rowWaits s a then .next (noteWait s a)
      else if wr == 0 then .next (touch s a)
      else if (gransOf a n).any (fun g => (touch s a).ueMarks.contains g && !(decide (a ≤ g) && decide (g + 16 ≤ a + n))) then .next (touch s a)
      else .next { ((touch s a).write a n v) with ueMarks := (touch s a).ueMarks.filter fun g => !(gransOf a n).contains g } := by
  have hgo : ¬(decide (s.bootStep < 2) || decide (Config.hostBase ≤ a) || !oneLine a n) = true := by
    simp only [hline, Bool.not_true, Bool.or_false, Bool.or_eq_true, decide_eq_true_eq, not_or, not_lt, not_le]
    exact ⟨hboot, ha⟩
  simp only [execHostAccess, if_neg hgo, hmap, Bool.not_true, Bool.false_eq_true, if_false]

theorem hostAccess_writes {a n v : Nat} (hboot : 2 ≤ s.bootStep) (ha : a < Config.hostBase) (hline : oneLine a n = true) (hmap : mapped a = true)
    (hrow : rowWaits s a = false) (hue : s.ue a n = false) :
    ∃ t, execHostAccess 1 a n v s = .next t ∧ t.mem = writeMem s.mem a v n := by
  have hpart : ¬(gransOf a n).any (fun g => (touch s a).ueMarks.contains g && !(decide (a ≤ g) && decide (g + 16 ≤ a + n))) = true := by
    simp only [State.ue, List.any_eq_false] at hue
    simp only [List.any_eq_true, Bool.and_eq_true, not_exists, not_and, touch_ueMarks]
    exact fun g hg hmark => absurd hmark (hue g hg)
  rw [hostAccess_reaches hboot ha hline hmap, if_neg (by simp [hrow]), if_neg (by decide), if_neg hpart]
  exact ⟨_, rfl, congrArg (writeMem · a v n) (touch_mem s a)⟩

theorem remoteDeviceRequest_ready {kind obj off w : Nat} (hk : kind < 2 ^ 16) (hw : remoteWidth kind off w = true) (hobj : obj < 2 ^ 21) :
    ¬2 ^ 16 ≤ kind ∧ ¬(!remoteWidth kind off w || decide (2 ^ 21 ≤ obj)) = true := by
  refine ⟨not_le.mpr hk, ?_⟩
  simp only [hw, Bool.not_true, Bool.false_or, decide_eq_true_eq, not_le]
  exact hobj

theorem remoteDeviceRequest_stores {obj off w v a : Nat} (hw : remoteWidth 1 off w = true) (hobj : obj < 2 ^ 21) (hwin : window? s part obj = none)
    (htr : translate s part obj off [] = .place a) (hrow : rowWaits s a = false) (hue : partialUe s a w = false) :
    ∃ t, execRemoteDeviceRequest 1 part obj off w v s = .next t ∧ t.mem = writeMem s.mem a v w := by
  obtain ⟨hk, hgo⟩ := remoteDeviceRequest_ready (by decide) hw hobj
  have hpart : partialUe (touch s a) a w = false := by rw [partialUe, touch_ue]; exact hue
  have hmem : (memoryAccess (touch s a) a 1 w v).mem = ((touch s a).write a w v).mem := by simp [memoryAccess, hpart]
  refine ⟨memoryAccess (touch s a) a 1 w v, ?_, hmem.trans (congrArg (writeMem · a v w) (touch_mem s a))⟩
  simp only [execRemoteDeviceRequest, if_neg hk, if_neg hgo, hwin, htr, hrow, Bool.false_eq_true, if_false]

theorem remoteDeviceRequest_misses {obj off w v : Nat} (hw : remoteWidth 1 off w = true) (hobj : obj < 2 ^ 21) (hwin : window? s part obj = none)
    (htr : translate s part obj off [] = .miss) :
    execRemoteDeviceRequest 1 part obj off w v s = .next (joinWalk s 0 part obj off (.remote 1)) := by
  obtain ⟨hk, hgo⟩ := remoteDeviceRequest_ready (by decide) hw hobj
  simp only [execRemoteDeviceRequest, if_neg hk, if_neg hgo, hwin, htr]

theorem remoteDeviceRequest_ended {kind obj off w v : Nat} {x : Window} (hkind : kind < 2 ^ 16) (hw : remoteWidth kind off w = true)
    (hobj : obj < 2 ^ 21) (hwin : window? s part obj = some x) (hend : x.ended = true) :
    execRemoteDeviceRequest kind part obj off w v s = .next (remoteUnresolved s part obj off fWindowEnded kind) := by
  obtain ⟨hk, hgo⟩ := remoteDeviceRequest_ready hkind hw hobj
  simp only [execRemoteDeviceRequest, if_neg hk, if_neg hgo, hwin, hend, if_true]

theorem weightStoreWrite_ready {die off : Nat} (hdie : die < 8) (hoff : off < 2 ^ 30) (hal : off % 16 = 0) :
    (decide (8 ≤ die) || decide (Config.weightBytes ≤ off) || off % 16 != 0 || storeHeld s die) = storeHeld s die := by
  have hin : ¬Config.weightBytes ≤ off := not_le.mpr hoff
  simp [hin, hdie, hal]

/-! ### Power and refresh (R67, R377, R378) -/

theorem powerLimitStep_raises {avg : Nat} (h : sysGet s 8 0x4004 < avg) : execPowerLimitStep avg s = .next
    { s with engines := s.engines.map (fun e => { e with step := if e.entries.any (·.active) then min 7 (e.step + 1) else e.step })
             belowSince := none } :=
  if_pos h

theorem powerLimitStep_lowers {avg t : Nat} (h : 100 * avg < 95 * sysGet s 8 0x4004) (ht : s.belowSince = some t) (hms : t + 4000000 ≤ s.now) :
    execPowerLimitStep avg s = .next { s with engines := s.engines.map (fun e => { e with step := e.step - 1 }), belowSince := some s.now } := by
  have hnot : ¬sysGet s monPart 0x4004 < avg := by
    show ¬sysGet s 8 0x4004 < avg
    omega
  refine (if_neg hnot).trans ((if_pos h).trans ?_)
  rw [ht]
  exact if_neg (not_lt.mpr hms)

theorem unitHeld_cluster {u : Nat} (hu : u < 384) (hblk : ∀ b ∈ s.blocks, b.cluster ≠ u) (hguest : ∀ f ∈ s.fibres, f.loc / 4 ≠ u) :
    unitHeld s u = false := by
  have hc : u < Config.clusterCount := hu
  simp only [unitHeld, if_pos hc, Bool.or_eq_false_iff, List.any_eq_false, beq_iff_eq, guestOn]
  refine ⟨hblk, fun f hf => ?_⟩
  have hloc := hguest f hf
  cases hg : f.guest with
  | none => simp
  | some g => simpa [Fibre.loc, hg] using hloc

theorem powerStateEntry_cluster {u : Nat} (hu : u < 384) (hblk : ∀ b ∈ s.blocks, b.cluster ≠ u) (hguest : ∀ f ∈ s.fibres, f.loc / 4 ≠ u)
    (hidle : mapGet s.idleAt u 0 + 4000 ≤ s.now) (hup : mapGet s.power u 0 = 0) (hltr : tolerates s u 3000 = true) :
    execPowerStateEntry u s = .next { s with
      power := mapPut u 2 s.power, idleAt := mapDel u s.idleAt
      engines := s.engines.map fun e => if e.cluster == u then { e with credit := 0, starving := none } else e } := by
  have hc : u < Config.clusterCount := hu
  have hdeep : deepest s u = 2 := by simp [deepest, hc, hltr]
  have hguests : s.fibres.any (fun f => f.loc / 4 == u) = false := by simpa using hguest
  have hlong : mapGet s.idleAt u 0 + Config.cycles1us ≤ s.now := hidle
  have hgo : (unitIdle s u && decide (mapGet s.power u 0 < 2)) = true := by
    simp [unitIdle, unitHeld_cluster hu hblk hguest, unitAsleep, hup, hc, hguests, hlong]
  simp only [execPowerStateEntry, hdeep, hgo, if_true, loseCredit, hc, decide_true, beq_self_eq_true, Bool.and_self]

theorem powerStateEntry_stack {k : Nat} (hk : k < 16) (hreg : (latheOf s k).regions = []) (hreq : mapGet s.reqAt k 0 + 4000 ≤ s.now)
    (hup : mapGet s.power (384 + k) 0 = 0) (hltr : tolerates s (384 + k) 1500 = true) :
    execPowerStateEntry (384 + k) s
      = .next { s with power := mapPut (384 + k) 1 s.power, idleAt := mapDel (384 + k) s.idleAt } := by
  have hc : ¬384 + k < Config.clusterCount := by simp [Config.clusterCount]
  have hstack : 384 + k < Config.clusterCount + Config.stackCount := Nat.add_lt_add_left hk 384
  have hsub : 384 + k - Config.clusterCount = k := Nat.add_sub_cancel_left 384 k
  have hdeep : deepest s (384 + k) = 1 := by simp [deepest, hc, hstack, hltr]
  have hlong : mapGet s.reqAt k 0 + Config.cycles1us ≤ s.now := hreq
  have hheld : unitHeld s (384 + k) = false := by simp [unitHeld, hc, hstack, hsub, hasWork, hreg]
  have hgo : (unitIdle s (384 + k) && decide (mapGet s.power (384 + k) 0 < 1)) = true := by
    simp [unitIdle, hheld, unitAsleep, hup, hc, hsub, hreg, hlong]
  simp only [execPowerStateEntry, hdeep, hgo, if_true, loseCredit, hc, decide_false, Bool.false_and, Bool.false_eq_true, if_false]

theorem powerStateExit_stack {k t : Nat} (hidle : s.idleAt.find? (fun x => x.1 == 384 + k) = some (384 + k, t))
    (hdeep : mapGet s.power (384 + k) 0 = 1) (hdue : t + 6000 ≤ s.now) :
    execPowerStateExit (384 + k) s = .next
      { s with power := mapDel (384 + k) s.power, idleAt := mapDel (384 + k) s.idleAt, reqAt := mapPut k s.now s.reqAt } := by
  have hc : ¬384 + k < Config.clusterCount := by simp [Config.clusterCount]
  have hsub : 384 + k - Config.clusterCount = k := Nat.add_sub_cancel_left 384 k
  have hasleep : unitAsleep s (384 + k) = true := by simp [unitAsleep, hdeep]
  have hdue' : ¬s.now < t + exitLatency (384 + k) 1 := by
    simp only [exitLatency, hc]
    exact not_lt.mpr hdue
  simp only [execPowerStateExit, hasleep, if_true, hidle, hdeep, if_neg hdue', if_neg hc, hsub]

/-- Bank and beginning from which a die's refresh schedule is known (log 7). -/
def wrefFrom (s : State) (die : Nat) : Nat × Nat := match s.wrefBank.find? (·.1 == die) with | some x => x.2 | none => (0, 0)
/-- Where the schedule stands in a cycle (R67). -/
def wrefAt (w : Nat × Nat) (now : Nat) : Nat × Nat := ((w.1 + (now - w.2) / 160) % 256, w.2 + 160 * ((now - w.2) / 160))

theorem wrefOf_eq (s : State) (die : Nat) : wrefOf s die = wrefAt (wrefFrom s die) s.now := rfl

/-- The schedule goes on from where it stands, 160 cycles to a bank. -/
theorem wrefAt_later (w : Nat × Nat) (now n : Nat) :
    wrefAt w ((wrefAt w now).2 + n) = (((wrefAt w now).1 + n / 160) % 256, (wrefAt w now).2 + 160 * (n / 160)) := by
  have hk : (w.2 + 160 * ((now - w.2) / 160) + n - w.2) / 160 = (now - w.2) / 160 + n / 160 := by omega
  simp only [wrefAt, hk, Prod.mk.injEq]
  omega

/-- Noting where the schedule stands does not move it. -/
theorem wrefAt_noted (w : Nat × Nat) (now : Nat) : wrefAt (wrefAt w now) now = wrefAt w now := by
  have hk : (now - (w.2 + 160 * ((now - w.2) / 160))) / 160 = 0 := by omega
  simp only [wrefAt, hk, Prod.mk.injEq]
  omega

theorem weightRefreshWindow_notes (s : State) (die : Nat) :
    ∃ t, execWeightRefreshWindow die s = .next t ∧ wrefOf t die = wrefOf s die ∧ t.mem = s.mem := by
  by_cases h : (s.wrefBank.contains (die, wrefOf s die) || decide (8 ≤ die)) = true
  · exact ⟨s, if_pos h, rfl, rfl⟩
  · refine ⟨_, if_neg h, ?_, rfl⟩
    have hnone : (s.wrefBank.filter (fun x => x.1 != die)).find? (fun x => x.1 == die) = none := by
      simp [List.find?_eq_none]
    rw [wrefOf_eq, wrefFrom]
    simp only [List.find?_append, hnone, Option.none_or, List.find?_cons, beq_self_eq_true]
    exact wrefAt_noted _ _

end

/-- Settles O53: each event has its lemma above; what is left to say is that a write finds nothing that holds it back. -/
theorem deviceEvents : Obligations.DeviceEvents := by
  intro s part _
  refine ⟨?_, ?_, ?_, ?_, ?_, ?_, ?_, ?_, ?_, ?_, ?_, ?_, ?_, ?_, ?_, ?_, ?_, ?_, ?_, ?_, ?_, ?_, ?_, ?_, ?_, ?_, ?_, ?_, ?_, ?_, ?_⟩
  -- registers of a partition
  · exact fun v hgo => congrArg Host.Outcome.next (by simp [writePreq, hgo])
  · exact fun v b hgo hb hp => congrArg Host.Outcome.next (preq_stops hgo hb hp)
  · exact fun core port ctx f b => handlerBudgetExpiry_stops
  · intro v c t hfree
    have hwrite := whenRead_free (n := 0x0302) (v := v) hfree (writeTcode1 s part v)
    exact ⟨fun hroot => hwrite.trans (congrArg Host.Outcome.next (if_pos hroot)),
      fun hroot => hwrite.trans (congrArg Host.Outcome.next (if_neg (ne_true_of_eq_false hroot)))⟩
  · exact fun r rs h => ⟨_, rfl, latchLog_moves h⟩
  · exact fun v b hb hp hv => congrArg Host.Outcome.next (writeBfstat_acks hb hp hv)
  -- the monitor's registers
  · exact fun v hv hgo hhole hrows => ⟨_, ownapply_applies hv hgo hhole hrows, applyOwners_reads s⟩
  · exact fun v => rfl
  -- debugging, trace, record and replay
  · exact fun v b hb hp hv => ⟨debugStop_stops hb hp hv, debugResume_releases hb hp hv⟩
  · exact fun v h => ⟨_, if_pos h, writeTrctl_clears h⟩
  · rintro v m (rfl | rfl) hv
    · exact ⟨fun hres => (recordMode_writes hv).trans (congrArg _ (writeMode_resident (.inl rfl) hv hres)),
        fun hres _ => ⟨_, recordMode_writes hv, writeMode_begins (.inl rfl) hv hres⟩⟩
    · exact ⟨fun hres => (replayMode_writes hv (writeHeld_resident hv hres)).trans (congrArg _ (writeMode_resident (.inr rfl) hv hres)),
        fun hres hfree => ⟨_, replayMode_writes hv hfree, writeMode_begins (.inr rfl) hv hres⟩⟩
  · exact fun v hv hfree => ⟨_, (modeOff_reads hv).trans (whenRead_free hfree _), writeMode_off hv⟩
  · exact fun v a hv hheld => (modeOff_reads hv).trans (whenRead_held hheld _)
  -- windows and fencing
  · exact fun b obj wb wl => scratchpadWindow_made
  · intro u hu hnot
    have hfence := unitFence_fences hu hnot
    exact ⟨fun h => hfence.trans (by rw [h]; rfl), fun h => hfence.trans (by rw [h]; rfl)⟩
  -- reset and the host
  · exact fun a b => ⟨nextStep (resetState s), rfl, rfl, rfl, rfl, rfl, rfl, rfl, rfl, rfl, rfl⟩
  · intro a n v hboot ha hline hmap hrow hue
    obtain ⟨t, hexec, hmem⟩ := hostAccess_writes (v := v) hboot ha hline hmap hrow hue
    exact ⟨t, hexec, hmem, (hostAccess_reaches hboot ha hline hmap).trans (by rw [hrow]; rfl)⟩
  · exact fun wr a n v hboot ha hline hmap hrow => (hostAccess_reaches hboot ha hline hmap).trans (if_pos hrow)
  · exact fun wr a n v => hostAccess_early
  · exact fun code x y h => ⟨congrArg Host.Outcome.next (nextStep_of_monTrap h),
      fun _ hcode => congrArg Host.Outcome.next (bootFail_of_monTrap h hcode)⟩
  -- other devices
  · exact fun obj off w v hw hobj hwin => ⟨fun a => remoteDeviceRequest_stores hw hobj hwin, remoteDeviceRequest_misses hw hobj hwin⟩
  · exact fun kind obj off w v x => remoteDeviceRequest_ended
  · exact fun path up => rfl
  · intro die off v hdie hoff hal
    have hready := weightStoreWrite_ready (s := s) hdie hoff hal
    refine ⟨fun h => if_pos (hready.trans h), fun h => ⟨_, if_neg (ne_true_of_eq_false (hready.trans h)), by simp [State.write]⟩⟩
  · intro a hmap
    exact ⟨fun h => if_pos (by simp [hmap, h]), fun h => if_neg (by simp [hmap, h])⟩
  -- power and refresh
  · exact fun avg => powerLimitStep_raises
  · exact fun avg t => powerLimitStep_lowers
  · exact fun u => powerStateEntry_cluster
  · exact fun k => powerStateEntry_stack
  · exact fun k t _ => powerStateExit_stack
  · exact fun die n _ => ⟨weightRefreshWindow_notes s die, wrefAt_later _ _ _⟩

end Sys2Proof.Machine
end
section
/-!
PROOFS. O54: a step that a port's issue stands first for runs what its first batch fetches (R35, R42, R183, R197).
-/
namespace Sys2Proof.Machine

/-! ### What is decoded is executed -/

theorem runBytes_ok {k v : Nat} {i : Instr} {rest : List Byte} (h : decode (bytesLE k v) = .ok (i, rest)) (s : State) :
    runBytes k v s = exec i s := by
  simp only [runBytes, h]

/-- Bytes that are no instruction raise ILLEGAL_OP (R197). -/
theorem runBytes_error {k v : Nat} {e : DecodeError} (h : decode (bytesLE k v) = .error e) (s : State) :
    runBytes k v s = issue { early := some cIllegalOp } (fun s _ _ => acted s []) s := by
  simp only [runBytes, h]

/-! ### What a slot, a port and a step run -/

theorem runSlot_bytes {s : State} {c : Cur} {f : Fibre} {b : Block} {k v : Nat} (hf : (lanesOf s c).head? = some f)
    (hb : block? s f.blk = some b) (hfetch : fetch { s with cur := some c } b f = .bytes k v) :
    runSlot c s = runBytes k v { s with cur := some c } := by
  have hlane : (lanesOf { s with cur := some c } c).head? = some f := hf
  have hblk : block? { s with cur := some c } f.blk = some b := hb
  simp only [runSlot, hlane, Option.bind_some, hblk, Option.map_some, hfetch]

/-- The first batch that does not wait is the one that issues (R35). -/
theorem tryBatches_next {s t : State} {c : Cur} (cs : List Cur) (h : runSlot c s = .next t) (hw : stillWaits t c = false) :
    tryBatches s (c :: cs) = .next (issuedBy s c t) := by
  simp only [tryBatches, h, hw, Bool.false_eq_true, if_false]

theorem tryBatches_fault {s : State} {c : Cur} {e : Fault} (cs : List Cur) (h : runSlot c s = .fault e) :
    tryBatches s (c :: cs) = .fault e := by
  simp only [tryBatches, h]

/-- A port that has not issued in this cycle, and that no SYSWR of another stops, looks at its batches without slots and tries the others
(R35, R42, R364). -/
theorem runPort_tries {s : State} {core port : Nat} (hsys : s.sysAt ≠ s.now + 1) (hissued : (portOf s core port).issued ≠ s.now + 1) :
    let u := (distinct ((waitingLoose s core port).map (·.bat))).foldl (recheck core port) s
    runPort core port s = tryBatches u (portOrder u core port) := by
  simp only [runPort, beq_eq_false_iff_ne.mpr hsys, beq_eq_false_iff_ne.mpr hissued, Bool.or_self, Bool.false_eq_true, if_false]

theorem step_moves {s : State} {m : Sched} {ms : List Sched} (h : s.agenda = m :: ms) :
    step s = runMove m.mover { s with agenda := ms, now := s.now + m.dt } := by
  simp only [step, h]

/-- Settles O54: `step_moves`, `runPort_tries`, `tryBatches_next` and `runSlot_bytes` in turn lead from the step to the decoded instruction. -/
theorem stepRunsDecoded : Obligations.StepRunsDecoded := by
  intro s m ms hagenda r
  refine ⟨?_, ?_⟩
  · intro core port c cs f b k v hm hboot hsys hissued u horder hf hb hfetch w
    have hstep : step s = tryBatches u (c :: cs) := by
      rw [step_moves hagenda, hm, ← horder]
      exact (if_neg (ne_true_of_eq_false hboot)).trans (runPort_tries hsys hissued)
    have hslot : runSlot c u = runBytes k v w := runSlot_bytes hf hb hfetch
    refine ⟨fun i rest hdec => ?_, fun e t hdec hrun hw => ?_⟩
    · rw [runBytes_ok hdec] at hslot
      exact ⟨fun t hrun hw => hstep.trans (tryBatches_next cs (hslot.trans hrun) hw),
        fun e hrun => hstep.trans (tryBatches_fault cs (hslot.trans hrun))⟩
    · rw [runBytes_error hdec] at hslot
      exact hstep.trans (tryBatches_next cs (hslot.trans hrun) hw)
  · intro i hm hgo
    rw [step_moves hagenda, hm]
    refine if_neg ?_
    obtain h | h := hgo <;> simp [r, h]

end Sys2Proof.Machine
end
section
/-!
LAWS. Sorted lists, records that are found, and the keys of fibres, which no operation on a fibre changes.
-/
namespace Sys2Proof.Machine

/-! ### Sorting and finding -/

theorem mem_insBy {α : Type} {w : α → Nat} {x y : α} {l : List α} : y ∈ insBy w x l ↔ y = x ∨ y ∈ l := by
  induction l with
  | nil => simp [insBy]
  | cons z zs ih =>
    simp only [insBy]
    split
    · simp
    · simp only [List.mem_cons, ih]
      exact or_left_comm

theorem mem_sortBy {α : Type} {w : α → Nat} {y : α} {l : List α} : y ∈ sortBy w l ↔ y ∈ l := by
  induction l with
  | nil => simp [sortBy]
  | cons x xs ih =>
    rw [show sortBy w (x :: xs) = insBy w x (sortBy w xs) from rfl, mem_insBy, ih, List.mem_cons]

/-- A record other than the default has been found. -/
theorem any_of_findD_ne {α : Type} {p : α → Bool} {d : α} {l : List α} (h : findD p d l ≠ d) : l.any p = true := by
  by_contra hn
  have hnone : l.find? p = none := by simpa using hn
  exact h (by simp [findD, hnone])

/-! ### Keys of fibres -/

@[simp] theorem Fibre.apply_key (f : Fibre) (d : PendDest) : (f.apply d).key = f.key := by
  obtain ⟨r, p, h⟩ := f.apply_only d
  rw [h]

theorem foldl_key {α : Type} {g : Fibre → α → Fibre} (hg : ∀ f x, (g f x).key = f.key) (l : List α) (f : Fibre) :
    (l.foldl g f).key = f.key := by
  induction l generalizing f with
  | nil => rfl
  | cons x xs ih => rw [List.foldl_cons, ih, hg]

@[simp] theorem Fibre.landAll_key (f : Fibre) : f.landAll.key = f.key := by
  refine foldl_key (fun g e => ?_) f.pend f
  split <;> simp

@[simp] theorem Fibre.comeHome_key (f : Fibre) : f.comeHome.key = f.key := by
  unfold Fibre.comeHome
  split <;> rfl

@[simp] theorem Fibre.writeNow_key (f : Fibre) (d : PendDest) : (f.writeNow d).key = f.key := by
  refine (Fibre.apply_key _ d).trans (foldl_key (fun g e => ?_) f.pend f)
  split <;> simp

@[simp] theorem Fibre.settle_key (a : Acted) (len dist next age : Nat) (f : Fibre) : (f.settle a len dist next age).key = f.key := by
  unfold Fibre.settle
  generalize fateOf a.fates f = x
  cases x with
  | none => exact Fibre.advance_key ..
  | some y =>
    cases y with
    | go p | back p | leave p => exact Fibre.advance_key _ p dist next
    | stay | trap | unres | name | gone | depart => rfl

theorem keys_filter_subset {ls : List FKey} {l : List Fibre} {p : Fibre → Bool} (h : ∀ f ∈ l, f.key ∈ ls) :
    (l.filter p).map (·.key) ⊆ ls := by
  intro k hk
  obtain ⟨f, hf, rfl⟩ := List.mem_map.mp hk
  exact h f (List.mem_of_mem_filter hf)

theorem keys_filter (ls : List Fibre) (p : Fibre → Bool) : (ls.filter p).map (·.key) ⊆ ls.map (·.key) :=
  keys_filter_subset fun f hf => List.mem_map.mpr ⟨f, hf, rfl⟩

end Sys2Proof.Machine
end

section
/-!
LAWS. What the issue of a lane operation leaves alone: `LaneKept` says that a state is as another was but for the lanes of a batch and what a batch's
issue keeps of its own (places, fresh numbers, partition records, notes of waits and of idle units). Each operation that an issue is made of keeps it.
-/
namespace Sys2Proof.Machine

/-! ### The frame -/

/-- A state without what the issue of a lane operation may change: fibres and slots, ports, partition records, fresh numbers, and the notes of waits, of
idle units and of requests. -/
def State.beyondLanes (s : State) : State :=
  { s with
    fibres := [], slots := [], ports := [], partns := [], seq := 0, nextJoin := 0, idleAt := [], reqAt := []
    lathes := s.lathes.map fun l => { l with waits := [] } }

/-- In `t` everything is as in `s` but for the fibres of the keys `ks`, and for ports where not all of those are at home. -/
structure LaneKept (home : Prop) (ks : List FKey) (s t : State) : Prop where
  rest : t.beyondLanes = s.beyondLanes
  ports : home → t.ports = s.ports
  fibres : ∀ k, k ∉ ks → fibre? t k = fibre? s k

section
variable {home : Prop} {ks : List FKey} {s t u : State}

theorem LaneKept.refl (home : Prop) (ks : List FKey) (s : State) : LaneKept home ks s s := ⟨rfl, fun _ => rfl, fun _ _ => rfl⟩

theorem LaneKept.trans (h : LaneKept home ks s t) (h' : LaneKept home ks t u) : LaneKept home ks s u :=
  ⟨h'.rest.trans h.rest, fun hh => (h'.ports hh).trans (h.ports hh), fun k hk => (h'.fibres k hk).trans (h.fibres k hk)⟩

/-- An update that changes no fibre. -/
theorem LaneKept.of_fibres (hrest : t.beyondLanes = s.beyondLanes) (hports : home → t.ports = s.ports) (hf : t.fibres = s.fibres) :
    LaneKept home ks s t := ⟨hrest, hports, fun k _ => by simp only [fibre?, hf]⟩

theorem LaneKept.ite {c : Prop} [Decidable c] (ht : LaneKept home ks s t) (hu : LaneKept home ks s u) :
    LaneKept home ks s (if c then t else u) := by split <;> assumption

theorem LaneKept.fencePend_eq (h : LaneKept home ks s t) : t.fencePend = s.fencePend := (congrArg State.fencePend h.rest :)

theorem LaneKept.foldl {α : Type} {g : State → α → State} {l : List α} (hg : ∀ s, ∀ x ∈ l, LaneKept home ks s (g s x)) (s : State) :
    LaneKept home ks s (l.foldl g s) := by
  induction l generalizing s with
  | nil => exact .refl ..
  | cons x xs ih => exact (hg s x (by simp)).trans (ih (fun s y hy => hg s y (by simp [hy])) _)

/-! ### Changes of fibres -/

theorem fibre?_setFibres_ne {ls : List FKey} {g : Fibre → Fibre} (hg : ∀ f, (g f).key = f.key) {k : FKey} (hk : k ∉ ls) (s : State) :
    fibre? (setFibres s ls g) k = fibre? s k := by
  rw [fibre?_setFibres s ls g k hg]
  cases h : fibre? s k with
  | none => rfl
  | some f => simp [fibre?_key h, hk]

theorem setFibres_kept {ls : List FKey} {g : Fibre → Fibre} (hg : ∀ f, (g f).key = f.key) (hls : ls ⊆ ks) (s : State) :
    LaneKept home ks s (setFibres s ls g) :=
  ⟨rfl, fun _ => rfl, fun _ hk => fibre?_setFibres_ne hg (fun h => hk (hls h)) s⟩

theorem takeSlot_kept {ls : List FKey} (hls : ls ⊆ ks) (s : State) (c : Cur) (age next bid : Nat) :
    LaneKept home ks s (takeSlot s c ls age next bid) :=
  (setFibres_kept (by intro; rfl) hls s).trans (.of_fibres rfl (fun _ => rfl) rfl)

theorem placeBatch_kept {ls : List FKey} (hls : ls ⊆ ks) (s : State) (core port age next : Nat) :
    LaneKept home ks s (placeBatch s core port ls age next) := by
  unfold placeBatch
  split
  · exact setFibres_kept (by intro; rfl) hls s
  · exact (LaneKept.of_fibres rfl (fun _ => rfl) rfl : LaneKept home ks s s.fresh).trans (takeSlot_kept hls ..)

theorem pushAll_kept {ls : List Fibre} (hls : ls.map (·.key) ⊆ ks) (s : State) : LaneKept home ks s (pushAll s ls) :=
  (setFibres_kept (by intro; rfl) hls s).trans (.of_fibres rfl (fun _ => rfl) rfl)

theorem cleanSlots_kept (s : State) : LaneKept home ks s (cleanSlots s) := .of_fibres rfl (fun _ => rfl) rfl

theorem startReturn_kept {ls : List FKey} (hls : ls ⊆ ks) (s : State) : LaneKept home ks s (startReturn s ls) :=
  (setFibres_kept (by intro; rfl) hls s).trans (cleanSlots_kept _)

theorem waitBatch_kept {ls : List Fibre} (hls : ls.map (·.key) ⊆ ks) (s : State) (mx : Bool) : LaneKept home ks s (waitBatch s ls mx) :=
  setFibres_kept (by intro f; split <;> rfl) hls s

/-! ### Notes: rows, waits, idle units -/

theorem touch_kept (s : State) (a : Nat) : LaneKept home ks s (touch s a) := by
  unfold touch
  split
  · exact .of_fibres rfl (fun _ => rfl) rfl
  · exact .refl ..

theorem noteWake_kept (s : State) (u : Nat) : LaneKept home ks s (noteWake s u) := .ite (.of_fibres rfl (fun _ => rfl) rfl) (.refl ..)

theorem noteIdle_kept (s : State) (cluster : Nat) : LaneKept home ks s (noteIdle s cluster) :=
  .ite (.refl ..) (.of_fibres rfl (fun _ => rfl) rfl)

/-- A lathe that has regions is listed, and a change of its waits changes no more. -/
theorem setLathe_kept {k : Nat} {g : Lathe → Lathe} (hg : ∀ l, { g l with waits := [] } = { l with waits := [] })
    (h : (latheOf s k).regions ≠ []) : LaneKept home ks s (setLathe s k g) := by
  have hany : s.lathes.any (fun x => x.stack == k) = true := any_of_findD_ne (d := Lathe.empty k) fun e => h (congrArg Lathe.regions e)
  have hlathes : ((setLathe s k g).lathes.map fun l => { l with waits := [] }) = s.lathes.map fun l => { l with waits := [] } := by
    simp only [setLathe, upsert, hany, if_true, List.map_map]
    refine List.map_congr_left fun l _ => ?_
    simp only [Function.comp_apply]
    split
    · exact hg l
    · rfl
  exact .of_fibres (congrArg (fun x => { s.beyondLanes with lathes := x }) hlathes) (fun _ => rfl) rfl

theorem noteWait_kept (s : State) (a : Nat) : LaneKept home ks s (noteWait s a) := by
  unfold noteWait
  split
  · exact .refl ..
  · dsimp only
    split
    · exact noteWake_kept ..
    · rename_i hfind
      refine (noteWake_kept ..).trans (setLathe_kept (fun l => ?_) (List.ne_nil_of_mem (List.mem_of_find?_eq_some hfind)))
      split <;> rfl

/-! ### Traps -/

theorem logTrap_kept (s : State) (p : Nat) (r : TrapRec) : LaneKept home ks s (logTrap s p r) := .of_fibres rfl (fun _ => rfl) rfl

theorem takeTrap_kept {ls : List FKey} (hls : ls ⊆ ks) (s : State) (p code : Nat) (info : BitVec 64) (detail : Nat) (cmp : Bool) :
    LaneKept home ks s (takeTrap s p ls code info detail cmp) := by
  unfold takeTrap
  extract_lets a fs v stops goes rec' e
  have hmem : ∀ f ∈ fs, f.key ∈ ks := by
    intro f hf
    have hf := List.mem_filter.mp (mem_sortBy.mp hf)
    exact hls (by simpa using hf.2)
  have ha : LaneKept home ks s a := setFibres_kept (by intro f; simp) hls s
  have he : LaneKept home ks s e := ha.trans (setFibres_kept (by intro; rfl) (keys_filter_subset hmem) a)
  have hstops : stops.map (·.key) ⊆ ks := keys_filter_subset hmem
  clear_value e stops
  cases stops with
  | nil => exact he
  | cons f fs =>
    have hlog : LaneKept home ks s (logTrap e p (rec' f)) := he.trans (logTrap_kept ..)
    exact (hlog.trans (setFibres_kept (by intro; rfl) hstops _)).trans (.of_fibres rfl (fun _ => rfl) rfl)

/-! ### The end of an issue -/

variable {ls : List Fibre}

theorem placeGroups_kept (hls : ls.map (·.key) ⊆ ks) (c : Cur) (a : Acted) (len age next bid : Nat) (s : State) (ws : List Nat) :
    LaneKept home ks s (placeGroups c ls a len age next bid s ws) := by
  induction ws generalizing s with
  | nil => exact .refl ..
  | cons w ws ih =>
    have hks := List.Subset.trans (keys_filter ls fun f => goKey a len f == some w) hls
    exact (LaneKept.ite (takeSlot_kept hks ..) (placeBatch_kept hks ..)).trans (ih _)

theorem stopGroups_kept (hls : ls.map (·.key) ⊆ ks) (p : Nat) (fates : List (FKey × Fate)) (s : State) (ws : List Nat) :
    LaneKept home ks s (stopGroups p ls fates s ws) := by
  induction ws generalizing s with
  | nil => exact .refl ..
  | cons w ws ih =>
    have hks := List.Subset.trans (keys_filter ls fun f => stopsFate (fateOf fates f) && fragOf (fateOf fates f) == w) hls
    refine LaneKept.trans ?_ (ih _)
    split
    · exact takeTrap_kept hks ..
    · exact setFibres_kept (by intro; rfl) hks s
    · exact setFibres_kept (by intro; rfl) hks s
    · exact .refl ..

theorem finish_kept (hls : ls.map (·.key) ⊆ ks) (c : Cur) (b : Block) (len dist : Nat) (a : Acted) :
    LaneKept home ks a.s (finish c b ls len dist a) := by
  unfold finish
  extract_lets s1 age d s2 next s3 s4 s5
  have h1 : LaneKept home ks a.s s1 := .ite (pushAll_kept hls _) (.refl ..)
  have h2 : LaneKept home ks s1 s2 := .ite (.refl ..) (.of_fibres rfl (fun _ => rfl) rfl)
  have h3 : LaneKept home ks s2 s3 := setFibres_kept (by simp) hls _
  have h4 : LaneKept home ks s3 s4 := .of_fibres rfl (fun _ => rfl) rfl
  have h5 : LaneKept home ks s4 s5 := placeGroups_kept hls ..
  exact ((((h1.trans h2).trans h3).trans h4).trans h5).trans (stopGroups_kept hls ..)

/-- A release of lanes that are not all at home changes their ports and what they note of its markers (R167). -/
theorem released_kept (hls : ls.map (·.key) ⊆ ks) (hhome : home → ls = []) (s : State) (scope : Nat) :
    LaneKept home ks s (released s ls scope).1 := by
  cases ls with
  | nil => exact .refl ..
  | cons f fs =>
    have hnot : ¬home := fun h => by cases hhome h
    have hports : ∀ {t u : State}, u.beyondLanes = t.beyondLanes → u.fibres = t.fibres → LaneKept home ks t u :=
      fun hrest hf => .of_fibres hrest (fun h => absurd h hnot) hf
    have hclear : ∀ t : State, LaneKept home ks t (clearMask t f.loc f.key.port scope) :=
      fun t => .ite (.refl ..) (hports rfl rfl)
    unfold released
    dsimp only
    split_ifs
    · exact .refl ..
    · exact .refl ..
    · exact hclear s
    · exact (hports rfl rfl : LaneKept home ks s (sendMarkers s f.loc f.key.port scope).1).trans (setFibres_kept (by intro; rfl) hls _)
    · exact .refl ..
    · exact (setFibres_kept (by intro; rfl) hls s).trans (hclear _)

/-- Where no unit waits to be fenced, the going of a guest fences none (R385). -/
theorem guestLeft_kept (h : s.fencePend = []) (core : Nat) : LaneKept home ks s (guestLeft s core) := by
  have hidle : LaneKept home ks s (noteIdle s (core / 4)) := noteIdle_kept ..
  have hdue : fenceDue (noteIdle s (core / 4)) = noteIdle s (core / 4) := by simp [fenceDue, hidle.fencePend_eq, h]
  rw [guestLeft, hdue]
  exact hidle

theorem foldl_guestLeft_kept {goers : List Fibre} (h : s.fencePend = [] ∨ goers = []) :
    LaneKept home ks s (goers.foldl (fun t f => guestLeft t f.loc) s) := by
  induction goers generalizing s with
  | nil => exact .refl ..
  | cons f fs ih =>
    have hs : s.fencePend = [] := h.resolve_right (by simp)
    have hone : LaneKept home ks s (guestLeft s f.loc) := guestLeft_kept hs _
    exact hone.trans (ih (.inl (hone.fencePend_eq.trans hs)))

/-! ### An issue -/

/-- The end of an issue whose effect keeps the frame, for lanes at home or where no unit waits to be fenced. -/
theorem conclude_kept {c : Cur} {b : Block} {use : Use} {a : Acted} (ha : LaneKept home (ls.map (·.key)) s a.s)
    (hhome : home → ∀ f ∈ ls, f.away = false) (hpend : s.fencePend = [] ∨ ∀ f ∈ ls, f.away = false)
    (e : conclude s c b ls use a = .next t) : LaneKept home (ls.map (·.key)) s t := by
  have hgoers : (∀ f ∈ ls, f.away = false) → trapGoers a.fates ls = [] := by
    intro h
    simp only [trapGoers, List.filter_eq_nil_iff]
    exact fun f hf => by simp [h f hf]
  have hkeys : (trapGoers a.fates ls).map (·.key) ⊆ ls.map (·.key) := keys_filter ..
  unfold conclude at e
  extract_lets goers vs at e
  have hrel : ∀ s, LaneKept home (ls.map (·.key)) s (released s goers 4).1 := fun s => released_kept hkeys (fun h => hgoers (hhome h)) s 4
  split at e
  · cases e; exact waitBatch_kept (List.Subset.refl _) _ _
  split at e
  · cases e; exact ha.trans (waitBatch_kept (List.Subset.refl _) _ _)
  split at e
  · cases e; exact (hrel s).trans (waitBatch_kept (List.Subset.refl _) _ _)
  split at e
  · cases e; exact (noteWait_kept ..).trans (waitBatch_kept (List.Subset.refl _) _ _)
  split at e
  · cases e
  · cases e
    have htouch : LaneKept home (ls.map (·.key)) a.s (vs.foldl touch a.s) := .foldl (fun s x _ => touch_kept s x) _
    have hfin := ((ha.trans htouch).trans (hrel _)).trans (finish_kept (List.Subset.refl (ls.map (·.key))) c b use.len (1 + use.stall)
      { a with s := (released (vs.foldl touch a.s) goers 4).1, renew := a.renew || use.y })
    exact hfin.trans (foldl_guestLeft_kept (hpend.imp hfin.fencePend_eq.trans hgoers))

theorem issue_none {use : Use} {act : State → Block → List Fibre → Acted} (hc : s.cur = none) : issue use act s = .next s := by
  simp only [issue, hc]

/-- An issue of batch `c` whose effect on lanes of the batch keeps the frame. -/
theorem issue_kept {use : Use} {act : State → Block → List Fibre → Acted} {c : Cur} (hc : s.cur = some c)
    (hact : ∀ b ls, ls ⊆ lanesOf s c → LaneKept home ((lanesOf s c).map (·.key)) s (act s b ls).s)
    (hhome : home → ∀ f ∈ lanesOf s c, f.away = false) (hpend : s.fencePend = [] ∨ ∀ f ∈ lanesOf s c, f.away = false)
    (e : issue use act s = .next t) : LaneKept home ((lanesOf s c).map (·.key)) s t := by
  have hstop : ∀ (b : Block) (use : Use) (fates : List (FKey × Fate)), conclude s c b (lanesOf s c) use (acted s fates) = .next t →
      LaneKept home ((lanesOf s c).map (·.key)) s t := fun b use fates e => conclude_kept (.refl ..) hhome hpend e
  unfold issue at e
  rw [hc] at e
  dsimp -zeta only at e
  extract_lets lanes at e
  split at e
  · cases e; exact .refl ..
  split at e
  · cases e; exact .refl ..
  split at e
  · cases e; exact startReturn_kept (keys_filter ..) _
  extract_lets hit rest at e
  split at e
  · exact hstop _ _ _ e
  split at e
  · exact hstop _ _ _ e
  split at e
  · cases e; exact waitBatch_kept (List.Subset.refl _) _ _
  split at e
  · exact hstop _ _ _ e
  · refine conclude_kept ?_ hhome hpend e
    exact hact _ _ (List.Subset.trans (List.filter_subset_self _) (List.filter_subset_self _))

/-- An operation on registers changes the lanes it acts on alone (R199, R202). -/
theorem regAct_kept {ls : List Fibre} (hls : ls.map (·.key) ⊆ ks) (lat : Option Nat) (check : Fibre → Option Nat)
    (out : Fibre → List PendDest) (s : State) : LaneKept home ks s (regAct lat check out s ls).s := by
  refine setFibres_kept (fun f => foldl_key (fun f d => ?_) (out f) f) (List.Subset.trans (keys_filter ls _) hls) s
  cases lat with
  | none => exact Fibre.writeNow_key f d
  | some l => rfl

end

end Sys2Proof.Machine
end

section
/-!
PROOFS. O59: a lane operation of form H, A, X or I leaves everything but the lanes of its batch as it was (R22, R185, R186, R191, R193).
-/
namespace Sys2Proof.Machine

/-- The meaning of a lane operation: an issue whose effect is an operation on registers. -/
def IsLaneOp (m : State → Result) : Prop :=
  ∃ use act, (∀ s, m s = issue use act s) ∧ ∀ s b ls, ∃ lat check out, act s b ls = regAct lat check out s ls

theorem op6A_isLaneOp (o : Op6) (f : FormA) : IsLaneOp (op6A o f) := ⟨_, _, fun _ => rfl, fun _ _ _ => ⟨_, _, _, rfl⟩⟩

theorem op6H_isLaneOp (o : Op6) (f : FormH) : IsLaneOp (op6H o f) := ⟨_, _, fun _ => rfl, fun _ _ _ => ⟨_, _, _, rfl⟩⟩

theorem op6X_isLaneOp (o : Op6) (h : Head) (f : OpX) : IsLaneOp (op6X o h f) := ⟨_, _, fun _ => rfl, fun _ _ _ => ⟨_, _, _, rfl⟩⟩

/-- MOV of form I writes its immediate, any other operation its result (R193). -/
theorem op6I_isLaneOp (o : Op6) (h : Head) (f : OpI) : IsLaneOp (op6I o h f) := by
  refine ⟨_, _, fun _ => rfl, fun s b ls => ?_⟩
  split <;> exact ⟨_, _, _, rfl⟩

/-! Each code of a form is the operation of the form's meaning (R185 to R187, R191, R193). -/

theorem exec_instrA (o : Op6) (f : FormA) : exec (instrA o f) = op6A o f := by cases o <;> rfl

theorem exec_instrX (o : Op6) (h : Head) (f : OpX) : exec (instrX o h f) = op6X o h f := by cases o <;> rfl

theorem exec_instrH {n : Nat} {f : FormH} {i : Instr} (h : instrH n f = some i) : ∃ o, exec i = op6H o f := by
  unfold instrH at h
  split at h <;> cases h <;> exact ⟨_, rfl⟩

theorem exec_instrI {o : Op6} {hd : Head} {f : OpI} {i : Instr} (h : instrI o hd f = some i) : exec i = op6I o hd f := by
  cases o <;> cases h <;> rfl

/-- Settles O59: every form's meaning is an issue of an operation on registers, which keeps the frame (`issue_kept`, `regAct_kept`). -/
theorem laneFrame : Obligations.LaneFrame := by
  intro i s t hform e hpend
  have hop : IsLaneOp (exec i) := by
    obtain ⟨o, ⟨x, rfl⟩ | ⟨x, hi⟩ | ⟨h, x, rfl⟩ | ⟨h, x, hi⟩⟩ := hform
    · exact exec_instrA o x ▸ op6A_isLaneOp o x
    · obtain ⟨o', ho⟩ := exec_instrH hi
      exact ho ▸ op6H_isLaneOp o' x
    · exact exec_instrX o h x ▸ op6X_isLaneOp o h x
    · exact exec_instrI hi ▸ op6I_isLaneOp o h x
  obtain ⟨use, act, hexec, hreg⟩ := hop
  rw [hexec] at e
  have hkept : ∀ c, s.cur = some c → LaneKept (∀ f ∈ lanesOf s c, f.away = false) ((lanesOf s c).map (·.key)) s t := by
    intro c hc
    refine issue_kept hc (fun b ls hls => ?_) id (hpend.imp_right fun h => h c hc) e
    obtain ⟨lat, check, out, hact⟩ := hreg s b ls
    rw [hact]
    exact regAct_kept (List.map_subset _ hls) lat check out s
  have hrest : t.beyondLanes = s.beyondLanes ∧ ((∀ c, s.cur = some c → ∀ f ∈ lanesOf s c, f.away = false) → t.ports = s.ports) := by
    cases hc : s.cur with
    | none =>
      rw [issue_none hc] at e
      cases e
      exact ⟨rfl, fun _ => rfl⟩
    | some c => exact ⟨(hkept c hc).rest, fun h => (hkept c hc).ports (h c rfl)⟩
  obtain ⟨hrest, hports⟩ := hrest
  have field : ∀ {α : Type} (r : State → α), r t.beyondLanes = r s.beyondLanes := fun r => congrArg r hrest
  exact ⟨field State.mem, field State.capTags, field State.fullBits, field State.liveBits, field State.tiles, field State.parts,
    field State.sys, field State.blocks, field State.engines, field State.copies, field State.names, field State.queues, field State.msgs,
    field State.lathes,
    hports, fun c k hc hk => (hkept c hc).fibres k (by simpa using hk)⟩

end Sys2Proof.Machine
end
section
/-!
PROOFS. O51: the events of work, of batch slots, spawn bins and joins and of retirement (R22, R23, R28, R29, R32, R35, R39, R42, R45, R335).
`Obligations.WorkEvents` is a conjunction over the events; the lemmas stand in its order.
-/
namespace Sys2Proof.Machine

section
variable {s : State} {core port : Nat}

/-! ### Batch slots (R23, R35, R42) -/

theorem batcherFill_takes {f : Fibre} {fs : List Fibre} {i : Nat} (hloose : looseOf s core port = f :: fs) (hfree : freeSlot s core port = some i) :
    let g := oneEach (f :: fs.filter (sameBatch f))
    execBatcherFill core port s = .next (takeSlot s.fresh { core := core, port := port, slot := i } (g.map (·.key)) f.age
      (g.foldl (fun a x => max a x.next) 0) s.seq) := by
  simp only [execBatcherFill, hloose, hfree]

theorem looseOf_ready {f : Fibre} (h : f ∈ looseOf s core port) : f.run = .ready ∧ f.slot = none := by
  have hf := (List.mem_filter.mp (mem_sortBy.mp h)).2
  simp only [Bool.and_eq_true, beq_iff_eq, Option.isNone_iff_eq_none] at hf
  obtain ⟨⟨⟨⟨⟨hslot, -⟩, -⟩, hrun⟩, -⟩, -⟩ := hf
  exact ⟨hrun, hslot⟩

/-- Of the ready batches that have not issued for 4096 cycles the one whose last issue is longest ago is forced (R35). -/
theorem ageStarvationIssue_forces {x : Slot} (hnone : (portOf s core port).forced = none) (hx : x ∈ s.slots) (hcore : x.core = core)
    (hport : x.port = port) (hready : slotReady s x = true) (hlast : x.last + 4096 ≤ s.now)
    (hmin : ∀ y ∈ s.slots, y.core = core → y.port = port → slotReady s y = true → y ≠ x → x.last < y.last) :
    execAgeStarvationIssue core port s = .next (setPort s core port fun p => { p with forced := some x.idx }) := by
  have hhead : (sortBy (fun y : Slot => y.last) ((s.slots.filter fun y => y.core == core && y.port == port).filter fun y =>
      slotReady s y && decide (y.last + 4096 ≤ s.now))).head? = some x := by
    refine head?_sortBy (by simp [hx, hcore, hport, hready, hlast]) fun y hy hne => ?_
    simp only [List.mem_filter, Bool.and_eq_true, beq_iff_eq, decide_eq_true_eq] at hy
    obtain ⟨⟨hy, hyc, hyp⟩, hyr, -⟩ := hy
    exact hmin y hy hyc hyp hyr hne
  obtain ⟨xs, hsort⟩ := List.head?_eq_some_iff.mp hhead
  simp only [execAgeStarvationIssue, hnone, Option.any_none, Bool.false_eq_true, if_false, hsort]

theorem mem_lanesOf {c : Cur} {f : Fibre} :
    f ∈ lanesOf s c ↔ f ∈ s.fibres ∧ f.slot = some c.slot ∧ f.loc = c.core ∧ f.key.port = c.port := by
  simp only [lanesOf, mem_sortBy, List.mem_filter, Bool.and_eq_true, beq_iff_eq, and_assoc]

/-- A batch taken out of its slot leaves no lane in it. -/
theorem lanesOf_unslotted (s : State) (c : Cur) :
    lanesOf (setFibres s ((lanesOf s c).map (·.key)) fun f => { f with slot := none }) c = [] := by
  rw [List.eq_nil_iff_forall_not_mem]
  intro f hf
  obtain ⟨hf, hslot, hplace⟩ := mem_lanesOf.mp hf
  obtain ⟨g, hg, rfl⟩ := List.mem_map.mp hf
  split at hslot
  · cases hslot
  · rename_i hkey
    rw [if_neg hkey] at hplace
    exact hkey (List.contains_iff_mem.mpr (List.mem_map_of_mem (mem_lanesOf.mpr ⟨hg, hslot, hplace⟩)))

/-- A lane that has waited for 64 cycles, before issue or in its wait (R42). -/
theorem waitedFrom_due {t : Slot} {f : Fibre} (hrun : ∃ w, f.run = .waiting w) (hlast : t.last + 64 ≤ s.now)
    (hretry : f.run = .waiting .retry → f.waitSince + 64 ≤ s.now) : (waitedFrom t f).any (fun a => decide (a + 64 ≤ s.now)) = true := by
  obtain ⟨w, hw⟩ := hrun
  by_cases hr : w = .retry
  · subst hr
    have := hretry hw
    simp only [waitedFrom, hw, Option.any_some, decide_eq_true_eq]
    omega
  · have hfrom : waitedFrom t f = some t.last := by
      unfold waitedFrom
      rw [hw]
      cases w with
      | retry => exact absurd rfl hr
      | _ => rfl
    simpa [hfrom] using hlast

theorem lanesOf_setPort (s : State) (core port : Nat) (g : Port → Port) (c : Cur) : lanesOf (setPort s core port g) c = lanesOf s c := rfl

theorem slotRelease_releases {x : Nat} {f : Fibre} {t : Slot} (ht : slot? s { core := core, port := port, slot := x } = some t) :
    let c : Cur := { core := core, port := port, slot := x }
    f ∈ lanesOf s c → (∃ w, f.run = .waiting w) → t.last + 64 ≤ s.now → (f.run = .waiting .retry → f.waitSince + 64 ≤ s.now) →
    ∃ u, execSlotRelease core port x s = .next u ∧ (∀ k, k ∈ (lanesOf s c).map (·.key) → ∀ g, fibre? u k = some g → g.slot = none)
      ∧ slot? u c = none ∧ u.mem = s.mem := by
  intro c hf hrun hlast hretry
  have hany : (lanesOf s c).any (fun f => (waitedFrom t f).any fun a => decide (a + 64 ≤ s.now)) = true :=
    List.any_eq_true.mpr ⟨f, hf, waitedFrom_due hrun hlast hretry⟩
  have hexec : execSlotRelease core port x s = .next (dropSlot (setPort (setFibres s ((lanesOf s c).map (·.key)) fun f => { f with slot := none })
      core port fun p => { p with forced := if p.forced == some x then none else p.forced }) c) := by
    simp only [execSlotRelease, ht, c, hany, if_true]
  refine ⟨_, hexec, ?_⟩
  simp only [dropSlot, lanesOf_setPort, lanesOf_unslotted, List.isEmpty_nil, if_true]
  refine ⟨fun k hk g hg => ?_, slot?_filter _ _, by simp⟩
  have hg : fibre? (setFibres s ((lanesOf s c).map (·.key)) fun f => { f with slot := none }) k = some g := hg
  rw [fibre?_setFibres s _ _ _ (by intro; rfl)] at hg
  obtain ⟨f, hf, rfl⟩ := Option.map_eq_some_iff.mp hg
  rw [fibre?_key hf, if_pos (List.contains_iff_mem.mpr hk)]

/-! ### Bins and joins (R29, R32, R45) -/

theorem binLaunch_launches {x : Bin} (hx : (portOf s core port).bins.find? (fun y => y.idx == x.idx) = some x)
    (hgo : ∀ q y, part? s core x.bp = some q → block? s q.blk = some y → y.frozen = false)
    (hdue : 32 ≤ x.ctxs.length ∨ x.start + x.timer ≤ s.now) :
    execBinLaunch core port x.idx s = .next (launchBin s core port x.idx) := by
  have hfree : ((part? s core x.bp).bind fun q => block? s q.blk).any Block.frozen = false := by
    cases hq : part? s core x.bp with
    | none => rfl
    | some q =>
      cases hy : block? s q.blk with
      | none => simp [hy]
      | some y => simp [hy, hgo q y hq hy]
  simp only [execBinLaunch, hx, hfree]
  exact if_pos (by simpa using hdue)

theorem joinComplete_of_ready {b : Block} (hb : block? s b.id = some b) (part id : Nat) :
    let l := joinSet s b.id (4 * b.cluster + part / 64) (part % 64) id
    execJoinComplete b.id part id s = if joinReady l then .next (joinDone s l) else .next s := by
  simp only [execJoinComplete, hb]

/-! ### Retirement (R28, R39, R397) -/

section
variable {b : Block} (hb : block? s b.id = some b) (hdone : b.done = false) (hover : blockOver s b = true)
include hb hdone hover

theorem blockRetire_member {g : Nat} (hgang : b.gang = some g) :
    execBlockRetire b.id s = .next (setBlock s b.id fun b => { b with done := true }) := by
  simp only [execBlockRetire, hb, hdone, hover, hgang, Bool.not_true, Bool.or_self, Bool.false_eq_true, if_false, Option.isSome_some, if_true]

theorem blockRetire_held (hgang : b.gang = none) {a : Nat} (hheld : closeHeld s b.part [b.id] = some a) :
    execBlockRetire b.id s = .next (noteWait s a) := by
  simp only [execBlockRetire, hb, hdone, hover, hgang, hheld, Bool.not_true, Bool.or_self, Bool.false_eq_true, if_false, Option.isSome_none]

theorem blockRetire_retires (hgang : b.gang = none) (hfree : closeHeld s b.part [b.id] = none) :
    execBlockRetire b.id s = .next (retireBlock s b) := by
  simp only [execBlockRetire, hb, hdone, hover, hgang, hfree, Bool.not_true, Bool.or_self, Bool.false_eq_true, if_false, Option.isSome_none]

end

/-- A block with a fibre that has not exited is not over (R28). -/
theorem blockOver_of_alive {b : Block} {f : Fibre} (hf : f ∈ s.fibres) (hblk : f.blk = b.id) (hrun : f.run ≠ .exited) :
    blockOver s b = false := by
  have halive : (aliveOf s b.id).isEmpty = false := by
    rw [List.isEmpty_eq_false_iff]
    exact List.ne_nil_of_mem (List.mem_filter.mpr ⟨hf, by simp [hblk, hrun]⟩)
  simp only [blockOver, halive, Bool.false_and]

theorem blockRetire_alive {b : Block} (hb : block? s b.id = some b) (hover : blockOver s b = false) : execBlockRetire b.id s = .next s := by
  simp only [execBlockRetire, hb, hover, Bool.not_false, Bool.or_true, if_true]

theorem gangRetire_done {g : Gang} (hg : gang? s g.id = some g)
    (hdone : ∀ m ∈ g.members, ∃ b, block? s m = some b ∧ b.done = true ∧ closeHeld s b.part g.members = none) :
    execGangRetire g.id s = .next
      (let t := (g.members.filterMap (block? s)).foldl retireBlock (leaveRound s g)
       { t with gangs := t.gangs.filter (fun x => x.id != g.id) }) := by
  have hall : g.members.all (fun m => (block? s m).any (·.done)) = true := by
    rw [List.all_eq_true]
    intro m hm
    obtain ⟨b, hb, hd, -⟩ := hdone m hm
    simp [hb, hd]
  have hfree : ((g.members.filterMap (block? s)).head?.bind fun b => closeHeld s b.part g.members) = none := by
    cases hbs : (g.members.filterMap (block? s)).head? with
    | none => rfl
    | some b =>
      obtain ⟨m, hm, hb⟩ := List.mem_filterMap.mp (List.mem_of_head? hbs)
      obtain ⟨b', hb', -, hheld⟩ := hdone m hm
      cases hb.symm.trans hb'
      exact hheld
  simp only [execGangRetire, hg, hall, if_true, hfree]

/-! ### Kernels that have completed (R335) -/

theorem mem_overKernels {k : Kernel} : k ∈ overKernels s ↔ k ∈ s.kernels ∧ k.total ≤ k.nextBlk ∧ k.liveBlks = 0 := by
  simp only [overKernels, List.mem_filter, Kernel.over, Bool.and_eq_true, decide_eq_true_eq, beq_iff_eq]

@[simp] theorem touch_kernels (s : State) (a : Nat) : (touch s a).kernels = s.kernels := by
  unfold touch
  split <;> rfl

/-- Cell of the completion word of a kernel's queue (R335, R382). -/
def doneCell (s : State) (k : Kernel) : Nat :=
  if k.part = 8 then (queueOf s k.part k.queue).doneAddr.toNat else Config.hostBase + (queueOf s k.part k.queue).doneAddr.toNat

/-- The completion word of the first kernel is written, where nothing holds its cell back (R99, R335). -/
theorem kernelComplete_first {k : Kernel} (hk : kernel? s k.id = some k) (hfirst : (overKernels s).head? = some k)
    (hmap : mapped (doneCell s k) = true) :
    execKernelComplete k.id s =
      if rowWaits s (doneCell s k) then .next (noteWait s (doneCell s k))
      else
        let t := (touch s (doneCell s k)).write (doneCell s k) 8 k.doneVal.toNat
        .next { t with kernels := t.kernels.filter (fun x => x.id != k.id) } := by
  have hover : k.over = true := (List.mem_filter.mp (List.mem_of_head? hfirst)).2
  have hcell : (if k.part == monPart then (queueOf s k.part k.queue).doneAddr.toNat
      else Config.hostBase + (queueOf s k.part k.queue).doneAddr.toNat) = doneCell s k := by
    simp only [doneCell, monPart, beq_iff_eq]
  simp only [execKernelComplete, hk, hover, hfirst, Option.any_some, bne_self_eq_false, hcell, hmap, Bool.not_true, Bool.or_self,
    Bool.false_eq_true, if_false]

/-- A kernel that completed after another waits for its turn (R335). -/
theorem kernelComplete_later {k x : Kernel} (hk : kernel? s k.id = some k) (hfirst : (overKernels s).head? = some x) (hne : x.id ≠ k.id) :
    execKernelComplete k.id s = .next s := by
  simp only [execKernelComplete, hk, hfirst, Option.any_some, bne_iff_ne.mpr hne, Bool.or_true, if_true]

end

/-- Settles O51: each event has its lemma above, whose conclusion is the clause. -/
theorem workEvents : Obligations.WorkEvents := by
  intro s core port
  refine ⟨fun f fs i => batcherFill_takes, fun f => looseOf_ready, fun x => ageStarvationIssue_forces, ?_, fun x => binLaunch_launches, ?_, ?_, ?_,
    fun g => gangRetire_done, ?_, fun k x => kernelComplete_later, fun k => mem_overKernels⟩
  · exact fun x f t ht => slotRelease_releases ht
  · exact fun b part id hb => ⟨fun h => (joinComplete_of_ready hb part id).trans (if_pos h),
      fun h => (joinComplete_of_ready hb part id).trans (if_neg (ne_true_of_eq_false h))⟩
  · exact fun b hb hdone hover => ⟨blockRetire_retires hb hdone hover, fun a hgang hheld => blockRetire_held hb hdone hover hgang hheld,
      fun g hgang => blockRetire_member hb hdone hover hgang⟩
  · rintro b hb ⟨f, hf, hblk, hrun⟩
    exact blockRetire_alive hb (blockOver_of_alive hf hblk hrun)
  · intro k hk hfirst a cell
    refine ⟨fun hmap hrow => ⟨_, (kernelComplete_first hk hfirst hmap).trans (if_neg (ne_true_of_eq_false hrow)), ?_, ?_⟩,
      fun hmap hrow => (kernelComplete_first hk hfirst hmap).trans (if_pos hrow)⟩
    · exact congrArg (writeMem · cell k.doneVal.toNat 8) (touch_mem s cell)
    · simp

end Sys2Proof.Machine
end
section
/-!
LAWS. Launch queues by their numbers: what a look-up finds after a write of a queue, after a halt, after a TAIL that is seen, and after the halt of the
queues of a partition whose clusters are all fenced (R325, R328, R385).
-/
namespace Sys2Proof.Machine

/-! ### Records of a list -/

theorem findD_map {α : Type} {p : α → Bool} {d : α} {g : α → α} (hd : g d = d) (hg : ∀ x, p (g x) = p x) (l : List α) :
    findD p d (l.map g) = g (findD p d l) := by
  induction l with
  | nil => exact hd.symm
  | cons x xs ih =>
    simp only [findD, List.map_cons, List.find?_cons, hg] at ih ⊢
    cases p x with
    | true => rfl
    | false => exact ih

/-- What `upsert` changes is not found by another number. -/
theorem findD_upsert_ne {α : Type} {p p' : α → Bool} {d d' : α} {g : α → α} (hd : p' (g d) = false)
    (hg : ∀ x, p x = true → p' x = false ∧ p' (g x) = false) (l : List α) : findD p' d' (upsert p d g l) = findD p' d' l := by
  have hmap : (l.map fun x => if p x then g x else x).find? p' = l.find? p' := by
    induction l with
    | nil => rfl
    | cons x xs ih =>
      cases hx : p x with
      | true => simp [hx, hg x hx, ih]
      | false => simp [hx, List.find?_cons, ih]
  unfold upsert
  split
  · simp only [findD, hmap]
  · simp [findD, List.find?_append, hd]

theorem findD_mem_of_any {α : Type} {p : α → Bool} {d : α} {l : List α} (h : l.any p = true) : findD p d l ∈ l := by
  obtain ⟨x, hx⟩ := Option.isSome_iff_exists.mp (List.find?_isSome.mpr (List.any_eq_true.mp h))
  simpa only [findD, hx] using List.mem_of_find?_eq_some hx

theorem any_upsert {α : Type} {p : α → Bool} {d : α} {g : α → α} (hd : p (g d) = true) (hg : ∀ x, p x = true → p (g x) = true) (l : List α) :
    (upsert p d g l).any p = true := by
  unfold upsert
  split
  · rename_i h
    obtain ⟨x, hx, hp⟩ := List.any_eq_true.mp h
    exact List.any_eq_true.mpr ⟨g x, List.mem_map.mpr ⟨x, hx, if_pos hp⟩, hg x hp⟩
  · simp [hd]

/-- Of records with numbers of their own, each is the one that its number finds. -/
theorem find?_of_nodup {α β : Type} {p : α → Bool} {f : α → β} {l : List α} {x : α} (hn : (l.map f).Nodup) (hx : x ∈ l)
    (hp : ∀ y, p y = true ↔ f y = f x) : l.find? p = some x := by
  induction l with
  | nil => cases hx
  | cons y ys ih =>
    obtain ⟨hy, hn⟩ := List.nodup_cons.mp hn
    obtain rfl | hx := List.mem_cons.mp hx
    · exact List.find?_cons_of_pos ((hp x).mpr rfl)
    · have hne : ¬p y = true := fun h => hy ((hp y).mp h ▸ List.mem_map_of_mem hx)
      rw [List.find?_cons_of_neg hne]
      exact ih hn hx

/-! ### A queue that is written -/

section
variable {s : State} {part q : Nat} {g : LQueue → LQueue} (hg : ∀ x, (g x).part = x.part ∧ (g x).q = x.q)
include hg

theorem isQueue_of_keeps (x : LQueue) : isQueue part q (g x) = isQueue part q x := by simp only [isQueue, hg x]

theorem queueOf_setQueue : queueOf (setQueue s part q g) part q = g (queueOf s part q) :=
  findD_upsert (by simp [isQueue, LQueue.empty]) (fun x hx => (isQueue_of_keeps hg x).trans hx) _

theorem queueOf_setQueue_mem : queueOf (setQueue s part q g) part q ∈ (setQueue s part q g).queues :=
  findD_mem_of_any (any_upsert ((isQueue_of_keeps hg _).trans (by simp [isQueue, LQueue.empty])) (fun x hx => (isQueue_of_keeps hg x).trans hx) _)

theorem queueOf_setQueue_ne {part' q' : Nat} (h : ¬(part = part' ∧ q = q')) : queueOf (setQueue s part q g) part' q' = queueOf s part' q' := by
  have hne : ∀ x, isQueue part q x = true → isQueue part' q' x = false := by
    intro x hx
    simp only [isQueue, Bool.and_eq_true, beq_iff_eq] at hx
    simpa [isQueue, hx] using h
  refine findD_upsert_ne ?_ (fun x hx => ⟨hne x hx, (isQueue_of_keeps hg x).trans (hne x hx)⟩) _
  exact (isQueue_of_keeps hg _).trans (hne _ (by simp [isQueue, LQueue.empty]))

end

section
variable {s t : State} {part q : Nat}

theorem queueOf_key (s : State) (part q : Nat) : (queueOf s part q).part = part ∧ (queueOf s part q).q = q := by
  have hkey : isQueue part q (queueOf s part q) = true := findD_of_key (by simp [isQueue, LQueue.empty]) _
  simpa [isQueue] using hkey

theorem queueOf_congr (h : t.queues = s.queues) (part q : Nat) : queueOf t part q = queueOf s part q := by simp only [queueOf, h]

/-- A queue that is enabled has been written, and is listed. -/
theorem queueOf_mem (h : (queueOf s part q).en = true) : queueOf s part q ∈ s.queues := by
  refine findD_mem_of_any (any_of_findD_ne (d := LQueue.empty part q) fun e => ?_)
  rw [queueOf, e] at h
  cases h

theorem queueOf_of_mem {y : LQueue} (hn : (s.queues.map fun y => (y.part, y.q)).Nodup) (hy : y ∈ s.queues) : queueOf s y.part y.q = y := by
  have hfind : s.queues.find? (isQueue y.part y.q) = some y := find?_of_nodup hn hy fun z => by simp [isQueue]
  simp only [queueOf, findD, hfind]

theorem isQueueNo_of_lt (hp : part < 8) (hq : q < 32) : isQueueNo part q = true := by simp [isQueueNo, hp, hq]

/-! ### A queue that halts (R328) -/

/-- What a halt writes into a queue. -/
def LQueue.halted (index : BitVec 32) (err : Nat) (x : LQueue) : LQueue := { x with halt := true, index := index, err := BitVec.ofNat 8 err }

@[simp] theorem postHost_queues (s : State) (code part unit detail : Nat) : (postHost s code part unit detail).queues = s.queues := by
  simp only [postHost, putHm, setHmOvf]
  split_ifs <;> simp

theorem queueOf_haltQueue (s : State) (part q : Nat) (index : BitVec 32) (err part' q' : Nat) :
    queueOf (haltQueue s part q index err) part' q' =
      if part = part' ∧ q = q' then (queueOf s part q).halted index err else queueOf s part' q' := by
  have hset : queueOf (haltQueue s part q index err) part' q' = queueOf (setQueue s part q (LQueue.halted index err)) part' q' :=
    queueOf_congr (postHost_queues ..) _ _
  rw [hset]
  split
  · rename_i h
    obtain ⟨rfl, rfl⟩ := h
    exact queueOf_setQueue (fun x => ⟨rfl, rfl⟩)
  · rename_i h
    exact queueOf_setQueue_ne (g := LQueue.halted index err) (fun x => ⟨rfl, rfl⟩) h

/-! ### A TAIL that is seen (R325) -/

/-- What a queue makes of the TAIL that it has seen: too far past HEAD it halts with OVERRUN. -/
def LQueue.afterTail (x : LQueue) : LQueue := if x.en && !x.halt && x.overrun then x.halted x.head 5 else x

theorem LQueue.afterTail_halted {x : LQueue} (h : x.halt = true) : x.afterTail = x := by simp [afterTail, h]

theorem LQueue.afterTail_overrun {x : LQueue} (hen : x.en = true) (hhalt : x.halt = false) (hover : x.overrun = true) :
    x.afterTail = x.halted x.head 5 := by simp [afterTail, hen, hhalt, hover]

theorem LQueue.afterTail_afterTail (x : LQueue) : x.afterTail.afterTail = x.afterTail := by
  by_cases h : (x.en && !x.halt && x.overrun) = true
  · exact afterTail_halted (by simp [afterTail, h, halted])
  · simp [afterTail, h]

theorem queueOf_seeTail (s : State) (part q part' q' : Nat) :
    queueOf (seeTail s part q) part' q' = if part = part' ∧ q = q' then (queueOf s part q).afterTail else queueOf s part' q' := by
  simp only [seeTail, LQueue.afterTail]
  split
  · exact queueOf_haltQueue ..
  · split
    · rename_i h
      rw [h.1, h.2]
    · rfl

theorem queueOf_seeTail_halted (h : (queueOf s part q).halt = true) : queueOf (seeTail s part q) part q = queueOf s part q := by
  rw [queueOf_seeTail, if_pos ⟨rfl, rfl⟩, LQueue.afterTail_halted h]

/-- A queue that sees its TAIL, once or again, among others that see theirs. -/
theorem queueOf_foldl_seeTail (l : List LQueue) (t : State) (part q : Nat) :
    queueOf (l.foldl (fun s y => seeTail s y.part y.q) t) part q =
      if l.any (isQueue part q) then (queueOf t part q).afterTail else queueOf t part q := by
  induction l generalizing t with
  | nil => rfl
  | cons y ys ih =>
    rw [List.foldl_cons, ih, queueOf_seeTail, List.any_cons]
    by_cases hy : y.part = part ∧ y.q = q
    · obtain ⟨rfl, rfl⟩ := hy
      simp [isQueue, LQueue.afterTail_afterTail]
    · have hne : isQueue part q y = false := by simpa [isQueue] using hy
      simp [hy, hne]

theorem seeTail_near {y : LQueue} (hy : queueOf s y.part y.q = y) (h : y.halt = false → y.overrun = false) : seeTail s y.part y.q = s := by
  simp only [seeTail, hy]
  refine if_neg ?_
  cases hh : y.halt with
  | true => simp
  | false => simp [h hh]

/-! ### Queues of a partition whose clusters are all fenced (R385) -/

/-- While a cluster works, or the partition has none, no queue halts for want of one. -/
theorem haltFenced_working (h : clustersOf s part = [] ∨ working s part ≠ []) : haltFenced s part = s := by
  have hgo : ((clustersOf s part).isEmpty || !(working s part).isEmpty) = true := by simpa using h
  refine foldl_eq_self fun y _ => ?_
  simp only [hgo, if_true]
  split <;> rfl

/-- A queue with a kernel to admit halts with NO_FIT (R328, R385). -/
def haltHead (s : State) (part : Nat) (t : State) (y : LQueue) : State :=
  (headKernel s part y.q).elim t fun k => haltQueue t part y.q (BitVec.ofNat 32 k.index) 6

theorem haltFenced_all (hc : clustersOf s part ≠ []) (hw : working s part = []) :
    haltFenced s part = (s.queues.filter fun y => y.part == part && !y.halt).foldl (haltHead s part) s := by
  have hno : ¬((clustersOf s part).isEmpty || !(working s part).isEmpty) = true := by simp [hc, hw]
  unfold haltFenced
  congr 1
  funext t y
  simp only [haltHead, if_neg hno]
  cases headKernel s part y.q <;> rfl

theorem queueOf_foldl_haltHead {k : Kernel} (h : headKernel s part q = some k) (l : List LQueue) (t : State) :
    queueOf (l.foldl (haltHead s part) t) part q =
      if l.any (fun y => y.q == q) then (queueOf t part q).halted (BitVec.ofNat 32 k.index) 6 else queueOf t part q := by
  induction l generalizing t with
  | nil => rfl
  | cons y ys ih =>
    rw [List.foldl_cons, ih, List.any_cons]
    by_cases hy : y.q = q
    · subst hy
      have hone : queueOf (haltHead s part t y) part y.q = (queueOf t part y.q).halted (BitVec.ofNat 32 k.index) 6 := by
        simp only [haltHead, h, Option.elim_some, queueOf_haltQueue, and_self, if_true]
      simp only [hone, beq_self_eq_true, Bool.true_or, if_true]
      split <;> rfl
    · have hone : queueOf (haltHead s part t y) part q = queueOf t part q := by
        unfold haltHead
        cases headKernel s part y.q with
        | none => rfl
        | some x => exact (queueOf_haltQueue ..).trans (if_neg fun h => hy h.2)
      simp only [hone, beq_eq_false_iff_ne.mpr hy, Bool.false_or]

/-- A queue that waits with a kernel to admit halts with NO_FIT where every cluster of its partition is fenced. -/
theorem queueOf_haltFenced_all {k : Kernel} (hc : clustersOf s part ≠ []) (hw : working s part = []) (hk : headKernel s part q = some k)
    (hmem : queueOf s part q ∈ s.queues) (hhalt : (queueOf s part q).halt = false) :
    queueOf (haltFenced s part) part q = (queueOf s part q).halted (BitVec.ofNat 32 k.index) 6 := by
  obtain ⟨hpart, hq⟩ := queueOf_key s part q
  have hany : (s.queues.filter fun y => y.part == part && !y.halt).any (fun y => y.q == q) = true :=
    List.any_eq_true.mpr ⟨_, List.mem_filter.mpr ⟨hmem, by simp [hpart, hhalt]⟩, by simp [hq]⟩
  rw [haltFenced_all hc hw, queueOf_foldl_haltHead hk, if_pos hany]

end

end Sys2Proof.Machine
end
section
/-!
PROOFS. O52: the events of launch queues, of packets, of ageing and of admission (R24, R25, R61, R324 to R331, R382, R385).
`Obligations.QueueEvents` is a conjunction over the events; the lemmas stand in its order.
-/
namespace Sys2Proof.Machine

section
variable {s : State} {part q : Nat}

/-! ### Tail lines (R325) -/

/-- A queue that watches the tail line at a host cell. -/
def watches (cell : Nat) (y : LQueue) : Bool := y.part != monPart && y.en && y.tailCell == cell

/-- A queue once a TAIL has been written at a host cell. -/
def LQueue.told (cell v : Nat) (y : LQueue) : LQueue := if watches cell y then { y with tail := some (BitVec.ofNat 32 v) } else y

/-- A TAIL written at a host cell, before a queue that watches it acts on it. -/
def tailWritten (s : State) (cell v : Nat) : State := { s.write cell 4 v with queues := s.queues.map (LQueue.told cell v) }

theorem tailLineSnoop_tells (hp : part < 8) (hq : q < 32) (v : Nat) :
    let cell := (queueOf s part q).tailCell
    execTailLineSnoop part q v s
      = .next (((tailWritten s cell v).queues.filter (watches cell)).foldl (fun t y => seeTail t y.part y.q) (tailWritten s cell v)) := by
  have hgo : (!isQueueNo part q || part == monPart) = false := by
    simp only [isQueueNo_of_lt hp hq, Bool.not_true, Bool.false_or, beq_eq_false_iff_ne]
    exact Nat.ne_of_lt hp
  simp only [execTailLineSnoop, hgo, Bool.false_eq_true, if_false]
  rfl

theorem watches_iff {x y : LQueue} : watches x.tailCell y = true ↔ y.part ≠ 8 ∧ y.en = true ∧ y.tailAddr = x.tailAddr := by
  simp only [watches, LQueue.tailCell, monPart, Bool.and_eq_true, bne_iff_ne, beq_iff_eq, and_assoc, Nat.add_left_cancel_iff, BitVec.toNat_inj]

theorem LQueue.told_watches {cell v : Nat} {y : LQueue} (h : watches cell y = true) : y.told cell v = { y with tail := some (BitVec.ofNat 32 v) } :=
  if_pos h

theorem LQueue.told_key (cell v : Nat) (y : LQueue) : (y.told cell v).part = y.part ∧ (y.told cell v).q = y.q := by
  unfold told
  split <;> exact ⟨rfl, rfl⟩

theorem watches_told (cell v : Nat) (y : LQueue) : watches cell (y.told cell v) = watches cell y := by
  unfold LQueue.told
  split <;> rfl

/-- A TAIL is too far past HEAD where it leaves more than the ring's slots between them. -/
theorem LQueue.overrun_tail (y : LQueue) (v : Nat) :
    ({ y with tail := some (BitVec.ofNat 32 v) } : LQueue).overrun = decide (2 ^ max 4 y.logn.toNat < (BitVec.ofNat 32 v - y.head).toNat) := rfl

/-- A write that is too far on for no queue of the line halts none. -/
theorem tailLineSnoop_near (hp : part < 8) (hq : q < 32) {v : Nat} (hn : (s.queues.map fun y => (y.part, y.q)).Nodup)
    (hnear : ∀ y ∈ s.queues, watches (queueOf s part q).tailCell y = true → y.halt = false →
      ¬2 ^ max 4 y.logn.toNat < (BitVec.ofNat 32 v - y.head).toNat) :
    execTailLineSnoop part q v s = .next (tailWritten s (queueOf s part q).tailCell v) := by
  refine (tailLineSnoop_tells hp hq v).trans (congrArg Host.Outcome.next (foldl_eq_self fun z hz => ?_))
  obtain ⟨hz, hw⟩ := List.mem_filter.mp hz
  have hn' : ((tailWritten s (queueOf s part q).tailCell v).queues.map fun y => (y.part, y.q)).Nodup := by
    simpa only [tailWritten, List.map_map, Function.comp_def, LQueue.told_key] using hn
  refine seeTail_near (queueOf_of_mem hn' hz) ?_
  obtain ⟨y, hy, rfl⟩ := List.mem_map.mp hz
  rw [watches_told] at hw
  rw [LQueue.told_watches hw, LQueue.overrun_tail]
  exact fun hhalt => decide_eq_false (hnear y hy hw hhalt)

theorem queueOf_tailWritten (s : State) (cell v part q : Nat) : queueOf (tailWritten s cell v) part q = (queueOf s part q).told cell v :=
  findD_map (by simp [LQueue.told, watches, LQueue.empty]) (fun y => by simp only [isQueue, LQueue.told_key]) _

/-- A queue that sees a TAIL too far past its HEAD halts with OVERRUN. -/
theorem tailLineSnoop_far (hp : part < 8) (hq : q < 32) {v : Nat} (hen : (queueOf s part q).en = true) (hhalt : (queueOf s part q).halt = false)
    (hfar : 2 ^ max 4 (queueOf s part q).logn.toNat < (BitVec.ofNat 32 v - (queueOf s part q).head).toNat) :
    ∃ t, execTailLineSnoop part q v s = .next t
      ∧ queueOf t part q = LQueue.halted (queueOf s part q).head 5 { queueOf s part q with tail := some (BitVec.ofNat 32 v) } := by
  refine ⟨_, tailLineSnoop_tells hp hq v, ?_⟩
  obtain ⟨hpart, hqno⟩ := queueOf_key s part q
  have hw : watches (queueOf s part q).tailCell (queueOf s part q) = true :=
    watches_iff.mpr ⟨by rw [hpart]; exact Nat.ne_of_lt hp, hen, rfl⟩
  have hany : ((tailWritten s (queueOf s part q).tailCell v).queues.filter (watches (queueOf s part q).tailCell)).any (isQueue part q) = true := by
    refine List.any_eq_true.mpr ⟨(queueOf s part q).told (queueOf s part q).tailCell v, ?_, ?_⟩
    · exact List.mem_filter.mpr ⟨List.mem_map_of_mem (queueOf_mem hen), (watches_told ..).trans hw⟩
    · simp [isQueue, LQueue.told_key, hpart, hqno]
  rw [queueOf_foldl_seeTail, if_pos hany, queueOf_tailWritten, LQueue.told_watches hw]
  exact LQueue.afterTail_overrun hen hhalt ((LQueue.overrun_tail _ v).trans (decide_eq_true hfar))

/-! ### The packet at HEAD (R325 to R328) -/

section
variable (hp : part < 8) (hq : q < 32) (hpend : (queueOf s part q).pending = true)
include hp hq hpend

theorem packet_waits : (!isQueueNo part q || !(queueOf s part q).pending) = false := by
  simp only [isQueueNo_of_lt hp hq, hpend, Bool.not_true, Bool.or_self]

theorem launchPacket_overrun (hover : (queueOf s part q).overrun = true) :
    execLaunchPacket part q s = .next (haltQueue s part q (queueOf s part q).head 5) := by
  simp only [execLaunchPacket, packet_waits hp hq hpend, hover, Bool.false_eq_true, if_false, if_true]

variable (hover : (queueOf s part q).overrun = false)
include hover

theorem launchPacket_held {a : Nat} (hpkt : packetAt s (queueOf s part q) = .held a) : execLaunchPacket part q s = .next (noteWait s a) := by
  simp only [execLaunchPacket, packet_waits hp hq hpend, hover, hpkt, Bool.false_eq_true, if_false]

/-- A packet that cannot be read is error 7 (R328). -/
theorem launchPacket_unread (hpkt : ∀ v, packetAt s (queueOf s part q) ≠ .bytes v) (hheld : ∀ a, packetAt s (queueOf s part q) ≠ .held a) :
    execLaunchPacket part q s = .next (haltQueue s part q (queueOf s part q).head 7) := by
  simp only [execLaunchPacket, packet_waits hp hq hpend, hover, Bool.false_eq_true, if_false]

variable {v : Nat} (hpkt : packetAt s (queueOf s part q) = .bytes v)
include hpkt

theorem nopPacket_passes (htype : pkType v = 0) :
    execNopPacket part q s =
      if pkReserved v then .next (haltQueue s part q (queueOf s part q).head 2)
      else .next (setQueue (packetTouch s (queueOf s part q)) part q fun y => { y with head := y.head + 1 }) := by
  simp only [execNopPacket, packet_waits hp hq hpend, hover, hpkt, htype, Bool.or_self, Bool.false_eq_true, if_false, bne_self_eq_false]

theorem launchPacket_type (htype : 2 ≤ pkType v) : execLaunchPacket part q s = .next (haltQueue s part q (queueOf s part q).head 1) := by
  have hnop : ¬(pkType v == 0) = true := by
    rw [beq_iff_eq]
    omega
  simp only [execLaunchPacket, packet_waits hp hq hpend, hover, hpkt, if_neg hnop, if_pos htype, Bool.false_eq_true, if_false]

variable (htype : pkType v = 1)
include htype

theorem launchPacket_reserved (hres : pkReserved v = true) :
    execLaunchPacket part q s = .next (haltQueue s part q (queueOf s part q).head 2) := by
  simp [execLaunchPacket, packet_waits hp hq hpend, hover, hpkt, htype, hres]

variable (hres : pkReserved v = false)
include hres

theorem launchPacket_err {e : Nat} (hjudge : judgeLaunch s part v = .err e) :
    execLaunchPacket part q s = .next (haltQueue s part q (queueOf s part q).head e) := by
  simp [execLaunchPacket, packet_waits hp hq hpend, hover, hpkt, htype, hres, hjudge]

theorem launchPacket_judge_held {a : Nat} (hjudge : judgeLaunch s part v = .held a) : execLaunchPacket part q s = .next (noteWait s a) := by
  simp [execLaunchPacket, packet_waits hp hq hpend, hover, hpkt, htype, hres, hjudge]

/-- A packet that passes every check becomes a kernel (R326, R327, R329). -/
theorem launchPacket_launches {a : Nat} (hjudge : judgeLaunch s part v = .args a) :
    let x := queueOf s part q
    let u := if argBytes v = 0 then s else cpLeave s part (capObj (pkArgcap v)) 2 (capBase (pkArgcap v)) (argBytes v)
    let u := touchDescs (packetTouch u x) part (([pkCodecap v, pkArgcap v] ++ argCaps v a).map capObj)
    execLaunchPacket part q s = .next (haltFenced
      (setQueue { u.fresh with kernels := u.kernels ++ [kernelOf u part q x.head.toNat v a] } part q fun y =>
        { (if (headKernel u part q).isSome then y else y.ageAnew u.now (tAge u part)) with head := y.head + 1, last := some u.seq }) part) := by
  simp only [execLaunchPacket, packet_waits hp hq hpend, hover, hpkt, htype, hres, hjudge, Bool.false_eq_true, if_false, beq_iff_eq]
  rfl

end

/-- A field out of its range is found first (R328). -/
theorem judgeLaunch_bad {v : Nat} (h : pkBad v = true) : judgeLaunch s part v = .err 3 := by simp only [judgeLaunch, h, if_true]

/-! ### RESUME (R324, R385) -/

/-- What a write of QCTL makes of its queue (R324, R325, R329). -/
def LQueue.control (s : State) (part v : Nat) (tail : Option (BitVec 32)) (x : LQueue) : LQueue :=
  let t := tAge s part
  let x := x.noteSteps s.now t
  let y := { x with logn := BitVec.ofNat 4 v, prio := BitVec.ofNat 3 (v / 2 ^ 4), en := v.testBit 7, halt := x.halt && !v.testBit 8, tail := tail }
  { y with reachAt := if y.eff s.now t == x.eff s.now t then x.reachAt else s.now }

theorem LQueue.noteSteps_key (x : LQueue) (now t : Nat) :
    (x.noteSteps now t).part = x.part ∧ (x.noteSteps now t).q = x.q ∧ (x.noteSteps now t).head = x.head := by
  unfold noteSteps
  split <;> exact ⟨rfl, rfl, rfl⟩

theorem LQueue.control_key (v : Nat) (tail : Option (BitVec 32)) (x : LQueue) :
    (x.control s part v tail).part = x.part ∧ (x.control s part v tail).q = x.q := by
  obtain ⟨hpart, hq, -⟩ := x.noteSteps_key s.now (tAge s part)
  exact ⟨hpart, hq⟩

/-- With RESUME a queue is not halted any more, and its HEAD is as it was. -/
theorem LQueue.control_resume {v : Nat} (hv : v.testBit 8 = true) (tail : Option (BitVec 32)) (x : LQueue) :
    (x.control s part v tail).halt = false ∧ (x.control s part v tail).head = x.head :=
  ⟨by simp [control, hv], (x.noteSteps_key s.now (tAge s part)).2.2⟩

/-- A write of QCTL with RESUME: the queue is written, the halts of a partition without a cluster that works are judged again, and a queue newly
enabled sees its TAIL. -/
theorem queueResume_writes (hp : part < 8) (hq : q < 32) {v : Nat} (hv : v.testBit 8 = true) :
    ∃ tail en, let u := haltFenced (setQueue s part q (LQueue.control s part v tail)) part
      execQueueResume part q v s
        = .next { (if v.testBit 7 && !(queueOf s part q).en then seeTail u part q else u) with everEnabled := en } := by
  have hgo : (isQueueNo part q && v.testBit 8) = true := by rw [isQueueNo_of_lt hp hq, hv, Bool.and_self]
  simp only [execQueueResume, if_pos hgo, writeQctl, if_pos hv]
  split
  · exact ⟨_, _, rfl⟩
  · exact ⟨_, _, rfl⟩

/-- RESUME ends a halt (R324). -/
theorem queueResume_resumes (hp : part < 8) (hq : q < 32) {v : Nat} (hv : v.testBit 8 = true)
    (hwork : clustersOf s part = [] ∨ working s part ≠ []) (hon : v.testBit 7 = true → (queueOf s part q).en = true) :
    ∃ t, execQueueResume part q v s = .next t ∧ (queueOf t part q).halt = false ∧ (queueOf t part q).head = (queueOf s part q).head
      ∧ t.mem = s.mem := by
  obtain ⟨tail, en, hexec⟩ := queueResume_writes (s := s) hp hq hv
  have hsame : haltFenced (setQueue s part q (LQueue.control s part v tail)) part = setQueue s part q (LQueue.control s part v tail) :=
    haltFenced_working hwork
  have hold : ¬(v.testBit 7 && !(queueOf s part q).en) = true := by simpa using hon
  have hqueue := queueOf_setQueue (s := s) (part := part) (q := q) (LQueue.control_key (s := s) (part := part) v tail)
  obtain ⟨hhalt, hhead⟩ := LQueue.control_resume (s := s) (part := part) hv tail (queueOf s part q)
  simp only [hsame, if_neg hold] at hexec
  exact ⟨_, hexec, (congrArg LQueue.halt hqueue).trans hhalt, (congrArg LQueue.head hqueue).trans hhead, rfl⟩

/-- Where every cluster is fenced a queue with a kernel to admit halts again, with NO_FIT (R385). -/
theorem queueResume_fenced (hp : part < 8) (hq : q < 32) {v : Nat} (hv : v.testBit 8 = true) {k : Kernel}
    (hc : clustersOf s part ≠ []) (hw : working s part = []) (hk : headKernel s part q = some k) :
    ∃ t, execQueueResume part q v s = .next t ∧ (queueOf t part q).halt = true ∧ (queueOf t part q).err = 6
      ∧ (queueOf t part q).index = BitVec.ofNat 32 k.index := by
  obtain ⟨tail, en, hexec⟩ := queueResume_writes (s := s) hp hq hv
  have hkey := LQueue.control_key (s := s) (part := part) v tail
  have hhalt := (congrArg LQueue.halt (queueOf_setQueue (q := q) hkey)).trans (LQueue.control_resume hv tail (queueOf s part q)).1
  have hall := queueOf_haltFenced_all (s := setQueue s part q (LQueue.control s part v tail)) hc hw hk (queueOf_setQueue_mem hkey) hhalt
  dsimp only at hexec
  split at hexec
  · have hend := (queueOf_seeTail_halted (congrArg LQueue.halt hall)).trans hall
    exact ⟨_, hexec, congrArg LQueue.halt hend, congrArg LQueue.err hend, congrArg LQueue.index hend⟩
  · exact ⟨_, hexec, congrArg LQueue.halt hall, congrArg LQueue.err hall, congrArg LQueue.index hall⟩

/-! ### Ageing (R329) -/

theorem ageingStep_notes (hk : (headKernel s part q).isSome = true) (hprio : (queueOf s part q).prio.toNat + (queueOf s part q).reached < 7)
    (hdue : (queueOf s part q).waitAt ≤ s.now) :
    execAgeingStep part q s = .next (setQueue s part q fun y => y.noteSteps s.now (tAge s part)) := by
  have hgo : ((headKernel s part q).isNone || decide (7 ≤ (queueOf s part q).prio.toNat + (queueOf s part q).reached)
      || decide (s.now < (queueOf s part q).waitAt)) = false := by
    simp only [Bool.or_eq_false_iff, Option.isNone_eq_false_iff, decide_eq_false_iff_not, not_le, not_lt]
    exact ⟨⟨hk, hprio⟩, hdue⟩
  simp only [execAgeingStep, hgo, Bool.false_eq_true, if_false]

/-- Steps of a queue that began to wait at `a`: one for each interval. -/
theorem LQueue.stepsBy_ageAnew (y : LQueue) {t : Nat} (ht : 0 < t) (a w : Nat) : (y.ageAnew a t).stepsBy (a + w) t = w / t := by
  by_cases h : w < t
  · exact (if_pos (Nat.add_lt_add_left h a)).trans (Nat.div_eq_of_lt h).symm
  · refine (if_neg fun hlt => h (Nat.lt_of_add_lt_add_left hlt)).trans ?_
    show 0 + (a + w - (a + t)) / t + 1 = w / t
    rw [Nat.div_eq_sub_div ht (not_lt.mp h), Nat.zero_add, Nat.add_sub_add_left]

theorem LQueue.eff_ageAnew (y : LQueue) {t : Nat} (ht : 0 < t) (a w : Nat) : (y.ageAnew a t).eff (a + w) t = min 7 (y.prio.toNat + w / t) := by
  rw [eff, stepsBy_ageAnew y ht]
  rfl

/-- The effective priority is reached with the last step that raised it. -/
theorem LQueue.effAt_ageAnew (y : LQueue) {t : Nat} (ht : 0 < t) (a w : Nat) :
    (y.ageAnew a t).effAt (a + w) t = a + min (w / t) (7 - y.prio.toNat) * t := by
  have hprio : y.prio.toNat < 8 := y.prio.isLt
  have hsteps : min 7 (y.prio.toNat + w / t) - y.prio.toNat = min (w / t) (7 - y.prio.toNat) := by
    generalize w / t = d
    omega
  rw [effAt, eff_ageAnew y ht]
  simp only [ageAnew, hsteps]
  generalize min (w / t) (7 - y.prio.toNat) = j
  cases j with
  | zero => simp
  | succ j =>
    rw [if_neg (by omega), Nat.sub_zero, Nat.add_sub_cancel, Nat.succ_mul, Nat.add_right_comm, Nat.add_assoc]

/-- Intervals of length `t` in `d`, counted on from those in an earlier `c`. -/
theorem steps_resumed {t : Nat} (ht : 0 < t) {c d : Nat} (h : c ≤ d) :
    d / t + 1 = if d < (c / t + 1) * t then c / t + 1 else c / t + 1 + ((d - (c / t + 1) * t) / t + 1) := by
  split
  · rename_i hd
    have hlow : c / t ≤ d / t := Nat.div_le_div_right h
    have hhigh : d / t < c / t + 1 := Nat.div_lt_of_lt_mul (Nat.mul_comm t _ ▸ hd)
    omega
  · rename_i hd
    obtain ⟨r, rfl⟩ := Nat.exists_eq_add_of_le (not_lt.mp hd)
    rw [Nat.add_sub_cancel_left, Nat.add_comm _ r, Nat.add_mul_div_right r _ ht]
    omega

/-- Noting the steps by an earlier cycle does not change those by a later one. -/
theorem LQueue.stepsBy_noteSteps (x : LQueue) {t : Nat} (ht : 0 < t) {m n : Nat} (h : m ≤ n) : (x.noteSteps m t).stepsBy n t = x.stepsBy n t := by
  unfold noteSteps
  split
  · rfl
  · rename_i hm
    have hn : ¬n < x.waitAt := by omega
    have hlater := steps_resumed ht (by omega : m - x.waitAt ≤ n - x.waitAt)
    simp only [stepsBy, if_neg hm, if_neg hn, Nat.add_assoc x.reached, hlater]
    by_cases h : n - x.waitAt < ((m - x.waitAt) / t + 1) * t
    · exact (if_pos (by omega)).trans (congrArg _ (if_pos h).symm)
    · refine (if_neg (by omega)).trans ?_
      rw [if_neg h, Nat.sub_add_eq, Nat.add_assoc ((m - x.waitAt) / t + 1)]

theorem LQueue.eff_noteSteps (x : LQueue) {t : Nat} (ht : 0 < t) {m n : Nat} (h : m ≤ n) : (x.noteSteps m t).eff n t = x.eff n t := by
  have hprio : (x.noteSteps m t).prio = x.prio := by
    unfold noteSteps
    split <;> rfl
  rw [eff, eff, stepsBy_noteSteps x ht h, hprio]

/-! ### Admission (R24, R39, R61, R329 to R331) -/

theorem admitBlock_places {y : LQueue} {k : Kernel} {p : Place} (h : chooseQueue s part (waitingQueues s part) [] = some (y, k, [p])) (hy : y.q = q)
    (hk : k.gangN = 0) : execAdmitBlock part q s = .next (placeIn (admitted s y k) k p none 0) := by
  simp [execAdmitBlock, h, hy, hk]

theorem admitGang_places {y : LQueue} {k : Kernel} {ps : List Place} (h : chooseQueue s part (waitingQueues s part) [] = some (y, k, ps))
    (hy : y.q = q) (hk : k.gangN ≠ 0) :
    let no := fun {α : Type} (x : α) => List.replicate k.gangN x
    let g : Gang := { id := s.seq, kernel := k.id, members := ps.map (·.id), killed := no false, votes := no none, voteDom := false
                      voteFwd := none, voteKill := false, syncs := no false }
    let t : State := { (admitted s y k).fresh with gangs := s.gangs ++ [g] }
    execAdmitGang part q s = .next (ps.zipIdx.foldl (fun s x => placeIn s k x.1 (some g.id) x.2) t) := by
  have hgo : ¬(y.q != q || k.gangN == 0) = true := by simp [hy, hk]
  simp only [execAdmitGang, h, if_neg hgo]

/-- A cell that no entry lists reads as 0 (log 2). -/
theorem memGet_unlisted {m : List Host.Cell} {a : Nat} (h : ∀ c ∈ m, c.1 ≠ a) : memGet m a = 0 := by
  induction m with
  | nil => rfl
  | cons c cs ih =>
    obtain ⟨hc, hcs⟩ := List.forall_mem_cons.mp h
    simp only [memGet, beq_eq_false_iff_ne.mpr hc, Bool.false_eq_true, if_false, ih hcs, ite_self]

/-- An allocation reads as zero, is empty and undamaged, and holds no barrier (R61). -/
theorem clearSpad_clears (s : State) {lo n a : Nat} (hlo : lo ≤ a) (hhi : a < lo + n) :
    (clearSpad s lo n).isFull a = false ∧ (clearSpad s lo n).isLive a = false ∧ a ∉ (clearSpad s lo n).ueMarks
      ∧ memGet (clearSpad s lo n).mem a = 0 := by
  have hout : (decide (a < lo) || decide (lo + n ≤ a)) = false := by simp [hlo, hhi]
  refine ⟨?_, ?_, ?_, memGet_unlisted ?_⟩
  · simp [State.isFull, clearSpad, hout]
  · simp [State.isLive, clearSpad, hout]
  · simp [clearSpad, hout]
  · rintro c hc rfl
    exact absurd (List.mem_filter.mp hc).2 (ne_true_of_eq_false hout)

end

/-- Settles O52: each event has its lemma above; the queues that watch a line are those of `watches_iff`. -/
theorem queueEvents : Obligations.QueueEvents := by
  intro s part q hp hq x halts
  refine ⟨?_, ?_, launchPacket_overrun hp hq, ?_, ?_, ?_, ageingStep_notes, ?_, ?_, ?_, ?_, ?_⟩
  -- tail lines
  · intro v hn sees far hnear
    refine ⟨_, tailLineSnoop_near hp hq hn fun y hy hw => hnear y hy (watches_iff.mp hw), rfl, fun y hy hs => ?_⟩
    exact List.mem_map.mpr ⟨y, hy, LQueue.told_watches (watches_iff.mpr hs)⟩
  · intro v hen hhalt hfar
    obtain ⟨t, hexec, hqueue⟩ := tailLineSnoop_far hp hq hen hhalt hfar
    exact ⟨t, hexec, congrArg LQueue.halt hqueue, congrArg LQueue.err hqueue, congrArg LQueue.index hqueue⟩
  -- packets
  · intro hpend hover v hpkt
    refine ⟨fun htype hres => ?_, fun htype hres => ?_, launchPacket_type hp hq hpend hover hpkt, launchPacket_reserved hp hq hpend hover hpkt,
      fun htype hres hbad => launchPacket_err hp hq hpend hover hpkt htype hres (judgeLaunch_bad hbad),
      fun e htype hres => launchPacket_err hp hq hpend hover hpkt htype hres,
      fun a htype hres => launchPacket_judge_held hp hq hpend hover hpkt htype hres,
      fun a htype hres => launchPacket_launches hp hq hpend hover hpkt htype hres⟩
    · exact (nopPacket_passes hp hq hpend hover hpkt htype).trans (if_neg (ne_true_of_eq_false hres))
    · exact (nopPacket_passes hp hq hpend hover hpkt htype).trans (if_pos hres)
  · exact fun hpend hover hpkt => ⟨launchPacket_unread hp hq hpend hover hpkt, fun a => launchPacket_held hp hq hpend hover⟩
  -- RESUME
  · exact fun v hv => ⟨queueResume_resumes hp hq hv, fun k => queueResume_fenced hp hq hv⟩
  -- ageing
  · exact fun y a w t ht => ⟨y.eff_ageAnew ht a w, y.effAt_ageAnew ht a w, fun m => (y.ageAnew a t).eff_noteSteps ht⟩
  -- admission
  · exact fun y k p => admitBlock_places
  · exact fun y k ps => admitGang_places
  · intro lo n a t hlo hhi
    obtain ⟨hfull, hlive, hue, hmem⟩ := clearSpad_clears s hlo hhi
    exact ⟨hfull, hlive, hue, fun _ => hmem⟩
  · exact fun v hq => if_pos hq

end Sys2Proof.Machine
end

section
/-!
LAWS. The machine right after reset (R61, R199, R323, R365, R381): what its memory and its registers read as.
-/
namespace Sys2Proof.Machine

/-! ### Reads after reset -/

/-- No register differs from its reset value. -/
theorem sysGet_reset (p n : Nat) : sysGet State.reset p n = sysReset n := rfl

@[simp] theorem State.mem_reset : State.reset.mem = [] := rfl

/-- No byte is listed, so each reads as 0 (log 2). -/
theorem State.read_reset_byte (a : Nat) : State.reset.read a 1 = 0 := by
  rw [State.read_byte, State.mem_reset, memGet_unlisted (List.forall_mem_nil _)]
  exact BitVec.toNat_zero

/-- Settles O56: memory is empty (`State.read_reset_byte`), and every register reads as its reset value (`sysGet_reset`), the same in each
partition. -/
theorem afterReset : Obligations.AfterReset := by
  refine ⟨State.Inv_reset, rfl, rfl, rfl, rfl, State.read_reset_byte, fun p _ => ?_, ?_⟩
  -- the registers of a partition
  · simp only [sysGet_reset, sysReset, and_self]
  -- the registers of the device
  · simp only [sysGet_reset, sysReset, true_and, and_true]
    exact Nat.add_comm 1000 (1000 * 2 ^ 32)

end Sys2Proof.Machine
end

section
/-!
LAWS. The tag check of an operand (R86): what it answers for an operand tagged INVALID, for an untyped one and for a typed one.
-/
namespace Sys2Proof.Machine

/-! ### One operand's tag check -/

variable {r : VReg} {t : BitVec 4}

/-- INVALID fails whatever the operand's expected tag. -/
theorem checkTag_invalid (want : Option (BitVec 4)) (h : r.tag = tInvalid) : checkTag want r = some cTagInvalid := by
  simp [checkTag, h]

theorem checkTag_untyped (h : r.tag ≠ tInvalid) : checkTag none r = none := by
  simp [checkTag, h]

theorem checkTag_typed (h : r.tag ≠ tInvalid) :
    checkTag (some t) r = if r.tag = tRaw ∨ r.tag = t then none else some cTagMismatch := by
  simp [checkTag, h]

theorem checkTag_untyped_eq_none_iff : checkTag none r = none ↔ r.tag ≠ tInvalid := by
  constructor
  · intro hpass hinv
    rw [checkTag_invalid none hinv] at hpass
    contradiction
  · exact checkTag_untyped

/-- Settles O6, by the operand's tag: INVALID (`checkTag_invalid`), or one that an untyped operand passes with
(`checkTag_untyped_eq_none_iff`) and a typed one is compared by (`checkTag_typed`). -/
theorem tagChecks : Obligations.TagChecks := by
  intro t r _
  refine ⟨checkTag_untyped_eq_none_iff, fun hinv => ⟨checkTag_invalid _ hinv, checkTag_invalid _ hinv⟩, ?_, ?_⟩
  -- its own tag or RAW
  · intro hfits hvalid
    rw [checkTag_typed hvalid, if_pos hfits]
  -- any other tag
  · intro hvalid hraw hown
    rw [checkTag_typed hvalid, if_neg (not_or.mpr ⟨hraw, hown⟩)]

end Sys2Proof.Machine
end

section
/-!
LAWS. What the fencing of units and the end of a lathe's work leave alone: fibres, blocks, kernels, lathes and the cycle (R384, R385).
-/
namespace Sys2Proof.Machine

/-- What no host message and no halt of a queue changes of a state, as far as batches and lathes go. -/
def State.works (s : State) : Nat × List Fibre × List Block × List Kernel × List Lathe :=
  (s.now, s.fibres, s.blocks, s.kernels, s.lathes)

theorem postHost_works (s : State) (code part unit detail : Nat) : (postHost s code part unit detail).works = s.works := by
  simp only [postHost, putHm, setHmOvf]
  split_ifs <;> simp [State.works]

theorem haltQueue_works (s : State) (part q : Nat) (index : BitVec 32) (err : Nat) : (haltQueue s part q index err).works = s.works := by
  simp only [haltQueue, postHost_works]
  simp [State.works]

theorem haltFenced_works (s : State) (part : Nat) : (haltFenced s part).works = s.works := by
  refine foldl_keeps (r := State.works) (fun t q => ?_) _ _
  split
  · split
    · rfl
    · exact haltQueue_works ..
  · rfl

theorem fenceUnit_works (s : State) (u : Nat) : (fenceUnit s u).works = s.works := by
  simp only [fenceUnit, foldl_keeps haltFenced_works, postHost_works]
  simp [State.works]

theorem fenceDue_works (s : State) : (fenceDue s).works = s.works := foldl_keeps fenceUnit_works _ _

end Sys2Proof.Machine
end

section
/-!
LAWS. What an effect may do while its batch goes on: `LanesStay`, which every operation that the lathe instructions are made of meets; and what a
touch of a row leaves to be looked up.
-/
namespace Sys2Proof.Machine

/-! ### Lanes stay where they are -/

/-- What tells whether a fibre is stopped and whether it runs a handler: its block, its record, its mask, and whether its budget
is spent (R30, R356). -/
def Fibre.standing (f : Fibre) : Nat × Option TrapRec × Bool × Bool := (f.blk, f.trec, f.tm, f.expired)

theorem Fibre.inHandler_of_standing {f g : Fibre} (h : g.standing = f.standing) : g.inHandler = f.inHandler :=
  congrArg (fun x => x.2.1.isSome) h

/-- In `e` blocks and kernels are as in `s`, and every fibre stands as it stood. -/
structure LanesStay (s e : State) : Prop where
  blocks : e.blocks = s.blocks
  kernels : e.kernels = s.kernels
  fibres : ∀ k, (fibre? e k).map Fibre.standing = (fibre? s k).map Fibre.standing

section
variable {s t u : State}

theorem LanesStay.refl (s : State) : LanesStay s s := ⟨rfl, rfl, fun _ => rfl⟩

theorem LanesStay.trans (h : LanesStay s t) (h' : LanesStay t u) : LanesStay s u :=
  ⟨h'.blocks.trans h.blocks, h'.kernels.trans h.kernels, fun k => (h'.fibres k).trans (h.fibres k)⟩

/-- An update that changes no fibre. -/
theorem LanesStay.of_fibres (hf : t.fibres = s.fibres) (hb : t.blocks = s.blocks) (hk : t.kernels = s.kernels) : LanesStay s t :=
  ⟨hb, hk, fun k => by simp only [fibre?, hf]⟩

theorem LanesStay.of_works (h : t.works = s.works) : LanesStay s t := by
  simp only [State.works, Prod.mk.injEq] at h
  obtain ⟨-, hf, hb, hk, -⟩ := h
  exact .of_fibres hf hb hk

theorem LanesStay.ite {c : Prop} [Decidable c] (ht : LanesStay s t) (hu : LanesStay s u) : LanesStay s (if c then t else u) := by
  split <;> assumption

theorem LanesStay.foldl {α : Type} {g : State → α → State} (hg : ∀ s x, LanesStay s (g s x)) (l : List α) (s : State) :
    LanesStay s (l.foldl g s) := by
  induction l generalizing s with
  | nil => exact .refl s
  | cons x xs ih => exact (hg s x).trans (ih _)

theorem fibre?_setFibre {g : Fibre → Fibre} (hg : ∀ f, (g f).key = f.key) (s : State) (k n : FKey) :
    fibre? (setFibre s k g) n = (fibre? s n).map fun f => if f.key == k then g f else f := by
  simp only [fibre?, setFibre, List.find?_map]
  congr 2
  funext f
  simp only [Function.comp]
  split <;> simp [hg]

/-- A change of a fibre that keeps its key and its standing. -/
theorem setFibre_stay {g : Fibre → Fibre} (hkey : ∀ f, (g f).key = f.key) (hg : ∀ f, (g f).standing = f.standing) (s : State) (k : FKey) :
    LanesStay s (setFibre s k g) := by
  refine ⟨by simp, by simp, fun n => ?_⟩
  rw [fibre?_setFibre hkey, Option.map_map]
  refine congrFun (congrArg _ (funext fun f => ?_)) _
  simp only [Function.comp]
  split
  · exact hg f
  · rfl

theorem Fibre.apply_standing (f : Fibre) (d : PendDest) : (f.apply d).standing = f.standing := by
  obtain ⟨r, p, h⟩ := f.apply_only d
  rw [h]
  rfl

theorem foldl_standing {α : Type} {g : Fibre → α → Fibre} (hg : ∀ f x, (g f x).standing = f.standing) (l : List α) (f : Fibre) :
    (l.foldl g f).standing = f.standing := by
  induction l generalizing f with
  | nil => rfl
  | cons x xs ih => rw [List.foldl_cons, ih, hg]

theorem Fibre.writeNow_standing (f : Fibre) (d : PendDest) : (f.writeNow d).standing = f.standing := by
  refine (Fibre.apply_standing _ d).trans (foldl_standing (fun g e => ?_) f.pend f)
  split
  · exact Fibre.apply_standing ..
  · rfl

theorem setFibre_writeNow_stay (s : State) (k : FKey) (d : PendDest) : LanesStay s (setFibre s k fun f => f.writeNow d) :=
  setFibre_stay (fun f => f.writeNow_key d) (fun f => f.writeNow_standing d) s k

/-- A batch whose lanes stay where they are goes on (R30, R200, R373). -/
theorem issue_stay {c : Cur} {b : Block} {ls : List Fibre} {use : Use} {act : State → Block → List Fibre → Acted} {e : State}
    (R : Ready s c b ls) (P : use.Passes s b ls) (hact : act s b (ls.filter use.guard) = acted e []) (hstay : LanesStay s e) :
    issue use act s = .next (goOn e c ls use.len (1 + use.stall) use.y) := by
  have htrial : ∀ p, trialDelay e b p = 0 := by
    have hk : kernel? e b.kernel = kernel? s b.kernel := by simp only [kernel?, hstay.kernels]
    simp [trialDelay, hk, R.trial]
  refine issue_goOn R P e false hact htrial fun f hf => ?_
  have hst := hstay.fibres f.key
  rw [R.own f hf, Option.map_some, Option.map_eq_some_iff] at hst
  obtain ⟨g, hg, hst⟩ := hst
  refine ⟨g, hg, Fibre.inHandler_of_standing hst, ?_⟩
  have hcan := R.can f hf
  simp only [Fibre.canIssue, R.blk f hf, Option.any_some, stoppedIn, Bool.and_eq_true, Bool.not_eq_true', Bool.or_eq_false_iff] at hcan
  obtain ⟨-, ⟨-, hpre⟩, -⟩ := hcan
  simp only [Fibre.standing, Prod.mk.injEq] at hst
  obtain ⟨hblk, -, htm, hexp⟩ := hst
  rw [preStopped, block?_congr hstay.blocks, hblk, R.blk f hf, htm, hexp]
  exact hpre

/-! ### Operations on lathes -/

theorem setLathe_stay (s : State) (k : Nat) (g : Lathe → Lathe) : LanesStay s (setLathe s k g) := .of_fibres rfl rfl rfl

theorem fresh_stay (s : State) : LanesStay s s.fresh := .of_fibres rfl rfl rfl

/-- A touch of a row notes a cycle and changes no more (R377). -/
theorem touch_only (s : State) (a : Nat) : ∃ r, touch s a = { s with reqAt := r } := by
  unfold touch
  split
  · exact ⟨_, rfl⟩
  · exact ⟨s.reqAt, rfl⟩

theorem touch_stay (s : State) (a : Nat) : LanesStay s (touch s a) := by
  obtain ⟨r, h⟩ := touch_only s a
  rw [h]
  exact .of_fibres rfl rfl rfl

theorem completeOp_stay (s : State) (k : FKey) (id cls : Nat) (err : Bool) : LanesStay s (completeOp s k id cls err) :=
  (setFibre_stay (by intro; rfl) (by intro; rfl) s k).trans (.of_fibres rfl rfl rfl)

theorem fenceDue_stay (s : State) : LanesStay s (fenceDue s) := .of_works (fenceDue_works s)

theorem latheEnds_stay (old : Lathe) (s : State) : LanesStay s (latheEnds old s) := by
  refine LanesStay.trans (t := relaxW (boostFell old s) old.stack) (.of_fibres rfl rfl rfl) (LanesStay.trans ?_ (fenceDue_stay _))
  exact .ite (.of_fibres rfl rfl rfl) (.refl _)

theorem delRegion_stay (s : State) (k idx : Nat) : LanesStay s (delRegion s k idx) := by
  unfold delRegion
  split
  · exact .refl s
  · exact (setLathe_stay ..).trans (latheEnds_stay ..)

theorem putStatus_stay (s : State) (f : Fibre) (d code detail : Nat) : LanesStay s (putStatus s f d code detail) :=
  setFibre_writeNow_stay ..

theorem pushStore_stay (s : State) (f : Fibre) (b : Block) (kind : StKind) (spad : Bool) (obj off w data scope : Nat) (rel : Bool)
    (hash : BitVec 64) (opId : Option Nat) : LanesStay s (pushStore s f b kind spad obj off w data scope rel hash opId) := .of_fibres rfl rfl rfl

end

/-! ### A touched row -/

section
variable (s : State) (a : Nat)

@[simp] theorem latheOf_touch (k : Nat) : latheOf (touch s a) k = latheOf s k := by
  obtain ⟨r, h⟩ := touch_only s a; rw [h]; rfl

@[simp] theorem uni_touch (f : Fibre) (n : Nat) : uni (touch s a) f n = uni s f n := by
  obtain ⟨r, h⟩ := touch_only s a; rw [h]; rfl

@[simp] theorem touch_seq : (touch s a).seq = s.seq := by
  obtain ⟨r, h⟩ := touch_only s a; rw [h]

@[simp] theorem cutEntry_touch (part k bank row n : Nat) : cutEntry (touch s a) part k bank row n = cutEntry s part k bank row n := by
  simp only [cutEntry, latheOf_touch]

@[simp] theorem anyEntry_touch (part k bank row n : Nat) : anyEntry (touch s a) part k bank row n = anyEntry s part k bank row n := by
  simp only [anyEntry, cutEntry_touch, latheOf_touch]

@[simp] theorem freeEntry_touch (k part : Nat) : freeEntry (touch s a) k part = freeEntry s k part := by
  obtain ⟨r, h⟩ := touch_only s a; rw [h]; rfl

@[simp] theorem slotDenied_touch (k part slot : Nat) : slotDenied (touch s a) k part slot = slotDenied s k part slot := by
  obtain ⟨r, h⟩ := touch_only s a; rw [h]; rfl

@[simp] theorem rowstatWords_touch (part k bank row n : Nat) : rowstatWords (touch s a) part k bank row n = rowstatWords s part k bank row n := by
  obtain ⟨r, h⟩ := touch_only s a; rw [h]; rfl

end

end Sys2Proof.Machine
end

section
/-!
LAWS. Checks and requests of lanes with nothing in their way: no check traps, every page is known to the port (R8, R58, R341), no earlier access is
left.
-/
namespace Sys2Proof.Machine

variable {s : State} {f : Fibre}

theorem firstTrap_none {l : List (Option Nat × Nat)} (hl : ∀ x ∈ l, x.1 = none) : firstTrap l = none := by
  rw [firstTrap, minCodes_none _ (by simpa using fun x y hx => hl (x, y) hx), Option.map_none]

theorem passed_all {chk : Fibre → Option Fate} {gs : List Fibre} (hchk : ∀ g ∈ gs, chk g = none) : passed chk gs = gs :=
  List.filter_eq_self.mpr fun g hg => by simp [hchk g hg]

theorem trapped_none {chk : Fibre → Option Fate} {gs : List Fibre} (hchk : ∀ g ∈ gs, chk g = none) : trapped chk gs = [] :=
  List.filterMap_eq_nil_iff.mpr fun g hg => by simp [hchk g hg]

/-- Requests whose pages the port knows get their places at once (R341). -/
theorem ask_placed {part : Nat} {w : Bool} {reqs : List Req} {place : Req → Nat}
    (hreqs : ∀ r ∈ reqs, translate s part r.obj r.off r.f.xl = .place (place r)) :
    ask s part w reqs = { s := s, miss := false, places := reqs.map fun r => some (place r), fates := [] } := by
  have hans : (reqs.map fun r => (r, translate s part r.obj r.off r.f.xl)) = reqs.map fun r => (r, Tr.place (place r)) :=
    List.map_congr_left fun r hr => by rw [hreqs r hr]
  simp only [ask, hans]
  simp [List.filter_map, Function.comp_def, holdPages, dedup, show ∀ a, (Tr.place a == Tr.miss) = false from fun _ => rfl,
    show ∀ a, (Tr.place a == Tr.ended) = false from fun _ => rfl]

theorem reach_placed {b : Block} {write : Bool} {w : Nat} {obj off cell : Fibre → Nat} {gs : List Fibre}
    (hgs : ∀ g ∈ gs, translate s b.part (obj g) (off g) g.xl = .place (cell g)) :
    reach s b write false w obj off gs = { s := s, miss := false, good := gs.map fun g => (g, cell g), fates := [] } := by
  have hask := ask_placed (s := s) (part := b.part) (w := write) (reqs := gs.map fun g => { f := g, obj := obj g, off := off g })
    (place := fun r => cell r.f) (by simpa using hgs)
  have hplaced : (gs.zip (gs.map fun g => some (cell g))).filterMap (fun x => x.2.map fun a => (x.1, a)) = gs.map fun g => (g, cell g) := by
    rw [← List.map_prod_left_eq_zip, List.filterMap_map]
    exact List.filterMap_eq_map (f := fun g => (g, cell g)) ▸ rfl
  simp only [reach, hask, List.map_map, Function.comp_def, hplaced]
  simp

theorem drained_of_idle (houts : f.outs = []) (hstores : storesOf s f.key = []) : drained s f = true := by
  simp [drained, houts, hstores]

/-- Without outstanding results a fibre's row counter is that of its registered cuts (R68). -/
theorem rowCount_of_idle (houts : f.outs = []) : f.rowCount = f.counter 2 := by simp [Fibre.rowCount, houts]

end Sys2Proof.Machine
end

section
/-!
PROOFS. O42: the lathe instructions (R91, R97, R105, R270 to R277) and the entry of a cut at t_reg (R91, R97, R310). The lemmas stand in the order of
`Obligations.LatheInstructions`.
-/
namespace Sys2Proof.Machine

/-! ### The entry of a cut -/

section
variable {s : State} {core port ctx blk : Nat} {left : Bool} {o : Out} {x : RowAt} {b : Block}

/-- The cut that is due is the oldest one of the context's fibre, or, where that has none, of a lane that has left it (R28, R310). -/
theorem cutDue_of_fibre {k : FKey} {f : Fibre} (hf : fibre? s k = some f) (ho : f.outs.find? (fun y => y.kind == .cut) = some o) :
    cutDue s k = deliver (enterCut s k f.blk false o) := by
  simp only [cutDue, hf, Option.bind_some, ho, Option.map_some]

theorem cutDue_of_left {k : FKey} {q : LeftCut} (hnone : ∀ f, fibre? s k = some f → ∀ y ∈ f.outs, y.kind ≠ .cut)
    (hq : s.leftCuts.find? (fun c => c.fib == k) = some q) : cutDue s k = enterCut s k q.blk true q.out := by
  have hbind : (fibre? s k).bind (fun f => (f.outs.find? (fun o => o.kind == .cut)).map fun o => (f, o)) = none := by
    cases hf : fibre? s k with
    | none => rfl
    | some f => simpa using hnone f hf
  simp only [cutDue, hbind, hq]

/-- A LOAD_COMPLETE of a context plus 2048 enters the cut that is due (R310). -/
theorem exec_loadComplete_cut (s : State) (core port ctx : Nat) :
    exec (.loadComplete core port (ctx + Config.ctxPerPort)) s = .next (cutDue s (keyOf core port ctx)) := by
  change execLoadComplete core port (ctx + Config.ctxPerPort) s = _
  rw [execLoadComplete, if_pos (Nat.le_add_left ..), Nat.add_sub_cancel]

/-- The cut words of a request (R271). -/
def Out.cutWord (o : Out) (i : Nat) : Word := BitVec.ofNat 32 (o.b / 2 ^ (32 * i))

/-- A cut's status is given, but to a lane that has left (R28, R310). -/
def cutAnswered (k : FKey) (left : Bool) (o : Out) (v : State) (code : Nat) : State :=
  if left then { v with leftCuts := v.leftCuts.filter (fun c => c.out.id != o.id) } else setFibre v k fun g => g.finishOut o code

section
variable {k : FKey} (hx : rowAt o.addr = some x) (hb : block? s blk = some b) (hup : asleep s x.stack = false)
include hx hb hup

theorem enterCut_busy (hbusy : regionBusy (latheOf s x.stack) x.bank x.row o.w = true) :
    enterCut s k blk left o = cutAnswered k left o (touch s o.addr) 4 := by
  simp only [enterCut, hx, hb, hup, latheOf_touch, hbusy, Bool.false_eq_true, if_false, if_true]
  rfl

theorem enterCut_full (hbusy : regionBusy (latheOf s x.stack) x.bank x.row o.w = false) (hfree : freeEntry s x.stack b.part = none) :
    enterCut s k blk left o = cutAnswered k left o (touch s o.addr) 5 := by
  simp only [enterCut, hx, hb, hup, latheOf_touch, hbusy, freeEntry_touch, hfree, Bool.false_eq_true, if_false]
  rfl

theorem enterCut_bad {i : Nat} (hbusy : regionBusy (latheOf s x.stack) x.bank x.row o.w = false) (hfree : freeEntry s x.stack b.part = some i)
    (hbad : cutWordsBad (o.cutWord 0) (o.cutWord 1) (o.cutWord 2) (o.cutWord 3) = true) :
    enterCut s k blk left o = cutAnswered k left o (touch s o.addr) 6 := by
  simp only [Out.cutWord] at hbad
  simp only [enterCut, hx, hb, hup, latheOf_touch, hbusy, freeEntry_touch, hfree, hbad, Bool.false_eq_true, if_false, if_true]
  rfl

/-- A cut that nothing keeps out is registered, and a once cut counts for its lane (R68, R97). -/
theorem enterCut_enters {i : Nat} (hbusy : regionBusy (latheOf s x.stack) x.bank x.row o.w = false) (hfree : freeEntry s x.stack b.part = some i)
    (hgood : cutWordsBad (o.cutWord 0) (o.cutWord 1) (o.cutWord 2) (o.cutWord 3) = false) :
    let v := settleBank (touch s o.addr) x.stack x.bank
    let v := addRegion v x.stack (cutRegion v b.part k blk o x i)
    enterCut s k blk left o = cutAnswered k left o (if left || !o.once then v else setFibre v k fun g => g.addOp o.id 2) 0 := by
  simp only [Out.cutWord] at hgood
  simp only [enterCut, hx, hb, hup, latheOf_touch, hbusy, freeEntry_touch, hfree, hgood, Bool.false_eq_true, if_false]
  rfl

end

/-- A CUTREG asks for a standing cut by bit 9 of its words (R271). -/
theorem Out.not_once (hkind : o.kind = .cut) : (!o.once) = (o.cutWord 0).getLsbD 9 := by
  have hbit : (o.cutWord 0).getLsbD 9 = decide (o.b / 2 ^ 9 % 2 = 1) := by
    rw [Out.cutWord, Nat.mul_zero, pow_zero, Nat.div_one, BitVec.getLsbD_ofNat, Nat.testBit_eq_decide_div_mod_eq]
    rfl
  rw [hbit, Out.once, hkind, beq_self_eq_true, Bool.true_and]
  obtain h | h := Nat.mod_two_eq_zero_or_one (o.b / 2 ^ 9) <;> rw [h] <;> rfl

/-- What becomes of the cut that is due is what LOAD_COMPLETE answers, of a lane that is there or of one that has left (R28, R310). -/
theorem loadComplete_entersCut {code : Nat} {v : State} (hsrc : if left then
      (∀ f, fibre? s (keyOf core port ctx) = some f → ∀ y ∈ f.outs, y.kind ≠ .cut)
        ∧ ∃ q, s.leftCuts.find? (fun c => c.fib == keyOf core port ctx) = some q ∧ q.blk = blk ∧ q.out = o
      else ∃ f, fibre? s (keyOf core port ctx) = some f ∧ f.blk = blk ∧ f.outs.find? (fun y => y.kind == .cut) = some o)
    (henter : enterCut s (keyOf core port ctx) blk left o = cutAnswered (keyOf core port ctx) left o v code) :
    exec (.loadComplete core port (ctx + Config.ctxPerPort)) s
      = .next (if left then { v with leftCuts := v.leftCuts.filter (fun c => c.out.id != o.id) }
        else deliver (setFibre v (keyOf core port ctx) fun g => g.finishOut o code)) := by
  rw [exec_loadComplete_cut]
  cases left with
  | true =>
    obtain ⟨hnone, q, hq, rfl, rfl⟩ := hsrc
    rw [cutDue_of_left hnone hq, henter]
    rfl
  | false =>
    obtain ⟨f, hf, rfl, ho⟩ := hsrc
    rw [cutDue_of_fibre hf ho, henter]
    rfl

end

/-! ### Issue -/

section
variable {h : Head} {p : LatheP} {s : State} {c : Cur} {b : Block} {ls : List Fibre} {f : Fibre} {fs : List Fibre}

/-! The meanings of the lathe instructions. -/

theorem exec_cutreg : exec (.cutreg h p) s = execCutreg h p s := rfl
theorem exec_cutdrop : exec (.cutdrop h p) s = execCutdrop h p s := rfl
theorem exec_cutboost : exec (.cutboost h p) s = execCutboost h p s := rfl
theorem exec_swpos : exec (.swpos h p) s = execSwpos h p s := rfl
theorem exec_rowstat : exec (.rowstat h p) s = execRowstat h p s := rfl
theorem exec_rowprog : exec (.rowprog h p) s = execRowprog h p s := rfl
theorem exec_rowop : exec (.rowop h p) s = execRowop h p s := rfl

/-- A lathe instruction that is legal has a legal head (R197). -/
theorem lathe_legal {i : Instr}
    (hi : i ∈ [.cutreg h p, .cutdrop h p, .cutboost h p, .swpos h p, .rowstat h p, .rowprog h p, .rowop h p]) (hwf : i.wellFormed = true) :
    (h.wf && i.legal) = true := by
  have two : ∀ x, (h.wf && x) = true → h.wf = true := fun x hx => (Bool.and_eq_true_iff.mp hx).1
  have three : ∀ x y, (h.wf && x && y) = true → h.wf = true := fun x y hx => two x (Bool.and_eq_true_iff.mp hx).1
  have hhead : h.wf = true := by
    simp only [List.mem_cons, List.not_mem_nil, or_false] at hi
    obtain rfl | rfl | rfl | rfl | rfl | rfl | rfl := hi
    · exact three _ _ hwf
    · exact two _ hwf
    · exact three _ _ hwf
    · exact three _ _ hwf
    · exact three _ _ hwf
    · exact two _ hwf
    · exact three _ _ hwf
  exact Bool.and_eq_true_iff.mpr ⟨hhead, hwf⟩

/-- What every clause about a lathe instruction supposes of its batch (R48, R197). -/
structure LatheBatch (h : Head) (s : State) (c : Cur) (b : Block) (ls : List Fibre) (f : Fibre) (fs : List Fibre) : Prop where
  ready : Ready s c b ls
  home : AtHome ls
  first : guardTrue h.g h.gn ls = f :: fs
  feature : featureOn s 0 = true

/-- An instruction whose effect leaves the lanes where they are goes on (R197, R199). -/
theorem LatheBatch.issue_past (B : LatheBatch h s c b ls f fs) {legal home : Bool} {vr vw caps : List Nat}
    {act : State → Block → List Fibre → Acted} {e : State} (hlegal : (h.wf && legal) = true) (hclear : Clear ls (vr ++ vw))
    (hact : act s b (f :: fs) = acted e []) (hstay : LanesStay s e) :
    issue { useOf h legal with feat := some 0, home := home, caps := caps, vr := vr, vw := vw } act s = .next (past e c ls h) := by
  have hpass : Use.Passes { useOf h legal with feat := some 0, home := home, caps := caps, vr := vr, vw := vw } s b ls :=
    { early := rfl, legal := hlegal, feat := by rintro k ⟨⟩; exact B.feature, priv := fun f _ => Nat.zero_le _, clear := hclear
      here := needsHome_home B.home, tiles := by rintro t ⟨⟩, lost := by rintro ⟨⟩ }
  refine issue_stay B.ready hpass ?_ hstay
  change act s b (guardTrue h.g h.gn ls) = _
  rw [B.first, hact]

/-- The same of one that acts through the lowest guard-true lane (R48). -/
theorem LatheBatch.firstLane_past (B : LatheBatch h s c b ls f fs) {legal : Bool} {vr vw : List Nat}
    {act : State → Block → Fibre → Acted} {e : State} (hlegal : (h.wf && legal) = true) (hclear : Clear ls (vr ++ vw))
    (hact : act s b f = acted e []) (hstay : LanesStay s e) :
    issue { useOf h legal with feat := some 0, home := true, vr := vr, vw := vw } (fun s b ls => firstLane (fun s f => act s b f) s ls) s
      = .next (past e c ls h) :=
  B.issue_past hlegal hclear hact hstay

/-- Rows of one bank whose stack is awake are reached and acted on (R91, R377). -/
theorem onRange_rows {cap : CapWord} {none' : Nat → Acted} {act : State → Nat → Nat → Nat → Nat → Acted} {k bank row n : Nat}
    (hrange : rangeOf s b.part cap f.xl = .rows k bank row n) (hup : asleep s k = false) :
    onRange s b f cap none' act = act (touch s (rowCell k bank row)) k bank row n := by
  simp only [onRange, hrange, hup, Bool.false_eq_true, if_false]

/-! ### CUTREG, CUTDROP, CUTBOOST -/

/-- A number made of words, lowest first, is its first word and 2^32 times what the others make. -/
theorem sum_words (w : Nat → Nat) (n : Nat) :
    ((List.range (n + 1)).map fun i => w i * 2 ^ (32 * i)).sum = w 0 + 2 ^ 32 * ((List.range n).map fun i => w (i + 1) * 2 ^ (32 * i)).sum := by
  have hterm : ∀ i, w (i + 1) * 2 ^ (32 * (i + 1)) = 2 ^ 32 * (w (i + 1) * 2 ^ (32 * i)) := fun i => by
    rw [Nat.mul_add, Nat.pow_add, Nat.mul_one]
    exact (Nat.mul_assoc ..).symm.trans (Nat.mul_comm ..)
  rw [List.range_succ_eq_map, List.map_cons, List.sum_cons, List.map_map, Nat.mul_zero, Nat.pow_zero, Nat.mul_one, ← List.sum_map_mul_left]
  simp only [Function.comp_def, Nat.succ_eq_add_one, hterm]

/-- The cut words that CUTREG takes from four uniform registers (R271). -/
def cutWords (s : State) (f : Fibre) (p : LatheP) : Nat := ((List.range 4).map fun i => (uni s f (p.s.toNat + i)).toNat * 2 ^ (32 * i)).sum

theorem cutOut_once (s : State) (f : Fibre) (obj cell n d words : Nat) :
    (cutOut s f obj cell n d words).once = decide (words / 2 ^ 9 % 2 = 0) := rfl

theorem cutWords_once (s : State) (f : Fibre) (p : LatheP) : decide (cutWords s f p / 2 ^ 9 % 2 = 0) = !(uni s f p.s.toNat).getLsbD 9 := by
  have hlow : cutWords s f p / 2 ^ 9 % 2 = (uni s f p.s.toNat).toNat / 2 ^ 9 % 2 := by
    rw [cutWords, sum_words fun i => (uni s f (p.s.toNat + i)).toNat]
    generalize (List.sum (α := Nat) _) = x
    rw [Nat.add_zero]
    omega
  rw [hlow, BitVec.getLsbD, Nat.testBit_eq_decide_div_mod_eq]
  obtain h | h := Nat.mod_two_eq_zero_or_one ((uni s f p.s.toNat).toNat / 2 ^ 9) <;> rw [h] <;> rfl

/-- CUTREG goes on with its status outstanding (R91, R271, R310). -/
theorem cutreg_completes (B : LatheBatch h s c b ls f fs) {k bank row n : Nat} (hwf : (Instr.cutreg h p).wellFormed = true)
    (hclear : Clear ls [p.d.toNat]) (hrights : latheRights s b.part (capReg s f p.c.toNat) (rCUT + rWR) = none) (houts : f.outs = [])
    (hstores : storesOf s f.key = []) (hroom : reqRoom s f.loc 1 = true) (hrange : rangeOf s b.part (capReg s f p.c.toNat) f.xl = .rows k bank row n)
    (hup : asleep s k = false)
    (hcount : (uni s f p.s.toNat).getLsbD 9 = false → cutWordsBad (uni s f p.s.toNat) (uni s f (p.s.toNat + 1)) (uni s f (p.s.toNat + 2))
      (uni s f (p.s.toNat + 3)) = false → f.counter 2 < 63) :
    Completes (.cutreg h p) s c ls h (setFibre (touch s (rowCell k bank row)).fresh f.key fun g =>
      { g with outs := g.outs ++ [cutOut (touch s (rowCell k bank row)) f (canonObj (capObj (capReg s f p.c.toNat))) (rowCell k bank row) n p.d.toNat
        (cutWords s f p)] }) := by
  rw [Completes, exec_cutreg, execCutreg]
  refine B.firstLane_past (lathe_legal (p := p) (by simp) hwf) hclear ?_
    ((touch_stay ..).trans ((fresh_stay _).trans (setFibre_stay (by intro; rfl) (by intro; rfl) _ _)))
  have hgo : ((cutOut (touch s (rowCell k bank row)) f (canonObj (capObj (capReg s f p.c.toNat))) (rowCell k bank row) n p.d.toNat
        (cutWords s f p)).once && !cutWordsBad (uni s f p.s.toNat) (uni s f (p.s.toNat + 1)) (uni s f (p.s.toNat + 2)) (uni s f (p.s.toNat + 3))
        && decide (63 ≤ f.rowCount)) = false := by
    rw [cutOut_once, cutWords_once, rowCount_of_idle houts]
    simpa using hcount
  simp only [hrights, drained_of_idle houts hstores, hroom, onRange_rows hrange hup, Bool.not_true, Bool.or_self, Bool.false_eq_true, if_false,
    uni_touch]
  exact if_neg (Bool.eq_false_iff.mp hgo)

/-- The cut entry of a range is taken away, its once cut's operation completing with an error; without one the status is 7 (R272). -/
theorem cutdrop_completes (B : LatheBatch h s c b ls f fs) {k bank row n : Nat} (hwf : (Instr.cutdrop h p).wellFormed = true)
    (hclear : Clear ls [p.d.toNat]) (hrights : latheRights s b.part (capReg s f p.c.toNat) (rCUT + rWR) = none)
    (hrange : rangeOf s b.part (capReg s f p.c.toNat) f.xl = .rows k bank row n) (hup : asleep s k = false) :
    let t := touch s (rowCell k bank row)
    (cutEntry s b.part k bank row n = none → Completes (.cutdrop h p) s c ls h (putStatus t f p.d.toNat 7 0))
    ∧ ∀ r, cutEntry s b.part k bank row n = some r → Completes (.cutdrop h p) s c ls h
      (putStatus (delRegion (if r.stand = false ∧ r.state = 1 then completeOp t r.fib r.opId 2 true else t) k r.idx) f p.d.toNat 0 0) := by
  refine ⟨fun hnone => ?_, fun r hr => ?_⟩
  · rw [Completes, exec_cutdrop, execCutdrop]
    refine B.firstLane_past (lathe_legal (p := p) (by simp) hwf) hclear ?_ ((touch_stay ..).trans (putStatus_stay ..))
    simp only [hrights, onRange_rows hrange hup, cutEntry_touch, hnone]
  · rw [Completes, exec_cutdrop, execCutdrop]
    refine B.firstLane_past (lathe_legal (p := p) (by simp) hwf) hclear ?_ ((touch_stay ..).trans
      ((LanesStay.ite (completeOp_stay ..) (.refl _)).trans ((delRegion_stay ..).trans (putStatus_stay ..))))
    simp only [hrights, onRange_rows hrange hup, cutEntry_touch, hr, Bool.and_eq_true, Bool.not_eq_true', beq_iff_eq]

/-- The boost of a range's cut is set; the bank's next turn comes no later than the new t_row from now (R96, R273). -/
theorem cutboost_completes (B : LatheBatch h s c b ls f fs) {k bank row n : Nat} {r : Region} (hwf : (Instr.cutboost h p).wellFormed = true)
    (hclear : Clear ls [p.d.toNat]) (hrights : latheRights s b.part (capReg s f p.c.toNat) rCUT = none)
    (hrange : rangeOf s b.part (capReg s f p.c.toNat) f.xl = .rows k bank row n) (hup : asleep s k = false)
    (hr : cutEntry s b.part k bank row n = some r) (hboost : r.stand = false → r.state = 1 → r.boost ≤ 2 ^ p.bf.toNat) :
    let t := touch s (rowCell k bank row)
    Completes (.cutboost h p) s c ls h
      (putStatus (hasten (boostFell (latheOf t k) (setRegion t k r.idx fun x => { x with boost := 2 ^ p.bf.toNat })) k bank) f p.d.toNat 0 0) := by
  intro t
  rw [Completes, exec_cutboost, execCutboost]
  refine B.firstLane_past (lathe_legal (p := p) (by simp) hwf) hclear ?_
    ((touch_stay ..).trans ((setLathe_stay ..).trans ((setLathe_stay ..).trans ((setLathe_stay ..).trans (putStatus_stay ..)))))
  have hgo : ¬(!r.stand && r.state == 1 && decide (2 ^ p.bf.toNat < r.boost)) = true := by
    simpa using hboost
  simp only [hrights, onRange_rows hrange hup, cutEntry_touch, hr, if_neg hgo]
  rfl

/-! ### SWPOS -/

theorem swposWord_congr {t : State} (hnow : t.now = s.now) (hl : t.lathes = s.lathes) (a : Nat) : swposWord t a = swposWord s a := by
  have hlathe : ∀ k, latheOf t k = latheOf s k := fun k => by simp only [latheOf, hl]
  have hsweep : ∀ l bank, sweepNow t l bank = sweepNow s l bank := fun l bank => by simp only [sweepNow, hnow]
  unfold swposWord
  cases rowAt a with
  | none => rfl
  | some x => simp only [hlathe, hsweep]

/-- A lane's word of SWPOS, as it is in `s`, is written (R274). -/
def putSwpos (s : State) (cell : Fibre → Nat) (d : Nat) (t : State) (g : Fibre) : State :=
  setFibre (touch t (cell g)) g.key fun x => x.writeNow (.reg d { val := swposWord s (cell g), tag := tI32 })

theorem putSwpos_stay (s : State) (cell : Fibre → Nat) (d : Nat) (t : State) (g : Fibre) : LanesStay t (putSwpos s cell d t g) :=
  (touch_stay ..).trans (setFibre_writeNow_stay ..)

/-- SWPOS changes no lathe: each lane's word is what it was at issue (R274). -/
theorem foldl_putSwpos (cell : Fibre → Nat) (d : Nat) (gs : List Fibre) :
    gs.foldl (fun t g => putSwpos t cell d t g) s = gs.foldl (putSwpos s cell d) s := by
  have hrel := List.foldl_rel (l := gs) (a := s) (b := s) (r := fun t u => t = u ∧ t.now = s.now ∧ t.lathes = s.lathes)
    (f := fun t g => putSwpos t cell d t g) (g := putSwpos s cell d) ⟨rfl, rfl, rfl⟩ (by
      rintro g - t _ ⟨rfl, hnow, hl⟩
      obtain ⟨r, hr⟩ := touch_only t (cell g)
      refine ⟨?_, ?_, ?_⟩
      · simp only [putSwpos, swposWord_congr hnow hl]
      · simp only [putSwpos, hr, setFibre_frame, hnow]
      · simp only [putSwpos, hr, setFibre_frame, hl])
  exact hrel.1

/-- Each lane reads the sweep position of its cell's bank (R274). -/
theorem swpos_completes (B : LatheBatch h s c b ls f fs) {cell : Fibre → Nat} (hwf : (Instr.swpos h p).wellFormed = true)
    (hclear : Clear ls (offRegs p.a.toNat p.o64 ++ [p.d.toNat]))
    (hlanes : ∀ g ∈ f :: fs, checkRegs g (offRegs p.a.toNat p.o64) = none
      ∧ Reaches s b g (capReg s g p.c.toNat) (offVal g p.a.toNat p.o64) 1 rRD (cell g)
      ∧ farWindow s b.part (capObj (capReg s g p.c.toNat)) = false ∧ ∀ x, rowAt (cell g) = some x → asleep s x.stack = false) :
    Completes (.swpos h p) s c ls h ((f :: fs).foldl (putSwpos s cell p.d.toNat) s) := by
  rw [Completes, exec_swpos, execSwpos]
  refine B.issue_past (lathe_legal (p := p) (by simp) hwf) hclear ?_ (.foldl (putSwpos_stay s cell p.d.toNat) _ s)
  have hchk : ∀ g ∈ f :: fs, firstTrap
      [(checkRegs g (offRegs p.a.toNat p.o64), 0), globalChk s b g p.c.toNat (offVal g p.a.toNat p.o64) 1 rRD,
        (if farWindow s b.part (capObj (capReg s g p.c.toNat)) then some cCapRights else none,
          infoOf ((capBase (capReg s g p.c.toNat) : Int) + offVal g p.a.toNat p.o64))] = none := by
    intro g hg
    obtain ⟨hregs, ⟨haccess, -⟩, hfar, -⟩ := hlanes g hg
    exact firstTrap_none (by simp [hregs, globalChk, haccess, hfar])
  have hup : ((f :: fs).map fun g => (g, cell g)).filter (fun x => (rowAt x.2).any fun y => asleep s y.stack) = [] := by
    simp only [List.filter_eq_nil_iff, List.mem_map]
    rintro _ ⟨g, hg, rfl⟩
    obtain ⟨-, -, -, hup⟩ := hlanes g hg
    cases hrow : rowAt (cell g) with
    | none => simp
    | some x => simp [hup x hrow]
  have hreach := reach_placed (s := s) (b := b) (write := false) (w := 1) (gs := f :: fs) (cell := cell)
    (obj := fun f => capObj (capReg s f p.c.toNat)) (off := fun f => capOff (capReg s f p.c.toNat) (offVal f p.a.toNat p.o64)) fun g hg => by
      obtain ⟨-, ⟨-, hplace⟩, -⟩ := hlanes g hg
      exact hplace
  dsimp only
  rw [passed_all hchk, trapped_none hchk, hreach]
  simp only [hup, List.head?_nil, Bool.false_eq_true, if_false, List.foldl_map, List.append_nil]
  exact congrArg (acted · []) (foldl_putSwpos cell p.d.toNat (f :: fs))

/-! ### ROWSTAT -/

theorem rowstatPut_stay (s : State) (b : Block) (p : LatheP) (f : Fibre) (ws : List Word) (dm : Nat) (r : Option (Nat × Region)) :
    LanesStay s (rowstatPut s b p f ws dm r) := by
  unfold rowstatPut
  extract_lets t o u
  have ht : LanesStay s t := setFibre_stay (fun g => foldl_key (fun g x => g.writeNow_key _) _ g)
    (fun g => foldl_standing (fun g x => g.writeNow_standing _) _ g) s f.key
  have hu : LanesStay s u := ht.trans (.ite (.foldl (fun _ _ => pushStore_stay ..) _ _) (.refl _))
  split
  · exact hu.trans (.ite (delRegion_stay ..) (.refl _))
  · exact hu

/-- The state after ROWSTAT's registers have been written (R277). -/
def rowstatRegs (s : State) (f : Fibre) (d : Nat) (ws : List Word) : State :=
  setFibre s f.key fun g => (ws.zipIdx).foldl (fun g x => g.writeNow (.reg (d + x.2) { val := x.1, tag := tRaw })) g

/-- The done map's 32 stores to the scratchpad (R277, R395). -/
def rowstatStores (s : State) (f : Fibre) (b : Block) (o map : Nat) : State :=
  (List.range 32).foldl (fun t i =>
    pushStore t f b (.stl 0) true (spadCell b (o + 16 * i)) (o + 16 * i) 16 (map / 2 ^ (128 * i) % 2 ^ 128) 0 false f.fhash none) s

/-- An entry that ROWSTAT has read is freed where its cut has ended (R103). -/
def freeEnded (s : State) (k : Nat) (r : Region) : State := if r.state = 2 ∨ r.state = 4 ∨ r.state = 5 then delRegion s k r.idx else s

theorem rowstatPut_cut {ws : List Word} {dm k : Nat} {r : Region} (hcut : r.isProg = false) :
    rowstatPut s b p f ws dm (some (k, r)) = freeEnded (if p.dm then rowstatStores (rowstatRegs s f p.d.toNat ws) f b (f.val p.a.toNat).toNat dm
      else rowstatRegs s f p.d.toNat ws) k r := by
  simp only [rowstatPut, hcut, freeEnded, Bool.not_false, Bool.true_and, Bool.or_eq_true, beq_iff_eq, or_assoc]
  rfl

/-- The words of ROWSTAT on a range with an entry (R277). -/
theorem rowstatWords_entry {k bank row n : Nat} {r : Region} (hr : anyEntry s b.part k bank row n = some r) :
    let progs := (latheOf s k).regions.filter fun x => x.isProg && x.bank == bank && x.row == row && x.n == n
    let run := progs.find? (·.running)
    let step := match run with | some x => x.step | none => mapGet (latheOf s k).lastStep (rangeKey bank row n) 0
    rowstatWords s b.part k bank row n = [loWord r.status, hiWord r.status,
      BitVec.ofNat 32 ((sweepNow s (latheOf s k) bank).1 + step * 2 ^ 16 + (if run.isSome then 2 ^ 24 else 0)),
      BitVec.ofNat 32 (sysGet s b.part 0x0004)] := by
  intro progs run step
  have hrun : progs.any (·.running) = run.isSome := by rw [Bool.eq_iff_iff, List.find?_isSome, List.any_eq_true]
  simp only [rowstatWords, hr]
  change [_, _, BitVec.ofNat 32 (_ + _ + if progs.any (·.running) then 2 ^ 24 else 0), _] = _
  rw [hrun] <;> rfl

/-- The status of a range's cut is written and its entry freed where it has ended; with DM its done map is stored (R103, R277). -/
theorem rowstat_completes (B : LatheBatch h s c b ls f fs) {k bank row n : Nat} {r : Region} (hwf : (Instr.rowstat h p).wellFormed = true)
    (hclear : Clear ls ((if p.dm then [p.a.toNat] else []) ++ (List.range 4).map (· + p.d.toNat)))
    (hrights : latheRights s b.part (capReg s f p.c.toNat) rRD = none)
    (hrange : rangeOf s b.part (capReg s f p.c.toNat) f.xl = .rows k bank row n) (hup : asleep s k = false)
    (hr : anyEntry s b.part k bank row n = some r)
    (hmap : p.dm = true → checkTag none (f.reg p.a.toNat) = none ∧ (f.val p.a.toNat).toNat % 16 = 0
      ∧ (f.val p.a.toNat).toNat + 512 ≤ b.spadSize
      ∧ (∀ i, i < 32 → s.isLive (spadCell b ((f.val p.a.toNat).toNat + 16 * i)) = false) ∧ fifoRoom s f.loc f.key.port 32 = true) :
    Completes (.rowstat h p) s c ls h
      (rowstatPut (touch s (rowCell k bank row)) b p f (rowstatWords s b.part k bank row n) (doneMap r) (some (k, r))) := by
  rw [Completes, exec_rowstat, execRowstat]
  refine B.firstLane_past (lathe_legal (p := p) (by simp) hwf) hclear ?_ ((touch_stay ..).trans (rowstatPut_stay ..))
  have hfirst : firstTrap
      [(if p.dm then checkTag none (f.reg p.a.toNat) else none, 0), (none, 0),
        (if p.dm && (f.val p.a.toNat).toNat % 16 != 0 then some cMisaligned else none, (f.val p.a.toNat).toNat),
        (if p.dm && decide (b.spadSize < (f.val p.a.toNat).toNat + 512) then some cSpadBounds else none, (f.val p.a.toNat).toNat)] = none := by
    refine firstTrap_none ?_
    cases hdm : p.dm with
    | false => simp
    | true =>
      obtain ⟨htag, halign, hfits, -⟩ := hmap hdm
      simp [htag, halign, hfits]
  have hlive : (p.dm && (List.range 32).any fun i => s.isLive (spadCell b ((f.val p.a.toNat).toNat + 16 * i))) = false := by
    rw [Bool.and_eq_false_imp]
    intro hdm
    obtain ⟨-, -, -, hlive, -⟩ := hmap hdm
    simpa using hlive
  have hroom : (p.dm && !fifoRoom s f.loc f.key.port 32) = false := by
    rw [Bool.and_eq_false_imp]
    intro hdm
    obtain ⟨-, -, -, -, hroom⟩ := hmap hdm
    simp [hroom]
  simp only [hrights, hfirst, hlive, hroom, onRange_rows hrange hup, anyEntry_touch, hr, rowstatWords_touch, Option.map_some, Option.getD_some,
    Bool.false_eq_true, if_false]
  rfl

/-! ### ROWPROG, ROWOP -/

/-- A program's steps are kept in its slot (R275). -/
theorem rowprog_completes (B : LatheBatch h s c b ls f fs) {q : Nat} {x : RowAt} (hwf : (Instr.rowprog h p).wellFormed = true)
    (hclear : Clear ls [p.a.toNat, p.d.toNat]) (hrights : latheRights s b.part (capReg s f p.c.toNat) rCUT = none) {o : Nat}
    (ho : (f.val p.a.toNat).toNat = o) {steps : List Word × Bool} (hsteps : readSteps s (spadCell b o) ((b.spadSize - o) / 4) 256 0 = steps)
    (htag : checkTag none (f.reg p.a.toNat) = none) (halign : o % 4 = 0) (hfits : steps.2 = false) (hread : f.reading = false)
    (hown : ownPending s f true 0 o (4 * steps.1.length) = false) (hue : s.ue (spadCell b o) (4 * steps.1.length) = false) {id : Nat}
    (hobj : objName s b.part (capObj (capReg s f p.c.toNat)) = .local id)
    (hplace : translate s b.part (capObj (capReg s f p.c.toNat)) (capBase (capReg s f p.c.toNat)) f.xl = .place q) (hx : rowAt q = some x)
    (hup : asleep s x.stack = false) (hgood : badStep steps.1 = none) (hslot : slotDenied s x.stack b.part p.slot.toNat = false)
    (hidle : ∀ r ∈ (latheOf s x.stack).regions, r.isProg = true → r.slot ≠ p.slot.toNat) :
    Completes (.rowprog h p) s c ls h
      (putStatus (setLathe (touch s q) x.stack fun l =>
        { l with progs := l.progs.filter (fun y => y.1 != p.slot.toNat) ++ [(p.slot.toNat, b.part, steps.1)] }) f p.d.toNat 0 0) := by
  rw [Completes, exec_rowprog, execRowprog]
  refine B.firstLane_past (lathe_legal (p := p) (by simp) hwf) hclear ?_ ((touch_stay ..).trans ((setLathe_stay ..).trans (putStatus_stay ..)))
  have hfirst : firstTrap
      [(checkTag none (f.reg p.a.toNat), 0), (latheRights s b.part (capReg s f p.c.toNat) rCUT, 0),
        (if o % 4 != 0 then some cMisaligned else none, o), (if steps.2 then some cSpadBounds else none, o)] = none :=
    firstTrap_none (by simp [htag, hrights, halign, hfits])
  have hbusy : ((latheOf s x.stack).regions.any fun r => r.isProg && r.slot == p.slot.toNat) = false := by simpa using hidle
  simp only [ho, hsteps, hfirst, hread, hown, hue, hobj, hplace, hx, hup, hgood, slotDenied_touch, hslot, latheOf_touch, hbusy, Bool.or_self,
    Bool.false_eq_true, if_false]

/-- The region of a program that ROWOP queues (R108, R276). -/
def rowopRegion (s : State) (b : Block) (f : Fibre) (p : LatheP) (i bank row n : Nat) (rows : List Nat) : Region :=
  let w := fun i => (uni s f (p.s.toNat + i)).toNat
  { Region.blank i b.part (canonObj (capObj (capReg s f p.c.toNat))) bank row n with
    isProg := true, slot := w 3 % 16, px := w 0, py := w 1, pz := w 2, order := s.seq + 256, fib := f.key, blk := b.id, opId := s.seq
    sub := subarrayOf (row + rows.headD (w 0)) }

theorem distinct_le_one {l : List Nat} (hl : ∀ y ∈ l, ∀ z ∈ l, y = z) : (distinct l).length ≤ 1 := by
  cases l with
  | nil => exact Nat.zero_le _
  | cons w l => rw [distinct_replicate w (w :: l) (by simp) fun x hx => hl x hx w (by simp)]; rfl

/-- A program is queued on its bank, and its lane's operation counts (R68, R108, R276). -/
theorem rowop_completes (B : LatheBatch h s c b ls f fs) {k bank row n i : Nat} (hwf : (Instr.rowop h p).wellFormed = true)
    (hclear : Clear ls [p.d.toNat]) (hrights : latheRights s b.part (capReg s f p.c.toNat) (rCUT + rWR) = none) (houts : f.outs = [])
    (hstores : storesOf s f.key = []) (hrange : rangeOf s b.part (capReg s f p.c.toNat) f.xl = .rows k bank row n) (hup : asleep s k = false)
    {w : Nat → Nat} (hw : w = fun i => (uni s f (p.s.toNat + i)).toNat) {rows : List Nat}
    (hrows : operandRows (slotWords (latheOf s k) (w 3 % 16)) (w 0) (w 1) (w 2) = rows)
    (hfree : ∀ r ∈ (latheOf s k).regions, r.bank = bank →
      if r.isProg then ∀ y ∈ [w 0, w 1, w 2] ++ rows, subarrayOf (row + y) ≠ r.sub else meets row n r.row r.n = false)
    (hentry : freeEntry s k b.part = some i) (hslot : slotDenied s k b.part (w 3 % 16) = false)
    (hprog : slotWords (latheOf s k) (w 3 % 16) ≠ []) (hin : ∀ y ∈ rows, y < n)
    (hsub : ∀ y ∈ rows, ∀ z ∈ rows, subarrayOf (row + y) = subarrayOf (row + z)) (hcount : f.counter 2 < 63) :
    Completes (.rowop h p) s c ls h (putStatus (setFibre
      (addRegion (settleBank (touch s (rowCell k bank row)).fresh k bank) k (rowopRegion s b f p i bank row n rows)) f.key
      fun g => g.addOp s.seq 2) f p.d.toNat 0 0) := by
  rw [Completes, exec_rowop, execRowop]
  refine B.firstLane_past (lathe_legal (p := p) (by simp) hwf) hclear ?_ ((touch_stay ..).trans ((fresh_stay _).trans ((setLathe_stay ..).trans
    ((setLathe_stay ..).trans ((setFibre_stay (by intro; rfl) (by intro; rfl) _ _).trans (putStatus_stay ..))))))
  have hbusy : ((latheOf s k).regions.any fun r => r.bank == bank && (if r.isProg then (([w 0, w 1, w 2] ++ rows).map fun y =>
      subarrayOf (row + y)).contains r.sub else meets row n r.row r.n)) = false := by
    simp only [List.any_eq_false, Bool.and_eq_true, beq_iff_eq, not_and]
    intro r hr hbank
    have hclash := hfree r hr hbank
    cases hp : r.isProg with
    | true =>
      rw [hp, if_pos rfl] at hclash
      rw [if_pos rfl, List.contains_iff_mem, List.mem_map]
      rintro ⟨y, hy, hsame⟩
      exact hclash y hy hsame
    | false =>
      rw [hp, if_neg Bool.false_ne_true] at hclash
      rw [if_neg Bool.false_ne_true, hclash]
      exact Bool.false_ne_true
  have hout : (rows.any (fun r => decide (n ≤ r)) || decide (1 < (distinct (rows.map fun r => subarrayOf (row + r))).length)) = false := by
    have hone := distinct_le_one (l := rows.map fun r => subarrayOf (row + r)) (by simpa using hsub)
    simpa [hone] using hin
  have hroom : ¬63 ≤ f.rowCount := by rw [rowCount_of_idle houts]; omega
  subst hw
  simp only [hrights, drained_of_idle houts hstores, onRange_rows hrange hup, latheOf_touch, uni_touch, touch_seq, hrows, hbusy,
    freeEntry_touch, hentry, slotDenied_touch, hslot, List.isEmpty_eq_false_iff.mpr hprog, hout, hroom, Bool.not_true, Bool.false_eq_true, if_false]
  rfl

end

/-- Settles O42: at t_reg the cut that is due is entered as `enterCut_busy` to `enterCut_enters` say; each instruction has its lemma above, whose
conclusion is the clause. -/
theorem latheInstructions : Obligations.LatheInstructions := by
  constructor
  · intro s core port ctx blk left o x b key hsrc hx hb hup w stand busy t done
    refine ⟨fun hbusy => ?_, fun hbusy hfree => ?_, fun i hbusy hfree hbad => ?_, fun i hbusy hfree hgood hkind => ?_⟩
    · exact loadComplete_entersCut hsrc (enterCut_busy hx hb hup hbusy)
    · exact loadComplete_entersCut hsrc (enterCut_full hx hb hup hbusy hfree)
    · exact loadComplete_entersCut hsrc (enterCut_bad hx hb hup hbusy hfree hbad)
    · have henter := enterCut_enters (k := key) (left := left) hx hb hup hbusy hfree hgood
      simp only [Out.not_once hkind, Bool.or_eq_true] at henter
      exact loadComplete_entersCut hsrc henter
  · intro h p s c b ls f fs cap d u hready hhome hfirst hfeat
    have B : LatheBatch h s c b ls f fs := ⟨hready, hhome, hfirst, hfeat⟩
    refine ⟨?_, ?_, ?_, ?_, ?_, ?_, ?_⟩
    · intro k bank row n hwf hclear hrights houts hstores hroom hrange hup hcount
      exact cutreg_completes B hwf hclear hrights houts hstores hroom hrange hup hcount
    · intro k bank row n hwf hclear hrights hrange hup
      exact cutdrop_completes B hwf hclear hrights hrange hup
    · intro k bank row n r hwf hclear hrights hrange hup hr hboost
      exact cutboost_completes B hwf hclear hrights hrange hup hr hboost
    · intro cell hwf hclear hlanes
      exact swpos_completes B hwf hclear hlanes
    · intro k bank row n r hwf hclear hrights hrange hup hr hcut progs run step ws t free o map
      have hws : rowstatWords s b.part k bank row n = ws := rowstatWords_entry hr
      refine ⟨fun hdm => ?_, fun hdm htag halign hfits hlive hroom => ?_⟩
      · have hdone := rowstat_completes B hwf hclear hrights hrange hup hr (by simp [hdm])
        rw [rowstatPut_cut hcut, hdm, hws] at hdone
        exact hdone
      · have hdone := rowstat_completes B hwf hclear hrights hrange hup hr fun _ => ⟨htag, halign, hfits, hlive, hroom⟩
        rw [rowstatPut_cut hcut, hdm, hws] at hdone
        exact hdone
    · intro q x hwf hclear hrights o steps htag halign hfits hread hown hue hobj hplace hx hup hgood hslot hidle
      exact rowprog_completes B hwf hclear hrights rfl rfl htag halign hfits hread hown hue hobj hplace hx hup hgood hslot hidle
    · intro k bank row n i hwf hclear hrights houts hstores hrange hup l w slot rows hfree hentry hslot hprog hin hsub hcount
      exact rowop_completes B hwf hclear hrights houts hstores hrange hup rfl rfl hfree hentry hslot hprog hin hsub hcount

end Sys2Proof.Machine
end

section
/-!
PROOFS. O43: the turn of a row in a once cut (R97, R103). `Obligations.LatheEvents` speaks of every state, one that lists two lathes for a stack too,
where its clause about a turn fails: `twinLathes`. Of a state that lists a stack once the clause holds: `turnIn_next`.
-/
namespace Sys2Proof.Machine

/-! ### A turn where the stack is listed once -/

/-- Changes of a region are alike where they agree on every listed region of its number. -/
theorem setRegion_congr {s : State} {k idx : Nat} {g h : Region → Region}
    (hgh : ∀ l ∈ s.lathes, l.stack = k → ∀ x ∈ l.regions, x.idx = idx → g x = h x) : setRegion s k idx g = setRegion s k idx h := by
  have hmap : ∀ l ∈ s.lathes, (if l.stack == k then { l with regions := l.regions.map fun r => if r.idx == idx then g r else r } else l)
      = if l.stack == k then { l with regions := l.regions.map fun r => if r.idx == idx then h r else r } else l := by
    intro l hl
    refine ite_congr rfl (fun hk => ?_) (fun _ => rfl)
    refine congrArg (fun rs => { l with regions := rs }) (List.map_congr_left fun x hx => ?_)
    exact ite_congr rfl (fun hi => hgh l hl (eq_of_beq hk) x hx (eq_of_beq hi)) fun _ => rfl
  simp only [setRegion, setLathe, upsert, List.map_congr_left hmap, Lathe.empty, List.map_nil]

/-- The region row whose turn is next has not been applied where no pull-forward has brought it (R103). -/
theorem Region.applied_next {r : Region} (hstart : r.start < r.n) (hdone : r.done < r.n) (hmap : r.dmap.contains ((r.start + r.done) % r.n) = false) :
    r.applied ((r.start + r.done) % r.n) = false := by
  have hturn : ((r.start + r.done) % r.n + r.n - r.start) % r.n = r.done := by
    obtain hlt | hge := Nat.lt_or_ge (r.start + r.done) r.n
    · have hsum : r.start + r.done + r.n - r.start = r.done + r.n := by omega
      rw [Nat.mod_eq_of_lt hlt, hsum, Nat.add_mod_right, Nat.mod_eq_of_lt hdone]
    · have hmod : (r.start + r.done) % r.n = r.start + r.done - r.n := by rw [Nat.mod_eq_sub_mod hge, Nat.mod_eq_of_lt (by omega)]
      have hsum : r.start + r.done - r.n + r.n - r.start = r.done := by omega
      rw [hmod, hsum, Nat.mod_eq_of_lt hdone]
  simp only [Region.applied, hturn, hmap, lt_irrefl, decide_false, Bool.or_self]

/-- R97, R103: the turn of the next row of a once cut whose stack is listed once. -/
theorem turnIn_next {s : State} {k row : Nat} {r : Region} (hone : ∀ l ∈ s.lathes, l.stack = k → l = latheOf s k)
    (hprog : r.isProg = false) (hstand : r.stand = false) (hstate : r.state = 1) (hlo : r.row ≤ row) (hhi : row < r.row + r.n)
    (hidx : ∀ x ∈ (latheOf s k).regions, x.idx = r.idx → x = r) (hue : s.ue (rowCell k r.bank row) Config.rowBytes = false)
    (hmap : r.dmap.contains (row - r.row) = false) (hstart : r.start < r.n) (hdone : r.done < r.n) (hnext : (r.start + r.done) % r.n = row - r.row) :
    turnIn k row s r = endOnce (setRegion (s.write (rowCell k r.bank row) Config.rowBytes
      (cutRow r.func r.fmt r.sat r.ca r.cb (s.read (rowCell k r.bank row) Config.rowBytes))) k r.idx fun x => { x with done := x.done + 1 })
      k r.idx := by
  have hcovers : r.covers r.bank row = true := by simp [Region.covers, hlo, hhi]
  have happlied : r.applied (row - r.row) = false := hnext ▸ Region.applied_next hstart hdone (hnext ▸ hmap)
  simp only [turnIn, hprog, hcovers, hstand, hstate, happlied, applyCut, hue, Bool.not_true, Bool.not_false, Bool.or_self, Bool.and_self,
    beq_self_eq_true, Bool.false_eq_true, if_false, if_true]
  refine congrArg (endOnce · k r.idx) (setRegion_congr fun l hl hk x hx hi => ?_)
  rw [hone l (by simpa using hl) hk] at hx
  rw [hidx x hx hi, hnext, beq_self_eq_true, if_pos rfl]

/-! ### A turn where the stack is listed twice -/

/-- A once cut on rows 0 and 1 of bank 0 whose turns begin at row 0. -/
def firstRowCut : Region := { Region.blank 0 0 0 0 0 2 with state := 1 }

/-- Stack 0 is listed twice: the lathe that a look-up finds holds `firstRowCut`, the other one a cut of the same number that
began at its second row. -/
def twinLathes : State :=
  { State.reset with
    lathes := [{ Lathe.empty 0 with regions := [firstRowCut] }, { Lathe.empty 0 with regions := [{ firstRowCut with start := 1 }] }] }

/-- DONE and the done map of each listed region. -/
def turnsTaken (s : State) : List (List (Nat × List Nat)) := s.lathes.map fun l => l.regions.map fun r => (r.done, r.dmap)

/-- The turn of row 0 is out of order in the second cut, whose done map takes it. -/
theorem turnsTaken_turnIn : turnsTaken (turnIn 0 0 twinLathes firstRowCut) = [[(1, [])], [(0, [0])]] := by decide

/-- The clause of `Obligations.LatheEvents` counts the row in both. -/
theorem turnsTaken_clause (v : Nat) :
    turnsTaken (endOnce (setRegion (twinLathes.write 0 Config.rowBytes v) 0 0 fun x => { x with done := x.done + 1 }) 0 0)
      = [[(1, [])], [(1, [])]] := by
  rfl

/-- Refutes O43: a change of a region reaches every lathe that is listed for its stack, and the clause about the turn of a once cut asks of the
regions of the first one alone that they are that cut. `setLathe` adds a lathe only where a stack has none, but the statement is of every state. -/
theorem not_latheEvents : ¬ Obligations.LatheEvents := by
  intro h
  obtain ⟨-, -, hturn, -⟩ := h twinLathes 0 0 (by decide)
  have heq := hturn firstRowCut 0 rfl rfl rfl (by decide) (by decide) (by decide) (by decide) (by decide) rfl (by decide) (by decide) (by decide)
  have htaken := turnsTaken_turnIn.symm.trans ((congrArg turnsTaken heq).trans (turnsTaken_clause _))
  exact absurd htaken (by decide)

end Sys2Proof.Machine
end

section
/-!
LAWS. The issue of a batch of one lane that moves: it splits nothing off (R30, R31), and a lane that leaves is out of its slot, in the state that the
effect has made.
-/
namespace Sys2Proof.Machine

section
variable {s e : State} {c : Cur} {b : Block} {f g : Fibre} {u : Use} {act : State → Block → List Fibre → Acted} {a : Acted} {x : Fate}

theorem setFibres_one (s : State) (k : FKey) (g : Fibre → Fibre) : setFibres s [k] g = setFibre s k g := by
  simp [setFibres, setFibre]

theorem setFibre_eq_self {g : Fibre → Fibre} (hg : ∀ f, g f = f) (s : State) (k : FKey) : setFibre s k g = s := by
  simp [setFibre, hg]

theorem fibre?_setFibre_same {k : FKey} {h : Fibre → Fibre} (hkey : ∀ f, (h f).key = f.key) (hf : fibre? s k = some f) :
    fibre? (setFibre s k h) k = some (h f) := by
  rw [fibre?_setFibre hkey, hf, Option.map_some, if_pos (by simp [fibre?_key hf])]

/-- One lane makes one fragment, so that a migration splits nothing. -/
theorem splitsBatch_one (a : Acted) (f : Fibre) (len : Nat) (m : Bool) : splitsBatch { a with migrate := m } [f] len = splitsBatch a [f] len := by
  have hone : ∀ fates, (distinct (([f].map (fateOf fates)).map fragOf)).length = 1 := fun _ => rfl
  simp only [splitsBatch, hone, Nat.reduceLeDiff, decide_false, Bool.and_false]

theorem placeGroups_migrate (c : Cur) (ls : List Fibre) (a : Acted) (m : Bool) (len age next bid : Nat) (s : State) (ws : List Nat) :
    placeGroups c ls { a with migrate := m } len age next bid s ws = placeGroups c ls a len age next bid s ws := by
  induction ws generalizing s with
  | nil => rfl
  | cons w ws ih => exact ih _

theorem finish_one_migrate (c : Cur) (b : Block) (f : Fibre) (len dist : Nat) (a : Acted) (m : Bool) :
    finish c b [f] len dist { a with migrate := m } = finish c b [f] len dist a := by
  simp only [finish, splitsBatch_one a f len m, placeGroups_migrate c [f] a m]
  rfl

/-- The one lane of a batch that could have moved and stays goes on (R30, R111). -/
theorem issue_stay_one (R : Ready s c b [f]) (P : u.Passes s b [f]) {m : Bool} (hact : act s b ([f].filter u.guard) = { acted e [] with migrate := m })
    (hstay : LanesStay s e) : issue u act s = .next (goOn e c [f] u.len (1 + u.stall) u.y) := by
  have hplain := issue_stay (act := fun _ _ _ => acted e []) R P rfl hstay
  rw [issue_ready R P (acted e []) rfl rfl rfl (by simp [acted])] at hplain
  rw [issue_ready R P _ hact rfl rfl (by simp [acted]), ← hplain]
  exact congrArg _ (finish_one_migrate c b f u.len (1 + u.stall) { acted e [] with renew := u.y } m)

/-- The lane is out of its slot after the issue, and has no trap and no park. -/
def Fate.leaves : Fate → Bool
  | .leave .. | .depart _ => true
  | _ => false

theorem Fate.leaves_next (hx : x.leaves = true) (hfates : a.fates = [(f.key, x)]) (len : Nat) :
    nextPc a.fates len f = none ∧ stopsFate (fateOf a.fates f) = false := by
  have hfate : fateOf a.fates f = some x := by simp [hfates, fateOf]
  rw [nextPc, hfate]
  cases x with
  | leave | depart => exact ⟨rfl, rfl⟩
  | go | back | stay | trap | unres | name | gone => cases hx

/-- The end of an issue whose one lane leaves (R30, R35). -/
theorem finish_leaves (htrial : ∀ p, trialDelay a.s b p = 0) (hx : x.leaves = true) (hfates : a.fates = [(f.key, x)]) (len dist : Nat) :
    ∃ age, finish c b [f] len dist a
      = { setFibre a.s f.key (Fibre.settle a len dist (a.s.now + dist) age) with slots := a.s.slots.filter fun x => !isSlot c x } := by
  obtain ⟨hnext, hstop⟩ := Fate.leaves_next hx hfates len
  have hsplit : splitsBatch a [f] len = false := by
    rw [← splitsBatch_one a f len false]
    simp [splitsBatch, hnext, hstop, distinct]
  have hgo : [f].filterMap (goKey a len) = [] := by simp [goKey, hnext]
  have hstops : ([f].map (fateOf a.fates)).filter stopsFate = [] := by simp [hstop]
  refine ⟨if a.renew then a.s.now else ((slot? a.s c).map (·.age)).getD a.s.now, ?_⟩
  simp only [finish, hsplit, htrial, hgo, hstops, ite_self, Bool.false_eq_true, if_false, beq_self_eq_true, if_true, Nat.add_zero]
  exact congrArg (fun t : State => { t with slots := a.s.slots.filter fun x => !isSlot c x }) (setFibres_one ..)

/-- An issue whose one lane leaves its batch. -/
theorem issue_leaves (R : Ready s c b [f]) (P : u.Passes s b [f]) (hact : act s b ([f].filter u.guard) = a) (hwait : a.wait = false)
    (hhole : a.hole = none) (hfates : a.fates = [(f.key, x)]) (hx : x.leaves = true) (hkernels : a.s.kernels = s.kernels)
    (hg : fibre? a.s f.key = some g) :
    ∃ t next age, issue u act s = .next t ∧ t.mem = a.s.mem ∧ fibre? t f.key = some (g.settle a u.len (1 + u.stall) next age) := by
  have htrial : ∀ p, trialDelay a.s b p = 0 := by
    have hk : kernel? a.s b.kernel = kernel? s b.kernel := by simp only [kernel?, hkernels]
    simp [trialDelay, hk, R.trial]
  have hgo : ∀ y ∈ a.fates, ∀ c i d m, y.2 ≠ .trap c i d m := by
    rintro y hy c i d m htrap
    rw [hfates, List.mem_singleton] at hy
    subst hy
    dsimp only at htrap
    rw [htrap] at hx
    cases hx
  obtain ⟨age, hfinish⟩ := finish_leaves (c := c) (a := { a with renew := a.renew || u.y }) htrial hx hfates u.len (1 + u.stall)
  refine ⟨_, a.s.now + (1 + u.stall), age, issue_ready R P a hact hwait hhole hgo, ?_⟩
  rw [hfinish]
  exact ⟨rfl, fibre?_setFibre_same (fun y => y.settle_key ..) hg⟩

end

end Sys2Proof.Machine
end

section
/-!
LAWS. Owner lookups of one lane that have been answered (R110, R111), the release of its departure (R121, R167), and what it carries (R112, R113).
-/
namespace Sys2Proof.Machine

section
variable {s : State} {b : Block} {f : Fibre}

/-- A release that has performed has cleared its port's masks and the lane's note of markers, and changed no more (R167). -/
theorem released_performed (h : (released s [f] 4).2 = true) :
    ∃ (r : Fibre → List (Nat × Nat)) (ps : List Port), (released s [f] 4).1 = { setFibre s f.key fun x => { x with sentTo := r x } with ports := ps } := by
  unfold released at h ⊢
  dsimp only at h ⊢
  split_ifs at h ⊢
  · exact absurd ‹4 < 4› (by decide)
  · refine ⟨Fibre.sentTo, (clearMask s f.loc f.key.port 4).ports, ?_⟩
    rw [setFibre_eq_self (by intro; rfl)]
    rfl
  · refine ⟨fun x => x.sentTo.filter fun y => y.2 != 0, (clearMask s f.loc f.key.port 4).ports, ?_⟩
    rw [← setFibres_one]
    rfl

/-- The fibre as it leaves for a guest slot (R112, R114). -/
def Fibre.departs (f : Fibre) (m : Move) (now : Nat) : Fibre :=
  { f with transit := .out, move := some m, run := .waiting .guestSlot, waitSince := now }

/-- The billet that a lane sets out with (R112, R113). -/
def moveOf (s : State) (b : Block) (f : Fibre) (live target : Nat) (fb : Bool) (pc : BitVec 44) (mask : Nat) (cs : List Nat) : Move :=
  { core := target, fb := fb, live := live, mask := mask, caps := cs.map fun n => (n, capReg s f n), pc := pc
    limit := sysGet s b.part 0x0003 % 65536 }

variable {live target mask : Nat} {fb : Bool} {pc : BitVec 44} {cs : List Nat}

/-- A lane whose release has performed departs with the live set as it was before the release. -/
theorem departLane_released (hf : fibre? s f.key = some f) (hrel : (released s [f] 4).2 = true) (hlive : liveEntry s b f live = some (mask, cs)) :
    (departLane (released s [f] 4).1 b f live target fb pc).kernels = s.kernels
      ∧ ∃ q, fibre? (departLane (released s [f] 4).1 b f live target fb pc) f.key
        = some (({ f with sentTo := q } : Fibre).departs (moveOf s b f live target fb pc mask cs) s.now) := by
  obtain ⟨r, ps, hrel⟩ := released_performed hrel
  have hentry : liveEntry (released s [f] 4).1 b f live = liveEntry s b f live := by rw [hrel]; rfl
  have hrec : fibre? (released s [f] 4).1 f.key = some { f with sentTo := r f } := by
    rw [hrel]
    exact fibre?_setFibre_same (by intro; rfl) hf
  rw [departLane, hentry, hlive]
  refine ⟨by rw [hrel]; rfl, r f, (fibre?_setFibre_same (by intro; rfl) hrec).trans ?_⟩
  rw [hrel]
  rfl

/-! ### Answered lookups -/

variable {c : Fibre → CapWord} {off lives : Fibre → Nat} {pcs : Fibre → BitVec 44} {stack : Nat}

/-- The lane's lookup for its address has been answered by a stack, nothing has refused its move, and its live set can be read (R110, R313). -/
structure Answered (s : State) (b : Block) (f : Fibre) (k : CapWord) (off live stack : Nat) : Prop where
  own : f.own = some { obj := capObj k, off := off, ans := some stack, ref := 0 }
  stack : stack < 64
  near : farWindow s b.part (capObj k) = false
  wait : liveWait s b f live = none
  acts : f.acts = false

theorem Answered.here {k : CapWord} {off : Nat} (A : Answered s b f k off live stack) (fb : Bool) (hst : stack = f.stack) :
    wayOf s b k live fb f stack 0 = .here 0 := by
  subst hst
  have hans : ¬64 ≤ f.stack := Nat.not_le.mpr A.stack
  simp [wayOf, A.acts, A.near, hans]

theorem Answered.go {k : CapWord} {off : Nat} (A : Answered s b f k off live stack) (fb : Bool) (hst : stack ≠ f.stack)
    (htarget : targetOf f stack ≠ f.key.core) (href : refusal s b f k live (targetOf f stack) = none) :
    wayOf s b k live fb f stack 0 = .go (targetOf f stack) := by
  have hans : ¬64 ≤ stack := Nat.not_le.mpr A.stack
  simp [wayOf, A.acts, A.near, hans, hst, htarget, href]

/-- A lane that is where its data is acts here (R110, R111). -/
theorem route_here (A : Answered s b f (c f) (off f) (lives f) stack) (fb : Bool) (hst : stack = f.stack) :
    route s b fb c off lives pcs [f] = { s := s, wait := false, here := [(f, 0)], fates := [] } := by
  simp [route, A.own, A.acts, A.wait, A.here fb hst, released, dedup, holdPages, fromLookup]

/-- A lane whose data is elsewhere, and which nothing refuses, departs once its release has performed (R111, R121). -/
theorem route_goes (A : Answered s b f (c f) (off f) (lives f) stack) (fb : Bool) (hst : stack ≠ f.stack)
    (htarget : targetOf f stack ≠ f.key.core) (href : refusal s b f (c f) (lives f) (targetOf f stack) = none)
    (hrel : (released s [f] 4).2 = true) :
    route s b fb c off lives pcs [f]
      = { s := departLane (released s [f] 4).1 b f (lives f) (targetOf f stack) fb (pcs f), wait := false, here := []
          fates := [(f.key, .depart (1 + targetOf f stack))] } := by
  simp [route, A.own, A.acts, A.wait, A.go fb hst htarget href, hrel, dedup, holdPages, fromLookup]

end

/-! ### Landing where the data is -/

section
variable {s : State} {b : Block} {f : Fibre}

theorem Fibre.landAll_standing (f : Fibre) : f.landAll.standing = f.standing := by
  refine foldl_standing (fun g e => ?_) f.pend f
  split
  · rfl
  · exact Fibre.apply_standing ..

/-- A lane that acts where it is lands its pending writes and, with the fallback qualifier, clears MIGST (R120, R202). -/
theorem landHere_one (s : State) (f : Fibre) (fb : Bool) :
    landHere s fb [(f, 0)] = setFibre s f.key fun g => { g.landAll with migst := if fb then 0 else g.migst } := rfl

theorem landHere_stay (s : State) (f : Fibre) (fb : Bool) : LanesStay s (landHere s fb [(f, 0)]) :=
  setFibre_stay (g := fun g => { g.landAll with migst := if fb then 0 else g.migst }) (fun g => g.landAll_key) (fun g => g.landAll_standing) s f.key

theorem pushOut_stay (s : State) (f : Fibre) (o : Out) : LanesStay s (pushOut s f o) :=
  (fresh_stay s).trans (setFibre_stay (by intro; rfl) (by intro; rfl) _ _)

/-! ### Loads of one lane -/

variable {p : MemP} {traps : List (FKey × Fate)}

theorem loadLanes_nil : loadLanes s b p [] traps = acted s traps := by
  simp [loadLanes, reach, ask, dedup, holdPages, lanesFit]

/-- A load whose page the port knows and whose bytes hold no uncorrectable error is outstanding (R230, R341). -/
theorem loadLanes_one {cell : Nat} (hfit : lanesFit s [f] = true)
    (hplace : translate s b.part (capObj (capReg s f p.c.toNat)) (capOff (capReg s f p.c.toNat) (memOff p f)) f.xl = .place cell)
    (hue : s.ue cell (memW p) = false) :
    loadLanes s b p [f] traps = acted (pushOut s f
      { loadOut f .load false cell (memW p) p.d.toNat p.t 0 p.sc.toNat (capObj (capReg s f p.c.toNat))
          (capOff (capReg s f p.c.toNat) (memOff p f)) with acq := p.qc == 6 }) traps := by
  have hask := ask_placed (s := s) (part := b.part) (w := false) (place := fun _ => cell)
    (reqs := [{ f := f, obj := capObj (capReg s f p.c.toNat), off := capOff (capReg s f p.c.toNat) (memOff p f) }]) (by simpa using hplace)
  simp [loadLanes, reach, hask, hfit, hurtHeld, hue]

end

end Sys2Proof.Machine
end

section
/-!
PROOFS. O39: MIGR, LD.mig and MIGRH of a batch of one lane (R110 to R121, R230, R268, R269).
-/
namespace Sys2Proof.Machine

/-! ### Issue -/

/-- `r` is the issue of an instruction that passes every check of the one lane of its batch and has the effect `a` (R190, R197). -/
inductive IssuesOne (r : Result) (h : Head) (s : State) (b : Block) (f : Fibre) (a : Acted) : Prop where
  | intro (u : Use) (act : State → Block → List Fibre → Acted) (exec : r = issue u act s) (passes : u.Passes s b [f])
    (guard : [f].filter u.guard = [f]) (acts : act s b [f] = a) (len : u.len = 8) (stall : u.stall = h.stall.toNat) (y : u.y = h.y)

section
variable {i : Instr} {h : Head} {s e : State} {c : Cur} {b : Block} {f g : Fibre} {a : Acted} {x : Fate}

theorem IssuesOne.completes {m : Bool} (I : IssuesOne (exec i s) h s b f { acted e [] with migrate := m }) (R : Ready s c b [f]) (hstay : LanesStay s e) :
    Completes i s c [f] h e := by
  obtain ⟨u, act, hexec, P, hguard, hact, hlen, hstall, hy⟩ := I
  rw [Completes, hexec, issue_stay_one R P ((congrArg (act s b) hguard).trans hact) hstay, hlen, hstall, hy]
  rfl

theorem IssuesOne.leaves (I : IssuesOne (exec i s) h s b f a) (R : Ready s c b [f]) (hwait : a.wait = false) (hhole : a.hole = none)
    (hfates : a.fates = [(f.key, x)]) (hx : x.leaves = true) (hkernels : a.s.kernels = s.kernels) (hg : fibre? a.s f.key = some g) :
    ∃ t dist next age, exec i s = .next t ∧ t.mem = a.s.mem ∧ fibre? t f.key = some (g.settle a 8 dist next age) := by
  obtain ⟨u, act, hexec, P, hguard, hact, hlen, -, -⟩ := I
  obtain ⟨t, next, age, ht, hmem, hfib⟩ := issue_leaves R P ((congrArg (act s b) hguard).trans hact) hwait hhole hfates hx hkernels hg
  exact ⟨t, _, next, age, hexec.trans ht, hmem, hlen ▸ hfib⟩

/-- A lane of a batch that departs is out of its slot and has its billet (R112, R114). -/
theorem IssuesOne.departs {live target tag : Nat} {fb : Bool} {pc : BitVec 44} {mask : Nat} {cs : List Nat}
    (I : IssuesOne (exec i s) h s b f { acted (departLane (released s [f] 4).1 b f live target fb pc) [(f.key, .depart tag)] with migrate := true })
    (R : Ready s c b [f]) (hrel : (released s [f] 4).2 = true) (hlive : liveEntry s b f live = some (mask, cs)) :
    ∃ t q age, exec i s = .next t ∧ t.mem = s.mem
      ∧ fibre? t f.key = some { ({ f with sentTo := q } : Fibre).departs (moveOf s b f live target fb pc mask cs) s.now with slot := none, age := age } := by
  obtain ⟨hkernels, q, hg⟩ := departLane_released (target := target) (fb := fb) (pc := pc) (R.own f (by simp)) hrel hlive
  obtain ⟨t, dist, next, age, ht, hmem, hfib⟩ := I.leaves R rfl rfl rfl rfl hkernels hg
  refine ⟨t, q, age, ht, hmem.trans (by simp [acted]), hfib.trans ?_⟩
  simp [Fibre.settle, fateOf, acted, Fibre.departs]

end

/-! ### MIGR, LD.mig -/

/-- What every clause about a moving lane supposes of its batch. -/
structure MovingLane (h : Head) (s : State) (c : Cur) (b : Block) (f : Fibre) : Prop where
  ready : Ready s c b [f]
  guard : guardTrue h.g h.gn [f] = [f]
  feature : featureOn s 1 = true

section
variable {h : Head} {s : State} {c : Cur} {b : Block} {f : Fibre} {stack : Nat}

theorem MovingLane.passes (M : MovingLane h s c b f) {legal : Bool} {vr vw caps : List Nat} (hlegal : (h.wf && legal) = true)
    (hhome : f.guest = none ∨ caps = []) (hclear : Clear [f] (vr ++ vw)) :
    Use.Passes { useOf h legal with feat := some 1, caps := caps, vr := vr, vw := vw } s b [f] :=
  { early := rfl, legal := hlegal, feat := by rintro k ⟨⟩; exact M.feature, priv := fun f _ => Nat.zero_le _, clear := hclear
    here := by
      intro g hg
      obtain rfl := List.mem_singleton.mp hg
      rcases hhome with hhome | rfl
      · simp [needsHome, hhome]
      · unfold needsHome
        split <;> rfl
    tiles := by rintro t ⟨⟩, lost := by rintro ⟨⟩ }

section
variable {p : MigrP} (M : MovingLane h s c b f) (hwf : (Instr.migr h p).wellFormed = true) (hhome : AtHome [f])
  (hclear : Clear [f] (offRegs p.a.toNat p.o64)) (hregs : checkRegs f (offRegs p.a.toNat p.o64) = none)
  (hcap : capCheck (capReg s f p.c.toNat) (offVal f p.a.toNat p.o64) 1 0 = none)
  (hwindow : objName s b.part (capObj (capReg s f p.c.toNat)) ≠ .window)
  (hweight : ∀ d, objName s b.part (capObj (capReg s f p.c.toNat)) ≠ .weight d)
include M hwf hhome hclear hregs hcap hwindow hweight

/-- The effect of a MIGR whose lane passes its checks is what its lookup makes of it (R268). -/
theorem migr_issues {r : Routed} (hroute : route s b p.fb (fun f => capReg s f p.c.toNat)
      (fun f => capOff (capReg s f p.c.toNat) (offVal f p.a.toNat p.o64)) (fun _ => p.live.toNat) (fun f => f.pc + 8) [f] = r)
    (hgo : r.wait = false) :
    IssuesOne (exec (.migr h p) s) h s b f { acted (landHere r.s p.fb r.here) r.fates with migrate := true } := by
  have hlegal : (h.wf && (Instr.migr h p).legal) = true := Bool.and_eq_true_iff.mpr ⟨(Bool.and_eq_true_iff.mp hwf).1, hwf⟩
  have hexec : exec (.migr h p) s = execMigr h p s := rfl
  rw [hexec, execMigr]
  refine .intro _ _ (Eq.refl _) (M.passes hlegal (.inl (hhome f (by simp))) (by simpa [useOf] using hclear)) M.guard ?_ rfl rfl rfl
  extract_lets chk traps r'
  have hchk : chk f = none := by
    simp only [chk, hregs, hcap]
    rfl
  have htraps : traps = [] := by simp [traps, hchk]
  have hr : r' = r := by
    simp only [r', List.filter_cons, List.filter_nil, hchk, Option.isNone_none, if_true]
    exact hroute
  change (if r'.wait = true then actWait r'.s
    else ({ acted (landHere r'.s p.fb r'.here) (traps ++ r'.fates) with migrate := true } : Acted)) = _
  rw [htraps, hr, hgo]
  rfl

variable (A : Answered s b f (capReg s f p.c.toNat) (capOff (capReg s f p.c.toNat) (offVal f p.a.toNat p.o64)) p.live.toNat stack)
include A

/-- A MIGR that is where its data is goes on, its pending writes landed (R111, R202). -/
theorem migr_stays (hst : stack = f.stack) :
    Completes (.migr h p) s c [f] h (setFibre s f.key fun g => { g.landAll with migst := if p.fb then 0 else g.migst }) :=
  (migr_issues M hwf hhome hclear hregs hcap hwindow hweight (route_here A p.fb hst) rfl).completes M.ready (landHere_stay s f p.fb)

/-- A MIGR whose data is elsewhere leaves with its live set, past the instruction (R111, R112, R268). -/
theorem migr_departs {mask : Nat} {cs : List Nat} (hst : stack ≠ f.stack) (htarget : targetOf f stack ≠ f.key.core)
    (href : refusal s b f (capReg s f p.c.toNat) p.live.toNat (targetOf f stack) = none) (hlive : liveEntry s b f p.live.toNat = some (mask, cs))
    (hrel : (released s [f] 4).2 = true) :
    ∃ t q age, exec (.migr h p) s = .next t ∧ t.mem = s.mem
      ∧ fibre? t f.key = some { ({ f with sentTo := q } : Fibre).departs
          (moveOf s b f p.live.toNat (targetOf f stack) p.fb (f.pc + 8) mask cs) s.now with slot := none, age := age } :=
  (migr_issues M hwf hhome hclear hregs hcap hwindow hweight (route_goes A p.fb hst htarget href hrel) rfl).departs M.ready hrel hlive

end

section
variable {p : MemP} (M : MovingLane h s c b f) (hwf : (Instr.ld h p).wellFormed = true) (hmig : p.qc = 4 ∨ p.qc = 5) (hhome : AtHome [f])
  (hclear : Clear [f] (offRegs p.a.toNat p.o64 ++ memRegs p)) (hregs : checkRegs f (offRegs p.a.toNat p.o64) = none)
  (hcap : accessCheck s b.part (capReg s f p.c.toNat) (memOff p f) (memW p) rRD = none)
include M hwf hmig hhome hclear hregs hcap

/-- The effect of an LD.mig whose lane passes its checks is what its lookup makes of it (R230). -/
theorem ldMig_issues {r : Routed} (hroute : route s b (p.qc == 5) (fun f => capReg s f p.c.toNat)
      (fun f => capOff (capReg s f p.c.toNat) (memOff p f)) (ldLive s) (·.pc) [f] = r) (hgo : r.wait = false) {e : State}
    (hload : loadLanes r.s b p (r.here.map (·.1)) r.fates = acted e r.fates) :
    IssuesOne (exec (.ld h p) s) h s b f
      { acted (landHere e (p.qc == 5) (r.here.filter fun x => !stopsFate (fateOf r.fates x.1))) r.fates with migrate := true } := by
  have hlegal : (h.wf && (Instr.ld h p).legal) = true := Bool.and_eq_true_iff.mpr ⟨(Bool.and_eq_true_iff.mp hwf).1, hwf⟩
  have hexec : exec (.ld h p) s = execLd h p s := rfl
  have hq : (p.qc == 4 || p.qc == 5) = true := by simpa using hmig
  rw [hexec, execLd, hq]
  refine .intro _ _ (Eq.refl _) (M.passes hlegal (.inl (hhome f (by simp))) (by simpa [useOf, memUse] using hclear)) M.guard ?_ rfl rfl rfl
  extract_lets chk traps ok r' a'
  have hchk : ∀ g ∈ [f], chk g = none := by
    intro g hg
    obtain rfl := List.mem_singleton.mp hg
    exact firstTrap_none (by simp [hregs, globalChk, hcap])
  have hr : r' = r := by
    simp only [r', ok, passed_all hchk]
    exact hroute
  have ha : a' = acted e r.fates := by
    simp only [a', traps, hr, trapped_none hchk]
    exact hload
  change (if r'.wait = true then actWait r'.s
    else if (!a'.wait) = true then
      ({ a' with s := landHere a'.s (p.qc == 5) (r'.here.filter fun x => !stopsFate (fateOf a'.fates x.1)), migrate := true } : Acted)
    else _) = _
  rw [ha, hr, hgo]
  rfl

variable (A : Answered s b f (capReg s f p.c.toNat) (capOff (capReg s f p.c.toNat) (memOff p f)) (ldLive s f) stack)
include A

/-- An LD.mig that is where its data is has sent its request (R111, R202, R230). -/
theorem ldMig_stays {cell : Nat} (hst : stack = f.stack) (hfit : lanesFit s [f] = true)
    (hplace : translate s b.part (capObj (capReg s f p.c.toNat)) (capOff (capReg s f p.c.toNat) (memOff p f)) f.xl = .place cell)
    (hue : s.ue cell (memW p) = false) :
    Completes (.ld h p) s c [f] h (setFibre (pushOut s f
      { loadOut f .load false cell (memW p) p.d.toNat p.t 0 p.sc.toNat (capObj (capReg s f p.c.toNat))
          (capOff (capReg s f p.c.toNat) (memOff p f)) with acq := false })
      f.key fun g => { g.landAll with migst := if p.qc = 5 then 0 else g.migst }) := by
  have hacq : (p.qc == 6) = false := by obtain hq | hq := hmig <;> rw [hq] <;> rfl
  have hload := loadLanes_one (traps := []) hfit hplace hue
  rw [hacq] at hload
  have hone := (ldMig_issues M hwf hmig hhome hclear hregs hcap (route_here A (p.qc == 5) hst) rfl hload).completes M.ready
    ((pushOut_stay ..).trans (landHere_stay _ f (p.qc == 5)))
  change Completes _ s c [f] h (landHere _ (p.qc == 5) [(f, 0)]) at hone
  simpa only [landHere_one, beq_iff_eq] using hone

/-- An LD.mig whose data is elsewhere leaves with its live set, to issue again there (R111, R112, R230, R269). -/
theorem ldMig_departs {mask : Nat} {cs : List Nat} (hst : stack ≠ f.stack) (htarget : targetOf f stack ≠ f.key.core)
    (href : refusal s b f (capReg s f p.c.toNat) (ldLive s f) (targetOf f stack) = none) (hlive : liveEntry s b f (ldLive s f) = some (mask, cs))
    (hrel : (released s [f] 4).2 = true) :
    ∃ t q age, exec (.ld h p) s = .next t ∧ t.mem = s.mem
      ∧ fibre? t f.key = some { ({ f with sentTo := q } : Fibre).departs
          (moveOf s b f (ldLive s f) (targetOf f stack) (p.qc == 5) f.pc mask cs) s.now with slot := none, age := age } :=
  (ldMig_issues M hwf hmig hhome hclear hregs hcap (route_goes A (p.qc == 5) hst htarget href hrel) rfl loadLanes_nil).departs M.ready hrel hlive

end

/-! ### MIGRH -/

/-- The fibre as MIGRH sends it home: its writes landed, with the live set `e` where that can be read (R119, R268). -/
def Fibre.sentHome (f : Fibre) (e : Option (Nat × List Nat)) : Fibre :=
  { f.landAll with
    transit := .home, drops := false
    guest := f.guest.map fun g => match e with | some x => { g with mask := x.1 } | none => g }

@[simp] theorem Fibre.sentHome_key (f : Fibre) (e : Option (Nat × List Nat)) : (f.sentHome e).key = f.key := f.landAll_key

theorem Fibre.guest_sentHome {g : Guest} (hg : f.guest = some g) (e : Option (Nat × List Nat)) :
    (f.sentHome e).guest = some (match e with | some x => { g with mask := x.1 } | none => g) := by
  rw [Fibre.sentHome, hg]
  cases e with
  | none => rfl
  | some x => rfl

/-- An advance of a fibre without pending writes keeps its registers (R202). -/
theorem Fibre.advance_idle {f : Fibre} (hpend : f.pend = []) (pc : BitVec 44) (n next : Nat) : (f.advance pc n next).regs = f.regs := by
  have htick : (f.tick n).regs = f.regs := by rw [Fibre.tick, hpend]; rfl
  unfold Fibre.advance
  dsimp only
  split
  · rfl
  · exact htick

section
variable {p : MigrhP} (M : MovingLane h s c b f) (hwf : (Instr.migrh h p).wellFormed = true)
include M hwf

/-- MIGRH of a lane at home goes on, its pending writes landed (R268). -/
theorem migrh_stays (hhome : f.guest = none) : Completes (.migrh h p) s c [f] h (setFibre s f.key Fibre.landAll) := by
  have hexec : exec (.migrh h p) s = execMigrh h p s := rfl
  have hlegal : (h.wf && (Instr.migrh h p).legal) = true := Bool.and_eq_true_iff.mpr ⟨hwf, hwf⟩
  have hclear : Clear [f] ((useOf h (Instr.migrh h p).legal).vr ++ (useOf h (Instr.migrh h p).legal).vw) := by simp [Clear, useOf]
  refine IssuesOne.completes (m := false) ?_ M.ready (setFibre_stay Fibre.landAll_key Fibre.landAll_standing s f.key)
  rw [hexec, execMigrh]
  refine .intro _ _ (Eq.refl _) (M.passes hlegal (.inl hhome) hclear) M.guard ?_ rfl rfl rfl
  simp [Fibre.away, hhome, onLanes, setFibres_nil, setFibres_one, acted]

/-- MIGRH of an away lane leaves its batch for home, past the instruction (R119, R268). -/
theorem migrh_leaves {g : Guest} (hguest : f.guest = some g) (hwait : liveWait s b f p.live.toNat = none) :
    ∃ t dist next age, exec (.migrh h p) s = .next t ∧ t.mem = s.mem
      ∧ fibre? t f.key = some (({ f.sentHome (liveEntry s b f p.live.toNat) with slot := none, age := age } : Fibre).advance (f.pc + 8) dist next) := by
  have hexec : exec (.migrh h p) s = execMigrh h p s := rfl
  have hlegal : (h.wf && (Instr.migrh h p).legal) = true := Bool.and_eq_true_iff.mpr ⟨hwf, hwf⟩
  have hclear : Clear [f] ((useOf h (Instr.migrh h p).legal).vr ++ (useOf h (Instr.migrh h p).legal).vw) := by simp [Clear, useOf]
  have hissue : IssuesOne (exec (.migrh h p) s) h s b f
      (acted (setFibre s f.key fun x => x.sentHome (liveEntry s b x p.live.toNat)) [(f.key, .leave (f.pc + 8) (1 + f.key.core))]) := by
    rw [hexec, execMigrh]
    refine .intro _ _ (Eq.refl _) (M.passes hlegal (.inr rfl) hclear) M.guard ?_ rfl rfl rfl
    simp only [Fibre.away, hguest, Option.isSome_some, List.filter_cons, List.filter_nil, List.filterMap_cons, List.filterMap_nil, hwait, if_true,
      Bool.not_true, Bool.false_eq_true, if_false, List.head?_nil, onLanes, List.map_nil, List.map_cons, setFibres_nil, setFibres_one]
    refine congrArg (fun g => acted (setFibre s f.key g) _) (funext fun x => ?_)
    cases liveEntry s b x p.live.toNat with
    | none => rfl
    | some e => rfl
  obtain ⟨t, dist, next, age, ht, hmem, hfib⟩ := hissue.leaves M.ready rfl rfl rfl rfl rfl
    (fibre?_setFibre_same (fun x => x.sentHome_key _) (M.ready.own f (by simp)))
  refine ⟨t, dist, next, age, ht, hmem.trans rfl, hfib.trans ?_⟩
  simp [Fibre.settle, fateOf, acted]

end

end

/-- Settles O39: for each of the three instructions, the lane that stays and the one that leaves. -/
theorem migration : Obligations.Migration := by
  intro h s c b f hready hguard hfeature
  have M : MovingLane h s c b f := ⟨hready, hguard, hfeature⟩
  have hstack : f.guest = none → f.stack = f.key.core / 96 := fun hhome => by rw [Fibre.stack, Fibre.loc, hhome]
  refine ⟨?_, ?_, ?_⟩
  · intro p stack k x target hwf hhome hclear hregs hcap hown hlt hwindow hweight hnear hwait hacts
    have A : Answered s b f k (capOff k x) p.live.toNat stack := ⟨hown, hlt, hnear, hwait, hacts⟩
    have hloc := hstack (hhome f (by simp))
    refine ⟨fun hst => migr_stays M hwf hhome hclear hregs hcap hwindow hweight A (hst.trans hloc.symm), ?_⟩
    intro mask cs hst htarget href hlive hrel
    obtain ⟨t, q, age, ht, hmem, hfib⟩ :=
      migr_departs M hwf hhome hclear hregs hcap hwindow hweight A (fun e => hst (e.trans hloc)) htarget href hlive hrel
    exact ⟨t, _, ht, hmem, hfib, rfl, rfl, rfl, rfl, rfl, rfl⟩
  · intro p stack k off target live hwf hmig hhome hclear hregs hcap hown hlt hnear hwait hacts
    have A : Answered s b f k off live stack := ⟨hown, hlt, hnear, hwait, hacts⟩
    have hloc := hstack (hhome f (by simp))
    refine ⟨fun cell hst hfit hplace hue => ldMig_stays M hwf hmig hhome hclear hregs hcap A (hst.trans hloc.symm) hfit hplace hue, ?_⟩
    intro mask cs hst htarget href hlive hrel
    obtain ⟨t, q, age, ht, hmem, hfib⟩ :=
      ldMig_departs M hwf hmig hhome hclear hregs hcap A (fun e => hst (e.trans hloc)) htarget href hlive hrel
    exact ⟨t, _, ht, hmem, hfib, rfl, rfl, rfl, rfl, rfl, rfl, rfl⟩
  · intro p hwf
    refine ⟨migrh_stays M hwf, fun g hguest hwait => ?_⟩
    obtain ⟨t, dist, next, age, ht, hmem, hfib⟩ := migrh_leaves M hwf hguest hwait
    obtain ⟨r, ps, pend, owe, hadv⟩ := Fibre.advance_only
      { f.sentHome (liveEntry s b f p.live.toNat) with slot := none, age := age } (f.pc + 8) dist next
    refine ⟨t, _, ht, hmem, hfib, ?_, ?_, Fibre.advance_pc .., Fibre.advance_idle rfl .., ?_⟩
    · rw [hadv]; rfl
    · rw [hadv]
    · rw [hadv]
      exact Fibre.guest_sentHome hguest _

end Sys2Proof.Machine
end

section
/-!
PROOFS. O40: the events of an away fibre's journey (R110, R114, R115, R117 to R120, R313, R314), and which instructions an away fibre issues at home
alone (R116). The lemmas stand in the order of `Obligations.Journeys`.
-/
namespace Sys2Proof.Machine

/-! ### Instructions that are issued at home -/

section
variable {i : Instr}

/-- A batch some lane of which must go home before the instruction sets those lanes out, and issues nothing (R116). -/
theorem issue_returns {s : State} {c : Cur} {b : Block} {ls : List Fibre} {u : Use} {act : State → Block → List Fibre → Acted}
    (hcur : s.cur = some c) (hls : lanesOf s c = ls) (hblk : ∀ f ∈ ls, block? s f.blk = some b) (hcan : ∀ f ∈ ls, f.canIssue s = true)
    (hgo : ∃ f ∈ ls, needsHome u f = true) : issue u act s = .next (startReturn s ((ls.filter (needsHome u)).map (·.key))) := by
  have hhead : ls.head?.bind (fun f => block? s f.blk) = some b := by
    cases ls with
    | nil => simp at hgo
    | cons f fs => exact hblk f (by simp)
  have hall : ls.all (Fibre.canIssue s) = true := List.all_eq_true.mpr hcan
  have hany : ls.any (needsHome u) = true := List.any_eq_true.mpr hgo
  simp only [issue, hcur, hls, hhead, hall, hany, Bool.not_true, Bool.false_eq_true, if_false, if_true]

/-- The meaning of the instruction is an issue before which those away lanes go home for which `homeBound` holds. -/
def IssuesAtHome (i : Instr) : Prop :=
  ∀ s, ∃ u act, exec i s = issue u act s ∧ ∀ f, needsHome u f = f.guest.any fun g => homeBound g i

theorem needsHome_eq {u : Use} (hi : ∀ g : Guest, (u.home || u.caps.any fun c => !g.caps.any (·.1 == c)) = homeBound g i) (f : Fibre) :
    needsHome u f = f.guest.any fun g => homeBound g i := by
  cases hg : f.guest with
  | none => simp only [needsHome, hg, Option.any_none]
  | some g => simp only [needsHome, hg, Option.any_some, hi g]

/-- A form X operation whose B is a uniform register (R116, R191). -/
def readsUni (i : Instr) : Bool := match i.view with | .formX _ _ x => x.bu | _ => false

section
variable {o : Op6} {h : Head} {x : OpX}

theorem exec_of_view_formX (e : i.view = .formX o h x) : exec i = op6X o h x := by cases i <;> cases e <;> rfl

theorem homeBound_of_view_formX (e : i.view = .formX o h x) (g : Guest) : homeBound g i = x.bu := by cases i <;> cases e <;> rfl

theorem xSrc_isUni (x : OpX) : (xSrc x).isUni = x.bu := by
  unfold xSrc
  cases x.bu with
  | true => rfl
  | false => simp only [Bool.false_eq_true, if_false]; split <;> rfl

theorem issuesAtHome_of_view_formX (e : i.view = .formX o h x) : IssuesAtHome i := fun s =>
  ⟨_, _, congrFun (exec_of_view_formX e) s, needsHome_eq fun g => by
    rw [homeBound_of_view_formX e, ← xSrc_isUni]
    exact Bool.or_false _⟩

end

theorem issuesAtHome_of_readsUni (hi : readsUni i = true) : IssuesAtHome i := by
  unfold readsUni at hi
  split at hi
  · exact issuesAtHome_of_view_formX ‹_›
  · cases hi

/-- R116's list, instruction by instruction: what `homeBound` says of the billet is what the instruction's own use says. -/
theorem issuesAtHome_of_homeBound {g : Guest} (hi : homeBound g i = true) : IssuesAtHome i := by
  by_cases hx : readsUni i = true
  · exact issuesAtHome_of_readsUni hx
  cases i
  -- one capability register, which the billet may have carried
  case ld | st | ldw | red | migr | swpos =>
    intro s
    dsimp only [exec]
    delta execLd execSt execLdw execRed execMigr execSwpos
    exact ⟨_, _, Eq.refl _, needsHome_eq fun g => Bool.or_false _⟩
  -- two of them
  case capld | capst | crights =>
    intro s
    dsimp only [exec]
    delta execCapld execCapst execCrights
    exact ⟨_, _, Eq.refl _, needsHome_eq fun g => by simp [homeBound, useOf]⟩
  case atom h p =>
    intro s
    dsimp only [exec]
    delta execAtom
    refine ⟨_, _, Eq.refl _, needsHome_eq fun g => ?_⟩
    cases hp : p.sp with
    | true => simp [homeBound, hp]
    | false => simp [homeBound, hp]
  -- a field of the instruction says whether it needs home
  case icmp | fcmp | bar | tagget | lscale =>
    intro s
    dsimp only [exec]
    delta execIcmp execFcmp execBar execTagget execLscale
    exact ⟨_, _, Eq.refl _, needsHome_eq fun g => Bool.or_false _⟩
  case sysrd | syswr =>
    intro s
    dsimp only [exec]
    delta execSysrd execSyswr
    exact ⟨_, _, Eq.refl _, needsHome_eq fun g => hi.symm⟩
  -- home is needed always
  case umov h p =>
    intro s
    dsimp only [exec]
    delta execUmov
    dsimp only
    split
    · exact ⟨_, _, Eq.refl _, needsHome_eq fun g => rfl⟩
    · exact ⟨_, _, Eq.refl _, needsHome_eq fun g => rfl⟩
    · exact ⟨_, _, Eq.refl _, needsHome_eq fun g => rfl⟩
  case vtop | getsr | setsr | spawn | ldl | stl | lda | feset | feclr | fetest | binit | barv | bexpt | bwait | cnarrow | cinfo | send | recv
      | qpoll | radd | mxop | mxrd | mxwr | mxclr | mxstat | cpy | cpym | cpyt | cpyx | cutreg | cutdrop | cutboost | rowstat | rowprog | rowop
      | nopen | nclose | nbind | nbindm | nring | ninfo | ntag | tret | tmask | fqpop | fqres | prack | tlbinv | objset | haltb | trial | ctxsv
      | ctxrs | lsqsave | lsqrst =>
    intro s
    dsimp only [exec]
    delta execVtop execGetsr execSetsr execSpawn execLdl execStl execLda execFeset execFeclr granStore execFetest execBinit execBarv execBexpt
      execBwait execCnarrow execCinfo execSend execRecv execQpoll execRadd execMxop execMxrd execMxwr execMxclr execMxstat execCpy execCpym
      execCpyt execCpyx copyAct execCutreg execCutdrop execCutboost execRowstat execRowprog execRowop execNopen execNclose execNbind execNbindm
      execNring execNinfo execNtag execTret execTmask execFqpop execFqres execPrack execTlbinv execObjset execHaltb execTrial execCtxsv execCtxrs
      execLsqsave execLsqrst ctxUse
    exact ⟨_, _, Eq.refl _, needsHome_eq fun g => rfl⟩
  -- no other instruction is in the list
  all_goals exact absurd hi hx

/-- An away fibre that reaches an instruction of R116's list sets out for home. -/
theorem exec_startReturn {s : State} {c : Cur} {b : Block} {ls : List Fibre} (hcur : s.cur = some c) (hls : lanesOf s c = ls)
    (hblk : ∀ f ∈ ls, block? s f.blk = some b) (hcan : ∀ f ∈ ls, f.canIssue s = true)
    (hgo : ∃ f ∈ ls, (f.guest.any fun g => homeBound g i) = true) :
    exec i s = .next (startReturn s ((ls.filter fun f => f.guest.any fun g => homeBound g i).map (·.key))) := by
  obtain ⟨f, hf, hgoes⟩ := hgo
  obtain ⟨g, -, hi⟩ := (Option.any_eq_true _ _).mp hgoes
  obtain ⟨u, act, hexec, hneeds⟩ := issuesAtHome_of_homeBound hi s
  rw [hexec, issue_returns hcur hls hblk hcan ⟨f, hf, (hneeds f).trans hgoes⟩, funext hneeds]

end

/-- A fibre that sets out for home keeps its place, registers and billet (R119). -/
theorem fibre?_startReturn {s : State} {ks : List FKey} {k : FKey} {f : Fibre} (hk : k ∈ ks) (hf : fibre? s k = some f) :
    fibre? (startReturn s ks) k
      = some { f with transit := .home, slot := none, run := f.run.unwait, own := none, acts := false, drops := false } := by
  have hkey : ks.contains f.key = true := by simpa [fibre?_key hf] using hk
  refine (fibre?_setFibres s ks _ k (by intro; rfl)).trans ?_
  rw [hf, Option.map_some, if_pos hkey]

/-! ### A fibre's registers away and back -/

theorem Fibre.landAll_of_idle {f : Fibre} (h : f.pend = []) : f.landAll = f := by
  unfold Fibre.landAll
  rw [h, List.foldl_nil, ← h]

/-- A billet's live set is carried, the other registers are INVALID (R115). -/
theorem Fibre.reg_arrive {f : Fibre} (m : Move) (now : Nat) {v : Nat} (hv : v < f.regs.length) (hpend : f.pend = []) :
    (f.arrive m now).reg v = if m.mask / 2 ^ v % 2 = 1 then f.reg v else { val := 0, tag := tInvalid } := by
  simp [arrive, landAll_of_idle hpend, reg, guestRegs, hv]

/-- The live set comes home, the other registers are as they were there (R119). -/
theorem Fibre.reg_comeHome {f : Fibre} {g : Guest} (hg : f.guest = some g) {v : Nat} (hv : v < g.homeRegs.length) :
    f.comeHome.reg v = if g.mask / 2 ^ v % 2 = 1 then f.reg v else g.homeRegs.getD v { val := 0, tag := tRaw } := by
  rw [comeHome, hg]
  simp [reg, hv]

theorem Fibre.guest_comeHome (f : Fibre) : f.comeHome.guest = none := by
  unfold comeHome
  split
  · assumption
  · rfl

/-! ### Events -/

section
variable {s : State} {core port ctx : Nat} {f : Fibre} (hf : fibre? s { core := core, port := port, ctx := ctx } = some f)
include hf

/-- A lookup is answered by the home stack of its extent (R110, R313). -/
theorem ownerLookup_answers {b : Block} (hb : block? s f.blk = some b) {l : Lookup} {k : Nat} (hown : f.own = some l) (hans : l.ans = none)
    (htransit : f.transit = .none) (hfree : lookupWaits s b.part (canonObj l.obj) l.off = none)
    (howner : ownerOf s b.part f.stack l.obj l.off = .stack k) :
    exec (.ownerLookup core port ctx) s = .next (setFibre s f.key fun g => { g with own := some { l with ans := some k } }) := by
  have hnum : ownerAnswer s b.part f l = some k := by rw [ownerAnswer, howner]
  dsimp only [exec]
  simp only [execOwnerLookup, keyOf, hf, hown, hb, hans, htransit, hfree, howner, hnum]
  rfl

/-- A billet takes a free guest slot (R114, R117). -/
theorem billetArrival_arrives {m : Move} (hmove : f.move = some m) (hup : unitAsleep s (m.core / 4) = false)
    (hfree : guestsAt s m.core port f.lane < 2) (hfence : coreFenced s m.core = false) :
    exec (.billetArrival core port ctx) s = .next (if f.away then guestLeft (setFibre s f.key fun g => g.arrive m s.now) f.loc
      else setFibre s f.key fun g => g.arrive m s.now) := by
  have hroom : guestRoom s m.core port f.lane = true := by simp [guestRoom, hfree, hfence]
  dsimp only [exec]
  simp only [execBilletArrival, keyOf, hf, hmove, hroom, hup, Bool.not_true, Bool.false_eq_true, if_false]

/-- A move that has waited T_guest is refused (R114, R120). -/
theorem guestWaitTimeout_refuses {m : Move} (hmove : f.move = some m)
    (hfull : 2 ≤ guestsAt s m.core port f.lane ∨ coreFenced s m.core = true) (hlate : f.waitSince + m.limit ≤ s.now) :
    exec (.guestWaitTimeout core port ctx) s = .next (setFibre s f.key fun g =>
      { g with move := none, transit := .none, run := .ready, own := g.own.map fun l => { l with ref := 6 } }) := by
  have hroom : guestRoom s m.core port f.lane = false := by
    simp only [guestRoom, Bool.and_eq_false_iff, decide_eq_false_iff_not, Nat.not_lt, Bool.not_eq_false']
    exact hfull
  have hnow : decide (s.now < f.waitSince + m.limit) = false := decide_eq_false (Nat.not_lt.mpr hlate)
  dsimp only [exec]
  simp only [execGuestWaitTimeout, keyOf, hf, hmove, hroom, hnow, Bool.or_self, Bool.false_eq_true, if_false]

/-- A fibre on its way is home once its release at package scope has performed (R119, R121, R314). -/
theorem billetReturn_comesHome {t : State} (htransit : f.transit = .home) (hrel : released s [f] 4 = (t, true)) :
    exec (.billetReturn core port ctx) s = .next (guestLeft (setFibre t f.key fun g =>
      { (if g.drops then g else g.landAll).comeHome with slot := none, next := s.now, drops := false }) f.loc) := by
  have hset : (f.transit == .none) = false := by rw [htransit]; rfl
  have hhome : (f.transit == .home) = true := by rw [htransit]; rfl
  dsimp only [exec]
  simp only [execBilletReturn, keyOf, hf, hset, hhome, hrel, Bool.and_false, Bool.false_and, Bool.false_eq_true, if_false, if_true]

/-- An away fibre's arrival at a barrier counts (R118). -/
theorem arrivalMessage_bar {id ph : Nat} (htransit : f.transit = .barArrival) (hrun : f.run = .waiting (.bar id ph)) :
    exec (.arrivalMessage core port ctx) s = .next (barArrive (setFibre s f.key fun g => { g with transit := .none }) f.key f.blk id none) := by
  dsimp only [exec]
  simp only [execArrivalMessage, keyOf, hf, htransit, hrun]

/-- An away fibre's arrival at its join counts (R118). -/
theorem arrivalMessage_join (htransit : f.transit = .joinArrival) :
    exec (.arrivalMessage core port ctx) s = .next (setFibre s f.key fun g => { g with transit := .none }) := by
  dsimp only [exec]
  simp only [execArrivalMessage, keyOf, hf, htransit]

/-- A barrier's release reaches the guest (R118). -/
theorem releaseMessage_frees (htransit : f.transit = .release) :
    exec (.releaseMessage core port ctx) s = .next (freeMates (setFibre s f.key fun g => { g with transit := .none, run := .ready })) := by
  have hrel : (f.transit == .release) = true := by rw [htransit]; rfl
  dsimp only [exec]
  simp only [execReleaseMessage, keyOf, hf, hrel, if_true]

end

/-- Settles O40: the first clause by R116's list, one instruction after the other; the others by the event each speaks of. -/
theorem journeys : Obligations.Journeys := by
  refine ⟨fun i s c b ls hcur hls hblk hcan => exec_startReturn hcur hls hblk hcan, fun s ks k f hk hf => ?_, fun s core port ctx f b hf hb => ?_⟩
  -- what setting out for home keeps
  · exact ⟨startReturn_mem s ks, _, fibre?_startReturn hk hf, rfl, rfl, rfl, rfl, rfl, rfl⟩
  refine ⟨?_, ?_, ?_, ?_, ?_, ?_, ?_, ?_, ?_⟩
  · exact fun l k hown hans htransit hfree howner => ownerLookup_answers hf hb hown hans htransit hfree howner
  · exact fun m hmove hup hfree hfence => billetArrival_arrives hf hmove hup hfree hfence
  · exact fun m v _ hv hpend => ⟨rfl, rfl, (congrArg Fibre.preds (Fibre.landAll_of_idle hpend) :), rfl, Fibre.reg_arrive m s.now hv hpend⟩
  · exact fun m hmove hfull hlate => guestWaitTimeout_refuses hf hmove hfull hlate
  · exact fun g0 t _ htransit hrel => billetReturn_comesHome hf htransit hrel
  · exact fun g0 v hg _ hv => ⟨f.guest_comeHome, Fibre.reg_comeHome hg hv⟩
  · exact fun id ph htransit hrun => arrivalMessage_bar hf htransit hrun
  · exact fun htransit => arrivalMessage_join hf htransit
  · exact fun htransit => releaseMessage_frees hf htransit

end Sys2Proof.Machine
end

section
/-!
LAWS. The operations of the directory (R122 to R133) leave every lane of a batch where it is: `LanesStay` for each of them.
-/
namespace Sys2Proof.Machine

/-! ### Registers, records and releases -/

section
variable {s t : State}

theorem setPart_stay (s : State) (core bp : Nat) (g : Part → Part) : LanesStay s (setPart s core bp g) := .of_fibres rfl rfl rfl

theorem setUni_stay (s : State) (f : Fibre) (n : Nat) (w : Word) : LanesStay s (setUni s f n w) := setPart_stay ..

theorem setUnis_stay (s : State) (f : Fibre) (n : Nat) (ws : List Word) : LanesStay s (setUnis s f n ws) := by
  induction ws generalizing s n with
  | nil => exact .refl s
  | cons w ws ih => exact (setUni_stay s f n w).trans (ih ..)

theorem setPartn_stay (s : State) (part : Nat) (g : Partn → Partn) : LanesStay s (setPartn s part g) := .of_fibres rfl rfl rfl

theorem State.write_stay (s : State) (a n v : Nat) : LanesStay s (s.write a n v) := .of_fibres rfl rfl rfl

theorem touchDescs_stay (s : State) (part : Nat) (objs : List Nat) : LanesStay s (touchDescs s part objs) := .foldl touch_stay _ _

/-- A release that has performed changes what the lane notes of its markers, and no more of it (R167). -/
theorem released_stay {f : Fibre} (h : released s [f] 4 = (t, true)) : LanesStay s t := by
  obtain ⟨r, ps, hrel⟩ := released_performed (s := s) (f := f) (by rw [h])
  rw [h] at hrel
  rw [show t = _ from hrel]
  exact (setFibre_stay (by intro; rfl) (by intro; rfl) s f.key).trans (.of_fibres rfl rfl rfl)

/-- A change of fibres alone that keeps each one's key and standing. -/
theorem mapFibres_stay {g : Fibre → Fibre} (hkey : ∀ f, (g f).key = f.key) (hg : ∀ f, (g f).standing = f.standing) (s : State) :
    LanesStay s { s with fibres := s.fibres.map g } := by
  refine ⟨rfl, rfl, fun k => ?_⟩
  simp only [fibre?, List.find?_map, Function.comp_def, hkey, Option.map_map, hg]

/-! ### Objects -/

theorem setDirObj_stay (s : State) (part obj : Nat) (g : DirObj → DirObj) : LanesStay s (setDirObj s part obj g) := .of_fibres rfl rfl rfl

theorem freeRegions_stay (s : State) (part obj : Nat) : LanesStay s (freeRegions s part obj) := by
  unfold freeRegions
  extract_lets mine gone t u
  have hgone : LanesStay s t := .foldl (fun s r => .ite (completeOp_stay ..) (.refl s)) gone s
  have hregions : LanesStay t u := .of_fibres rfl rfl rfl
  exact (hgone.trans hregions).trans (.foldl (fun t l => latheEnds_stay l t) _ _)

theorem reclaimCheck_stay (s : State) (part obj : Nat) : LanesStay s (reclaimCheck s part obj) := by
  unfold reclaimCheck
  split
  · exact .refl s
  · exact .ite (.ite ((setPartn_stay ..).trans ((setDirObj_stay ..).trans (freeRegions_stay ..))) (setPartn_stay ..)) (.refl s)

theorem dropOpen_stay (s : State) (part obj : Nat) : LanesStay s (dropOpen s part obj) := by
  unfold dropOpen
  dsimp only
  split
  · exact .ite (.refl s) ((setDirObj_stay ..).trans (reclaimCheck_stay ..))
  · exact .refl s

theorem setCap_stay (s : State) (part : Nat) (f : Fibre) (n : Nat) (c : CapWord) : LanesStay s (setCap s part f n c) := by
  unfold setCap
  split
  · exact .refl s
  · exact .ite (.refl s) ((LanesStay.ite (dropOpen_stay ..) (.refl s)).trans (setPart_stay ..))

theorem setOpen_stay (s : State) (part : Nat) (f : Fibre) (n : Nat) (c : CapWord) : LanesStay s (setOpen s part f n c) :=
  .ite (dropOpen_stay ..) ((setCap_stay ..).trans (setPart_stay ..))

/-! ### Bindings -/

theorem setEntry_stay (s : State) (part : Nat) (name : BitVec 64) (e : NameEntry) : LanesStay s (setEntry s part name e) := .of_fibres rfl rfl rfl

theorem delEntry_stay (s : State) (part : Nat) (name : BitVec 64) : LanesStay s (delEntry s part name) := .of_fibres rfl rfl rfl

theorem setDirm_stay (s : State) (part obj : Nat) : LanesStay s (setDirm s part obj) := by
  unfold setDirm
  split
  · exact .ite (.refl s) (s.write_stay ..)
  · exact .refl s

theorem unbindCount_stay (s : State) (part : Nat) (old : Option Binding) : LanesStay s (unbindCount s part old) := by
  cases old with
  | none => exact .refl s
  | some b => exact setDirObj_stay ..

/-- A fragment that is woken becomes ready, and no more (R128). -/
theorem wakeName_stay (s : State) (part : Nat) (name : BitVec 64) : LanesStay s (wakeName s part name) :=
  mapFibres_stay (fun f => by split <;> rfl) (fun f => by split <;> rfl) s

/-- A binding is refused and changes nothing, or takes a slot's binding away, or makes a new one (R127, R129). -/
theorem bindOne_stay (s : State) (part : Nat) (name : BitVec 64) (slot : Nat) (c : CapWord) : LanesStay s (bindOne s part name slot c).s := by
  have hbind : ∀ (u : State) (obj : Nat) (g : DirObj → DirObj) (old : Option Binding) (e : NameEntry),
      LanesStay u (wakeName (setEntry (unbindCount (setDirObj u part obj g) part old) part name e) part name) := fun u obj g old e =>
    (setDirObj_stay ..).trans ((unbindCount_stay ..).trans ((setEntry_stay ..).trans (wakeName_stay ..)))
  simp only [bindOne, apply_ite DirRes.s]
  refine .ite (.refl s) (.ite ?unbinds (.ite (.refl s) (.ite (.refl s) (.ite (.refl s) (.ite (.refl s) ?binds)))))
  case unbinds =>
    cases entry? s part name with
    | none => exact .refl s
    | some e =>
      simp only [apply_ite DirRes.s]
      exact .ite (.refl s) ((unbindCount_stay ..).trans (.ite (delEntry_stay ..) (setEntry_stay ..)))
  case binds => exact (LanesStay.ite (setDirm_stay ..) (.refl s)).trans (hbind ..)

theorem judge_stay (part : Nat) {r : DirRes} (h : LanesStay s r.s) : LanesStay s (judge part r) :=
  h.trans (.foldl (fun s o => reclaimCheck_stay s part o) _ _)

theorem bindAll_stay {s₀ : State} (h₀ : LanesStay t s₀) (part : Nat) (fell : List Nat) (i : Nat) (l : List (CapWord × BitVec 64 × Nat))
    (h : LanesStay t s) : LanesStay t (bindAll s₀ s part fell i l).2.2 := by
  induction l generalizing s fell i with
  | nil => exact judge_stay part h
  | cons x xs ih =>
    simp only [bindAll]
    split
    · exact h₀
    · exact ih _ _ (h.trans (bindOne_stay ..))

theorem ringSet_stay (s : State) (part : Nat) (name : BitVec 64) (k : Nat) : LanesStay s (ringSet s part name k).s := by
  unfold ringSet
  dsimp only
  split
  · exact .refl s
  · split
    · split
      · exact .refl s
      · exact setEntry_stay ..
    · exact (LanesStay.foldl (fun s x => unbindCount_stay s part x) _ _).trans (setEntry_stay ..)

theorem dirStatus_stay (s : State) (f : Fibre) (p : DirP) (code detail : Nat) : LanesStay s (dirStatus s f p code detail) := setUni_stay ..

end

end Sys2Proof.Machine
end

section
/-!
LAWS. What the directory's look-ups find after its updates (R122 to R132): names, objects and the descriptors' bytes, and what reclamation leaves
alone.
-/
namespace Sys2Proof.Machine

/-! ### Names and objects -/

/-- A search finds the record that `upsert` has changed or added. -/
theorem find?_upsert {α : Type} {p : α → Bool} {d : α} {g : α → α} (hd : p d = true) (hg : ∀ x, p x = true → p (g x) = true) (l : List α) :
    (upsert p d g l).find? p = some (g ((l.find? p).getD d)) := by
  obtain ⟨x, hx⟩ := Option.isSome_iff_exists.mp (List.find?_isSome.mpr (List.any_eq_true.mp (any_upsert (hg d hd) hg l)))
  have hfound : x = g (findD p d l) := by
    rw [← findD_upsert hd hg l, findD, hx]
  rw [hx, hfound, findD]
  cases l.find? p <;> rfl

theorem dirObj?_setDirObj (s : State) (part obj : Nat) {g : DirObj → DirObj} (hg : ∀ d, (g d).part = d.part ∧ (g d).obj = d.obj) :
    dirObj? (setDirObj s part obj g) part obj = some (g ((dirObj? s part obj).getD (DirObj.empty part obj))) :=
  find?_upsert (by simp [isDirObj, DirObj.empty]) (fun d hd => by simpa only [isDirObj, hg] using hd) _

theorem dirObj?_congr {s t : State} (h : t.dirObjs = s.dirObjs) (part obj : Nat) : dirObj? t part obj = dirObj? s part obj := by
  simp only [dirObj?, h]

theorem entry?_setEntry (s : State) {part : Nat} {name : BitVec 64} {e : NameEntry} (he : isName part name e = true) :
    entry? (setEntry s part name e) part name = some e :=
  find?_upsert he (fun _ _ => he) _

/-- DIRM is set in memory alone (R124, R338). -/
theorem setDirm_dirObjs (s : State) (part obj : Nat) : (setDirm s part obj).dirObjs = s.dirObjs := by
  unfold setDirm
  split
  · split <;> simp
  · rfl

/-! ### DIRM of a descriptor -/

/-- Byte `i` of the number of `n` bytes (R4). -/
theorem readMem_byte (m : List Host.Cell) (a n i : Nat) (hi : i < n) : readMem m (a + i) 1 = readMem m a n / 2 ^ (8 * i) % 2 ^ 8 := by
  induction n generalizing a i with
  | zero => omega
  | succ n ih =>
    have hbyte : (memGet m a).toNat < 256 := (memGet m a).isLt
    cases i with
    | zero =>
      simp only [readMem, Nat.add_zero, Nat.mul_zero, Nat.pow_zero, Nat.div_one]
      omega
    | succ i =>
      have hdiv : ((memGet m a).toNat + 256 * readMem m (a + 1) n) / 256 = readMem m (a + 1) n := by omega
      rw [show a + (i + 1) = a + 1 + i by omega, ih (a + 1) i (by omega), readMem, show 2 ^ (8 * (i + 1)) = 256 * 2 ^ (8 * i) by ring,
        ← Nat.div_div_eq_div_mul, hdiv]

theorem State.read_byte_lt (s : State) (a : Nat) : s.read a 1 < 2 ^ 8 := by
  rw [State.read_byte]
  exact (memGet s.mem a).isLt

/-- A number that has a bit keeps its value when that bit is set. -/
theorem or_two_pow_of_testBit {x k : Nat} (h : x.testBit k = true) : x ||| 2 ^ k = x := by
  refine Nat.eq_of_testBit_eq fun i => ?_
  rw [Nat.testBit_or, Nat.testBit_two_pow]
  by_cases hi : k = i
  · subst hi; simp [h]
  · simp [hi]

/-- A descriptor that is found is the 32 bytes of its record (R337, R338). -/
theorem descOf_ok {s : State} {part obj d : Nat} (h : descOf s part obj = .ok d) : d = s.read ((tableOf s part).1 + 32 * obj) 32 := by
  unfold descOf at h
  extract_lets tbl p x at h
  split_ifs at h
  exact (DescRes.ok.inj h).symm

/-- DIRM is bit 92 of a descriptor: bit 4 of its byte 11 (R338). -/
theorem descOf_dirm {s : State} {part obj d : Nat} (h : descOf s part obj = .ok d) :
    d.testBit 92 = (s.read ((tableOf s part).1 + 32 * obj + 11) 1).testBit 4 := by
  rw [descOf_ok h, State.read, State.read, readMem_byte s.mem _ 32 11 (by decide), Nat.testBit_mod_two_pow, Nat.testBit_div_two_pow]
  rfl

/-- The first binding of a local object leaves DIRM set in its descriptor (R124, R338). -/
theorem setDirm_read {s : State} {part obj id d : Nat} (hs : s.Inv) (hname : objName s part obj = .local id) (hdesc : descOf s part obj = .ok d) :
    let a := (tableOf s part).1 + 32 * obj + 11
    (setDirm s part obj).read a 1 = s.read a 1 ||| 16 := by
  intro a
  simp only [setDirm, hname, hdesc]
  split
  · rename_i hset
    rw [descOf_dirm hdesc] at hset
    exact (or_two_pow_of_testBit hset).symm
  · rw [State.read_write hs]
    exact Nat.mod_eq_of_lt (Nat.or_lt_two_pow (s.read_byte_lt a) (by decide))

/-! ### Regions of an object that ends -/

/-- What no host message, no halt of a queue and no note of the fenced units changes is as it was when a fence has fallen due
(R384, R385). -/
theorem fenceDue_keeps {β : Type} {r : State → β} (hwrite : ∀ s a n v, r (State.write s a n v) = r s) (hsys : ∀ s p n v, r (sysPut s p n v) = r s)
    (hqueue : ∀ s p q g, r (setQueue s p q g) = r s) (hfenced : ∀ (s : State) x y, r { s with fenced := x, fencePend := y } = r s) (s : State) :
    r (fenceDue s) = r s := by
  have hpost : ∀ s code part unit detail, r (postHost s code part unit detail) = r s := by
    intro s code part unit detail
    simp only [postHost, putHm, setHmOvf]
    split_ifs <;> simp only [hwrite, hsys]
  have hhalt : ∀ s part, r (haltFenced s part) = r s := fun s part => foldl_keeps (r := r) (fun t q => by
    split
    · split
      · rfl
      · simp only [haltQueue, hpost, hqueue]
    · rfl) _ _
  refine foldl_keeps (r := r) (fun t u => ?_) _ _
  simp only [fenceUnit, foldl_keeps hhalt, hpost, hsys, hfenced]

/-- The directory's objects and the partitions' records. -/
def State.dirRecords (s : State) : List DirObj × List Partn := (s.dirObjs, s.partns)

theorem latheEnds_dirRecords (old : Lathe) (s : State) : (latheEnds old s).dirRecords = s.dirRecords := by
  refine (fenceDue_keeps (r := State.dirRecords) (by simp [State.dirRecords]) (by simp [State.dirRecords]) (by simp [State.dirRecords])
    (by simp [State.dirRecords]) _).trans ?_
  split <;> simp [State.dirRecords, relaxW, boostFell]

/-- The end of an object's regions changes no object and no partition's records (R69, R105). -/
theorem freeRegions_dirRecords (s : State) (part obj : Nat) : (freeRegions s part obj).dirRecords = s.dirRecords := by
  refine (foldl_keeps (r := State.dirRecords) (fun t l => latheEnds_dirRecords l t) _ _).trans ?_
  refine (foldl_keeps (r := State.dirRecords) (fun t x => ?_) _ _ : State.dirRecords (List.foldl _ s _) = _)
  split <;> simp [State.dirRecords]

end Sys2Proof.Machine
end

section
/-!
PROOFS. O41: the directory instructions (R122 to R133, R278 to R281), the first binding of a name (R124, R129, R338) and reclamation (R132). The
lemmas stand in the order of `Obligations.DirectoryInstructions`.
-/
namespace Sys2Proof.Machine

/-! ### Issue -/

section
variable {h : Head} {p : DirP} {s t : State} {c : Cur} {b : Block} {ls : List Fibre} {f : Fibre} {fs : List Fibre}

/-! The meanings of the directory instructions. -/

theorem exec_nopen : exec (.nopen h p) s = execNopen h p s := rfl
theorem exec_nclose : exec (.nclose h p) s = execNclose h p s := rfl
theorem exec_nbind : exec (.nbind h p) s = execNbind h p s := rfl
theorem exec_nbindm : exec (.nbindm h p) s = execNbindm h p s := rfl
theorem exec_nring : exec (.nring h p) s = execNring h p s := rfl
theorem exec_ninfo : exec (.ninfo h p) s = execNinfo h p s := rfl
theorem exec_ntag : exec (.ntag h p) s = execNtag h p s := rfl

/-- A directory instruction that is legal has a legal head (R197). -/
theorem dir_legal {i : Instr} (hi : i ∈ [.nopen h p, .nclose h p, .nbind h p, .nbindm h p, .nring h p, .ninfo h p, .ntag h p])
    (hwf : i.wellFormed = true) : (h.wf && i.legal) = true := by
  have first : ∀ {x y : Bool}, (x && y) = true → x = true := fun hxy => (Bool.and_eq_true_iff.mp hxy).1
  have hhead : h.wf = true := by
    simp only [List.mem_cons, List.not_mem_nil, or_false] at hi
    obtain rfl | rfl | rfl | rfl | rfl | rfl | rfl := hi
    · exact first (first hwf)
    · exact first hwf
    · exact first (first (first hwf))
    · exact first (first (first (first hwf)))
    · exact first (first (first (first hwf)))
    · exact first (first (first hwf))
    · exact first hwf
  exact Bool.and_eq_true_iff.mpr ⟨hhead, hwf⟩

/-- What every clause about a directory instruction supposes of its batch (R48, R197). -/
structure DirBatch (h : Head) (s : State) (c : Cur) (b : Block) (ls : List Fibre) (f : Fibre) (fs : List Fibre) : Prop where
  ready : Ready s c b ls
  home : AtHome ls
  first : guardTrue h.g h.gn ls = f :: fs
  feature : featureOn s 2 = true

/-- A directory instruction whose effect leaves the lanes where they are goes on (R197, R199). -/
theorem DirBatch.issue_past (B : DirBatch h s c b ls f fs) {legal : Bool} {act : State → Block → List Fibre → Acted} {e : State}
    (hlegal : (h.wf && legal) = true) (hact : act s b (f :: fs) = acted e []) (hstay : LanesStay s e) :
    issue (dirUse h legal) act s = .next (past e c ls h) := by
  have hpass : (dirUse h legal).Passes s b ls :=
    { early := rfl, legal := hlegal, feat := by rintro k ⟨⟩; exact B.feature, priv := fun f _ => Nat.zero_le _
      clear := fun f _ => ⟨by rintro v ⟨⟩, by rintro o - v - ⟨⟩, by rintro - g - v - ⟨⟩⟩
      here := needsHome_home B.home, tiles := by rintro t ⟨⟩, lost := by rintro ⟨⟩ }
  refine issue_stay B.ready hpass ?_ hstay
  change act s b (guardTrue h.g h.gn ls) = _
  rw [B.first, hact]

/-- Without an outstanding acquire a directory operation acts at once, through the lowest lane (R48, R131). -/
theorem dirOp_acts {g : State → Fibre → Acted} (hacq : acquiring f = false) : dirOp g s (f :: fs) = g s f := by
  simp only [dirOp, firstLane, hacq, Bool.false_eq_true, if_false]

/-! ### NOPEN, NCLOSE -/

/-- An open of a bound name is counted, and its capability register gets a marked capability, or, where that is written over in the same cycle,
the open ends again (R48, R125 to R127). -/
theorem nopen_opens (B : DirBatch h s c b ls f fs) {e : NameEntry} {x : Binding} (hwf : (Instr.nopen h p).wellFormed = true)
    (hname : dirName s f p ≠ 0) (he : entry? s b.part (dirName s f p) = some e) (hx : e.slots.getD (slotOf e (dirTag s f p)) none = some x)
    (hopens : ∀ d, dirObj? s b.part (canonObj x.obj) = some d → d.opens < 2 ^ 24 - 1) (hacq : acquiring f = false) :
    Completes (.nopen h p) s c ls h (dirStatus (setOpen (setDirObj s b.part (canonObj x.obj) fun d => { d with opens := d.opens + 1 })
      b.part f p.c.toNat (mkCap x.obj x.rights x.lenM1 0)) f p 0 0) := by
  rw [Completes, exec_nopen, execNopen]
  refine B.issue_past (dir_legal (p := p) (by simp) hwf) ?_ ((setDirObj_stay ..).trans ((setOpen_stay ..).trans (dirStatus_stay ..)))
  have hroom : (dirObj? s b.part (canonObj x.obj)).any (fun d => decide (2 ^ 24 - 1 ≤ d.opens)) = false := by
    cases hd : dirObj? s b.part (canonObj x.obj) with
    | none => rfl
    | some d => exact decide_eq_false (Nat.not_le.mpr (hopens d hd))
  rw [dirOp_acts hacq]
  simp only [beq_eq_false_iff_ne.mpr hname, he, Option.map_some, Option.getD_some, Option.bind_some, hx, hroom, Bool.false_eq_true, if_false]
  rfl

theorem setOpen_kept {part n : Nat} {k : CapWord} (hkept : capOutdone s f n = false) : setOpen s part f n k =
    setPart (setCap s part f n k) f.key.core f.bp fun q => { q with opens := q.opens ||| (1#16 <<< n) } :=
  if_neg (Bool.eq_false_iff.mp hkept)

theorem setOpen_over {part n : Nat} {k : CapWord} (hover : capOutdone s f n = true) : setOpen s part f n k = dropOpen s part (capObj k) :=
  if_pos hover

/-- An open of a name without a binding gives the null capability and status 1 (R127). -/
theorem nopen_unbound (B : DirBatch h s c b ls f fs) (hwf : (Instr.nopen h p).wellFormed = true) (hname : dirName s f p ≠ 0)
    (he : entry? s b.part (dirName s f p) = none) (hwait : p.wait = false) (hacq : acquiring f = false) :
    Completes (.nopen h p) s c ls h (dirStatus (setCap s b.part f p.c.toNat 0) f p 1 0) := by
  rw [Completes, exec_nopen, execNopen]
  refine B.issue_past (dir_legal (p := p) (by simp) hwf) ?_ ((setCap_stay ..).trans (dirStatus_stay ..))
  rw [dirOp_acts hacq]
  simp only [beq_eq_false_iff_ne.mpr hname, he, Option.bind_none, hwait, Bool.false_eq_true, if_false]
  rfl

/-- NCLOSE writes the null capability, which ends the open that the register held (R126). -/
theorem nclose_completes (B : DirBatch h s c b ls f fs) (hwf : (Instr.nclose h p).wellFormed = true) (hacq : acquiring f = false) :
    Completes (.nclose h p) s c ls h (setCap s b.part f p.c.toNat 0) := by
  rw [Completes, exec_nclose, execNclose]
  exact B.issue_past (dir_legal (p := p) (by simp) hwf) (dirOp_acts hacq) (setCap_stay ..)

/-! ### NBIND, NBINDM, NRING -/

/-- One binding after its release; a refused one leaves the directory as it was (R129, R131, R280). -/
theorem nbind_completes (B : DirBatch h s c b ls f fs) (hwf : (Instr.nbind h p).wellFormed = true) (hrel : released s [f] 4 = (t, true))
    (hheld : descHeld t b.part [capObj (capReg t f p.c.toNat)] = none) :
    let u := touchDescs t b.part [capObj (capReg t f p.c.toNat)]
    let r := bindOne u b.part (dirName u f p) p.imm.toNat (capReg t f p.c.toNat)
    Completes (.nbind h p) s c ls h (dirStatus (if r.code = 0 then judge b.part r else u) f p r.code 0) := by
  intro u r
  rw [Completes, exec_nbind, execNbind]
  refine B.issue_past (dir_legal (p := p) (by simp) hwf) ?_ ((released_stay hrel).trans ((touchDescs_stay ..).trans
    ((LanesStay.ite (judge_stay _ (bindOne_stay ..)) (.refl u)).trans (dirStatus_stay ..))))
  simp only [firstLane, hrel, hheld, Bool.not_true, Bool.false_eq_true, if_false, beq_iff_eq]
  rfl

/-- The records of NBINDM's list whose granules stand at the addresses `g` (R280). -/
def listRecords (s : State) (g : Nat → Nat) (n : Nat) : List (CapWord × Nat) :=
  (List.range n).map fun i => (BitVec.ofNat 128 (s.read (g (2 * i)) 16), s.read (g (2 * i + 1)) 16)

theorem getD_map_range (g : Nat → Nat) {n i : Nat} (hi : i < n) : ((List.range n).map g).getD i 0 = g i := by
  simp [List.getD, hi]

/-- The records that NBINDM takes from the places of its requests. -/
theorem listRecords_eq (s : State) (g : Nat → Nat) (n : Nat) :
    (List.range n).map (fun i => ((BitVec.ofNat 128 (s.read (((List.range (2 * n)).map g).getD (2 * i) 0) 16) : CapWord),
      s.read (((List.range (2 * n)).map g).getD (2 * i + 1) 0) 16)) = listRecords s g n := by
  refine List.map_congr_left fun i hi => ?_
  have hi : i < n := List.mem_range.mp hi
  rw [getD_map_range g (by omega), getD_map_range g (by omega)]

section
variable (l : List Nat) (s : State)

theorem foldl_touch_capTags : (l.foldl touch s).capTags = s.capTags :=
  foldl_keeps (r := State.capTags) (fun s a => by obtain ⟨r, h⟩ := touch_only s a; rw [h]) l s

theorem foldl_touch_read : (l.foldl touch s).read = s.read := State.read_congr (foldl_keeps (r := State.mem) touch_mem l s)

theorem foldl_touch_ue (a n : Nat) : (l.foldl touch s).ue a n = s.ue a n :=
  foldl_keeps (r := fun s => s.ue a n) (fun s c => touch_ue s c a n) l s

end

/-- The granules of a list are where the port finds them, and nothing holds back or damages one of them (R17, R99, R280). -/
structure ListReads (t : State) (b : Block) (f : Fibre) (obj off n : Nat) (g : Nat → Nat) : Prop where
  place : ∀ i < 2 * n, translate t b.part obj (off + 16 * i) f.xl = .place (g i)
  free : ∀ i < 2 * n, rowWaits t (g i) = false
  sound : ∀ i < 2 * n, t.ue (g i) 16 = false
  tagged : ∀ i < n, t.capTags.contains (g (2 * i)) = true

section
variable {obj off n : Nat} {g : Nat → Nat} (L : ListReads t b f obj off n g)
include L

/-- The requests of a list's granules get their places at once (R280, R341). -/
theorem ListReads.ask_eq : ask t b.part false ((List.range (2 * n)).map fun i => { f := f, obj := obj, off := off + 16 * i })
    = { s := t, miss := false, places := ((List.range (2 * n)).map g).map some, fates := [] } := by
  have hplace := ask_placed (s := t) (part := b.part) (w := false)
    (reqs := (List.range (2 * n)).map fun i => { f := f, obj := obj, off := off + 16 * i }) (place := fun r => g ((r.off - off) / 16)) (by
      intro r hr
      obtain ⟨i, hi, rfl⟩ := List.mem_map.mp hr
      dsimp only
      rw [Nat.add_sub_cancel_left, Nat.mul_div_cancel_left i (by decide)]
      exact L.place i (List.mem_range.mp hi))
  simpa only [List.map_map, Function.comp_def, Nat.add_sub_cancel_left, Nat.mul_div_cancel_left _ (show 0 < 16 by decide)] using hplace

theorem ListReads.any_rowWaits : ((List.range (2 * n)).map g).any (rowWaits t) = false := by simpa using L.free

theorem ListReads.find?_untagged :
    (List.range n).find? (fun i => !t.capTags.contains (((List.range (2 * n)).map g).getD (2 * i) 0)) = none := by
  refine List.find?_eq_none.mpr fun i hi => ?_
  have hi : i < n := List.mem_range.mp hi
  rw [getD_map_range g (by omega), L.tagged i hi]
  decide

theorem ListReads.findIdx?_ue : ((List.range (2 * n)).map g).findIdx? (fun a => t.ue a 16) = none := by
  refine List.findIdx?_eq_none_iff.mpr fun a ha => ?_
  obtain ⟨i, hi, rfl⟩ := List.mem_map.mp ha
  exact L.sound i (List.mem_range.mp hi)

end

/-- A list of bindings after its release, its granules read and its objects' descriptors held back by nothing (R129, R131, R280). -/
theorem nbindm_completes (B : DirBatch h s c b ls f fs) {g : Nat → Nat} (hwf : (Instr.nbindm h p).wellFormed = true)
    (hrel : released s [f] 4 = (t, true)) (hcheck : listCheck s b.part (capReg s f p.c.toNat) (dirName s f p).toInt p.imm.toNat = none)
    (L : ListReads t b f (capObj (capReg s f p.c.toNat)) (capOff (capReg s f p.c.toNat) (dirName s f p).toInt) p.imm.toNat g) :
    let u := ((List.range (2 * p.imm.toNat)).map g).foldl touch t
    let rs := listRecords t g p.imm.toNat
    badRecord (rs.map fun y => (y.2 / 2 ^ 72, BitVec.ofNat 64 y.2, y.2 / 2 ^ 64 % 256)) = none →
    descHeld u b.part (rs.map fun y => capObj y.1) = none →
    let v := touchDescs u b.part (rs.map fun y => capObj y.1)
    let r := bindAll v v b.part [] 0 (rs.map fun y => (y.1, BitVec.ofNat 64 y.2, y.2 / 2 ^ 64 % 256))
    Completes (.nbindm h p) s c ls h (dirStatus r.2.2 f p r.1 r.2.1) := by
  intro u rs hgood hheld v r
  rw [Completes, exec_nbindm, execNbindm]
  have hv : LanesStay s v := (released_stay hrel).trans ((LanesStay.foldl touch_stay _ t).trans (touchDescs_stay ..))
  refine B.issue_past (dir_legal (p := p) (by simp) hwf) ?_ ((bindAll_stay hv _ _ _ _ hv).trans (dirStatus_stay ..))
  have hplaces : (((List.range (2 * p.imm.toNat)).map g).map some).filterMap id = (List.range (2 * p.imm.toNat)).map g := by simp
  simp only [dirName] at hcheck L
  simp only [firstLane, hcheck, hrel, L.ask_eq, hplaces, L.any_rowWaits, foldl_touch_capTags, foldl_touch_ue, foldl_touch_read,
    L.find?_untagged, L.findIdx?_ue, listRecords_eq, Bool.not_true, Bool.false_eq_true, if_false, List.isEmpty_nil]
  simp only [u, rs] at hgood hheld
  simp only [hgood, hheld]
  rfl

/-- The size of a ring is set after the release of the operation (R130, R131, R280). -/
theorem nring_completes (B : DirBatch h s c b ls f fs) (hwf : (Instr.nring h p).wellFormed = true) (hrel : released s [f] 4 = (t, true)) :
    let r := ringSet t b.part (dirName t f p) p.imm.toNat
    Completes (.nring h p) s c ls h (dirStatus (judge b.part r) f p r.code 0) := by
  intro r
  rw [Completes, exec_nring, execNring]
  refine B.issue_past (dir_legal (p := p) (by simp) hwf) ?_ ((released_stay hrel).trans ((judge_stay _ (ringSet_stay ..)).trans (dirStatus_stay ..)))
  simp only [firstLane, hrel, Bool.not_true, Bool.false_eq_true, if_false]
  rfl

/-! ### NINFO, NTAG -/

/-- NINFO reads the slot that an open would take: its object, its opens and the status of an open (R133, R281). -/
theorem ninfo_completes (B : DirBatch h s c b ls f fs) (hwf : (Instr.ninfo h p).wellFormed = true) (hacq : acquiring f = false) :
    let e := if dirName s f p = 0 then none else entry? s b.part (dirName s f p)
    let slot := match e with | some e => slotOf e (dirTag s f p) | none => 0
    let x := e.bind fun e => e.slots.getD slot none
    let opens := match x with | some x => ((dirObj? s b.part (canonObj x.obj)).map (·.opens)).getD 0 | none => 0
    Completes (.ninfo h p) s c ls h (setUnis s f p.st.toNat
      [BitVec.ofNat 32 ((x.map (·.obj)).getD 0),
        BitVec.ofBool x.isSome ++ BitVec.ofNat 4 ((e.map (·.k)).getD 0) ++ BitVec.ofNat 3 slot ++ BitVec.ofNat 24 opens,
        BitVec.ofNat 32 (if dirName s f p = 0 then 8 else if x.isSome then 0 else 1)]) := by
  intro e slot x opens
  rw [Completes, exec_ninfo, execNinfo]
  refine B.issue_past (dir_legal (p := p) (by simp) hwf) ?_ (setUnis_stay ..)
  have hslot : slot = (e.map fun e => slotOf e (dirTag s f p)).getD 0 := by cases he : e <;> simp [slot, he]
  have hopens : opens = (x.bind fun x => (dirObj? s b.part (canonObj x.obj)).map (·.opens)).getD 0 := by cases hx : x <;> simp [opens, hx]
  clear_value slot opens
  rw [dirOp_acts hacq]
  simp only [beq_iff_eq, dBadName, dOk, dUnbound, hopens, x, hslot, e]

/-- NTAG sets the default tag of the block part (R125, R281). -/
theorem ntag_completes (B : DirBatch h s c b ls f fs) (hwf : (Instr.ntag h p).wellFormed = true) :
    Completes (.ntag h p) s c ls h (setPart s f.key.core f.bp fun q => { q with dtag := uni s f p.sn.toNat }) := by
  rw [Completes, exec_ntag, execNtag]
  exact B.issue_past (dir_legal (p := p) (by simp) hwf) rfl (setPart_stay ..)

end

/-! ### The first binding of a name -/

section
variable {s : State} {part : Nat} {name : BitVec 64} {c : CapWord}

/-- An object that a name's slot 0 binds once more (R124). -/
def DirObj.bound (d : DirObj) (name : BitVec 64) : DirObj := { d with binds := d.binds + 1, name := name, slot := 0 }

/-- The directory with a new name of a single entry, whose object counts one bind more (R123, R124, R129). -/
def boundNew (s : State) (part : Nat) (name : BitVec 64) (c : CapWord) : State :=
  let obj := canonObj (capObj c)
  let u := if (dirObj? s part obj).isNone then setDirm s part obj else s
  wakeName (setEntry (setDirObj u part obj (·.bound name)) part name
    { part := part, name := name, k := 0, slots := [some { obj := capObj c, lenM1 := capLimit c, rights := capRights c }] }) part name

/-- No status of R127 fails for a whole object that is readable and not reclaimed, by a new name within the quota. -/
theorem bindOne_new (hname : name ≠ 0) (hc : c ≠ 0) (he : entry? s part name = none)
    (hlive : ∀ d, dirObj? s part (canonObj (capObj c)) = some d → d.reclaimed = false) (hrd : capRights c % 2 = 1) (hbase : capBase c = 0)
    (hlen : objLenM1 s part c = some (capLimit c)) (hquota : (s.names.filter (fun e => e.part == part)).length < (partnOf s part).quota)
    (hsize : s.names.length < 65536) : bindOne s part name 0 c = { code := 0, s := boundNew s part name c, fell := [] } := by
  have hreclaimed : (dirObj? s part (canonObj (capObj c))).any (·.reclaimed) = false := by
    cases hd : dirObj? s part (canonObj (capObj c)) with
    | none => rfl
    | some d => exact hlive d hd
  have hwhole : (capRights c % 2 == 0 || capBase c != 0 || objLenM1 s part c != some (capLimit c)) = false := by simp [hrd, hbase, hlen]
  have hroom : quotaLeft s part = true := by simp [quotaLeft, hquota, hsize]
  simp only [bindOne, beq_eq_false_iff_ne.mpr hname, beq_eq_false_iff_ne.mpr hc, hreclaimed, hwhole, he, hroom, beq_self_eq_true, Bool.not_true,
    Bool.and_false, Bool.false_eq_true, if_false]
  rfl

theorem entry?_boundNew : entry? (boundNew s part name c) part name =
    some { part := part, name := name, k := 0, slots := [some { obj := capObj c, lenM1 := capLimit c, rights := capRights c }] } :=
  entry?_setEntry _ (by simp [isName])

theorem dirObj?_boundNew : ∃ d, dirObj? (boundNew s part name c) part (canonObj (capObj c)) = some d
    ∧ d.binds = ((dirObj? s part (canonObj (capObj c))).map (·.binds)).getD 0 + 1 ∧ d.name = name := by
  have hdirm : dirObj? (if (dirObj? s part (canonObj (capObj c))).isNone then setDirm s part (canonObj (capObj c)) else s) part
      (canonObj (capObj c)) = dirObj? s part (canonObj (capObj c)) := by
    split
    · exact dirObj?_congr (setDirm_dirObjs ..) ..
    · rfl
  refine ⟨_, dirObj?_setDirObj (g := (·.bound name)) _ part _ fun d => ⟨rfl, rfl⟩, ?_, rfl⟩
  rw [hdirm]
  cases dirObj? s part (canonObj (capObj c)) <;> rfl

/-- The first binding of a local object sets DIRM of its descriptor (R124, R338). -/
theorem read_boundNew {id d : Nat} (hs : s.Inv) (hlocal : objName s part (canonObj (capObj c)) = .local id)
    (hdesc : descOf s part (canonObj (capObj c)) = .ok d) (hfirst : dirObj? s part (canonObj (capObj c)) = none) :
    let a := (tableOf s part).1 + 32 * canonObj (capObj c) + 11
    (boundNew s part name c).read a 1 = s.read a 1 ||| 16 := by
  intro a
  have hmem : (boundNew s part name c).mem = (setDirm s part (canonObj (capObj c))).mem := by simp [boundNew, hfirst]
  rw [State.read_congr hmem]
  exact setDirm_read hs hlocal hdesc

end

/-! ### Reclamation -/

section
variable {s : State} {part obj : Nat} {d : DirObj}

/-- An object that nothing binds or holds open is reclaimed, with a record for the supervisor, while fewer than 256 wait (R132). -/
theorem reclaimCheck_reclaims (hd : dirObj? s part obj = some d) (hbinds : d.binds = 0) (hopens : d.opens = 0) (hlive : d.reclaimed = false)
    (hroom : (partnOf s part).reclaims.length < 256) :
    reclaimCheck s part obj = freeRegions (setDirObj (setPartn s part fun q => { q with reclaims := q.reclaims ++ [d.record] }) part obj
      fun d => { d with reclaimed := true }) part obj := by
  simp only [reclaimCheck, hd, hbinds, hopens, hlive, hroom, beq_self_eq_true, Bool.not_false, Bool.and_self, if_true]

theorem dirObj?_reclaims (s : State) (part obj : Nat) (g : Partn → Partn) :
    ∃ d, dirObj? (freeRegions (setDirObj (setPartn s part g) part obj fun d => { d with reclaimed := true }) part obj) part obj = some d
      ∧ d.reclaimed = true := by
  have hobjs := congrArg Prod.fst (freeRegions_dirRecords (setDirObj (setPartn s part g) part obj fun d => { d with reclaimed := true }) part obj)
  exact ⟨_, (dirObj?_congr hobjs ..).trans (dirObj?_setDirObj _ part obj fun d => ⟨rfl, rfl⟩), rfl⟩

theorem partnOf_reclaims (s : State) (part obj : Nat) {g : Partn → Partn} (hg : ∀ q, (g q).part = q.part) (k : DirObj → DirObj) :
    partnOf (freeRegions (setDirObj (setPartn s part g) part obj k) part obj) part = g (partnOf s part) :=
  (partnOf_congr (congrArg Prod.snd (freeRegions_dirRecords ..) :) part).trans (partnOf_setPartn s part hg)

end

/-- Settles O41: each instruction has its lemma above; what a first binding leaves is `boundNew`, and what a reclamation leaves is read off
`reclaimCheck_reclaims`. -/
theorem directoryInstructions : Obligations.DirectoryInstructions := by
  refine ⟨?_, ?_, ?_⟩
  -- the instructions
  · intro h p s c b ls f fs name st hready hhome hfirst hfeat
    have B : DirBatch h s c b ls f fs := ⟨hready, hhome, hfirst, hfeat⟩
    refine ⟨?_, ?_, ?_, ?_, ?_, ?_, ?_, ?_⟩
    · intro e x hwf hname he hx o hopens hacq t k
      have hdone := nopen_opens B hwf hname he hx hopens hacq
      have hseen : capOutdone t f p.c.toNat = capOutdone s f p.c.toNat := rfl
      exact ⟨fun hkept => by rwa [setOpen_kept (hseen.trans hkept)] at hdone, fun hover => by rwa [setOpen_over (hseen.trans hover)] at hdone⟩
    · exact nopen_unbound B
    · exact nclose_completes B
    · exact fun t hwf hrel hheld => nbind_completes B hwf hrel hheld
    · intro t g hwf hrel k n hcheck hreads u rs hgood hheld
      refine nbindm_completes B hwf hrel hcheck (g := g) ⟨fun i hi => (hreads i hi).1, fun i hi => (hreads i hi).2.1,
        fun i hi => (hreads i hi).2.2.1, fun i hi => ?_⟩ hgood hheld
      obtain ⟨-, -, -, htag⟩ := hreads (2 * i) (by omega)
      exact htag (by omega)
    · exact fun t hwf hrel => nring_completes B hwf hrel
    · exact ninfo_completes B
    · exact ntag_completes B
  -- a first binding
  · intro s part name c hname hc he obj hlive hrd hbase hlen hquota hsize r
    rw [show r = _ from bindOne_new hname hc he hlive hrd hbase hlen hquota hsize]
    exact ⟨rfl, entry?_boundNew, dirObj?_boundNew, fun id d hs hlocal hdesc hnone => read_boundNew hs hlocal hdesc hnone⟩
  -- reclamation
  · intro s part obj d hd hbinds hopens hlive hroom t
    rw [show t = _ from reclaimCheck_reclaims hd hbinds hopens hlive hroom]
    exact ⟨dirObj?_reclaims .., congrArg Partn.reclaims (partnOf_reclaims s part obj (by intro; rfl) _)⟩

end Sys2Proof.Machine
end

section
/-!
LAWS. Updates of engines, tiles, barrier objects and tokens, and writes of lane results, leave the lanes of a batch where they are.
-/
namespace Sys2Proof.Machine

section
variable {s : State}

theorem setEngine_stay (s : State) (k : Nat) (g : Engine → Engine) : LanesStay s (setEngine s k g) := .of_fibres rfl rfl rfl

theorem setTile_stay (s : State) (n : Nat) (g : Tile → Tile) : LanesStay s (setTile s n g) := .of_fibres rfl rfl rfl

theorem useTile_stay (s : State) (port n : Nat) : LanesStay s (useTile s port n) := setTile_stay ..

theorem spadWrite_stay (s : State) (cell n v : Nat) : LanesStay s (spadWrite s cell n v) := .of_fibres (by simp) (by simp) (by simp)

theorem pendingUp_stay (s : State) (g n : Nat) : LanesStay s (pendingUp s g n) := spadWrite_stay s g 16 _

theorem addOp_stay (s : State) (k : FKey) (id cls : Nat) : LanesStay s (setFibre s k fun g => g.addOp id cls) :=
  setFibre_stay (by intro; rfl) (by intro; rfl) s k

theorem takeToken_stay (s : State) (b : Block) (key : Nat) : LanesStay s (takeToken s b key).1 := by
  unfold takeToken
  split
  · exact .of_fibres rfl rfl rfl
  · exact .refl s

/-- Destinations written at once change registers and predicates alone (R202). -/
theorem wrote_stay (s : State) (gs : List Fibre) (out : Fibre → List PendDest) : LanesStay s (wrote s gs none out) := by
  refine mapFibres_stay (fun f => ?_) (fun f => ?_) s
  · split
    · exact foldl_key (fun g d => g.writeNow_key d) _ f
    · rfl
  · split
    · exact foldl_standing (fun g d => g.writeNow_standing d) _ f
    · rfl

theorem filter_passing {check : Fibre → Option Nat} {gs : List Fibre} (hcheck : ∀ g ∈ gs, check g = none) :
    gs.filter (fun g => (check g).isNone) = gs :=
  List.filter_eq_self.mpr fun g hg => by simp [hcheck g hg]

theorem trapsOf_passing {check : Fibre → Option Nat} {gs : List Fibre} (hcheck : ∀ g ∈ gs, check g = none) : trapsOf check gs = [] :=
  List.filterMap_eq_nil_iff.mpr fun g hg => by simp [hcheck g hg]

/-- An operation on registers whose check no lane fails writes every lane's destinations. -/
theorem regAct_passing {lat : Option Nat} {check : Fibre → Option Nat} {out : Fibre → List PendDest} {gs : List Fibre}
    (hcheck : ∀ g ∈ gs, check g = none) : regAct lat check out s gs = acted (wrote s gs lat out) [] := by
  simp only [regAct, filter_passing hcheck, trapsOf_passing hcheck]
  rfl

/-- A check that passes leaves the trap to the checks after it. -/
theorem firstTrap_cons_none (n : Nat) (l : List (Option Nat × Nat)) : firstTrap ((none, n) :: l) = firstTrap l := by
  simp [firstTrap, minCodes, minCode]

end

end Sys2Proof.Machine
end

section
/-!
PROOFS. O44: the instructions of the matrix engine (R134 to R137, R293, R301 to R304) and of the streamer (R257 to R265). The lemmas stand in the
order of `Obligations.EngineInstructions`.
-/
namespace Sys2Proof.Machine

/-! ### Issue -/

/-- What every clause about an instruction of the engine or the streamer supposes of its batch (R48, R197, R300). -/
structure EngineBatch (h : Head) (s : State) (c : Cur) (b : Block) (ls : List Fibre) (f : Fibre) (fs : List Fibre) : Prop where
  ready : Ready s c b ls
  home : AtHome ls
  first : guardTrue h.g h.gn ls = f :: fs
  kept : ∀ g ∈ ls, g.lost = false

section
variable {h : Head} {s : State} {c : Cur} {b : Block} {ls : List Fibre} {f : Fibre} {fs : List Fibre}

/-! The meanings of the instructions. -/

theorem exec_mxop (p : RegP) : exec (.mxop h p) s = execMxop h p s := rfl
theorem exec_mxrd (p : MxElemP) : exec (.mxrd h p) s = execMxrd h p s := rfl
theorem exec_mxwr (p : MxElemP) : exec (.mxwr h p) s = execMxwr h p s := rfl
theorem exec_mxclr (p : MxclrP) : exec (.mxclr h p) s = execMxclr h p s := rfl
theorem exec_mxstat (p : MxstatP) : exec (.mxstat h p) s = execMxstat h p s := rfl

/-- An instruction whose effect leaves the lanes where they are goes on (R197, R199, R300). -/
theorem EngineBatch.issue_past (B : EngineBatch h s c b ls f fs) {legal mx : Bool} {vr vw tiles : List Nat}
    {act : State → Block → List Fibre → Acted} {e : State} (hhead : h.wf = true) (hlegal : legal = true)
    (hclear : Clear ls (vr ++ vw)) (htiles : ∀ t ∈ tiles, t < b.tileN) (hact : act s b (f :: fs) = acted e []) (hstay : LanesStay s e) :
    issue { useOf h legal with mx := mx, home := true, vr := vr, vw := vw, tiles := tiles } act s = .next (past e c ls h) := by
  have hpass : Use.Passes { useOf h legal with mx := mx, home := true, vr := vr, vw := vw, tiles := tiles } s b ls :=
    { early := rfl, legal := Bool.and_eq_true_iff.mpr ⟨hhead, hlegal⟩, feat := by rintro k ⟨⟩, priv := fun f _ => Nat.zero_le _, clear := hclear
      here := needsHome_home B.home, tiles := htiles, lost := fun _ => B.kept }
  refine issue_stay B.ready hpass ?_ hstay
  change act s b (guardTrue h.g h.gn ls) = _
  rw [B.first, hact]

/-! ### Parameter and command blocks -/

/-- The 64 bytes at the local offset `o` that register `a` names can be read at issue: aligned, inside the allocation, undamaged, with no earlier
access of the fibre in the way (R160, R257, R293). -/
structure BlockRead (s : State) (b : Block) (f : Fibre) (a o : Nat) : Prop where
  offset : (f.val a).toNat = o
  tag : checkTag none (f.reg a) = none
  aligned : o % 64 = 0
  fits : o + 64 ≤ b.spadSize
  intact : s.ue (spadCell b o) 64 = false
  loads : f.reading = false
  stores : ownPending s f true 0 o 64 = false

theorem BlockRead.reachable {a o : Nat} (D : BlockRead s b f a o) :
    firstTrap [(checkTag none (f.reg a), 0), (if b.spadSize < o + 64 then some cSpadBounds else none, o)] = none :=
  firstTrap_none (by simp [D.tag, Nat.not_lt.mpr D.fits])

/-- A block that is read well traps as its own checks say. -/
theorem BlockRead.checked {a o : Nat} (D : BlockRead s b f a o) (chk : List (Option Nat × Nat)) :
    firstTrap ((if o % 64 != 0 then some cMisaligned else none, o) :: (if s.ue (spadCell b o) 64 then [(some cDataUe, o)] else chk))
      = firstTrap chk := by
  simp only [D.aligned, D.intact, bne_self_eq_false, Bool.false_eq_true, if_false, firstTrap_cons_none]

/-! ### MXOP -/

/-- MXOP takes the lowest free entry; its barrier has one transaction more, and its lane one operation more (R134, R135, R293). -/
theorem mxop_completes (B : EngineBatch h s c b ls f fs) {p : RegP} {o i v : Nat} (hwf : (Instr.mxop h p).wellFormed = true)
    (hclear : Clear ls [p.a.toNat]) (D : BlockRead s b f p.a.toNat o) (hv : s.read (spadCell b o) 64 = v)
    (hindex : mxIxp v = false → ownPending s f true 0 (mxIxoff v) 128 = false) (hchk : firstTrap (mxChk s b f v) = none)
    (hfree : lowestFree ((engineOf s b.cluster).entries.map (·.idx)) 32 = some i) (hops : f.counter 1 < 63)
    (hbusy : mxBsrc v = 2 → tileBusy s b (mxBt v) true = false) (hlate : ∀ n ∈ mxTiles b v, tileLate s f.key.port n = false)
    (hpend : (barObj s (mxBar b v)).pending < 2 ^ 24 - 1) :
    Completes (.mxop h p) s c ls h (setFibre (pendingUp
      (setEngine ((mxTiles b v).foldl (fun t n => useTile t f.key.port n) s.fresh) b.cluster fun g =>
        { g with entries := g.entries ++ [mxEntry s b f i v] }) (mxBar b v) 1) f.key fun g => g.addOp s.seq 1) := by
  rw [Completes, exec_mxop, execMxop]
  refine B.issue_past hwf hwf hclear (by rintro t ⟨⟩) ?_
    ((fresh_stay s).trans ((LanesStay.foldl (fun t n => useTile_stay t _ n) _ _).trans
      ((setEngine_stay ..).trans ((pendingUp_stay ..).trans (addOp_stay ..)))))
  have hread : (f.reading || ownPending s f true 0 o 64 || (!mxIxp v && ownPending s f true 0 (mxIxoff v) 128)) = false := by
    simpa [D.loads, D.stores] using hindex
  have hroom : ¬ (decide (63 ≤ f.counter 1) || (mxBsrc v == 2 && tileBusy s b (mxBt v) true) || (mxTiles b v).any (tileLate s f.key.port)
      || decide (2 ^ 24 - 1 ≤ (barObj s (mxBar b v)).pending)) = true := by
    have hlate' : (mxTiles b v).any (tileLate s f.key.port) = false := List.any_eq_false.mpr fun n hn => by simp [hlate n hn]
    have hbusy' : (mxBsrc v == 2 && tileBusy s b (mxBt v) true) = false := by simpa using hbusy
    rw [hlate', hbusy', decide_eq_false (Nat.not_le.mpr hops), decide_eq_false (Nat.not_le.mpr hpend)]
    exact Bool.false_ne_true
  simp only [firstLane, D.offset, hv, D.reachable, D.checked, hread, hchk, hfree, if_neg hroom, Bool.false_eq_true, if_false]
  rfl

/-! ### MXRD, MXWR, MXCLR, MXSTAT -/

/-- A lane passes the checks of MXRD and MXWR (R301). -/
theorem elemChk_passes {p : MxElemP} {t : Tile} {srcs : List Nat} {g : Fibre} (hregs : checkRegs g (p.a.toNat :: srcs) = none)
    (hquad : p.w4 = true → elemAt (g.val p.a.toNat) % 4 = 0) (htag : t.tag ≠ tInvalid) : elemChk p t srcs g = none := by
  refine minCodes_none _ ?_
  have halign : (p.w4 && elemAt (g.val p.a.toNat) % 4 != 0) = false := by simpa using hquad
  simp [hregs, halign, htag]

/-- Each lane reads the elements that its index names (R301). -/
theorem mxrd_completes (B : EngineBatch h s c b ls f fs) {p : MxElemP} (hwf : (Instr.mxrd h p).wellFormed = true) (hm : p.m.toNat < b.tileN)
    (hheld : tileHeld s b p.m.toNat (f :: fs) = false) (hclear : Clear ls (p.a.toNat :: elemRegs p))
    (htag : (tileOf s (tileNo b p.m.toNat)).tag ≠ tInvalid) (hquad : ∀ g ∈ f :: fs, p.w4 = true → elemAt (g.val p.a.toNat) % 4 = 0)
    (hregs : ∀ g ∈ f :: fs, checkRegs g [p.a.toNat] = none) :
    Completes (.mxrd h p) s c ls h (wrote (useTile s f.key.port (tileNo b p.m.toNat)) (f :: fs) none fun g =>
      (List.range (elemCount p)).map fun k => .reg (p.d.toNat + k)
        { val := (tileOf s (tileNo b p.m.toNat)).els.getD (elemAt (g.val p.a.toNat) + k) 0, tag := (tileOf s (tileNo b p.m.toNat)).tag }) := by
  rw [Completes, exec_mxrd, execMxrd]
  refine B.issue_past (Bool.and_eq_true_iff.mp hwf).1 hwf hclear (List.forall_mem_singleton.mpr hm) ?_
    ((useTile_stay ..).trans (wrote_stay ..))
  simp only [hheld, List.isEmpty_cons, Bool.false_eq_true, if_false]
  exact regAct_passing fun g hg => elemChk_passes (hregs g hg) (hquad g hg) htag

/-- The lanes write their elements in ascending order, and the tile takes the registers' common tag (R301). -/
theorem mxwr_completes (B : EngineBatch h s c b ls f fs) {p : MxElemP} (hwf : (Instr.mxwr h p).wellFormed = true) (hm : p.m.toNat < b.tileN)
    (hheld : tileHeld s b p.m.toNat (f :: fs) = false) (hclear : Clear ls (p.a.toNat :: elemRegs p))
    (htag : (tileOf s (tileNo b p.m.toNat)).tag ≠ tInvalid) (hquad : ∀ g ∈ f :: fs, p.w4 = true → elemAt (g.val p.a.toNat) % 4 = 0)
    (hregs : ∀ g ∈ f :: fs, checkRegs g (p.a.toNat :: elemRegs p) = none) :
    Completes (.mxwr h p) s c ls h (setTile (useTile s f.key.port (tileNo b p.m.toNat)) (tileNo b p.m.toNat) fun t =>
      { t with els := (f :: fs).foldl (writeElems p) t.els
               tag := commonTag ((f :: fs).flatMap fun g => (elemRegs p).map fun r => (g.reg r).tag) }) := by
  rw [Completes, exec_mxwr, execMxwr]
  refine B.issue_past (Bool.and_eq_true_iff.mp hwf).1 hwf ((List.append_nil _).symm ▸ hclear)
    (List.forall_mem_singleton.mpr hm) ?_ ((useTile_stay ..).trans (setTile_stay ..))
  have hchk : ∀ g ∈ f :: fs, elemChk p (tileOf s (tileNo b p.m.toNat)) (elemRegs p) g = none := fun g hg =>
    elemChk_passes (hregs g hg) (hquad g hg) htag
  simp only [hheld, filter_passing hchk, trapsOf_passing hchk, List.isEmpty_cons, Bool.false_eq_true, if_false]
  rfl

/-- MXCLR makes the tile's elements +0, tagged RAW (R302). -/
theorem mxclr_completes (B : EngineBatch h s c b ls f fs) {p : MxclrP} (hwf : (Instr.mxclr h p).wellFormed = true) (hm : p.m.toNat < b.tileN)
    (hheld : tileHeld s b p.m.toNat (f :: fs) = false) :
    Completes (.mxclr h p) s c ls h
      (useTile (setTile s (tileNo b p.m.toNat) fun t => { Tile.zero t.no with tag := tRaw }) f.key.port (tileNo b p.m.toNat)) := by
  rw [Completes, exec_mxclr, execMxclr]
  refine B.issue_past hwf hwf (fun f _ => ⟨by rintro v ⟨⟩, by rintro o - v - ⟨⟩, by rintro - g - v - ⟨⟩⟩)
    (List.forall_mem_singleton.mpr hm) ?_ ((setTile_stay ..).trans (useTile_stay ..))
  simp only [hheld, List.isEmpty_cons, Bool.false_eq_true, if_false]
  rfl

/-- The replay counter that MXSTAT's field selects: the block's, its kernel's, the package's (R303). -/
def replayOf (s : State) (b : Block) (sel : BitVec 2) : BitVec 64 :=
  if sel = 0 then b.replay.bits else if sel = 1 then ((kernel? s b.kernel).map (fun k => k.replay.bits)).getD 0 else s.pkgReplay.bits

/-- Each lane reads a replay counter into a pair of registers (R303). -/
theorem mxstat_writes (B : EngineBatch h s c b ls f fs) {p : MxstatP} (hwf : (Instr.mxstat h p).wellFormed = true)
    (hclear : Clear ls [p.d.toNat, p.d.toNat + 1]) :
    Writes (.mxstat h p) s c ls h none fun _ =>
      [.reg p.d.toNat { val := loWord (replayOf s b p.sel), tag := tI64lo },
        .reg (p.d.toNat + 1) { val := hiWord (replayOf s b p.sel), tag := tI64hi }] := by
  have hhead : h.wf = true := (Bool.and_eq_true_iff.mp (Bool.and_eq_true_iff.mp hwf).1).1
  rw [Writes, exec_mxstat, execMxstat, B.first]
  refine B.issue_past hhead hwf hclear (by rintro t ⟨⟩) ?_ (wrote_stay ..)
  obtain ⟨sel, d⟩ := p
  have hsel : ∀ sel : BitVec 2, sel = 0 ∨ sel = 1 ∨ sel = 2 ∨ sel = 3 := by decide
  obtain rfl | rfl | rfl | rfl := hsel sel <;> exact regAct_passing fun _ _ => rfl

/-! ### CPY, CPYM, CPYT, CPYX -/

/-- A copy instruction by its kind (R262 to R265). -/
def copyInstr (h : Head) (p : RegP) (kind : Nat) : Instr :=
  if kind = 0 then .cpy h p else if kind = 1 then .cpym h p else if kind = 2 then .cpyt h p else .cpyx h p

/-- A copy instruction is legal where its head is, and its meaning is `copyAct` of its kind. -/
theorem exec_copyInstr {p : RegP} {kind : Nat} (hkind : kind < 4) (hwf : (copyInstr h p kind).wellFormed = true) :
    h.wf = true ∧ exec (copyInstr h p kind) s = copyAct kind h p true s := by
  match kind, hkind with
  | 0, _ => exact ⟨hwf, congrArg (copyAct 0 h p · s) hwf⟩
  | 1, _ => exact ⟨hwf, congrArg (copyAct 1 h p · s) hwf⟩
  | 2, _ => exact ⟨hwf, congrArg (copyAct 2 h p · s) hwf⟩
  | 3, _ => exact ⟨hwf, congrArg (copyAct 3 h p · s) hwf⟩

/-- The command counts on the barrier of its own block: it names one, that one is live, and the command is not a CPYM (R257, R263). -/
def copyCounts (s : State) (b : Block) (kind v : Nat) : Bool := cyBv v && kind != 1 && s.isLive (cyBarCell b v)

/-- The tokens after a command has been entered, and whether it is started: at once, or with a token where it is deferred (R261). -/
def copyStart (s : State) (b : Block) (v : Nat) : State × Bool := if cyDef v then takeToken s b (cyKey v) else (s, true)

/-- The command that a copy instruction enters (R257). -/
def newCopy (s : State) (b : Block) (f : Fibre) (kind slot v : Nat) : Copy :=
  { cluster := b.cluster, id := s.seq, slot := slot, kind := kind, blk := b.id, fib := f.key, fid := f.fid, pc := f.pc
    opId := s.seq, words := wordsN v 16, scap := if cySsp v then 0 else capReg s f (cyScap v)
    dcap := if cyDsp v then 0 else capReg s f (cyDcap v), started := (copyStart s b v).2, index := 0, waits := [], xl := [] }

/-- The state with a command entered. -/
def withCopy (s : State) (b : Block) (f : Fibre) (kind slot v : Nat) : State :=
  { (copyStart s b v).1.fresh with copies := s.copies ++ [newCopy s b f kind slot v] }

theorem copyStart_stay (s : State) (b : Block) (v : Nat) : LanesStay s (copyStart s b v).1 := by
  unfold copyStart
  split
  · exact takeToken_stay ..
  · exact .refl s

theorem withCopy_stay (s : State) (b : Block) (f : Fibre) (kind slot v : Nat) : LanesStay s (withCopy s b f kind slot v) :=
  (copyStart_stay s b v).trans ((fresh_stay _).trans (.of_fibres rfl rfl rfl))

/-- A copy enters a command in the lowest free place of its cluster's queue; a live barrier has one transaction more, and the lane one operation
more (R257, R263). -/
theorem copy_completes (B : EngineBatch h s c b ls f fs) {p : RegP} {kind o i v : Nat} (hkind : kind < 4)
    (hwf : (copyInstr h p kind).wellFormed = true) (hclear : Clear ls [p.a.toNat]) (D : BlockRead s b f p.a.toNat o)
    (hv : s.read (spadCell b o) 64 = v) (hchk : firstTrap (cyChk s b f kind v) = none)
    (hfree : lowestFree ((s.copies.filter (fun x => x.cluster == b.cluster)).map (·.slot)) queueSize = some i) (hops : f.counter 0 < 63)
    (hpend : copyCounts s b kind v = true → (barObj s (cyBarCell b v)).pending < 2 ^ 24 - 1) :
    Completes (copyInstr h p kind) s c ls h (setFibre (if copyCounts s b kind v then pendingUp (withCopy s b f kind i v) (cyBarCell b v) 1
      else withCopy s b f kind i v) f.key fun g => g.addOp s.seq 0) := by
  obtain ⟨hhead, hexec⟩ := exec_copyInstr (s := s) hkind hwf
  rw [Completes, hexec, copyAct]
  refine B.issue_past hhead rfl hclear (by rintro t ⟨⟩) ?_
    ((withCopy_stay ..).trans ((LanesStay.ite (pendingUp_stay ..) (.refl _)).trans (addOp_stay ..)))
  have hread : (f.reading || ownPending s f true 0 o 64) = false := by rw [D.loads, D.stores]; rfl
  have hroom : ¬ (decide (63 ≤ f.counter 0) || (copyCounts s b kind v && decide (2 ^ 24 - 1 ≤ (barObj s (cyBarCell b v)).pending))) = true := by
    have hpend' : (copyCounts s b kind v && decide (2 ^ 24 - 1 ≤ (barObj s (cyBarCell b v)).pending)) = false := by
      rw [Bool.and_eq_false_imp]
      exact fun hcounts => decide_eq_false (Nat.not_le.mpr (hpend hcounts))
    rw [hpend', decide_eq_false (Nat.not_le.mpr hops)]
    exact Bool.false_ne_true
  simp only [firstLane, D.offset, hv, D.reachable, D.checked, hread, hchk, hfree, Bool.false_eq_true, if_false]
  exact if_neg hroom

end

/-- Settles O44: each instruction has its lemma above; the four copies are one, by their kind. -/
theorem engineInstructions : Obligations.EngineInstructions := by
  intro h s c b ls f fs hready hhome hfirst hkept
  have B : EngineBatch h s c b ls f fs := ⟨hready, hhome, hfirst, hkept⟩
  refine ⟨?_, ?_, ?_, ?_, ?_⟩
  · intro p i hwf hclear htag o v halign hfits hue hload hstore hindex hchk hfree hops hbusy hlate hpend
    exact mxop_completes B hwf hclear ⟨rfl, htag, halign, hfits, hue, hload, hstore⟩ rfl hindex hchk hfree hops hbusy hlate hpend
  · intro p hm hheld hclear t u htag hquad
    exact ⟨fun hwf hregs => mxrd_completes B hwf hm hheld hclear htag hquad hregs,
      fun hwf hregs => mxwr_completes B hwf hm hheld hclear htag hquad hregs⟩
  · exact fun p hwf hm hheld => mxclr_completes B hwf hm hheld
  · exact fun p hwf hclear => mxstat_writes B hwf hclear
  · intro p kind i hkind ins o v bar counts q hwf hclear htag halign hfits hue hload hstore hchk hfree hops hpend
    exact copy_completes B hkind hwf hclear ⟨rfl, htag, halign, hfits, hue, hload, hstore⟩ rfl hchk hfree hops hpend

end Sys2Proof.Machine
end

section
/-!
PROOFS. O32: RADD of a batch of one guard-true lane, to a member of the gang and to global memory (R147, R266, R267).
-/
namespace Sys2Proof.Machine

/-! ### RADD by its parts -/

/-- What RADD needs before its effect (R197, R199, R267). -/
def raddUse (h : Head) (p : RaddP) : Use :=
  { useOf h (Instr.radd h p).legal with
    feat := some 3, vr := offRegs p.a.toNat p.o64 ++ [p.b.toNat] ++ (if p.gl || p.gu then [] else [p.g.toNat]), home := true }

/-- The tag checks of a lane's registers (R87, R267). -/
def raddTags (p : RaddP) (f : Fibre) : Option Nat :=
  minCodes [checkTag (raddTag p.fmt.toNat) (f.reg p.b.toNat), checkRegs f (offRegs p.a.toNat p.o64),
    if p.gl || p.gu then none else checkTag none (f.reg p.g.toNat)]

/-- The member that a lane names (R267). -/
def raddMember (p : RaddP) (s : State) (f : Fibre) : Nat := (if p.gu then uni s f p.g.toNat else f.val p.g.toNat).toNat

/-- The scratchpad offset that a lane names in the member's allocation (R267). -/
def raddOffset (p : RaddP) (f : Fibre) : Int := ((f.val p.a.toNat).toNat : Int) + 4 * p.off.toInt

/-- The offset that a lane of the global form adds to its capability's base (R194, R267). -/
def raddFar (p : RaddP) (f : Fibre) : Int := offVal f p.a.toNat p.o64 + 4 * p.off.toInt

def raddSendChk (p : RaddP) (s : State) (b : Block) (f : Fibre) : Option Fate :=
  firstTrap [(raddTags p f, 0), (if b.gang.isNone then some cIllegalOp else none, 0),
    (if (memberBlock s b (raddMember p s f)).isNone then some cSpadBounds else none, infoOf (raddOffset p f)), spadChk b (raddOffset p f) 4]

def raddPushChk (p : RaddP) (s : State) (b : Block) (f : Fibre) : Option Fate :=
  firstTrap [(raddTags p f, 0), globalChk s b f p.c.toNat (raddFar p f) 4 (rWR + rAT)]

/-- A lane's message to the member block `mb` sets out, and counts (R68, R147). -/
def raddSend (p : RaddP) (b : Block) (mb : Nat) (s : State) (f : Fibre) : State :=
  setFibre { s.fresh with msgs := s.msgs ++ [{
      id := s.seq, src := f.key, blk := b.id, opId := s.seq
      kind := .radd mb (raddOffset p f).toNat (f.val p.b.toNat) p.fmt.toNat b.lsst.esend }] }
    f.key fun g => g.addOp s.seq 3

/-- A lane's store with an operation enters its port's FIFO and its store hash, and counts (R68, R267, R395). -/
def raddPush (p : RaddP) (b : Block) (s : State) (f : Fibre) (k : CapWord) : State :=
  feedLane (pushStore (setFibre s.fresh f.key fun g => g.addOp s.seq 3) f b (.radd p.fmt.toNat b.lsst.esend) false (capObj k)
    (capOff k (raddFar p f)) 4 (f.val p.b.toNat).toNat 0 false f.fhash (some s.seq)) b f (capObj k) (capOff k (raddFar p f)) 2 (f.val p.b.toNat).toNat

section
variable {h : Head} {p : RaddP} {s : State} {c : Cur} {b : Block} {ls : List Fibre} {f : Fibre}

theorem exec_radd : exec (.radd h p) s = execRadd h p s := rfl

/-- RADD to a member by its parts. -/
theorem exec_radd_member (hgl : p.gl = false) : exec (.radd h p) s = issue (raddUse h p) (fun s b ls =>
    let ok := passed (raddSendChk p s b) ls
    if ok.any (fun f => 63 ≤ f.counter 3) || !ok.all (drained s) then actWait s
    else acted (ok.foldl (fun t f => raddSend p b ((memberBlock t b (raddMember p s f)).getD noBlock) t f) s) (trapped (raddSendChk p s b) ls)) s := by
  rw [exec_radd, execRadd]
  refine congrArg (issue (raddUse h p) · s) (funext fun s => funext fun b => funext fun ls => ?_)
  dsimp only
  rw [if_neg (by simp [hgl])]
  rfl

/-- RADD to global memory by its parts. -/
theorem exec_radd_global (hgl : p.gl = true) : exec (.radd h p) s = issue (raddUse h p) (fun s b ls =>
    let ok := passed (raddPushChk p s b) ls
    if ok.any (fun f => 63 ≤ f.counter 3) || hashWaits s b ok || ok.any (fun f => !fifoRoom s f.loc f.key.port ok.length) then actWait s
    else acted (ok.foldl (fun t f =>
      let u := raddPush p b t f (capReg s f p.c.toNat)
      if gated u b (capObj (capReg s f p.c.toNat)) then setFibre u f.key fun g => { g with run := .waiting .gate } else u) s)
      (trapped (raddPushChk p s b) ls)) s := by
  rw [exec_radd, execRadd]
  refine congrArg (issue (raddUse h p) · s) (funext fun s => funext fun b => funext fun ls => ?_)
  dsimp only
  rw [if_pos hgl]
  rfl

/-! ### Issue -/

/-- What every clause about a RADD supposes of its batch (R197, R267). -/
structure AddBatch (h : Head) (p : RaddP) (s : State) (c : Cur) (b : Block) (ls : List Fibre) (f : Fibre) : Prop where
  ready : Ready s c b ls
  home : AtHome ls
  one : guardTrue h.g h.gn ls = [f]
  legal : (Instr.radd h p).wellFormed = true
  feature : featureOn s 3 = true
  room : f.counter 3 < 63
  clear : Clear ls (raddUse h p).vr
  value : checkTag (raddTag p.fmt.toNat) (f.reg p.b.toNat) = none
  offset : checkRegs f (offRegs p.a.toNat p.o64) = none

/-- A RADD whose effect leaves the lanes where they are goes on (R197, R199). -/
theorem AddBatch.issue_past (B : AddBatch h p s c b ls f) {act : State → Block → List Fibre → Acted} {e : State}
    (hact : act s b [f] = acted e []) (hstay : LanesStay s e) : issue (raddUse h p) act s = .next (past e c ls h) := by
  have hlegal : (h.wf && (Instr.radd h p).legal) = true := Bool.and_eq_true_iff.mpr ⟨(Bool.and_eq_true_iff.mp B.legal).1, B.legal⟩
  have hpass : (raddUse h p).Passes s b ls :=
    { early := rfl, legal := hlegal, feat := by rintro k ⟨⟩; exact B.feature, priv := fun f _ => Nat.zero_le _
      clear := (List.append_nil (raddUse h p).vr).symm ▸ B.clear, here := needsHome_home B.home, tiles := by rintro t ⟨⟩, lost := by rintro ⟨⟩ }
  refine issue_stay B.ready hpass ?_ hstay
  change act s b (guardTrue h.g h.gn ls) = _
  rw [B.one, hact]

theorem AddBatch.tags_pass (B : AddBatch h p s c b ls f) (hmember : p.gl = false → p.gu = false → checkTag none (f.reg p.g.toNat) = none) :
    raddTags p f = none := by
  refine minCodes_none _ ?_
  simpa [B.value, B.offset] using hmember

theorem AddBatch.counts (B : AddBatch h p s c b ls f) : ([f].any fun g => decide (63 ≤ g.counter 3)) = false := by
  simpa using B.room

/-! ### To a member -/

theorem sendMsg_stay (s : State) (m : Msg) : LanesStay s { s.fresh with msgs := s.msgs ++ [m] } := .of_fibres rfl rfl rfl

theorem raddSend_stay (p : RaddP) (b : Block) (mb : Nat) (s : State) (f : Fibre) : LanesStay s (raddSend p b mb s f) :=
  (sendMsg_stay ..).trans (addOp_stay ..)

/-- RADD to a member sends it one message, with the sender's exponent (R147, R267). -/
theorem radd_sends (B : AddBatch h p s c b ls f) (hgl : p.gl = false) (hgang : b.gang.isSome = true) (houts : f.outs = [])
    (hstores : storesOf s f.key = []) (htag : p.gu = false → checkTag none (f.reg p.g.toNat) = none) {mb : Nat}
    (hmember : memberBlock s b (raddMember p s f) = some mb) (hspad : spadCheck b (raddOffset p f) 4 = none) :
    Completes (.radd h p) s c ls h (raddSend p b mb s f) := by
  rw [Completes, exec_radd_member hgl]
  refine B.issue_past ?_ (raddSend_stay p b mb s f)
  have hchk : ∀ g ∈ [f], raddSendChk p s b g = none := List.forall_mem_singleton.mpr <| firstTrap_none <| by
    simp [B.tags_pass fun _ => htag, Option.isSome_iff_ne_none.mp hgang, hmember, spadChk, hspad]
  simp only [passed_all hchk, trapped_none hchk, List.foldl_cons, List.foldl_nil, hmember, Option.getD_some]
  refine if_neg ?_
  simp [B.counts, drained_of_idle houts hstores]

/-! ### To global memory -/

theorem feedLane_stay (s : State) (b : Block) (f : Fibre) (obj off w data : Nat) : LanesStay s (feedLane s b f obj off w data) :=
  setFibre_stay (by intro; rfl) (by intro; rfl) s f.key

theorem raddPush_stay (p : RaddP) (b : Block) (s : State) (f : Fibre) (k : CapWord) : LanesStay s (raddPush p b s f k) :=
  (fresh_stay s).trans ((addOp_stay ..).trans ((pushStore_stay ..).trans (feedLane_stay ..)))

/-- RADD to global memory puts one store with an operation into the FIFO (R267). -/
theorem radd_pushes (B : AddBatch h p s c b ls f) (hgl : p.gl = true)
    (haccess : accessCheck s b.part (capReg s f p.c.toNat) (raddFar p f) 4 (rWR + rAT) = none) (hhash : hashWaits s b [f] = false)
    (hfifo : fifoRoom s f.loc f.key.port 1 = true) (hgate : gated s b (capObj (capReg s f p.c.toNat)) = false) :
    Completes (.radd h p) s c ls h (raddPush p b s f (capReg s f p.c.toNat)) := by
  rw [Completes, exec_radd_global hgl]
  refine B.issue_past ?_ (raddPush_stay ..)
  have hchk : ∀ g ∈ [f], raddPushChk p s b g = none := List.forall_mem_singleton.mpr <| firstTrap_none <| by
    simp [B.tags_pass (by simp [hgl]), globalChk, haccess]
  have hopen : gated (raddPush p b s f (capReg s f p.c.toNat)) b (capObj (capReg s f p.c.toNat)) = false := hgate
  simp only [passed_all hchk, trapped_none hchk, List.foldl_cons, List.foldl_nil, hopen, Bool.false_eq_true, if_false]
  refine if_neg ?_
  simp [B.counts, hhash, hfifo]

end

/-- Settles O32: the form to a member is `radd_sends`, the form to global memory `radd_pushes`. -/
theorem remoteAdds : Obligations.RemoteAdds := by
  intro h p s c b ls f a member o k x hready hhome hone hwf hfeat hroom hclear hvalue hoffset
  have B : AddBatch h p s c b ls f := ⟨hready, hhome, hone, hwf, hfeat, hroom, hclear, hvalue, hoffset⟩
  exact ⟨fun hgl hgang houts hstores htag mb hmember hspad => radd_sends B hgl hgang houts hstores htag hmember hspad,
    fun hgl haccess hhash hfifo hgate => radd_pushes B hgl haccess hhash hfifo hgate⟩

end Sys2Proof.Machine
end

section
/-!
PROOFS. O33: what arrives over the fabric, and the adds that perform at a word of global memory (R68, R147, R149, R150, R253, R256, R267). The lemmas
stand in the order of `Obligations.FabricArrivals`.
-/
namespace Sys2Proof.Machine

section
variable {s t : State} {m : Msg} {op blk core port a fmt : Nat} {es : BitVec 8} {b : Block}

/-! The meanings of the events. -/

theorem exec_queueEntryArrival : exec (.queueEntryArrival op) s = execQueueEntryArrival op s := rfl
theorem exec_raddArrival : exec (.raddArrival op) s = execRaddArrival op s := rfl
theorem exec_esendUpdate : exec (.esendUpdate op) s = execEsendUpdate op s := rfl
theorem exec_fabCompletion (ctx : Nat) : exec (.fabCompletion core port ctx) s = execFabCompletion core port ctx s := rfl
theorem exec_raddGlobalApply : exec (.raddGlobalApply core port) s = execRaddGlobalApply core port s := rfl

/-! ### Messages -/

/-- A message that overtakes none enters its queue, and its operation has ended (R252, R253, R256). -/
theorem queueEntryArrival_enters {q : QMsg} {x : Part} (hm : s.msgs.find? (fun y => y.id == op) = some m) (hkind : m.kind = .send blk core q)
    (horder : overtakes s m = false) (hb : block? s blk = some b) (hlive : b.killed = false)
    (hx : partAt s blk (b.cluster * 4 + core) = some x) (henter : enqueue s x q = some t) :
    exec (.queueEntryArrival op) s = .next (markOp (dropMsg t op) m.src m.opId false) := by
  simp only [exec_queueEntryArrival, execQueueEntryArrival, hm, hkind, horder, hb, hx, hlive, henter, Bool.false_eq_true, if_false]

/-- A remote add that meets neither a barrier object nor damage is added at its bank, and its granule becomes full (R147, R150). -/
theorem raddArrival_adds {off : Nat} {v : Word} (hm : s.msgs.find? (fun y => y.id == op) = some m) (hkind : m.kind = .radd blk off v fmt es)
    (hb : block? s blk = some b) (hlive : b.killed = false) (hbar : s.isLive (granOf (spadCell b off)) = false)
    (hue : s.ue (spadCell b off) 4 = false) :
    exec (.raddArrival op) s = .next (markOp (deliver (fillGran
      (setBlock (spadWrite (dropMsg s op) (spadCell b off) 4 (raddApply b.lsst (s.read (spadCell b off) 4) v fmt es).1) blk fun d =>
        { d with lsst := (raddApply b.lsst (s.read (spadCell b off) 4) v fmt es).2 })
      (granOf (spadCell b off)) true)) m.src m.opId false) := by
  simp only [exec_raddArrival, execRaddArrival, hm, hkind, hb, hlive, hbar, hue, Bool.or_self, Bool.false_eq_true, if_false]

/-- An update of ESEND reaches its member (R149). -/
theorem esendUpdate_sets {v : BitVec 8} (hm : s.msgs.find? (fun y => y.id == op) = some m) (hkind : m.kind = .esend blk v) :
    exec (.esendUpdate op) s = .next (setBlock (dropMsg s op) blk fun d => { d with lsst := { d.lsst with esend := v } }) := by
  simp only [exec_esendUpdate, execEsendUpdate, hm, hkind]

/-! ### The fabric counter -/

/-- Operations of a class of which none is done stay (R68). -/
theorem popDone_of_none_done {cls : Nat} {l : List AOp} (h : ∀ y ∈ l, y.cls = cls → y.done = false) : popDone cls l = (l, false) := by
  induction l with
  | nil => rfl
  | cons o r ih =>
    by_cases hcls : o.cls = cls
    · simp [popDone, hcls, h o (by simp) hcls]
    · simp [popDone, hcls, ih fun y hy => h y (by simp [hy])]

/-- The oldest operation leaves the counter, and what it met is noted (R68, R69). -/
theorem fabCompletion_pops {ctx : Nat} {f : Fibre} {o : AOp} {r : List AOp} (hf : fibre? s (keyOf core port ctx) = some f) (hops : f.ops = o :: r)
    (hcls : o.cls = 3) (hdone : o.done = true) (hrest : ∀ y ∈ r, y.cls = 3 → y.done = false) :
    ∃ t, exec (.fabCompletion core port ctx) s = .next t ∧ t.mem = s.mem
      ∧ fibre? t f.key = some { f with ops := r, sticky := if o.err then f.sticky ||| 8#5 else f.sticky } := by
  have hpop : popDone 3 f.ops = (r, o.err) := by simp [hops, popDone, hcls, hdone, popDone_of_none_done hrest]
  refine ⟨_, (exec_fabCompletion ctx).trans rfl, by simp, ?_⟩
  refine (congrArg (fibre? _) (fibre?_key hf)).trans ?_
  rw [fibre?_setFibre_same (by intro; rfl) hf, hpop]
  rfl

/-! ### Adds to global memory -/

/-- With record and replay off an object has no order gate (R394). -/
theorem rrIndex_off {part : Nat} (h : rrMode s part = 0) (obj : Nat) : rrIndex s part obj = none := by simp [rrIndex, h]

theorem rrMode_touch (s : State) (a part : Nat) : rrMode (touch s a) part = rrMode s part := by simp [rrMode, sysGet]

/-- The add at the head of a FIFO applies at its word (R267). -/
theorem raddGlobalApply_adds {x : Store} {i : Nat} (hhead : (portOf s core port).fifo.head? = some x) (hkind : x.kind = .radd fmt es)
    (hturn : turnOf s core port x = .go a) (hop : x.opId = some i) (hue : s.ue a 4 = false) (hmode : rrMode s x.part = 0) :
    exec (.raddGlobalApply core port) s = .next (deliver (reap (completeOp (openGate (noteDest
      ((popStore (touch s a) core port x.id).write a 4 (raddNew fmt ((touch s a).read a 4) x.data es)) core port x a) x.fib) x.fib i 3 false))) := by
  have hindex : rrIndex (touch s a) x.part x.obj = none := rrIndex_off ((rrMode_touch ..).trans hmode) x.obj
  have hheld : ∀ coord fid, gateHeld (touch s a) x.part x.obj coord fid = none := fun _ _ => by simp only [gateHeld, hindex, Option.bind_none]
  have hgate : ∀ coord fid, gateOf (touch s a) x.part x.obj coord fid x.hash = .pass := fun _ _ => by simp only [gateOf, hindex]
  have hgrant : ∀ coord fid, takeGrant (touch s a) x.part x.obj coord fid x.hash = touch s a := fun _ _ => by simp only [takeGrant, hindex]
  simp only [exec_raddGlobalApply, execRaddGlobalApply, hhead, hkind, hturn, hheld, hgate, hgrant, touch_ue, hue, hop, Bool.false_eq_true, if_false]

end

/-- Settles O33: each event has its lemma above. -/
theorem fabricArrivals : Obligations.FabricArrivals := by
  refine ⟨fun s t m op blk core q b x => queueEntryArrival_enters, fun s m op blk off fmt v es b => raddArrival_adds,
    fun s m op blk v => esendUpdate_sets, ?_, fun s core port a fmt es x i => raddGlobalApply_adds⟩
  intro s core port ctx f o r hf hops hcls hdone hrest
  obtain ⟨t, hexec, hmem, hg⟩ := fabCompletion_pops hf hops hcls hdone hrest
  exact ⟨t, _, hexec, hmem, hg, rfl, rfl, rfl⟩

end Sys2Proof.Machine
end

section
/-!
PROOFS. O46: the end of a gang's vote round and VKILL (R152, R154). The model sets VKILL where a member was killed (`voteRoundComplete_vkill`) and leaves
every block as it was where none was (`voteRoundComplete_unkilled`). In `Obligations.Gangs` the clause about VKILL asks `g.killed.any id`, and there `id` is
the gang's number, which the clause's binder names so, and not the identity: as a function of `Bool` a number is constant, true where it is
odd. So the clause fails in a gang of an odd number without a killed member: `unkilledRound`.
-/
namespace Sys2Proof.Machine

/-! ### VKILL after a vote round -/

section
variable {s : State} {n : Nat} {g : Gang}

theorem exec_voteRoundComplete : exec (.voteRoundComplete n) s = execVoteRoundComplete n s := rfl

/-- A full round of one gang ends with its OR, and with VKILL where a member was killed (R152, R154). -/
theorem voteRoundComplete_ends (hg : gang? s n = some g) (hfull : voteFull g = true) (hdom : g.voteDom = false) :
    exec (.voteRoundComplete n) s = .next (endVote (voteOr g) (g.killed.any id) s g) := by
  simp only [exec_voteRoundComplete, execVoteRoundComplete, hg, hfull, hdom, Bool.not_true, Bool.not_false, Bool.false_eq_true, if_false, if_true]

/-- The end of a round changes blocks by VKILL alone. -/
theorem endVote_blocks (r vkill : Bool) (s : State) (g : Gang) :
    (endVote r vkill s g).blocks = if vkill then (gangVkill s g).blocks else s.blocks := by
  cases vkill <;> rfl

theorem gangVkill_sets {y : Block} (hy : y ∈ (gangVkill s g).blocks) (hmember : y.id ∈ g.members) (hlive : y.killed = false) :
    y.lsst.vkill = true := by
  obtain ⟨b, -, rfl⟩ := List.mem_map.mp hy
  by_cases hb : b.id ∈ g.members
  · by_cases hkilled : b.killed = true
    · simp [hb, hkilled] at hlive
    · simp [hb, hkilled]
  · simp [hb] at hmember

/-- R154: where a member was killed the round sets VKILL in the living members. -/
theorem voteRoundComplete_vkill (hg : gang? s n = some g) (hfull : voteFull g = true) (hdom : g.voteDom = false) (hkill : g.killed.any id = true) :
    ∃ t, exec (.voteRoundComplete n) s = .next t ∧ ∀ y ∈ t.blocks, y.id ∈ g.members → y.killed = false → y.lsst.vkill = true := by
  refine ⟨_, voteRoundComplete_ends hg hfull hdom, fun y hy => gangVkill_sets (s := s) ?_⟩
  rwa [endVote_blocks, hkill, if_pos rfl] at hy

/-- Where none was killed the round leaves every block as it was. -/
theorem voteRoundComplete_unkilled (hg : gang? s n = some g) (hfull : voteFull g = true) (hdom : g.voteDom = false) (hkill : g.killed.any id = false) :
    ∃ t, exec (.voteRoundComplete n) s = .next t ∧ t.blocks = s.blocks := by
  refine ⟨_, voteRoundComplete_ends hg hfull hdom, ?_⟩
  rw [endVote_blocks, hkill, if_neg Bool.false_ne_true]

end

/-! ### A round without a killed member -/

/-- Gang 1 of one living member, which has voted. -/
def unkilledGang : Gang :=
  { id := 1, kernel := 0, members := [0], killed := [false], votes := [some false], voteDom := false, voteFwd := none, voteKill := false, syncs := [false] }

/-- Its member. -/
def unkilledMember : Block := { placeBlock with gang := some 1 }

def unkilledRound : State := { State.reset with blocks := [unkilledMember], gangs := [unkilledGang] }

/-- Refutes O46: the clause about VKILL takes the gang's number for the identity, so that in a gang of an odd number it asks for VKILL without a killed
member. The round of `unkilledRound` is full and ends, and leaves VKILL of its living member unset, as R154 has it. -/
theorem not_gangs : ¬ Obligations.Gangs := by
  rintro ⟨-, hrounds⟩
  obtain ⟨hvote, -⟩ := hrounds unkilledRound 1 unkilledGang rfl rfl
  obtain ⟨t, -, hexec, -, -, -, hvkill, -⟩ := hvote (by decide) (by decide) rfl
  obtain ⟨u, hround, hblocks⟩ := voteRoundComplete_unkilled (s := unkilledRound) (n := 1) (g := unkilledGang) rfl (by decide) rfl (by decide)
  obtain rfl : t = u := Host.Outcome.next.inj (hexec.symm.trans hround)
  have hmem : unkilledMember ∈ t.blocks := hblocks ▸ List.mem_singleton.mpr rfl
  have hset : unkilledMember.lsst.vkill = true := hvkill rfl unkilledMember hmem (by decide) rfl
  exact absurd hset (by decide)

end Sys2Proof.Machine
end

section
/-!
LAWS. Fields of a word (R183 to R196): a field laid over lower ones is read back, and fields laid above it do not touch it; so the payload of each
64-bit instruction is read back from its bits.
-/
namespace Sys2Proof

/-! ### One field -/

section
variable {w lo m n y : Nat}

theorem fld_zero (x : BitVec w) : fld w 0 x.toNat = x := by simp [fld]

theorem bitAt_zero (b : Bool) : bitAt 0 (BitVec.ofBool b).toNat = b := by cases b <;> rfl

/-- The field at the top of the fields below it. -/
theorem fld_top (x : BitVec w) (hm : m = 2 ^ lo) (hn : n < m) : fld w lo (n + x.toNat * m) = x := by
  subst hm
  rw [fld, Nat.add_mul_div_right _ _ (Nat.two_pow_pos lo), Nat.div_eq_of_lt hn, Nat.zero_add, BitVec.ofNat_toNat, BitVec.setWidth_eq]

theorem fld_lowest (x : BitVec w) (hm : m = 2 ^ lo) : fld w lo (x.toNat * m) = x := by
  simpa using fld_top (n := 0) x hm (hm ▸ Nat.two_pow_pos lo)

/-- A field under what lies above it. -/
theorem fld_below (hm : 2 ^ (lo + w) ∣ m) : fld w lo (n + y * m) = fld w lo n := by
  obtain ⟨q, rfl⟩ := hm
  refine BitVec.eq_of_toNat_eq ?_
  rw [fld, fld, BitVec.toNat_ofNat, BitVec.toNat_ofNat, Nat.pow_add, show y * (2 ^ lo * 2 ^ w * q) = y * q * 2 ^ w * 2 ^ lo by ring,
    Nat.add_mul_div_right _ _ (Nat.two_pow_pos lo), Nat.add_mul_mod_self_right]

theorem bitAt_top (b : Bool) (hm : m = 2 ^ lo) (hn : n < m) : bitAt lo (n + (BitVec.ofBool b).toNat * m) = b := by
  subst hm
  rw [bitAt, Nat.add_mul_div_right _ _ (Nat.two_pow_pos lo), Nat.div_eq_of_lt hn]
  cases b <;> rfl

theorem bitAt_below (hm : 2 ^ (lo + 1) ∣ m) : bitAt lo (n + y * m) = bitAt lo n := by
  obtain ⟨q, rfl⟩ := hm
  rw [bitAt, bitAt, Nat.pow_add, show y * (2 ^ lo * 2 ^ 1 * q) = y * q * 2 * 2 ^ lo by ring, Nat.add_mul_div_right _ _ (Nat.two_pow_pos lo),
    Nat.add_mul_mod_self_right]

end

/-! ### Payloads of the 64-bit instructions -/

/-- The number `n` fits above a head, and a payload is read back from it (R189). -/
def Carries {α : Type} (ofBits : Nat → α) (p : α) (n : Nat) : Prop := n < 2 ^ 42 ∧ ofBits n = p

theorem CmpP.carried (p : CmpP) : Carries .ofBits p p.toBits := by
  simp (disch := omega) only [Carries, CmpP.ofBits, CmpP.toBits, fld_top, bitAt_top, fld_below, bitAt_below, fld_zero, ← BitVec.toNat_ofBool,
    and_true]
  omega

theorem PcombP.carried (p : PcombP) : Carries .ofBits p p.toBits := by
  simp (disch := omega) only [Carries, PcombP.ofBits, PcombP.toBits, fld_top, fld_below, fld_zero, and_true]
  omega

theorem PredVecP.carried (p : PredVecP) : Carries .ofBits p p.toBits := by
  simp (disch := omega) only [Carries, PredVecP.ofBits, PredVecP.toBits, fld_top, fld_below, fld_zero, and_true]
  omega

theorem PsurvP.carried (p : PsurvP) : Carries .ofBits p p.toBits := by
  simp (disch := omega) only [Carries, PsurvP.ofBits, PsurvP.toBits, fld_top, bitAt_top, fld_below, bitAt_below, fld_zero, ← BitVec.toNat_ofBool,
    and_true]
  omega

theorem ShflP.carried (p : ShflP) : Carries .ofBits p p.toBits := by
  simp (disch := omega) only [Carries, ShflP.ofBits, ShflP.toBits, fld_top, bitAt_top, fld_below, bitAt_below, fld_zero, ← BitVec.toNat_ofBool,
    and_true]
  omega

theorem MatchP.carried (p : MatchP) : Carries .ofBits p p.toBits := by
  simp (disch := omega) only [Carries, MatchP.ofBits, MatchP.toBits, fld_top, bitAt_top, fld_below, fld_zero, ← BitVec.toNat_ofBool, and_true]
  omega

theorem ReduxP.carried (p : ReduxP) : Carries .ofBits p p.toBits := by
  simp (disch := omega) only [Carries, ReduxP.ofBits, ReduxP.toBits, fld_top, bitAt_top, fld_below, bitAt_below, fld_zero, ← BitVec.toNat_ofBool,
    and_true]
  omega

theorem UmovP.carried (p : UmovP) : Carries .ofBits p p.toBits := by
  simp (disch := omega) only [Carries, UmovP.ofBits, UmovP.toBits, fld_top, fld_below, fld_zero, and_true]
  omega

theorem BraP.carried (p : BraP) : Carries .ofBits p p.toBits := by
  simp (disch := omega) only [Carries, BraP.ofBits, BraP.toBits, fld_zero, and_true]
  omega

theorem BrxP.carried (p : BrxP) : Carries .ofBits p p.toBits := by
  simp (disch := omega) only [Carries, BrxP.ofBits, BrxP.toBits, fld_top, fld_below, fld_zero, and_true]
  omega

theorem CallP.carried (p : CallP) : Carries .ofBits p p.toBits := by
  simp (disch := omega) only [Carries, CallP.ofBits, CallP.toBits, fld_top, fld_below, fld_zero, and_true]
  omega

theorem RegP.carried (p : RegP) : Carries .ofBits p p.toBits := by
  simp (disch := omega) only [Carries, RegP.ofBits, RegP.toBits, fld_zero, and_true]
  omega

theorem SpawnP.carried (p : SpawnP) : Carries .ofBits p p.toBits := by
  simp (disch := omega) only [Carries, SpawnP.ofBits, SpawnP.toBits, fld_top, fld_below, fld_zero, and_true]
  omega

theorem WaitcP.carried (p : WaitcP) : Carries .ofBits p p.toBits := by
  simp (disch := omega) only [Carries, WaitcP.ofBits, WaitcP.toBits, fld_top, fld_below, fld_zero, and_true]
  omega

theorem BarP.carried (p : BarP) : Carries .ofBits p p.toBits := by
  simp (disch := omega) only [Carries, BarP.ofBits, BarP.toBits, fld_top, bitAt_top, fld_below, bitAt_below, fld_zero, ← BitVec.toNat_ofBool,
    and_true]
  omega

theorem CodeP.carried (p : CodeP) : Carries .ofBits p p.toBits := by
  simp (disch := omega) only [Carries, CodeP.ofBits, CodeP.toBits, fld_zero, and_true]
  omega

theorem SrP.carried (p : SrP) : Carries .ofBits p p.toBits := by
  simp (disch := omega) only [Carries, SrP.ofBits, SrP.toBits, fld_top, bitAt_top, fld_below, fld_zero, ← BitVec.toNat_ofBool, and_true]
  omega

theorem MemP.carried (p : MemP) : Carries .ofBits p p.toBits := by
  simp (disch := omega) only [Carries, MemP.ofBits, MemP.toBits, fld_top, bitAt_top, fld_below, bitAt_below, fld_zero, ← BitVec.toNat_ofBool,
    and_true]
  omega

theorem LdaP.carried (p : LdaP) : Carries .ofBits p p.toBits := by
  simp (disch := omega) only [Carries, LdaP.ofBits, LdaP.toBits, fld_top, bitAt_top, fld_below, bitAt_below, fld_zero, ← BitVec.toNat_ofBool,
    and_true]
  omega

theorem AtomP.carried (p : AtomP) : Carries .ofBits p p.toBits := by
  simp (disch := omega) only [Carries, AtomP.ofBits, AtomP.toBits, fld_top, bitAt_top, fld_below, bitAt_below, fld_zero, ← BitVec.toNat_ofBool,
    and_true]
  omega

theorem RedP.carried (p : RedP) : Carries .ofBits p p.toBits := by
  simp (disch := omega) only [Carries, RedP.ofBits, RedP.toBits, fld_top, bitAt_top, fld_below, bitAt_below, fld_zero, ← BitVec.toNat_ofBool,
    and_true]
  omega

theorem FenceP.carried (p : FenceP) : Carries .ofBits p p.toBits := by
  simp (disch := omega) only [Carries, FenceP.ofBits, FenceP.toBits, fld_zero, and_true]
  omega

theorem CnarrowP.carried (p : CnarrowP) : Carries .ofBits p p.toBits := by
  simp (disch := omega) only [Carries, CnarrowP.ofBits, CnarrowP.toBits, fld_top, fld_below, fld_zero, and_true]
  omega

theorem CrightsP.carried (p : CrightsP) : Carries .ofBits p p.toBits := by
  simp (disch := omega) only [Carries, CrightsP.ofBits, CrightsP.toBits, fld_top, fld_below, fld_zero, and_true]
  omega

theorem CinfoP.carried (p : CinfoP) : Carries .ofBits p p.toBits := by
  simp (disch := omega) only [Carries, CinfoP.ofBits, CinfoP.toBits, fld_top, fld_below, fld_zero, and_true]
  omega

theorem GranP.carried (p : GranP) : Carries .ofBits p p.toBits := by
  simp (disch := omega) only [Carries, GranP.ofBits, GranP.toBits, fld_top, fld_below, fld_zero, and_true]
  omega

theorem SendP.carried (p : SendP) : Carries .ofBits p p.toBits := by
  simp (disch := omega) only [Carries, SendP.ofBits, SendP.toBits, fld_top, fld_below, fld_zero, and_true]
  omega

theorem RecvP.carried (p : RecvP) : Carries .ofBits p p.toBits := by
  simp (disch := omega) only [Carries, RecvP.ofBits, RecvP.toBits, fld_top, bitAt_top, fld_below, bitAt_below, fld_zero, ← BitVec.toNat_ofBool,
    and_true]
  omega

theorem QpollP.carried (p : QpollP) : Carries .ofBits p p.toBits := by
  simp (disch := omega) only [Carries, QpollP.ofBits, QpollP.toBits, fld_top, fld_below, fld_zero, and_true]
  omega

theorem RaddP.carried (p : RaddP) : Carries .ofBits p p.toBits := by
  simp (disch := omega) only [Carries, RaddP.ofBits, RaddP.toBits, fld_top, bitAt_top, fld_below, bitAt_below, fld_zero, ← BitVec.toNat_ofBool,
    and_true]
  omega

theorem MigrP.carried (p : MigrP) : Carries .ofBits p p.toBits := by
  simp (disch := omega) only [Carries, MigrP.ofBits, MigrP.toBits, fld_top, bitAt_top, fld_below, bitAt_below, fld_zero, ← BitVec.toNat_ofBool,
    and_true]
  omega

theorem MigrhP.carried (p : MigrhP) : Carries .ofBits p p.toBits := by
  simp (disch := omega) only [Carries, MigrhP.ofBits, MigrhP.toBits, fld_zero, and_true]
  omega

theorem LatheP.carried (p : LatheP) : Carries .ofBits p p.toBits := by
  simp (disch := omega) only [Carries, LatheP.ofBits, LatheP.toBits, fld_top, bitAt_top, fld_below, bitAt_below, fld_zero, ← BitVec.toNat_ofBool,
    and_true]
  omega

theorem DirP.carried (p : DirP) : Carries .ofBits p p.toBits := by
  simp (disch := omega) only [Carries, DirP.ofBits, DirP.toBits, fld_top, bitAt_top, fld_below, bitAt_below, fld_zero, ← BitVec.toNat_ofBool,
    and_true]
  omega

theorem MxElemP.carried (p : MxElemP) : Carries .ofBits p p.toBits := by
  simp (disch := omega) only [Carries, MxElemP.ofBits, MxElemP.toBits, fld_top, bitAt_top, fld_below, fld_zero, ← BitVec.toNat_ofBool, and_true]
  omega

theorem MxclrP.carried (p : MxclrP) : Carries .ofBits p p.toBits := by
  simp (disch := omega) only [Carries, MxclrP.ofBits, MxclrP.toBits, fld_zero, and_true]
  omega

theorem MxstatP.carried (p : MxstatP) : Carries .ofBits p p.toBits := by
  simp (disch := omega) only [Carries, MxstatP.ofBits, MxstatP.toBits, fld_top, fld_below, fld_zero, and_true]
  omega

theorem GsyncP.carried (p : GsyncP) : Carries .ofBits p p.toBits := by
  simp (disch := omega) only [Carries, GsyncP.ofBits, GsyncP.toBits, fld_zero, and_true]
  omega

theorem VoteP.carried (p : VoteP) : Carries .ofBits p p.toBits := by
  simp (disch := omega) only [Carries, VoteP.ofBits, VoteP.toBits, fld_top, bitAt_top, fld_below, bitAt_below, fld_zero, ← BitVec.toNat_ofBool,
    and_true]
  omega

theorem LscaleP.carried (p : LscaleP) : Carries .ofBits p p.toBits := by
  simp (disch := omega) only [Carries, LscaleP.ofBits, LscaleP.toBits, fld_top, bitAt_top, fld_below, bitAt_below, bitAt_zero,
    ← BitVec.toNat_ofBool, and_true]
  omega

theorem TransP.carried (p : TransP) : Carries .ofBits p p.toBits := by
  simp (disch := omega) only [Carries, TransP.ofBits, TransP.toBits, fld_top, bitAt_top, fld_below, bitAt_below, fld_zero, ← BitVec.toNat_ofBool,
    and_true]
  omega

theorem FcvtP.carried (p : FcvtP) : Carries .ofBits p p.toBits := by
  simp (disch := omega) only [Carries, FcvtP.ofBits, FcvtP.toBits, fld_top, bitAt_top, fld_below, bitAt_below, fld_zero, ← BitVec.toNat_ofBool,
    and_true]
  omega

theorem BlkP.carried (p : BlkP) : Carries .ofBits p p.toBits := by
  simp (disch := omega) only [Carries, BlkP.ofBits, BlkP.toBits, fld_top, bitAt_top, fld_below, fld_zero, ← BitVec.toNat_ofBool, and_true]
  omega

theorem FclassP.carried (p : FclassP) : Carries .ofBits p p.toBits := by
  simp (disch := omega) only [Carries, FclassP.ofBits, FclassP.toBits, fld_top, bitAt_top, fld_below, bitAt_below, fld_zero, ← BitVec.toNat_ofBool,
    and_true]
  omega

theorem TagsetP.carried (p : TagsetP) : Carries .ofBits p p.toBits := by
  simp (disch := omega) only [Carries, TagsetP.ofBits, TagsetP.toBits, fld_top, fld_below, fld_zero, and_true]
  omega

theorem TaggetP.carried (p : TaggetP) : Carries .ofBits p p.toBits := by
  simp (disch := omega) only [Carries, TaggetP.ofBits, TaggetP.toBits, fld_top, bitAt_top, fld_below, fld_zero, ← BitVec.toNat_ofBool, and_true]
  omega

theorem SysregP.carried (p : SysregP) : Carries .ofBits p p.toBits := by
  simp (disch := omega) only [Carries, SysregP.ofBits, SysregP.toBits, fld_top, bitAt_top, fld_below, bitAt_below, fld_zero, ← BitVec.toNat_ofBool,
    and_true]
  omega

theorem FrP.carried (p : FrP) : Carries .ofBits p p.toBits := by
  simp (disch := omega) only [Carries, FrP.ofBits, FrP.toBits, fld_top, bitAt_below, bitAt_zero, ← BitVec.toNat_ofBool, and_true]
  omega

theorem TmaskP.carried (p : TmaskP) : Carries .ofBits p p.toBits := by
  simp (disch := omega) only [Carries, TmaskP.ofBits, TmaskP.toBits, bitAt_zero, ← BitVec.toNat_ofBool, and_true]
  omega

theorem PopP.carried (p : PopP) : Carries .ofBits p p.toBits := by
  simp (disch := omega) only [Carries, PopP.ofBits, PopP.toBits, fld_top, fld_below, fld_lowest, and_true]
  omega

theorem FqresP.carried (p : FqresP) : Carries .ofBits p p.toBits := by
  simp (disch := omega) only [Carries, FqresP.ofBits, FqresP.toBits, fld_top, bitAt_top, fld_below, fld_lowest, ← BitVec.toNat_ofBool, and_true]
  omega

theorem TlbinvP.carried (p : TlbinvP) : Carries .ofBits p p.toBits := by
  simp (disch := omega) only [Carries, TlbinvP.ofBits, TlbinvP.toBits, fld_top, fld_below, fld_zero, and_true]
  omega

theorem ObjsetP.carried (p : ObjsetP) : Carries .ofBits p p.toBits := by
  simp (disch := omega) only [Carries, ObjsetP.ofBits, ObjsetP.toBits, fld_top, fld_below, fld_zero, and_true]
  omega

theorem CtxP.carried (p : CtxP) : Carries .ofBits p p.toBits := by
  simp (disch := omega) only [Carries, CtxP.ofBits, CtxP.toBits, fld_top, fld_below, fld_zero, and_true]
  omega

theorem TrialP.carried (p : TrialP) : Carries .ofBits p p.toBits := by
  simp (disch := omega) only [Carries, TrialP.ofBits, TrialP.toBits, fld_top, fld_below, fld_lowest, and_true]
  omega

/-- Form X carries its operation's code below its payload (R191). -/
theorem OpX.carried (f : OpX) {c : Nat} (hc : c < 64) : Carries .ofBits f (c + f.toBits) := by
  simp (disch := omega) only [Carries, OpX.ofBits, OpX.toBits, fld_top, bitAt_top, fld_below, bitAt_below, ← Nat.add_assoc, ← BitVec.toNat_ofBool,
    and_true]
  omega

/-- So does form I (R193). -/
theorem OpI.carried (f : OpI) {c : Nat} (hc : c < 64) : Carries .ofBits f (c + f.toBits) := by
  simp (disch := omega) only [Carries, OpI.ofBits, OpI.toBits, fld_top, fld_below, ← Nat.add_assoc, and_true]
  omega

end Sys2Proof
end

section
/-!
PROOFS. O57: decoding what the encoder gives for a well-formed instruction gives it back (R183 to R197). O55: words of the spec's encodings.
-/
namespace Sys2Proof

/-! ### Codes -/

theorem Op6.code_lt (o : Op6) : o.code < 64 := by cases o <;> decide

theorem Op6.ofCode_code (o : Op6) : Op6.ofCode o.code = some o := by cases o <;> rfl

theorem op4Of_lt (o : Op6) : op4Of o < 16 := by cases o <;> decide

/-- What the decoder makes of a view's operation and fields is the instruction: its form's table names it, or its payload carries its fields and the
map of R196 names it. -/
def View.Names (i : Instr) : View → Prop
  | .formH o f => instrH (op4Of o) f = some i
  | .formA o f => instrA o f = i
  | .formX o h f => instrX o h f = i
  | .formI o h f => instrI o h f = some i
  | .wide c h n => 2 ≤ c ∧ c < 256 ∧ n < 2 ^ 42 ∧ instrWide c h n = some i
  | .event => True

theorem Carries.names {α : Type} {ofBits : Nat → α} {p : α} {n c : Nat} {h : Head} {i : Instr} {mk : Head → α → Instr}
    (hp : Carries ofBits p n) (hc : 2 ≤ c ∧ c < 256) (hmk : instrWide c h n = some (mk h (ofBits n))) (hi : mk h p = i) :
    (View.wide c h n).Names i :=
  ⟨hc.1, hc.2, hp.1, by rw [hmk, hp.2, hi]⟩

/-- Every instruction's view names it. -/
theorem Instr.view_names (i : Instr) : i.view.Names i := by
  cases i with
  | movFormH | addFormH | subFormH | mulFormH | andFormH | orFormH | xorFormH | shlFormH | shrFormH | sarFormH | minSFormH | maxSFormH
  | faddFormH | fmulFormH | fminFormH | fmaxFormH | addFormA | subFormA | mulFormA | mulhSFormA | mulhZFormA | madFormA | minSFormA | minZFormA
  | maxSFormA | maxZFormA | andFormA | orFormA | xorFormA | andnFormA | shlFormA | shrFormA | sarFormA | rotlFormA | clzFormA | popcFormA
  | brevFormA | bfxFormA | bfiFormA | selFormA | movFormA | divSFormA | divZFormA | remSFormA | remZFormA | absFormA | negFormA | addsatSFormA
  | faddFormA | fsubFormA | fmulFormA | ffmaFormA | fminFormA | fmaxFormA | fabsFormA | fnegFormA | fcpsgnFormA | hadd2FormA | hsub2FormA
  | hmul2FormA | hfma2FormA | hmin2FormA | hmax2FormA | idot4FormA | qdot4FormA | f2iFormA | i2fFormA | ffloorFormA | fceilFormA | ftruncFormA
  | frintFormA | fscaleFormA | addFormX | subFormX | mulFormX | mulhSFormX | mulhZFormX | madFormX | minSFormX | minZFormX | maxSFormX
  | maxZFormX | andFormX | orFormX | xorFormX | andnFormX | shlFormX | shrFormX | sarFormX | rotlFormX | clzFormX | popcFormX | brevFormX
  | bfxFormX | bfiFormX | selFormX | movFormX | divSFormX | divZFormX | remSFormX | remZFormX | absFormX | negFormX | addsatSFormX | faddFormX
  | fsubFormX | fmulFormX | ffmaFormX | fminFormX | fmaxFormX | fabsFormX | fnegFormX | fcpsgnFormX | hadd2FormX | hsub2FormX | hmul2FormX
  | hfma2FormX | hmin2FormX | hmax2FormX | idot4FormX | qdot4FormX | f2iFormX | i2fFormX | ffloorFormX | fceilFormX | ftruncFormX | frintFormX
  | fscaleFormX | addFormI | subFormI | mulFormI | mulhSFormI | mulhZFormI | madFormI | minSFormI | minZFormI | maxSFormI | maxZFormI | andFormI
  | orFormI | xorFormI | andnFormI | shlFormI | shrFormI | sarFormI | rotlFormI | bfxFormI | bfiFormI | selFormI | movFormI | divSFormI
  | divZFormI | remSFormI | remZFormI | addsatSFormI | fscaleFormI => exact rfl
  | icmp _ p | fcmp _ p | pcomb _ p | ptov _ p | vtop _ p | psurv _ p | shfl _ p | matchOp _ p | redux _ p | scan _ p | umov _ p | bra _ p
  | brx _ p | call _ p | ret _ p | jmp _ p | spawn _ p | setsr _ p | waitc _ p | bar _ p | utrap _ p | bkpt _ p | mark _ p | getsr _ p | ld _ p
  | st _ p | ldl _ p | stl _ p | ldw _ p | lda _ p | atom _ p | red _ p | fence _ p | capld _ p | capst _ p | cnarrow _ p | crights _ p
  | cinfo _ p | feset _ p | feclr _ p | fetest _ p | binit _ p | barv _ p | bexpt _ p | bwait _ p | send _ p | recv _ p | qpoll _ p | cpy _ p
  | cpym _ p | cpyt _ p | cpyx _ p | radd _ p | migr _ p | migrh _ p | cutreg _ p | cutdrop _ p | swpos _ p | cutboost _ p | rowop _ p
  | rowprog _ p | rowstat _ p | nopen _ p | nclose _ p | nbind _ p | nbindm _ p | ninfo _ p | nring _ p | ntag _ p | mxop _ p | mxrd _ p
  | mxwr _ p | mxclr _ p | mxstat _ p | gsync _ p | nfvote _ p | lscale _ p | frcp _ p | frsq _ p | fsqrt _ p | fex2 _ p | flg2 _ p | fsin _ p
  | fcos _ p | ftanh _ p | fcvt _ p | fpack _ p | funpk _ p | fclass _ p | fdiv _ p | tagset _ p | tagget _ p | sysrd _ p | syswr _ p | tret _ p
  | tmask _ p | fqpop _ p | fqres _ p | tlbinv _ p | objset _ p | prack _ p | ctxsv _ p | ctxrs _ p | lsqrst _ p | lsqsave _ p | haltb _ p
  | trial _ p => exact p.carried.names (by decide) rfl rfl
  | exit _ | join _ | yieldOp _ => exact ⟨by decide, by decide, by decide, rfl⟩
  | batcherFill | ageStarvationIssue | slotRelease | binLaunch | joinComplete | blockRetire | gangRetire | kernelComplete | tailLineSnoop
  | launchPacket | nopPacket | queueResume | ageingStep | admitBlock | admitGang | monitorQueueTail | storePerform | loadComplete
  | ldlLaneComplete | atomRmwPerform | tableWalkComplete | faultEntryPost | ownerLookup | flushMarkerGather | ldaTransaction | copyGranuleWrite
  | queueEntryArrival | fabCompletion | raddArrival | raddGlobalApply | esendUpdate | voteRoundComplete | syncRoundComplete | billetArrival
  | guestWaitTimeout | billetReturn | arrivalMessage | releaseMessage | rowRestore | pullForward | temperatureChange | rowProgramStep
  | sequencerWatchdogReset | saveModeEnter | saveModeRestore | gatherComplete | passSlot | passStarvation | passEnd | engineWatchdogReset
  | powerLimitStep | powerStateEntry | powerStateExit | weightRefreshWindow | preq | handlerBudgetExpiry | tcode1 | tlog0 | bfstatAck | ownapply
  | feataccept | debugStop | debugResume | traceEnable | recordMode | replayMode | modeOff | scratchpadWindow | unitFence | deviceReset
  | hostAccess | remoteDeviceRequest | pathStateChange | weightStoreWrite | uncorrectableError => exact trivial

/-! ### Words -/

/-- The bits of an instruction are a word of 16, 32 or 64 bits whose first byte tells its length (R183) and whose fields are the
instruction's. -/
structure IsWord (i : Instr) (bits n : Nat) : Prop where
  whole : 8 * (bits / 8) = bits
  pos : 0 < bits
  first : lengthOf (BitVec.ofNat 8 n) = bits
  fits : n < 2 ^ bits
  fields : readFields bits n = .ok i

section
variable {i : Instr} {o : Op6} {h : Head}

theorem lengthOf_ofNat (n : Nat) : lengthOf (BitVec.ofNat 8 n) = if n % 2 = 0 then 16 else if n % 4 = 1 then 32 else 64 := by
  have h2 : n % 2 ^ 8 % 2 = n % 2 := by omega
  have h4 : n % 2 ^ 8 % 4 = n % 4 := by omega
  simp only [lengthOf, BitVec.toNat_ofNat, beq_iff_eq, h2, h4]

theorem formH_isWord {f : FormH} (hi : instrH (op4Of o) f = some i) :
    IsWord i 16 (f.stall.toNat * 2 + op4Of o * 8 + f.d.toNat * 128 + f.a.toNat * 4096) := by
  have ho := op4Of_lt o
  refine ⟨by decide, by decide, ?_, by omega, ?_⟩
  · rw [lengthOf_ofNat, if_pos (by omega)]
  · have hcode : (f.stall.toNat * 2 + op4Of o * 8 + f.d.toNat * 128 + f.a.toNat * 4096) / 8 % 16 = op4Of o := by omega
    simp (disch := omega) only [readFields, hcode, fld_top, fld_below, fld_lowest, hi]

theorem formA_isWord {f : FormA} (hi : instrA o f = i) :
    IsWord i 32 (1 + f.stall.toNat * 4 + o.code * 32 + f.d.toNat * 2048 + f.a.toNat * 131072 + f.b.toNat * 8388608 + f.g.toNat * 536870912) := by
  have ho := o.code_lt
  refine ⟨by decide, by decide, ?_, by omega, ?_⟩
  · rw [lengthOf_ofNat, if_neg (by omega), if_pos (by omega)]
  · have hcode : (1 + f.stall.toNat * 4 + o.code * 32 + f.d.toNat * 2048 + f.a.toNat * 131072 + f.b.toNat * 8388608 + f.g.toNat * 536870912)
        / 32 % 64 = o.code := by omega
    simp (disch := omega) only [readFields, hcode, fld_top, fld_below, o.ofCode_code, hi]

/-- The head, its code and the payload of a 64-bit word are read back (R189). -/
theorem Head.read_toBits (h : Head) {c p : Nat} (hc : c < 256) :
    Head.ofBits (h.toBits c + 4194304 * p) = h ∧ (h.toBits c + 4194304 * p) / 4194304 = p ∧ (h.toBits c + 4194304 * p) / 32 % 256 = c := by
  simp (disch := omega) only [Head.ofBits, Head.toBits, Nat.mul_comm 4194304, fld_top, bitAt_top, fld_below, bitAt_below, ← BitVec.toNat_ofBool,
    true_and]
  omega

/-- A 64-bit word whose code and payload give the instruction. -/
theorem head_isWord {c p : Nat} (hc : c < 256) (hp : p < 2 ^ 42) (hfields : readFields 64 (h.toBits c + 4194304 * p) = .ok i) :
    IsWord i 64 (h.toBits c + 4194304 * p) := by
  have hlow : h.toBits c % 4 = 3 ∧ h.toBits c < 4194304 := by
    simp only [Head.toBits, ← BitVec.toNat_ofBool]
    omega
  refine ⟨by decide, by decide, ?_, by omega, hfields⟩
  rw [lengthOf_ofNat, if_neg (by omega), if_neg (by omega)]

theorem formX_isWord {f : OpX} (hi : instrX o h f = i) : IsWord i 64 (h.toBits 0 + 4194304 * (o.code + f.toBits)) := by
  obtain ⟨hfits, hf⟩ := f.carried o.code_lt
  have hcode : (o.code + f.toBits) % 64 = o.code := by
    have ho := o.code_lt
    simp only [OpX.toBits]
    omega
  refine head_isWord (by decide) hfits ?_
  obtain ⟨hh, hp, hop8⟩ := h.read_toBits (c := 0) (p := o.code + f.toBits) (by decide)
  simp only [readFields, hh, hp, hop8, hcode, hf, o.ofCode_code, hi]

theorem formI_isWord {f : OpI} (hi : instrI o h f = some i) : IsWord i 64 (h.toBits 1 + 4194304 * (o.code + f.toBits)) := by
  obtain ⟨hfits, hf⟩ := f.carried o.code_lt
  have hcode : (o.code + f.toBits) % 64 = o.code := by
    have ho := o.code_lt
    simp only [OpI.toBits]
    omega
  refine head_isWord (by decide) hfits ?_
  obtain ⟨hh, hp, hop8⟩ := h.read_toBits (c := 1) (p := o.code + f.toBits) (by decide)
  simp only [readFields, hh, hp, hop8, hcode, hf, o.ofCode_code, Option.bind_some, hi]

theorem wide_isWord {c n : Nat} (hi : (View.wide c h n).Names i) : IsWord i 64 (h.toBits c + 4194304 * n) := by
  obtain ⟨hlow, hc, hn, hi⟩ := hi
  refine head_isWord hc hn ?_
  obtain ⟨hh, hp, hop8⟩ := h.read_toBits (p := n) hc
  match c, hlow with
  | c + 2, _ => simp only [readFields, hh, hp, hop8, hi]

/-- The encoder's bits are such a word; an event has none. -/
theorem encodeBits_isWord (hevent : i.view ≠ .event) : IsWord i (encodeBits i).1 (encodeBits i).2 := by
  have hnames := i.view_names
  unfold encodeBits
  generalize i.view = v at hnames hevent
  cases v with
  | formH o f => exact formH_isWord hnames
  | formA o f => exact formA_isWord hnames
  | formX o h f => exact formX_isWord hnames
  | formI o h f => exact formI_isWord hnames
  | wide c h n => exact wide_isWord hnames
  | event => exact absurd rfl hevent

/-- A word whose encoding is its own bits decodes to its instruction (R197). -/
theorem decodeBits_encodeBits (hlegal : i.wellFormed = true) (hword : IsWord i (encodeBits i).1 (encodeBits i).2) :
    decodeBits (encodeBits i).1 (encodeBits i).2 = .ok i := by
  simp only [decodeBits, hword.fields, hlegal, if_true]

end

/-! ### Bytes -/

theorem length_bytesLE (k n : Nat) : (bytesLE k n).length = k := by
  induction k generalizing n with
  | zero => rfl
  | succ k ih => simp only [bytesLE, List.length_cons, ih]

theorem ofBytesLE_bytesLE (k n : Nat) : ofBytesLE (bytesLE k n) = n % 2 ^ (8 * k) := by
  induction k generalizing n with
  | zero => simp [bytesLE, ofBytesLE, Nat.mod_one]
  | succ k ih =>
    rw [bytesLE, ofBytesLE, ih, BitVec.toNat_ofNat, Nat.mul_succ, Nat.pow_add, Nat.mul_comm (2 ^ (8 * k)), Nat.mod_mul]

/-- Bytes as many as the first of them says, whose word decodes, decode with any bytes after them. -/
theorem decode_append {x : BitVec 8} {bs : List (BitVec 8)} {i : Instr} (hlen : 8 * (x :: bs).length = lengthOf x)
    (hword : decodeBits (lengthOf x) (ofBytesLE (x :: bs)) = .ok i) (rest : List (BitVec 8)) : decode (x :: bs ++ rest) = .ok (i, rest) := by
  have hk : lengthOf x / 8 = (x :: bs).length := by omega
  have htake : (x :: (bs ++ rest)).take (x :: bs).length = x :: bs := List.take_left (l₁ := x :: bs)
  have hdrop : (x :: (bs ++ rest)).drop (x :: bs).length = rest := List.drop_left (l₁ := x :: bs)
  have hlong : ¬(x :: (bs ++ rest)).length < (x :: bs).length := by simp
  simp only [decode, List.cons_append, hk, if_neg hlong, htake, hdrop, hword]

/-- Settles O57: the encoder's bits are a word that reads back as the instruction (`encodeBits_isWord`), and its bytes are that word
(`ofBytesLE_bytesLE`). -/
theorem encodeDecode : Obligations.EncodeDecode := by
  intro i rest hlegal hevent
  have hisWord := encodeBits_isWord hevent
  have hbits := decodeBits_encodeBits hlegal hisWord
  obtain ⟨hlength, hpos, hfirst, hfits, -⟩ := hisWord
  have hword : ofBytesLE (encode i) = (encodeBits i).2 := by
    rw [encode, ofBytesLE_bytesLE, hlength, Nat.mod_eq_of_lt hfits]
  obtain ⟨k, hk⟩ : ∃ k, (encodeBits i).1 / 8 = k + 1 := Nat.exists_eq_succ_of_ne_zero (by omega)
  have hcons : encode i = BitVec.ofNat 8 (encodeBits i).2 :: bytesLE k ((encodeBits i).2 / 256) := by rw [encode, hk, bytesLE]
  have hlen : 8 * (encode i).length = lengthOf (BitVec.ofNat 8 (encodeBits i).2) := by rw [encode, length_bytesLE, hlength, hfirst]
  refine ⟨?_, _, _, hcons, hlen⟩
  rw [hcons] at hlen hword ⊢
  exact decode_append hlen (by rw [hword, hfirst, hbits]) rest

/-- Settles O55: each word is evaluated. -/
theorem decodesSpecWords : Obligations.DecodesSpecWords := ⟨rfl, rfl, rfl, rfl, rfl, rfl, rfl, rfl⟩

end Sys2Proof
end

section
/-!
PROOFS. O1 to O4: the lane operations of forms A, H, X and I (R184 to R193): each form's meaning is an issue of one operation on registers, which
`issue_writes` answers.
-/
namespace Sys2Proof.Machine

/-! ### Writes at a latency -/

theorem Fibre.put_key (lat : Option Nat) (f : Fibre) (d : PendDest) : (f.put lat d).key = f.key := by
  cases lat with
  | none => exact f.writeNow_key d
  | some l => rfl

theorem Fibre.put_standing (lat : Option Nat) (f : Fibre) (d : PendDest) : (f.put lat d).standing = f.standing := by
  cases lat with
  | none => exact f.writeNow_standing d
  | some l => rfl

/-- Destinations written at once or at a latency leave the lanes where they are (R202). -/
theorem wrote_lat_stay (s : State) (gs : List Fibre) (lat : Option Nat) (out : Fibre → List PendDest) : LanesStay s (wrote s gs lat out) := by
  refine mapFibres_stay (fun f => ?_) (fun f => ?_) s
  · split
    · exact foldl_key (Fibre.put_key lat) _ f
    · rfl
  · split
    · exact foldl_standing (Fibre.put_standing lat) _ f
    · rfl

/-! ### Lane operations -/

/-- The use of a lane operation: registers, a guard and a place, and nothing that looks at levels, features, tiles or capabilities. -/
structure Use.Plain (u : Use) : Prop where
  early : u.early = none
  feat : u.feat = none
  priv : u.priv = 0
  tiles : u.tiles = []
  mx : u.mx = false
  caps : u.caps = []

section
variable {s : State} {c : Cur} {b : Block} {ls : List Fibre}

theorem Use.Plain.passes {u : Use} (hu : u.Plain) (hlegal : u.legal = true) (hclear : Clear ls (u.vr ++ u.vw))
    (hhome : u.home = true → AtHome ls) : u.Passes s b ls where
  early := hu.early
  legal := hlegal
  feat k hk := by rw [hu.feat] at hk; cases hk
  priv f _ := by rw [hu.priv]; exact Nat.zero_le _
  clear := hclear
  here f hf := by
    cases hh : u.home with
    | true => exact needsHome_home (hhome hh) f hf
    | false => cases hg : f.guest <;> simp [needsHome, hg, hh, hu.caps]
  tiles t ht := by rw [hu.tiles] at ht; cases ht
  lost h := by rw [hu.mx] at h; cases h

/-- An operation on registers whose check no lane fails writes every guard-true lane's destinations, and the batch goes on. -/
theorem issue_writes {u : Use} {act : State → Block → List Fibre → Acted} {gs : List Fibre} {lat : Option Nat} {check : Fibre → Option Nat}
    {out : Fibre → List PendDest} (R : Ready s c b ls) (P : u.Passes s b ls) (hgs : ls.filter u.guard = gs)
    (hact : act s b gs = regAct lat check out s gs) (hcheck : ∀ f ∈ gs, check f = none) :
    issue u act s = .next (goOn (wrote s gs lat out) c ls u.len (1 + u.stall) u.y) :=
  issue_stay R P (by rw [hgs, hact, regAct_passing hcheck]) (wrote_lat_stay ..)

theorem op6Check_passes {o : Op6} {a b d : VReg} {x : BSrc} {f : Fibre} (hsrc : x.check f = none) (hop : op6Check o a b d = none) :
    minCodes [x.check f, op6Check o a b d] = none := by rw [hsrc, hop]; rfl

/-! ### Legal encodings (R197) -/

theorem legal_instrA (o : Op6) (x : FormA) : (instrA o x).wellFormed = x.wf o := by cases o <;> rfl

theorem legal_instrX (o : Op6) (h : Head) (x : OpX) : (instrX o h x).wellFormed = (h.wf && x.wf o) := by cases o <;> rfl

theorem legal_instrI {o : Op6} {h : Head} {x : OpI} {i : Instr} (hi : instrI o h x = some i) : i.wellFormed = (h.wf && x.wf o) := by
  cases o <;> cases hi <;> rfl

/-- The form H instruction of an operation's code is the operation's (R185). -/
theorem exec_aliased {o : Op6} {x : FormH} {i : Instr} (hi : instrH (op4Of o) x = some i) (hmov : op4Of o = 0 → o = .mov) : exec i = op6H o x := by
  cases o with
  | mov | add | sub | mul | and | or | xor | shl | shr | sar | minS | maxS | fadd | fmul | fmin | fmax => cases hi; rfl
  | mulhS | mulhZ | mad | minZ | maxZ | andn | rotl | clz | popc | brev | bfx | bfi | sel | divS | divZ | remS | remZ | abs | neg | addsatS | fsub
  | ffma | fabs | fneg | fcpsgn | hadd2 | hsub2 | hmul2 | hfma2 | hmin2 | hmax2 | idot4 | qdot4 | f2i | i2f | ffloor | fceil | ftrunc | frint
  | fscale => cases hmov rfl

theorem aliasOf_stall (o : Op6) (x : FormH) : (aliasOf o x).stall.toNat = x.stall.toNat := by
  have hstall : (x.stall.setWidth 3).toNat = x.stall.toNat := BitVec.toNat_setWidth_of_le (by decide)
  unfold aliasOf
  split <;> exact hstall

/-- Predicate p0 is true: where it is the guard every lane is guard-true (R19, R190). -/
theorem filter_unguarded {u : Use} (hg : u.g = 0) (hgn : u.gn = false) : ls.filter u.guard = ls :=
  List.filter_eq_self.mpr fun f _ => by simp [Use.guard, Fibre.pred, hg, hgn]

end

/-- Settles O1: form A's meaning is an issue of its operation, whose guard is never negated. -/
theorem formAOperations : Obligations.FormAOperations := by
  intro o x s c b ls gs hwf R hclear hcheck
  rw [exec_instrA]
  exact issue_writes R (Use.Plain.passes ⟨rfl, rfl, rfl, rfl, rfl, rfl⟩ ((legal_instrA o x).symm.trans hwf) hclear nofun)
    (List.filter_congr fun f _ => Bool.bne_false _) rfl fun f hf => op6Check_passes rfl (hcheck f hf)

/-- Settles O2: form H's meaning is an issue of the same operation on the aliased operands, whose guard is p0. -/
theorem formHOperations : Obligations.FormHOperations := by
  rintro o _ x i s c b ls y - rfl hi hmov R hclear hcheck
  rw [exec_aliased hi hmov, ← aliasOf_stall o x]
  exact issue_writes R (Use.Plain.passes ⟨rfl, rfl, rfl, rfl, rfl, rfl⟩ rfl hclear nofun) (filter_unguarded rfl rfl) rfl
    fun f hf => op6Check_passes rfl (hcheck f hf)

/-- Settles O3: form X's meaning is an issue of its operation with B from the source that its fields name. -/
theorem formXOperations : Obligations.FormXOperations := by
  intro o h x s c b ls gs src res hwf R hhome hclear hcheck
  rw [exec_instrX]
  exact issue_writes R (Use.Plain.passes ⟨rfl, rfl, rfl, rfl, rfl, rfl⟩ ((legal_instrX o h x).symm.trans hwf) hclear hhome) rfl rfl
    fun f hf => op6Check_passes (hcheck f hf).1 (hcheck f hf).2

/-- Settles O4: form I's meaning is an issue of its operation with the immediate as B, or for MOV of a write of it. -/
theorem formIOperations : Obligations.FormIOperations := by
  intro o h x i s c b ls gs w hi hwf R hclear hcheck
  rw [exec_instrI hi]
  have hlegal : (h.wf && x.wf o) = true := (legal_instrI hi).symm.trans hwf
  by_cases hmov : o = .mov
  · subst hmov
    exact issue_writes R (Use.Plain.passes ⟨rfl, rfl, rfl, rfl, rfl, rfl⟩ hlegal hclear nofun) rfl rfl fun _ _ => rfl
  · simp only [op6I, beq_iff_eq, hmov, if_false]
    exact issue_writes R (Use.Plain.passes ⟨rfl, rfl, rfl, rfl, rfl, rfl⟩ hlegal hclear nofun) rfl rfl
      fun f hf => op6Check_passes rfl (hcheck f hf hmov)

end Sys2Proof.Machine
end

section
/-!
LAWS. Instructions that a check stops before they issue (R8, R197, R353): a batch all of whose lanes fail it takes the trap as one fragment, and nothing
else happens (`issue_traps`).
-/
namespace Sys2Proof.Machine

/-! ### Rows touched twice -/

theorem mapPut_mapPut (k v : Nat) (l : List (Nat × Nat)) : mapPut k v (mapPut k v l) = mapPut k v l := by
  induction l with
  | nil => simp [mapPut]
  | cons p ps ih =>
    simp only [mapPut]
    split_ifs with hlt heq
    · simp [mapPut]
    · simp [mapPut]
    · simp [mapPut, hlt, heq, ih]

/-- A second touch of a cell in one cycle notes nothing new (R377). -/
theorem touch_touch (s : State) (a : Nat) : touch (touch s a) a = touch s a := by
  unfold touch
  split
  · simp only [mapPut_mapPut]
  · rfl

theorem foldl_touch_replicate (s : State) (a n : Nat) : (List.replicate (n + 1) a).foldl touch s = touch s a := by
  induction n with
  | zero => rfl
  | succ n ih => rw [List.replicate_succ', List.foldl_append, ih]; exact touch_touch s a

/-! ### A trap of the whole batch -/

section
variable {s : State} {c : Cur} {b : Block} {ls : List Fibre} {code : Nat}

theorem fateOf_trapAll {f : Fibre} (hf : f.key ∈ ls.map (·.key)) (detail : Nat) (cmp : Bool) :
    fateOf (trapAll ls code detail cmp) f = some (.trap code 0 detail cmp) := by
  obtain ⟨g, hg, hk⟩ := List.mem_map.mp hf
  exact fateOf_map ls (fun _ => .trap code 0 detail cmp) f ⟨g, hg, hk⟩ fun _ _ _ => rfl

/-- The lanes of a batch that all trap with one code read one entry of the vector table (R353). -/
theorem vectorCells_trapAll (s : State) (b : Block) (ls : List Fibre) (code detail : Nat) (cmp : Bool) :
    vectorCells s b ls (trapAll ls code detail cmp) = match vectorCell s b.part code ls with
      | some x => List.replicate ls.length x
      | none => [] := by
  have hall : ls.filter (fun f => fragOf (fateOf (trapAll ls code detail cmp) f) == fragOf (some (.trap code 0 detail cmp))) = ls :=
    List.filter_eq_self.mpr fun f hf => by rw [fateOf_trapAll (List.mem_map_of_mem hf)]; exact beq_self_eq_true _
  have hcells : vectorCells s b ls (trapAll ls code detail cmp) = ls.filterMap fun _ => vectorCell s b.part code ls := by
    rw [vectorCells, trapAll, List.filterMap_map]
    exact List.filterMap_congr fun f _ => congrArg (vectorCell s b.part code) hall
  rw [hcells]
  cases vectorCell s b.part code ls with
  | none => exact List.filterMap_eq_nil_iff.mpr fun _ _ => rfl
  | some x => exact (congrFun (List.filterMap_eq_map (f := fun _ => x)) ls).trans List.map_const'

/-- The state once the vector table's entry for a code has been read where some lane can enter a handler (R353). -/
def readVector (s : State) (b : Block) (code : Nat) (ls : List Fibre) : State :=
  match vectorCell s b.part code ls with
  | some x => touch s x
  | none => s

theorem foldl_touch_vectorCells (hls : ls ≠ []) (detail : Nat) (cmp : Bool) :
    (vectorCells s b ls (trapAll ls code detail cmp)).foldl touch s = readVector s b code ls := by
  obtain ⟨f, fs, rfl⟩ := List.exists_cons_of_ne_nil hls
  rw [vectorCells_trapAll, readVector]
  cases vectorCell s b.part code (f :: fs) with
  | none => rfl
  | some x => exact foldl_touch_replicate s x fs.length

/-! The end of an issue all of whose lanes trap with one code. -/

section
variable {a : Acted} {info : BitVec 64} {detail : Nat} {cmp : Bool}

theorem map_fateOf_trapped (hls : ls ≠ []) (hfate : ∀ f ∈ ls, fateOf a.fates f = some (.trap code info detail cmp)) :
    ∃ n, ls.map (fateOf a.fates) = List.replicate (n + 1) (some (.trap code info detail cmp)) := by
  obtain ⟨f, fs, hcons⟩ := List.exists_cons_of_ne_nil hls
  exact ⟨fs.length, (List.map_congr_left hfate).trans (by rw [List.map_const', hcons, List.length_cons])⟩

/-- A batch with an empty join stack pushes its mask (R31). -/
theorem splitsBatch_trapped (hls : ls ≠ []) (hfate : ∀ f ∈ ls, fateOf a.fates f = some (.trap code info detail cmp))
    (hbranch : a.branch = false) (hmigrate : a.migrate = false) (len : Nat) : splitsBatch a ls len = ls.all fun f => f.joins.isEmpty := by
  obtain ⟨n, hmap⟩ := map_fateOf_trapped hls hfate
  have hstop : (ls.map (fateOf a.fates)).any stopsFate = true := by rw [hmap]; rfl
  simp only [splitsBatch, hbranch, hmigrate, hstop, Bool.false_and, Bool.and_true, Bool.and_false, Bool.false_or, Bool.or_false]

/-- No lane goes on. -/
theorem goKey_trapped {f : Fibre} (hfate : fateOf a.fates f = some (.trap code info detail cmp)) (len : Nat) : goKey a len f = none := by
  have hpc : nextPc a.fates len f = none := by simp only [nextPc, hfate]
  simp only [goKey, hpc, Option.map_none, ite_self]

/-- The lanes are one fragment, to which the trap is delivered (R30, R353). -/
theorem stopGroups_trapped (hls : ls ≠ []) (hfate : ∀ f ∈ ls, fateOf a.fates f = some (.trap code info detail cmp)) (p : Nat) (e : State) :
    stopGroups p ls a.fates e (distinct (((ls.map (fateOf a.fates)).filter stopsFate).map fragOf)) =
      takeTrap e p (ls.map (·.key)) code info detail cmp := by
  have hgroups : distinct (((ls.map (fateOf a.fates)).filter stopsFate).map fragOf) = [2 + 2 * code + cmp.toNat] := by
    obtain ⟨n, hmap⟩ := map_fateOf_trapped hls hfate
    rw [hmap, List.filter_replicate_of_pos rfl, List.map_replicate]
    exact distinct_replicate _ _ (List.cons_ne_nil _ _) fun x hx => List.eq_of_mem_replicate hx
  have hlanes : ls.filter (fun f => stopsFate (fateOf a.fates f) && fragOf (fateOf a.fates f) == 2 + 2 * code + cmp.toNat) = ls :=
    List.filter_eq_self.mpr fun f hf => by rw [hfate f hf]; simp [stopsFate, fragOf]
  have hhead : ls.head?.bind (fateOf a.fates) = some (.trap code info detail cmp) := by
    obtain ⟨f, fs, hcons⟩ := List.exists_cons_of_ne_nil hls
    rw [hcons, List.head?_cons, Option.bind_some]
    exact hfate f (hcons ▸ List.mem_cons_self)
  simp only [hgroups, stopGroups, hlanes, hhead]

/-- Each lane leaves its slot at the instruction. -/
theorem settle_trapped (hfate : ∀ f : Fibre, f.key ∈ ls.map (·.key) → fateOf a.fates f = some (.trap code info detail cmp))
    (e : State) (len dist next age : Nat) : setFibres e (ls.map (·.key)) (Fibre.settle a len dist next age) =
      setFibres e (ls.map (·.key)) fun f => { f with slot := none, age := age, xl := [], own := none, sent := 0, mark := none, acts := false } := by
  simp only [setFibres]
  congr 1
  refine List.map_congr_left fun f _ => ?_
  split
  · rename_i hf
    simp only [Fibre.settle, hfate f (by simpa using hf)]
  · rfl

theorem finish_trapped (hls : ls ≠ []) (hs : a.s = readVector s b code ls)
    (hfate : ∀ f : Fibre, f.key ∈ ls.map (·.key) → fateOf a.fates f = some (.trap code info detail cmp))
    (hbranch : a.branch = false) (hmigrate : a.migrate = false) (len dist : Nat) :
    finish c b ls len dist a = trapOf s c b ls code info detail cmp a.renew := by
  have hlanes : ∀ f ∈ ls, fateOf a.fates f = some (.trap code info detail cmp) := fun f hf => hfate f (List.mem_map_of_mem hf)
  have hgoes : (ls.any fun f => goesOn (fateOf a.fates f)) = false :=
    List.any_eq_false.mpr fun f hf => by rw [hlanes f hf]; exact Bool.false_ne_true
  have hkeys : ls.filterMap (goKey a len) = [] := List.filterMap_eq_nil_iff.mpr fun f hf => goKey_trapped (hlanes f hf) len
  simp only [finish, splitsBatch_trapped hls hlanes hbranch hmigrate, hgoes, settle_trapped hfate, hkeys, stopGroups_trapped hls hlanes, hs,
    beq_self_eq_true, if_true, if_false, Bool.false_eq_true]
  rfl

end

/-- A batch that fails a check before issue takes the trap: nothing is outstanding that it would wait for, and no lane is away (R8, R121, R353). -/
theorem conclude_trapAll {u : Use} (hls : ls ≠ []) (H : AtHome ls) (T : CanTrap s b ls code) (hy : u.y = false) (detail : Nat) (cmp : Bool) :
    conclude s c b ls u (acted s (trapAll ls code detail cmp)) = .next (trapOf s c b ls code 0 detail cmp false) := by
  obtain ⟨houts, hcell⟩ := T
  have hvs : ∀ x ∈ vectorCells s b ls (trapAll ls code detail cmp), vectorCell s b.part code ls = some x := by
    intro x hx
    rw [vectorCells_trapAll] at hx
    cases hv : vectorCell s b.part code ls with
    | none => simp [hv] at hx
    | some y => rw [hv] at hx; rw [List.eq_of_mem_replicate hx]
  have hwaits : ls.any (trapWaits (trapAll ls code detail cmp)) = false :=
    List.any_eq_false.mpr fun f hf => by simp [trapWaits, houts f hf]
  have hgoers : trapGoers (trapAll ls code detail cmp) ls = [] :=
    List.filter_eq_nil_iff.mpr fun f hf => by simp [Fibre.away, H f hf]
  have hrows : (vectorCells s b ls (trapAll ls code detail cmp)).find? (rowWaits s) = none :=
    List.find?_eq_none.mpr fun x hx => by simp [(hcell x (hvs x hx)).2]
  have hmapped : (vectorCells s b ls (trapAll ls code detail cmp)).find? (fun x => !mapped x) = none :=
    List.find?_eq_none.mpr fun x hx => by simp [(hcell x (hvs x hx)).1]
  have hfin := finish_trapped (s := s) (c := c) (b := b) (a := acted (readVector s b code ls) (trapAll ls code detail cmp)) hls rfl
    (fun f hf => fateOf_trapAll hf detail cmp) rfl rfl u.len (1 + u.stall)
  simp only [conclude, acted, hwaits, hgoers, hrows, hmapped, hy, foldl_touch_vectorCells hls, released, List.foldl_nil, Bool.not_true,
    Bool.false_eq_true, if_false, Bool.or_false]
  exact congrArg _ hfin

/-- An instruction that a check before issue stops has no effect but the trap (R8, R197). -/
theorem issue_traps {u : Use} {act : State → Block → List Fibre → Acted} (R : Ready s c b ls) (H : AtHome ls) (T : CanTrap s b ls code)
    (hpre : preissue s u b ls = some code) : issue u act s = .next (trapOf s c b ls code 0 0 false false) := by
  have hhead : ls.head?.bind (fun f => block? s f.blk) = some b := by
    obtain ⟨f, fs, hcons⟩ := List.exists_cons_of_ne_nil R.some
    rw [hcons, List.head?_cons, Option.bind_some]
    exact R.blk f (hcons ▸ List.mem_cons_self)
  have hcan : ls.all (Fibre.canIssue s) = true := List.all_eq_true.mpr R.can
  have hneeds : ls.any (needsHome u) = false := List.any_eq_false.mpr fun f hf => by simp [needsHome_home H f hf]
  simp only [issue, R.cur, R.lanes, hhead, hcan, hneeds, hpre, Bool.not_true, Bool.false_eq_true, if_false]
  exact conclude_trapAll R.some H T rfl 0 false

/-! ### The checks -/

/-- Nothing that is checked before the level fails (R197). -/
structure Use.Decodes (u : Use) (s : State) : Prop where
  early : u.early = none
  legal : u.legal = true
  feat : ∀ k, u.feat = some k → featureOn s k = true

theorem preissue_decodes {u : Use} (D : u.Decodes s) : (if !u.legal || u.feat.any (fun k => !featureOn s k) then some cIllegalOp else none) = none := by
  have hfeat : u.feat.any (fun k => !featureOn s k) = false := by
    cases h : u.feat with
    | none => rfl
    | some k => simp [D.feat k h]
  simp [D.legal, hfeat]

/-- A lane below the level of the instruction: PRIV is the smallest code (R8, R196). -/
theorem preissue_priv {u : Use} (D : u.Decodes s) (hlow : ∃ f ∈ ls, f.lvl < u.priv) : preissue s u b ls = some 0x02 := by
  have hlow : ls.any (fun f => decide (f.lvl < u.priv)) = true := by simpa using hlow
  simp only [preissue, D.early, preissue_decodes D, hlow, if_true]
  split_ifs <;> rfl

/-- A register outside a lane's window, in a batch whose checks for short stalls pass (R8, R197). -/
theorem preissue_window {u : Use} (R : Ready s c b ls) (D : u.Decodes s) (hpriv : u.priv = 0)
    (hout : ∃ f ∈ ls, ∃ v ∈ u.vr ++ u.vw, f.regs.length ≤ v) : preissue s u b ls = some 0x04 := by
  have hlow : ls.any (fun f => decide (f.lvl < u.priv)) = false := by simp [hpriv]
  have hshort : (ls.any (fun f => ((partOf s f).map (·.seenCheck s.now)).getD false) && ls.any (shortIn u)) = false := by
    cases h : ls.any (fun f => ((partOf s f).map (·.seenCheck s.now)).getD false) with
    | false => rfl
    | true => exact List.any_eq_false.mpr fun f hf => by simp [shortIn, R.short h f hf]
  have hwin : (u.vr ++ u.vw).any (fun v => ls.any (fun f => decide (f.regs.length ≤ v))) = true := by
    obtain ⟨f, hf, v, hv, hle⟩ := hout
    exact List.any_eq_true.mpr ⟨v, hv, List.any_eq_true.mpr ⟨f, hf, decide_eq_true hle⟩⟩
  simp only [preissue, D.early, preissue_decodes D, hlow, hshort, hwin, Bool.true_or, Bool.false_eq_true, if_true, if_false]
  rfl

end

end Sys2Proof.Machine
end

section
/-!
PROOFS. O23: PRIV of the privileged instructions and WINDOW_RANGE of lane operations and memory forms (R8, R197). Each instruction's meaning is an
issue whose use names its level, or its registers; the check then fails before the effect is looked at (`issue_traps`).
-/
namespace Sys2Proof.Machine

section
variable {i : Instr} {s : State}

/-- A meaning is an issue at a level, which decodes, by a use that names the registers `rs`. -/
def IssuesAt (s : State) (r : Result) (n : Nat) (rs : List Nat) : Prop :=
  ∃ u act, r = issue u act s ∧ u.priv = n ∧ u.Decodes s ∧ ∀ v ∈ rs, v ∈ u.vr ++ u.vw

/-- A legal head and legal fields, and no feature. -/
theorem IssuesAt.intro {r : Result} {u : Use} {act : State → Block → List Fibre → Acted} {rs : List Nat} {head legal : Bool}
    (hexec : r = issue u act s) (hearly : u.early = none) (hfeat : u.feat = none) (hu : u.legal = (head && legal)) (hhead : head = true)
    (hlegal : legal = true) (hnames : ∀ v ∈ rs, v ∈ u.vr ++ u.vw) : IssuesAt s r u.priv rs :=
  ⟨u, act, hexec, rfl, ⟨hearly, by rw [hu, hhead, hlegal]; rfl, fun k hk => by rw [hfeat] at hk; cases hk⟩, hnames⟩

/-- A privileged instruction issues at its level (R196, R362). -/
theorem issuesAt_of_levelOf {n : Nat} (hlevel : levelOf i = some n) (hwf : i.wellFormed = true) : IssuesAt s (exec i s) n [] := by
  cases i
  case sysrd h p =>
    simp only [levelOf, Option.ite_none_right_eq_some, Option.some.injEq] at hlevel
    obtain ⟨hassigned, rfl⟩ := hlevel
    dsimp only [exec]
    delta execSysrd
    exact .intro (Eq.refl _) rfl rfl (Eq.refl _) (Bool.and_elim_left hwf) (Bool.and_eq_true_iff.mpr ⟨hwf, hassigned⟩) nofun
  case syswr h p =>
    simp only [levelOf, Option.ite_none_right_eq_some, Option.some.injEq, Bool.and_eq_true, Bool.not_eq_true'] at hlevel
    obtain ⟨⟨hassigned, hwritable⟩, rfl⟩ := hlevel
    dsimp only [exec]
    delta execSyswr
    refine .intro (Eq.refl _) rfl rfl (Eq.refl _) (Bool.and_elim_left hwf) ?_ nofun
    rw [hassigned, hwritable]
    exact Bool.and_eq_true_iff.mpr ⟨Bool.and_eq_true_iff.mpr ⟨hwf, rfl⟩, rfl⟩
  case tmask h p =>
    cases hlevel
    dsimp only [exec]
    delta execTmask
    exact .intro (Eq.refl _) rfl rfl (Eq.refl _) hwf hwf nofun
  case fqres h p | haltb h p | trial h p | ctxsv h p | ctxrs h p | lsqsave h p | lsqrst h p =>
    cases hlevel
    dsimp only [exec]
    delta execFqres execHaltb execTrial execCtxsv execCtxrs execLsqsave execLsqrst ctxUse
    exact .intro (Eq.refl _) rfl rfl (Eq.refl _) (Bool.and_elim_left hwf) hwf nofun
  case tret h p | fqpop h p | prack h p | objset h p =>
    cases hlevel
    dsimp only [exec]
    delta execTret execFqpop execPrack execObjset
    exact .intro (Eq.refl _) rfl rfl (Eq.refl _) (Bool.and_elim_left (Bool.and_elim_left hwf)) hwf nofun
  case tlbinv h p =>
    cases hlevel
    dsimp only [exec]
    delta execTlbinv
    exact .intro (Eq.refl _) rfl rfl (Eq.refl _) (Bool.and_elim_left (Bool.and_elim_left (Bool.and_elim_left hwf))) hwf nofun
  all_goals cases hlevel

/-- A memory form issues at user level, and its use names its registers (R194). -/
theorem issuesAt_of_memNames {rs : List Nat} (hnames : memNames i = some rs) (hwf : i.wellFormed = true)
    (hfeat : ∀ h p, i = .ld h p → p.qc = 4 ∨ p.qc = 5 → featureOn s 1 = true) : IssuesAt s (exec i s) 0 rs := by
  cases i
  case ld h p =>
    cases hnames
    dsimp only [exec]
    delta execLd
    refine ⟨_, _, Eq.refl _, rfl, ⟨rfl, Bool.and_eq_true_iff.mpr ⟨Bool.and_elim_left hwf, hwf⟩, fun k hk => ?_⟩, ?_⟩
    · simp only [Option.ite_none_right_eq_some, Bool.or_eq_true, beq_iff_eq, Option.some.injEq] at hk
      obtain ⟨hq, rfl⟩ := hk
      exact hfeat h p rfl hq
    · simp [memUse]
  case ldl h p | ldw h p | st h p | stl h p =>
    cases hnames
    dsimp only [exec]
    delta execLdl execLdw execSt execStl
    exact .intro (Eq.refl _) rfl rfl (Eq.refl _) (Bool.and_elim_left hwf) hwf (by simp [memUse])
  case capld h p | capst h p | lda h p =>
    cases hnames
    dsimp only [exec]
    delta execCapld execCapst execLda
    exact .intro (Eq.refl _) rfl rfl (Eq.refl _) (Bool.and_elim_left hwf) hwf fun _ hv => List.mem_append_left _ hv
  case red h p =>
    cases hnames
    dsimp only [exec]
    delta execRed
    refine .intro (Eq.refl _) rfl rfl (Eq.refl _) (Bool.and_elim_left hwf) hwf ?_
    cases p.q <;> simp +contextual
  case atom h p =>
    cases hnames
    dsimp only [exec]
    delta execAtom
    exact .intro (Eq.refl _) rfl rfl (Eq.refl _) (Bool.and_elim_left hwf) hwf (by simp +contextual)
  all_goals cases hnames

end

/-- Settles O23: a privileged instruction fails `preissue_priv`, a lane operation or a memory form `preissue_window`. -/
theorem checksBeforeIssue : Obligations.ChecksBeforeIssue := by
  intro s c b ls R H
  refine ⟨fun i n T hwf hlevel hlow => ?_, fun T => ?_⟩
  · obtain ⟨u, act, hexec, rfl, D, -⟩ := issuesAt_of_levelOf (s := s) hlevel hwf
    exact hexec.trans (issue_traps R H T (preissue_priv D hlow))
  · intro outside stops
    have hstops : ∀ {u : Use} {act : State → Block → List Fibre → Acted}, u.Decodes s → u.priv = 0 → outside (u.vr ++ u.vw) →
        issue u act s = .next (trapOf s c b ls 0x04 0 0 false false) := fun D hpriv hout => issue_traps R H T (preissue_window R D hpriv hout)
    refine ⟨fun o x hwf hout => ?_, ?_, fun o h x hwf hout => ?_, fun o h x i hi hwf hout => ?_, fun i rs hwf hnames hfeat hout => ?_⟩
    · exact (congrFun (exec_instrA o x) s).trans (hstops ⟨rfl, (legal_instrA o x).symm.trans hwf, nofun⟩ rfl hout)
    · rintro o _ x i - rfl hi hmov y hout
      exact (congrFun (exec_aliased hi hmov) s).trans (hstops ⟨rfl, rfl, nofun⟩ rfl hout)
    · exact (congrFun (exec_instrX o h x) s).trans (hstops ⟨rfl, (legal_instrX o h x).symm.trans hwf, nofun⟩ rfl hout)
    · exact (congrFun (exec_instrI hi) s).trans (hstops ⟨rfl, (legal_instrI hi).symm.trans hwf, nofun⟩ rfl hout)
    · obtain ⟨u, act, hexec, hpriv, D, hused⟩ := issuesAt_of_memNames hnames hwf hfeat
      obtain ⟨f, hf, v, hv, hle⟩ := hout
      exact hexec.trans (hstops D hpriv ⟨f, hf, v, hused v hv, hle⟩)

end Sys2Proof.Machine
end

section
/-!
LAWS. Lane operations of 64 bits that read and write registers (R189, R199): what their issue answers where no lane fails a check, and when the checks
of a list pass.
-/
namespace Sys2Proof.Machine

/-- A head and fields that are legal make a legal instruction (R197). -/
theorem legal_of {h : Head} {legal : Bool} (hhead : h.wf = true) (hlegal : legal = true) : (h.wf && legal) = true :=
  Bool.and_eq_true_iff.mpr ⟨hhead, hlegal⟩

section
variable {h : Head} {s : State} {c : Cur} {b : Block} {ls : List Fibre}

/-- Lanes that are clear of a list of registers are clear of every list without other ones (R199). -/
theorem clear_of_subset {rs qs : List Nat} (hclear : Clear ls rs) (hsub : qs ⊆ rs) : Clear ls qs := fun f hf =>
  let ⟨hwin, houts, hspad⟩ := hclear f hf
  ⟨fun v hv => hwin v (hsub hv), fun o ho v hv hq => houts o ho v hv (hsub hq), fun hl g hg v hv hq => hspad hl g hg v hv (hsub hq)⟩

/-- An instruction that names no registers finds every lane clear. -/
theorem clear_nil : Clear ls [] := fun _ _ => ⟨nofun, fun _ _ _ _ => nofun, fun _ _ _ _ _ => nofun⟩

end

end Sys2Proof.Machine
end

section
/-!
PROOFS. O7: ICMP and FCMP (R205 to R207).
-/
namespace Sys2Proof.Machine

section
variable {h : Head} {p : CmpP} {s : State} {c : Cur} {b : Block} {ls : List Fibre}

theorem exec_icmp : exec (.icmp h p) s = execIcmp h p s := rfl
theorem exec_fcmp : exec (.fcmp h p) s = execFcmp h p s := rfl

end

/-- Settles O7: each comparison's meaning is an issue of its relation on registers, with the relation and the operands as R206 and R207 name them. -/
theorem comparisons : Obligations.Comparisons := by
  intro h p s c b ls gs A B out int rel elem tag ks R hhome
  have hout : cmpOut p = out := by
    funext f r
    simp only [cmpOut, boolOp, out]
  refine ⟨fun hwf hclear htags => ?_, fun hwf hclear htags => ?_⟩
  · have hrel : icmpRel p.cc.toNat = rel := by
      funext x y
      simp only [icmpRel, rel]
      split
      · rfl
      · exact (decide_not ..).symm
      all_goals rfl
    have hA : ∀ f, icmpVal p.fmt.toNat (f.val p.a.toNat) (f.val (p.a.toNat + 1)) = int f A := fun f => rfl
    have hB : ∀ f, icmpVal p.fmt.toNat (cmpB s p f 0).val (cmpB s p f 1).val = int f B := fun f => rfl
    have hpair : decide (2 ≤ p.fmt.toNat) = !decide (p.fmt.toNat < 2) := by rw [← decide_not, decide_eq_decide, Nat.not_lt]
    simp only [← hout, ← hrel, ← hA, ← hB]
    rw [Writes, exec_icmp, execIcmp, hpair]
    refine issue_writes R (Use.Plain.passes ⟨rfl, rfl, rfl, rfl, rfl, rfl⟩ (legal_of (Bool.and_elim_left hwf) hwf)
      (clear_of_subset hclear ?_) hhome) rfl rfl fun f hf => minCodes_none _ fun x hx => ?_
    · by_cases hfmt : p.fmt.toNat < 2 <;> simp [cmpUse, useOf, ks, hfmt]
    · obtain ⟨k, hk, hx⟩ := List.mem_flatMap.mp hx
      have hks : (if (!decide (p.fmt.toNat < 2)) = true then [0, 1] else [0]) = ks := by
        by_cases hfmt : p.fmt.toNat < 2 <;> simp [ks, hfmt]
      obtain ⟨ha, hb⟩ := htags f hf k (hks ▸ hk)
      have htag : (if (!decide (p.fmt.toNat < 2)) = true then if (k == 0) = true then tagIs tI64lo else tagIs tI64hi else tagIs tI32)
          = some (tag k) := by
        by_cases hfmt : p.fmt.toNat < 2 <;> by_cases hk0 : k = 0 <;> simp [tag, tagIs, hfmt, hk0]
      beta_reduce at hx
      rw [htag] at hx
      simp only [List.mem_cons, List.not_mem_nil, or_false] at hx
      obtain rfl | rfl := hx
      · exact ha
      · exact hb
  · have helem : ∀ r : VReg, fcmpVal p.fmt.toNat p.h r.val = elem r := by
      intro r
      have hfmt : (p.fmt.toNat == 0) = decide (p.fmt = 0) := by rw [Bool.eq_iff_iff]; simp [BitVec.toNat_eq]
      simp only [fcmpVal, hfmt, decide_eq_true_eq, elem]
    simp only [← hout, ← helem]
    rw [Writes, exec_fcmp, execFcmp]
    refine issue_writes R (Use.Plain.passes ⟨rfl, rfl, rfl, rfl, rfl, rfl⟩ (legal_of (Bool.and_elim_left hwf) hwf)
      (clear_of_subset hclear ?_) hhome) rfl rfl fun f hf => ?_
    · simp [cmpUse, useOf]
    · obtain ⟨ha, hb⟩ := htags f hf
      exact minCodes_none _ (List.forall_mem_cons.mpr ⟨ha, List.forall_mem_singleton.mpr hb⟩)

end Sys2Proof.Machine
end

section
/-!
PROOFS. O8: PCOMB, PTOV, VTOP and PSURV (R208 to R210). O9: SHFL, MATCH, REDUX and SCAN (R211 to R214).
-/
namespace Sys2Proof.Machine

section
variable {h : Head} {s : State} {c : Cur} {b : Block} {ls : List Fibre}

theorem exec_pcomb (p : PcombP) : exec (.pcomb h p) s = execPcomb h p s := rfl
theorem exec_ptov (p : PredVecP) : exec (.ptov h p) s = execPtov h p s := rfl
theorem exec_vtop (p : PredVecP) : exec (.vtop h p) s = execVtop h p s := rfl
theorem exec_psurv (p : PsurvP) : exec (.psurv h p) s = execPsurv h p s := rfl
theorem exec_shfl (p : ShflP) : exec (.shfl h p) s = execShfl h p s := rfl
theorem exec_matchOp (p : MatchP) : exec (.matchOp h p) s = execMatchOp h p s := rfl

/-- Bits gathered one by one (R209). -/
theorem getLsbD_gather (q : Nat → Bool) (n : Nat) {j : Nat} (hj : j < 32) :
    ((List.range n).foldl (fun w i => if q i then w ||| (1#32 <<< i) else w) (0 : Word)).getLsbD j = (decide (j < n) && q j) := by
  induction n with
  | zero => simp
  | succ n ih =>
    rw [List.range_succ, List.foldl_append, List.foldl_cons, List.foldl_nil]
    have hbit : (1#32 <<< n).getLsbD j = decide (j = n) := by
      simp only [BitVec.getLsbD_shiftLeft, BitVec.getLsbD_one, hj]
      rcases Nat.lt_trichotomy j n with hlt | rfl | hgt
      · simp [hlt, hlt.ne]
      · simp
      · simp [Nat.not_lt.mpr hgt.le, hgt.ne']
        omega
    have hstep : ∀ w : Word, (if q n then w ||| (1#32 <<< n) else w).getLsbD j = (w.getLsbD j || (q n && decide (j = n))) := by
      intro w
      split
      · rw [BitVec.getLsbD_or, hbit, ‹q n = true›, Bool.true_and]
      · simp [*]
    rw [hstep, ih]
    by_cases hjn : j = n
    · simp [hjn]
    · have hlt : j < n + 1 ↔ j < n := by omega
      simp [hjn, hlt]

end

/-- Settles O8: each meaning is an issue of an operation on predicates; the bits that PTOV gathers are `getLsbD_gather`'s. -/
theorem predicates : Obligations.Predicates := by
  intro h s c b ls gs R
  refine ⟨fun p hwf => ?_, fun p hwf hclear => ?_, fun p hwf hhome hclear htag => ?_, fun p hwf hclear => ?_⟩
  · rw [Writes, exec_pcomb, execPcomb]
    exact issue_writes R (Use.Plain.passes ⟨rfl, rfl, rfl, rfl, rfl, rfl⟩ (legal_of (Bool.and_elim_left hwf) hwf) clear_nil nofun) rfl rfl
      fun _ _ => rfl
  · refine ⟨fun f => (List.range 32).foldl (fun w j => if f.pred (p.pb.toNat + j) then w ||| (1#32 <<< j) else w) 0, fun f j hj => ?_, ?_⟩
    · rw [getLsbD_gather (fun j => f.pred (p.pb.toNat + j)) 32 hj]
      simp [hj]
    · rw [Writes, exec_ptov, execPtov]
      exact issue_writes R (Use.Plain.passes ⟨rfl, rfl, rfl, rfl, rfl, rfl⟩ (legal_of (Bool.and_elim_left (Bool.and_elim_left hwf)) hwf)
        hclear nofun) rfl rfl fun _ _ => rfl
  · have hout : ∀ f : Fibre,
        ((List.range 32).filter (uni s f p.sm.toNat).getLsbD).map (fun j => PendDest.pred (p.pb.toNat + j) ((f.val p.v.toNat).getLsbD j))
        = (List.range 32).filterMap fun j =>
          if (uni s f p.sm.toNat).getLsbD j then some (.pred (p.pb.toNat + j) ((f.val p.v.toNat).getLsbD j)) else none := by
      intro f
      rw [← List.filterMap_eq_map, List.filterMap_filter]
      rfl
    simp only [hout]
    rw [Writes, exec_vtop, execVtop]
    exact issue_writes R (Use.Plain.passes ⟨rfl, rfl, rfl, rfl, rfl, rfl⟩ (legal_of (Bool.and_elim_left hwf) hwf)
        hclear (fun _ => hhome)) rfl rfl htag
  · dsimp only
    have hk : psurvK p.k.toNat gs.length = if p.k = 62 then gs.length / 2 + 1 else if p.k = 63 then gs.length else p.k.toNat := by
      simp only [psurvK, beq_iff_eq, BitVec.toNat_eq]
      rfl
    rw [← hk, Writes, exec_psurv, execPsurv]
    refine issue_writes R (Use.Plain.passes ⟨rfl, rfl, rfl, rfl, rfl, rfl⟩ (legal_of (Bool.and_elim_left hwf) hwf)
        ?_ nofun) rfl (congrArg (fun out => regAct none _ out s gs) (funext fun _ => ?_)) fun _ _ => rfl
    · change Clear ls (if p.mode.toNat < 3 then [] else [p.d.toNat])
      split
      · exact clear_nil
      · exact hclear (Nat.not_lt.mp ‹_›)
    · match p.mode.toNat with
      | 0 | 1 | 2 | 3 => rfl
      | m + 4 => exact (if_neg (by omega)).trans (if_neg (by simp))


section
variable {h : Head} {s : State} {c : Cur} {b : Block} {ls : List Fibre}

/-- The instruction of REDUX or SCAN combines the lanes of each group, all of which pass their checks (R214, R36). -/
theorem reduxAct_passing {p : ReduxP} {scan : Bool} {gs : List Fibre}
    (hcheck : ∀ f ∈ gs, checkTag (reduxTag p.op.toNat p.fmt.toNat) (f.reg p.a.toNat) = none
      ∧ (p.gv = true → checkTag none (f.reg p.gm.toNat) = none)) :
    ∃ check, (∀ f ∈ gs, check f = none) ∧ reduxAct p scan s gs = regAct none check (fun f =>
      if inGroup p.gv p.gm.toNat f f.lane then
        let set := gs.filter fun g => inGroup p.gv p.gm.toNat g g.lane && inGroup p.gv p.gm.toNat f g.lane
        let part := if scan then set.filter fun g => decide (g.lane ≤ f.lane) else set
        [.reg p.d.toNat { val := reduxAll p (part.map fun g => g.val p.a.toNat), tag := reduxRTag p (set.map fun g => g.reg p.a.toNat) }]
      else [.reg p.d.toNat (if p.xf then { val := 0, tag := tRaw } else f.reg p.a.toNat)]) s gs := by
  have hpass : ∀ f ∈ gs, minCodes [checkTag (reduxTag p.op.toNat p.fmt.toNat) (f.reg p.a.toNat),
      if p.gv then checkTag none (f.reg p.gm.toNat) else none] = none := by
    intro f hf
    obtain ⟨ha, hm⟩ := hcheck f hf
    refine minCodes_none _ (List.forall_mem_cons.mpr ⟨ha, List.forall_mem_singleton.mpr ?_⟩)
    split
    · exact hm ‹_›
    · rfl
  refine ⟨_, hpass, ?_⟩
  simp only [reduxAct, filter_passing hpass]

/-- Keys are equal where every register of the key is (R212). -/
theorem map_val_beq (rs : List Nat) (f g : Fibre) : (rs.map g.val == rs.map f.val) = decide (∀ r ∈ rs, g.val r = f.val r) := by
  rw [Bool.eq_iff_iff]
  simp

end

/-- Settles O9: each meaning is an issue of an operation on registers that looks at other lanes. -/
theorem acrossLanes : Obligations.AcrossLanes := by
  intro h s c b ls gs R
  refine ⟨fun p hwf hclear hcheck => ?_, fun p hwf hclear hcheck => ?_, fun p scan hwf hclear hcheck => ?_⟩
  · rw [Writes, exec_shfl, execShfl]
    refine issue_writes R (Use.Plain.passes ⟨rfl, rfl, rfl, rfl, rfl, rfl⟩ (legal_of (Bool.and_elim_left hwf) hwf)
      (clear_of_subset hclear ?_) nofun) rfl rfl fun f hf => ?_
    · dsimp only [useOf]
      intro v hv
      simp only [beq_iff_eq, List.mem_append, List.mem_cons, List.not_mem_nil, or_false, BitVec.toNat_eq] at hv ⊢
      tauto
    · obtain ⟨hgot, hmask, hlane⟩ := hcheck f hf
      refine minCodes_none _ ?_
      simpa [BitVec.toNat_eq] using And.intro hgot (And.intro hmask hlane)
  · rw [Writes, exec_matchOp, execMatchOp]
    refine issue_writes R (Use.Plain.passes ⟨rfl, rfl, rfl, rfl, rfl, rfl⟩ (legal_of (Bool.and_elim_left hwf) hwf)
      (clear_of_subset hclear ?_) nofun) rfl ?_ hcheck
    · dsimp only [useOf]
      intro v hv
      simp only [List.mem_append, List.mem_cons, List.not_mem_nil, or_false] at hv ⊢
      tauto
    · simp only [map_val_beq]
      rfl
  · obtain ⟨check, hpass, hact⟩ := reduxAct_passing (scan := scan) (s := s) hcheck
    have hmem : ∀ f g : Fibre, (!p.gv || (f.val p.gm.toNat).getLsbD g.lane) = inGroup p.gv p.gm.toNat f g.lane := fun _ _ => rfl
    have hpart : ∀ (f : Fibre) (set : List Fibre), (set.filter fun g => !scan || decide (g.lane ≤ f.lane))
        = if scan then set.filter fun g => decide (g.lane ≤ f.lane) else set := by
      intro f set
      cases scan <;> simp
    simp only [hmem, hpart]
    have hexec : ∀ i, i = (if scan then Instr.scan h p else .redux h p) →
        exec i s = issue (reduxUse h p i.legal) (fun s _ ls => reduxAct p scan s ls) s := by
      rintro i rfl
      cases scan <;> rfl
    have hhead : h.wf = true := by cases scan <;> exact Bool.and_elim_left hwf
    rw [Writes, hexec _ rfl]
    refine issue_writes R (Use.Plain.passes ⟨rfl, rfl, rfl, rfl, rfl, rfl⟩ (legal_of hhead hwf) (clear_of_subset hclear ?_) nofun) rfl hact hpass
    intro v hv
    simp only [reduxUse, useOf, List.mem_append, List.mem_cons, List.not_mem_nil, or_false] at hv ⊢
    tauto

end Sys2Proof.Machine
end

section
/-!
PROOFS. O10: the transcendental functions and FDIV (R285, R286). O11: FCVT, FPACK, FUNPK and FCLASS (R287 to R291). O12: TAGSET and TAGGET (R292).
-/
namespace Sys2Proof.Machine

section
variable {h : Head} {s : State}

theorem exec_transInstr (fn : TransFn) (p : TransP) : exec (transInstr fn h p) s = transAct fn h p (transInstr fn h p).legal s := by
  cases fn <;> rfl
theorem exec_fcvt (p : FcvtP) : exec (.fcvt h p) s = execFcvt h p s := rfl
theorem exec_fpack (p : BlkP) : exec (.fpack h p) s = execFpack h p s := rfl
theorem exec_funpk (p : BlkP) : exec (.funpk h p) s = execFunpk h p s := rfl
theorem exec_fclass (p : FclassP) : exec (.fclass h p) s = execFclass h p s := rfl
theorem exec_tagset (p : TagsetP) : exec (.tagset h p) s = execTagset h p s := rfl
theorem exec_tagget (p : TaggetP) : exec (.tagget h p) s = execTagget h p s := rfl

theorem transInstr_head {fn : TransFn} {p : TransP} (hwf : (transInstr fn h p).wellFormed = true) : h.wf = true := by
  cases fn <;> exact Bool.and_elim_left hwf

end

/-- Settles O10: every function's meaning is an issue of one operation on registers (`transAct`). -/
theorem transcendentalFunctions : Obligations.TranscendentalFunctions := by
  intro fn h p s c b ls t rs hwf R hclear hcheck
  rw [Writes, exec_transInstr, transAct]
  have hrs : (if (fn == .div) = true then [p.a.toNat, p.b.toNat] else [p.a.toNat]) = rs := by simp only [beq_iff_eq, rs]
  refine issue_writes R (Use.Plain.passes ⟨rfl, rfl, rfl, rfl, rfl, rfl⟩ (legal_of (transInstr_head hwf) hwf) (hrs ▸ hclear) nofun) rfl rfl
    fun f hf => minCodes_none _ ?_
  by_cases hdiv : fn = .div
  · simpa [tagIs, t, rs, hdiv] using hcheck f hf
  · simpa [tagIs, t, rs, hdiv] using hcheck f hf

/-- Settles O11: every conversion's meaning is an issue of one operation on registers. -/
theorem conversions : Obligations.Conversions := by
  intro h s c b ls gs R
  refine ⟨fun p hwf hclear hcheck => ?_, fun p hwf hclear hcheck => ?_, fun p hwf hclear hcheck => ?_, fun p hwf hclear hcheck => ?_⟩
  · rw [Writes, exec_fcvt, execFcvt]
    refine issue_writes R (Use.Plain.passes ⟨rfl, rfl, rfl, rfl, rfl, rfl⟩ (legal_of (Bool.and_elim_left hwf) hwf)
      (clear_of_subset hclear ?_) nofun) rfl rfl fun f hf => minCodes_none _ ?_
    · dsimp only [useOf]
      split <;> simp
    · simpa [cvtReadsD, tagIs] using hcheck f hf
  · dsimp only
    rw [Writes, exec_fpack, execFpack]
    refine issue_writes R (Use.Plain.passes ⟨rfl, rfl, rfl, rfl, rfl, rfl⟩ (legal_of (Bool.and_elim_left hwf) hwf)
      (clear_of_subset hclear ?_) nofun) rfl ?_ hcheck
    · intro v hv
      simp only [List.mem_append, List.mem_map, List.mem_cons, List.not_mem_nil, or_false, Nat.add_comm] at hv ⊢
      tauto
    · exact congrArg (fun ok => regAct none _ (fun _ => packOut p ok) s gs) (filter_passing hcheck)
  · rw [Writes, exec_funpk, execFunpk]
    refine issue_writes R (Use.Plain.passes ⟨rfl, rfl, rfl, rfl, rfl, rfl⟩ (legal_of (Bool.and_elim_left (Bool.and_elim_left (Bool.and_elim_left hwf))) hwf)
      (clear_of_subset hclear ?_) nofun) rfl rfl fun f hf => minCodes_none _ ?_
    · intro v hv
      simp only [List.mem_append, List.mem_map, List.mem_cons, List.not_mem_nil, or_false, Nat.add_comm] at hv ⊢
      tauto
    · obtain ⟨hhdr, hels⟩ := hcheck f hf
      simpa [tagIs, hhdr, Nat.add_comm] using hels
  · rw [Writes, exec_fclass, execFclass]
    exact issue_writes R (Use.Plain.passes ⟨rfl, rfl, rfl, rfl, rfl, rfl⟩ (legal_of (Bool.and_elim_left hwf) hwf) hclear nofun) rfl rfl hcheck

/-- Settles O12: TAGSET and TAGGET are issues of operations on registers, and TAGGET of a tile one that stays at home. -/
theorem tagInstructions : Obligations.TagInstructions := by
  intro h s c b ls R
  refine ⟨fun p hwf hclear => ?_, fun p hwf hclear => ?_⟩
  · rw [Writes, exec_tagset, execTagset]
    exact issue_writes R (Use.Plain.passes ⟨rfl, rfl, rfl, rfl, rfl, rfl⟩ (legal_of (Bool.and_elim_left hwf) hwf) hclear nofun) rfl rfl
      fun _ _ => rfl
  · have hlegal := legal_of (Bool.and_elim_left hwf) hwf
    rw [Writes, exec_tagget, execTagget]
    refine issue_writes R ?_ rfl rfl fun _ _ => rfl
    cases htm : p.tm with
    | false =>
      rw [if_neg (by simp [htm])] at hclear
      exact Use.Plain.passes ⟨rfl, rfl, rfl, rfl, rfl, rfl⟩ hlegal hclear nofun
    | true =>
      rw [if_pos htm] at hclear
      obtain ⟨htile, hhome, hclear⟩ := hclear
      exact { early := rfl, legal := hlegal, feat := nofun, priv := fun f _ => Nat.zero_le _, clear := hclear
              here := needsHome_home hhome, tiles := List.forall_mem_singleton.mpr htile, lost := nofun }

end Sys2Proof.Machine
end

section
/-!
PROOFS. O5: values, tags and tag checks of the integer operations (R203, R204, R86, R87).
-/
namespace Sys2Proof.Machine

/-! ### Values -/

theorem ofInt_wraps (x : Int) : ofI x = BitVec.ofInt 32 x := rfl

theorem wrapSat_eq (sat : Bool) (x : Int) : wrapSat sat x = BitVec.ofInt 32 (if sat then max (-2 ^ 31) (min (2 ^ 31 - 1) x) else x) := rfl

theorem ofInt_min_toInt (a b : Word) : (if a.toInt ≤ b.toInt then a else b) = BitVec.ofInt 32 (min a.toInt b.toInt) := by
  split
  · rw [min_eq_left ‹_›, BitVec.ofInt_toInt]
  · rw [min_eq_right (Int.le_of_lt (not_le.mp ‹_›)), BitVec.ofInt_toInt]

theorem ofInt_max_toInt (a b : Word) : (if a.toInt ≤ b.toInt then b else a) = BitVec.ofInt 32 (max a.toInt b.toInt) := by
  split
  · rw [max_eq_right ‹_›, BitVec.ofInt_toInt]
  · rw [max_eq_left (Int.le_of_lt (not_le.mp ‹_›)), BitVec.ofInt_toInt]

theorem ofInt_min_toNat (a b : Word) : (if a.toNat ≤ b.toNat then a else b) = BitVec.ofInt 32 (min a.toNat b.toNat : Nat) := by
  split
  · rw [min_eq_left ‹_›, BitVec.ofInt_natCast, BitVec.ofNat_toNat, BitVec.setWidth_eq]
  · rw [min_eq_right (Nat.le_of_lt (not_le.mp ‹_›)), BitVec.ofInt_natCast, BitVec.ofNat_toNat, BitVec.setWidth_eq]

theorem ofInt_max_toNat (a b : Word) : (if a.toNat ≤ b.toNat then b else a) = BitVec.ofInt 32 (max a.toNat b.toNat : Nat) := by
  split
  · rw [max_eq_right ‹_›, BitVec.ofInt_natCast, BitVec.ofNat_toNat, BitVec.setWidth_eq]
  · rw [max_eq_left (Nat.le_of_lt (not_le.mp ‹_›)), BitVec.ofInt_natCast, BitVec.ofNat_toNat, BitVec.setWidth_eq]

/-- A shift right past the word leaves its sign (R204). -/
theorem sar_eq (a : Word) (n : Nat) : ofI (a.toInt / 2 ^ min n 32)
    = BitVec.ofInt 32 (if n < 32 then Int.fdiv a.toInt (2 ^ n) else if a.toInt < 0 then -1 else 0) := by
  rw [ofInt_wraps]
  congr 1
  split
  · rw [min_eq_left (by omega), Int.fdiv_eq_ediv_of_nonneg _ (by positivity)]
  · have hlo := BitVec.le_toInt a
    have hhi := BitVec.toInt_lt (x := a)
    rw [min_eq_right (by omega)]
    split <;> omega

/-- The number of one bits (R204). -/
theorem popcN_eq (x n : Nat) : popcN x n = ((List.range n).filter x.testBit).length := by
  induction n with
  | zero => rfl
  | succ n ih =>
    have hbit : x / 2 ^ n % 2 = ([n].filter x.testBit).length := by
      rw [List.filter_singleton, Nat.testBit_eq_decide_div_mod_eq]
      rcases Nat.mod_two_eq_zero_or_one (x / 2 ^ n) with hmod | hmod <;> simp [hmod]
    rw [popcN, ih, List.range_succ, List.filter_append, List.length_append, hbit, Nat.add_comm]

/-- The first numbers that meet a condition are those below the first that does not. -/
theorem length_takeWhile_range {q : Nat → Bool} {n m : Nat} (hmn : m ≤ n) (hbelow : ∀ j < m, q j = true) (hat : m < n → q m = false) :
    ((List.range n).takeWhile q).length = m := by
  obtain ⟨k, rfl⟩ := Nat.exists_eq_add_of_le hmn
  rw [List.range_add, List.takeWhile_append_of_pos (by simpa using hbelow), List.length_append, List.length_range, Nat.add_eq_left,
    List.length_eq_zero_iff]
  cases k with
  | zero => rfl
  | succ k => rw [List.range_succ_eq_map, List.map_cons, List.takeWhile_cons_of_neg (by simp [hat])]

/-- The number of leading zero bits (R204). -/
theorem clz32_eq (a : Word) : clz32 a = ((List.range 32).takeWhile fun j => !a.getLsbD (31 - j)).length := by
  unfold clz32
  by_cases h0 : a = 0
  · subst h0
    rw [length_takeWhile_range (m := 32) le_rfl (by simp) (by omega)]
    rfl
  · have hne : a.toNat ≠ 0 := fun h => h0 (BitVec.eq_of_toNat_eq (h.trans rfl))
    have hlog : a.toNat.log2 < 32 := (Nat.log2_lt hne).mpr a.isLt
    rw [length_takeWhile_range (m := 31 - a.toNat.log2) (by omega)]
    · exact if_neg (by simpa using h0)
    · intro j hj
      have hlt : a.toNat < 2 ^ (31 - j) := (Nat.log2_lt hne).mp (by omega)
      simp [BitVec.getLsbD, Nat.testBit_lt_two_pow hlt]
    · intro _
      have hpos : 31 - (31 - a.toNat.log2) = a.toNat.log2 := by omega
      simp [hpos, BitVec.getLsbD, Nat.testBit_log2 hne]

theorem brevN_testBit (x n j : Nat) : (brevN x n).testBit j = (decide (j < n) && x.testBit (n - 1 - j)) := by
  induction n generalizing j with
  | zero => simp [brevN]
  | succ n ih =>
    cases j with
    | zero => simp [brevN, Nat.testBit_eq_decide_div_mod_eq]
    | succ j =>
      have hhalf : (brevN x n * 2 + x / 2 ^ n % 2) / 2 = brevN x n := by omega
      rw [brevN, Nat.testBit_succ, hhalf, ih]
      congr 2
      · simp
      · omega

/-- Every row that gives an integer gives its exact result, wrapped or, by SAT, clamped (R203, R204). -/
theorem intResult_exact {o : Op6} {sat : Bool} {a b d : Word} {x : Int} (hx : exactInt o a b d = some x) :
    intResult o sat a b d = BitVec.ofInt 32
      (if sat = true ∧ (o ∈ [Op6.add, .sub, .mul, .mad, .abs, .neg] ∨ (o = .divS ∧ b ≠ 0)) then max (-2 ^ 31) (min (2 ^ 31 - 1) x) else x) := by
  have unclamped : o ∉ [Op6.add, .sub, .mul, .mad, .abs, .neg] → ¬ (o = .divS ∧ b ≠ 0) →
      (if sat = true ∧ (o ∈ [Op6.add, .sub, .mul, .mad, .abs, .neg] ∨ (o = .divS ∧ b ≠ 0)) then max (-2 ^ 31) (min (2 ^ 31 - 1) x) else x) = x :=
    fun hmem hdiv => if_neg fun hc => hc.2.elim hmem hdiv
  cases o with
  | add | sub | mul | mad | abs | neg =>
    cases hx
    simp [intResult, wrapSat_eq]
  | mulhS =>
    rw [unclamped (by decide) nofun]
    cases hx
    exact congrArg (BitVec.ofInt 32) (Int.fdiv_eq_ediv_of_nonneg _ (b := 2 ^ 32) (by decide)).symm
  | mulhZ =>
    rw [unclamped (by decide) nofun]
    cases hx
    rw [Int.fdiv_eq_ediv_of_nonneg _ (by decide)]
    exact (BitVec.ofInt_natCast 32 (a.toNat * b.toNat / 2 ^ 32)).symm
  | minS =>
    rw [unclamped (by decide) nofun]
    cases hx
    exact ofInt_min_toInt a b
  | maxS =>
    rw [unclamped (by decide) nofun]
    cases hx
    exact ofInt_max_toInt a b
  | minZ =>
    rw [unclamped (by decide) nofun]
    cases hx
    exact ofInt_min_toNat a b
  | maxZ =>
    rw [unclamped (by decide) nofun]
    cases hx
    exact ofInt_max_toNat a b
  | shl | shr =>
    rw [unclamped (by decide) nofun]
    cases hx
    simp only [intResult, ← Nat.not_lt, ite_not, apply_ite (BitVec.ofInt 32), BitVec.ofInt_natCast]
    rfl
  | sar =>
    rw [unclamped (by decide) nofun]
    cases hx
    exact sar_eq a b.toNat
  | popc =>
    rw [unclamped (by decide) nofun]
    cases hx
    rw [BitVec.ofInt_natCast]
    change BitVec.ofNat 32 (popcN a.toNat 32) = _
    rw [popcN_eq]
    rfl
  | clz =>
    rw [unclamped (by decide) nofun]
    cases hx
    rw [BitVec.ofInt_natCast]
    change BitVec.ofNat 32 (clz32 a) = _
    rw [clz32_eq]
  | divS =>
    cases hx
    by_cases hb : b = 0
    · subst hb
      have hquot : intResult .divS sat a 0 d = wrapSat sat (-1) := rfl
      rw [hquot]
      cases sat <;> rfl
    · have hquot : intResult .divS sat a b d = wrapSat sat (Int.tdiv a.toInt b.toInt) := congrArg (wrapSat sat) (if_neg (by simpa using hb))
      rw [hquot, wrapSat_eq, if_neg hb]
      exact congrArg _ (if_congr ⟨fun hsat => ⟨hsat, .inr ⟨rfl, hb⟩⟩, And.left⟩ rfl rfl)
  | divZ =>
    rw [unclamped (by decide) nofun]
    cases hx
    simp only [intResult, beq_iff_eq, apply_ite (BitVec.ofInt 32), BitVec.ofInt_natCast]
    rfl
  | remS =>
    rw [unclamped (by decide) nofun]
    cases hx
    simp only [intResult, remS, ofI, beq_iff_eq, Int.tmod_def]
  | remZ =>
    rw [unclamped (by decide) nofun]
    cases hx
    simp only [intResult, beq_iff_eq, apply_ite (BitVec.ofInt 32), BitVec.ofInt_natCast, BitVec.ofInt_toInt]
  | addsatS =>
    rw [unclamped (by decide) nofun]
    cases hx
    rfl
  | _ => cases hx

/-- Every row that gives a pattern gives its bits (R204). -/
theorem op6Result_bits {o : Op6} {rm : Rm} {sat ftz : Bool} {a b d : VReg} {j : Nat} {x : Bool} (hj : j < 32)
    (hx : exactBit o a.val b.val d.val j = some x) : (op6Result o rm sat ftz a b d).val.getLsbD j = x := by
  cases o with
  | and | or | xor | mov =>
    cases hx
    simp [op6Result, intResult]
  | andn | sel =>
    cases hx
    simp [op6Result, intResult, hj]
  | rotl =>
    cases hx
    simp only [op6Result, intResult, BitVec.getLsbD_rotateLeft, Nat.mod_mod]
    have hr : b.val.toNat % 32 < 32 := Nat.mod_lt _ (by decide)
    generalize b.val.toNat % 32 = r at hr ⊢
    by_cases hjr : j < r
    · rw [show (j + 32 - r) % 32 = 32 - r + j by omega]
      simp [hjr]
    · rw [show (j + 32 - r) % 32 = j - r by omega]
      simp [hjr, hj]
  | brev =>
    cases hx
    simp only [op6Result, intResult, BitVec.getLsbD_ofNat, brevN_testBit, hj, decide_true, Bool.true_and]
    rfl
  | bfx =>
    cases hx
    simp only [op6Result, intResult, bfx, BitVec.getLsbD_ofNat, hj, decide_true, Bool.true_and, Nat.testBit_mod_two_pow, Nat.testBit_div_two_pow,
      Nat.add_comm j]
    rfl
  | bfi =>
    cases hx
    simp only [op6Result, intResult, bfi, BitVec.getLsbD_or, BitVec.getLsbD_and, BitVec.getLsbD_not, BitVec.getLsbD_ofNat, hj, decide_true,
      Bool.true_and, Nat.testBit_mul_two_pow,
      Nat.testBit_two_pow_sub_one]
    change _ = if bfPos b.val ≤ j ∧ j < bfPos b.val + bfLen b.val then a.val.getLsbD (j - bfPos b.val) else d.val.getLsbD j
    by_cases hlo : bfPos b.val ≤ j
    · have hhi : j < bfPos b.val + bfLen b.val ↔ j - bfPos b.val < bfLen b.val := by omega
      by_cases hlen : j - bfPos b.val < bfLen b.val <;> simp [hlo, hhi, hlen, BitVec.getLsbD]
    · simp [hlo]
  | _ => cases hx

/-! ### Tag checks -/

theorem minCode_eq_none_iff (x y : Option Nat) : minCode x y = none ↔ x = none ∧ y = none := by
  cases x <;> cases y <;> simp [minCode]

/-- No code comes of a list exactly where none is in it (R8). -/
theorem minCodes_eq_none_iff (l : List (Option Nat)) : minCodes l = none ↔ ∀ x ∈ l, x = none := by
  have hfold : ∀ (l : List (Option Nat)) (x : Option Nat), l.foldl minCode x = none ↔ x = none ∧ ∀ y ∈ l, y = none := by
    intro l
    induction l with
    | nil => simp
    | cons y ys ih => intro x; simp [ih, minCode_eq_none_iff, and_assoc]
  exact (hfold l none).trans (by simp)

/-- A typed operand passes with its own tag or RAW (R86). -/
theorem checkTag_typed_eq_none_iff {t : BitVec 4} (ht : t ≠ tInvalid) (r : VReg) :
    checkTag (some t) r = none ↔ r.tag = tRaw ∨ r.tag = t := by
  by_cases hinv : r.tag = tInvalid
  · rw [checkTag_invalid _ hinv, hinv]
    simp [ht.symm, show tInvalid ≠ tRaw by decide]
  · rw [checkTag_typed hinv]
    simp [or_iff_not_imp_left]

/-- The check of an operation that is no packed one is that of the operands it reads (R86, R187). -/
theorem op6Check_eq_none_iff {o : Op6} (hhalf : isHalf o = false) (a b d : VReg) :
    op6Check o a b d = none ↔ checkTag (op6Tags o).1 a = none ∧ (o.noB = true ∨ checkTag (op6Tags o).2.1 b = none)
      ∧ (o.readsD = true → checkTag (op6Tags o).2.2 d = none) := by
  rw [op6Check, minCodes_eq_none_iff]
  simp only [hhalf, Bool.false_and, Bool.false_eq_true, if_false, Option.isSome_none, List.forall_mem_cons, List.not_mem_nil,
    IsEmpty.forall_iff, implies_true, and_true, ite_eq_left_iff, ite_eq_right_iff, or_iff_not_imp_left]

/-- The integer operations whose operands are I32 (R204). -/
def op6Typed : List Op6 :=
  [.add, .sub, .mul, .mulhS, .mulhZ, .mad, .minS, .minZ, .maxS, .maxZ, .divS, .divZ, .remS, .remZ, .abs, .neg, .addsatS]

/-- The operations whose operands are untyped (R204). -/
def op6Untyped : List Op6 := [.and, .or, .xor, .andn, .shl, .shr, .sar, .rotl, .clz, .popc, .brev, .bfx, .bfi, .sel, .mov]

theorem op6Typed_tags : ∀ o ∈ op6Typed, isHalf o = false ∧ op6Tags o = (some tI32, some tI32, some tI32)
    ∧ (o.noB = true ↔ o ∈ [Op6.abs, .neg]) ∧ (o.readsD = true ↔ o = .mad) := by decide

theorem op6Untyped_tags : ∀ o ∈ op6Untyped, isHalf o = false ∧ op6Tags o = (none, none, none)
    ∧ (o.noB = true ↔ o ∈ [Op6.clz, .popc, .brev, .mov]) ∧ (o.readsD = true ↔ o ∈ [Op6.bfi, .sel]) := by decide

/-! ### Result tags -/

/-- A row that gives an integer gives it tagged I32 (R87, R204). -/
theorem op6Result_exact {o : Op6} {rm : Rm} {sat ftz : Bool} {a b d : VReg} {x : Int} (hx : exactInt o a.val b.val d.val = some x) :
    op6Result o rm sat ftz a b d = { val := intResult o sat a.val b.val d.val, tag := tI32 } := by
  cases o with
  | add | sub | mul | mulhS | mulhZ | mad | minS | minZ | maxS | maxZ | shl | shr | sar | popc | clz | divS | divZ | remS | remZ | abs | neg
  | addsatS => rfl
  | _ => cases hx

theorem op6Result_tag {o : Op6} {rm : Rm} {sat ftz : Bool} {a b d : VReg} :
    (o ∈ [Op6.rotl, .brev, .bfx, .bfi] → (op6Result o rm sat ftz a b d).tag = tI32)
      ∧ (o ∈ [Op6.and, .or, .xor, .andn, .sel] → (op6Result o rm sat ftz a b d).tag = neutralTag a b) := by
  constructor <;> intro ho <;> simp only [List.mem_cons, List.not_mem_nil, or_false] at ho
  · obtain rfl | rfl | rfl | rfl := ho <;> rfl
  · obtain rfl | rfl | rfl | rfl | rfl := ho <;> rfl

/-- Settles O5: values by `intResult_exact` and `op6Result_bits`, tags by `op6Result_exact` and `op6Result_tag`, checks by `op6Check_eq_none_iff`. -/
theorem integerResults : Obligations.IntegerResults := by
  intro o rm sat ftz a b d
  refine ⟨fun x hx => ?_, fun j x hj hx => op6Result_bits hj hx, op6Result_tag.1, by rintro rfl; rfl, fun ho => ?_, fun ho => ?_, fun ho => ?_⟩
  · rw [op6Result_exact hx]
    exact ⟨intResult_exact hx, rfl⟩
  · rw [op6Result_tag.2 ho, neutralTag]
    simp [and_assoc]
  · obtain ⟨hhalf, htags, hnob, hd⟩ := op6Typed_tags o ho
    simp only [op6Check_eq_none_iff hhalf, htags, checkTag_typed_eq_none_iff (show tI32 ≠ tInvalid by decide), hnob, hd]
  · obtain ⟨hhalf, htags, hnob, hd⟩ := op6Untyped_tags o ho
    simp only [op6Check_eq_none_iff hhalf, htags, checkTag_untyped_eq_none_iff, hnob, hd]

end Sys2Proof.Machine
end

section
/-!
LAWS. What an effect may do to the records of blocks and kernels while its batch goes on: `LanesGo`, which is `LanesStay` but for what neither a stop nor
a trial looks at (R356, R373).
-/
namespace Sys2Proof.Machine

/-- In `e` every fibre stands as in `s`, every block is being pre-empted or not as there, and every kernel has its trial. -/
structure LanesGo (s e : State) : Prop where
  pre : ∀ k, (block? e k).map (·.pre) = (block? s k).map (·.pre)
  trial : ∀ k, (kernel? e k).bind (·.trial) = (kernel? s k).bind (·.trial)
  fibres : ∀ k, (fibre? e k).map Fibre.standing = (fibre? s k).map Fibre.standing

section
variable {s t e : State} {c : Cur} {b : Block} {ls : List Fibre}

theorem LanesStay.go (h : LanesStay s e) : LanesGo s e :=
  ⟨fun k => by rw [block?_congr h.blocks], fun k => by simp only [kernel?, h.kernels], h.fibres⟩

theorem LanesGo.trans (h : LanesGo s t) (h' : LanesGo t e) : LanesGo s e :=
  ⟨fun k => (h'.pre k).trans (h.pre k), fun k => (h'.trial k).trans (h.trial k), fun k => (h'.fibres k).trans (h.fibres k)⟩

/-- A lane of a ready batch is not stopped at its boundary (R30, R356). -/
theorem Ready.not_preStopped (R : Ready s c b ls) {f : Fibre} (hf : f ∈ ls) : preStopped s f = false := by
  have hcan := R.can f hf
  simp only [Fibre.canIssue, R.blk f hf, Option.any_some, stoppedIn, Bool.and_eq_true, Bool.not_eq_true', Bool.or_eq_false_iff] at hcan
  obtain ⟨-, ⟨-, hpre⟩, -⟩ := hcan
  rw [preStopped, R.blk f hf]
  exact hpre

theorem preStopped_congr {f g : Fibre} (hstand : g.standing = f.standing) (hpre : (block? e f.blk).map (·.pre) = (block? s f.blk).map (·.pre)) :
    preStopped e g = preStopped s f := by
  simp only [Fibre.standing, Prod.mk.injEq] at hstand
  obtain ⟨hblk, -, htm, hexp⟩ := hstand
  have hany : ∀ o : Option Block, o.any (fun b => b.pre && (!f.tm || f.expired)) = (o.map (·.pre)).any fun p => p && (!f.tm || f.expired) := by
    rintro (_ | _) <;> rfl
  rw [preStopped, preStopped, hblk, htm, hexp, hany, hany, hpre]

/-- A batch may go on in a state where every lane of it has a record that is not stopped and no trial delays its kernel: what `finish` looks at
(R30, R200, R373). -/
structure MayGo (e : State) (b : Block) (ls : List Fibre) : Prop where
  lanes : ∀ f ∈ ls, ∃ g, fibre? e f.key = some g ∧ g.inHandler = f.inHandler ∧ preStopped e g = false
  trial : (kernel? e b.kernel).bind (·.trial) = none

theorem MayGo.of_stays (h : Stays e b ls) : MayGo e b ls :=
  ⟨fun f hf => let ⟨g, hg, _, hin, hpre⟩ := h.lanes f hf; ⟨g, hg, hin, hpre⟩, h.trial⟩

theorem MayGo.go (h : MayGo t b ls) (h' : LanesGo t e) : MayGo e b ls := by
  refine ⟨fun f hf => ?_, (h'.trial _).trans h.trial⟩
  obtain ⟨g, hg, hin, hpre⟩ := h.lanes f hf
  have hst := h'.fibres f.key
  rw [hg, Option.map_some, Option.map_eq_some_iff] at hst
  obtain ⟨k, hk, hst⟩ := hst
  exact ⟨k, hk, (Fibre.inHandler_of_standing hst).trans hin, (preStopped_congr hst (h'.pre _)).trans hpre⟩

theorem Ready.mayGo (R : Ready s c b ls) : MayGo s b ls :=
  ⟨fun f hf => ⟨f, R.own f hf, rfl, R.not_preStopped hf⟩, R.trial⟩

/-- A batch whose effect on its guard-true lanes leaves a state in which it may go on, goes on (R30, R190, R200, R373). -/
theorem issue_mayGo {use : Use} {act : State → Block → List Fibre → Acted} {gs : List Fibre} (R : Ready s c b ls) (P : use.Passes s b ls)
    (hgs : ls.filter use.guard = gs) (hact : act s b gs = acted e []) (hgo : MayGo e b ls) :
    issue use act s = .next (goOn e c ls use.len (1 + use.stall) use.y) :=
  issue_goOn R P e false (by rw [hgs, hact]; rfl) (fun p => by simp [trialDelay, hgo.trial]) hgo.lanes

theorem issue_go {use : Use} {act : State → Block → List Fibre → Acted} {gs : List Fibre} (R : Ready s c b ls) (P : use.Passes s b ls)
    (hgs : ls.filter use.guard = gs) (hact : act s b gs = acted e []) (hgo : LanesGo s e) :
    issue use act s = .next (goOn e c ls use.len (1 + use.stall) use.y) :=
  issue_mayGo R P hgs hact (R.mayGo.go hgo)

/-! ### Updates of blocks and kernels -/

/-- What a look-up finds after a change of some records that keeps their keys. -/
theorem find?_map_if {α : Type} {p q : α → Bool} {g : α → α} (hg : ∀ x, q (g x) = q x) (l : List α) :
    (l.map fun x => if p x then g x else x).find? q = (l.find? q).map fun x => if p x then g x else x := by
  rw [List.find?_map]
  congr 2
  funext x
  simp only [Function.comp]
  split
  · exact hg x
  · rfl

theorem setBlock_go {g : Block → Block} (hid : ∀ d, (g d).id = d.id) (hpre : ∀ d, (g d).pre = d.pre) (s : State) (k : Nat) :
    LanesGo s (setBlock s k g) := by
  refine ⟨fun n => ?_, fun _ => rfl, fun _ => rfl⟩
  have hfind := find?_map_if (p := fun d : Block => d.id == k) (q := fun d => d.id == n) (g := g) (fun d => by rw [hid]) s.blocks
  rw [block?, setBlock, hfind, Option.map_map]
  refine congrFun (congrArg _ (funext fun d => ?_)) _
  simp only [Function.comp]
  split
  · exact hpre d
  · rfl

theorem setKernel_go {g : Kernel → Kernel} (hid : ∀ d, (g d).id = d.id) (htrial : ∀ d, (g d).trial = d.trial) (s : State) (k : Nat) :
    LanesGo s (setKernel s k g) := by
  refine ⟨fun _ => rfl, fun n => ?_, fun _ => rfl⟩
  have hfind := find?_map_if (p := fun d : Kernel => d.id == k) (q := fun d => d.id == n) (g := g) (fun d => by rw [hid]) s.kernels
  rw [kernel?, setKernel, hfind, Option.bind_map]
  refine congrArg _ (funext fun d => ?_)
  simp only [Function.comp]
  split
  · exact htrial d
  · rfl

end

end Sys2Proof.Machine
end

section
/-!
PROOFS. O13: GETSR, SETSR and UMOV (R215, R225 to R227), and when a write of a block part's register is seen (R48, R201).
-/
namespace Sys2Proof.Machine

/-! ### Registers of a block part -/

section
variable {q : Part} {now port n : Nat}

/-- The registers as they stood before a cycle are those a batch of that cycle reads (R48). -/
theorem Part.before_seen (q : Part) (now : Nat) :
    (q.before now).cycle = now ∧ (q.before now).s = q.seenS now ∧ (q.before now).sbchk = q.seenCheck now := by
  unfold Part.before Part.seenS Part.seenCheck
  cases q.was with
  | none => exact ⟨rfl, rfl, rfl⟩
  | some w => by_cases hw : w.cycle = now <;> simp [hw]

theorem Part.before_of_was {w : Before} (hwas : q.was = some w) (hcycle : w.cycle = now) : q.before now = w := by
  simp [before, hwas, hcycle]

theorem Part.putUni_of_outdone {w : Word} (h : outdone (q.before now).uw port n = true) : q.putUni now port n w = q := if_pos h

theorem Part.putUni_of_not_outdone {w : Word} (h : outdone (q.before now).uw port n = false) :
    q.putUni now port n w = { q with s := q.s.set n w, was := some { q.before now with uw := (n, port) :: (q.before now).uw } } :=
  if_neg (by simp [h])

theorem Part.putCheck_of_outdone {v : Bool} (h : outdone (q.before now).uw port 256 = true) : q.putCheck now port v = q := if_pos h

theorem Part.putCheck_of_not_outdone {v : Bool} (h : outdone (q.before now).uw port 256 = false) :
    q.putCheck now port v = { q with sbchk := v, was := some { q.before now with uw := (256, port) :: (q.before now).uw } } :=
  if_neg (by simp [h])

/-- A write of a uniform register is not seen in its own cycle (R48). -/
theorem Part.putUni_seenS_now (w : Word) : (q.putUni now port n w).seenS now = q.seenS now := by
  obtain ⟨hcycle, hs, -⟩ := q.before_seen now
  cases h : outdone (q.before now).uw port n with
  | true => rw [putUni_of_outdone h]
  | false =>
    rw [putUni_of_not_outdone h, ← hs]
    simp [seenS, hcycle]

theorem Part.putCheck_seenCheck_now (v : Bool) : (q.putCheck now port v).seenCheck now = q.seenCheck now := by
  obtain ⟨hcycle, -, hcheck⟩ := q.before_seen now
  cases h : outdone (q.before now).uw port 256 with
  | true => rw [putCheck_of_outdone h]
  | false =>
    rw [putCheck_of_not_outdone h, ← hcheck]
    simp [seenCheck, hcycle]

/-- In another cycle it is seen (R48). -/
theorem Part.putUni_seenS_later {w : Word} {t : Nat} (ht : t ≠ now) (h : outdone (q.before now).uw port n = false) (hn : n < q.s.length) :
    ((q.putUni now port n w).seenS t).getD n 0 = w := by
  have hcycle : ¬ (q.before now).cycle = t := fun h => ht (h.symm.trans (q.before_seen now).1)
  rw [putUni_of_not_outdone h]
  simp [seenS, hcycle, hn]

theorem Part.putCheck_seenCheck_later {v : Bool} {t : Nat} (ht : t ≠ now) (h : outdone (q.before now).uw port 256 = false) :
    (q.putCheck now port v).seenCheck t = v := by
  have hcycle : ¬ (q.before now).cycle = t := fun h => ht (h.symm.trans (q.before_seen now).1)
  rw [putCheck_of_not_outdone h]
  simp [seenCheck, hcycle]

/-- The write of a lower port in the same cycle changes nothing (R48). -/
theorem Part.putUni_under (w w' : Word) {port' : Nat} (hport : port < port') :
    (q.putUni now port' n w').putUni now port n w = q.putUni now port' n w' := by
  refine putUni_of_outdone ?_
  cases h : outdone (q.before now).uw port' n with
  | true =>
    rw [putUni_of_outdone h]
    obtain ⟨x, hx, hmatch⟩ := List.any_eq_true.mp h
    simp only [Bool.and_eq_true, beq_iff_eq, decide_eq_true_eq] at hmatch
    exact List.any_eq_true.mpr ⟨x, hx, by simp [hmatch.1, hport.trans hmatch.2]⟩
  | false =>
    have hcycle := (q.before_seen now).1
    have hwas : (q.putUni now port' n w').was = some { q.before now with uw := (n, port') :: (q.before now).uw } := by
      rw [putUni_of_not_outdone h]
    rw [before_of_was hwas hcycle]
    simp [outdone, hport]

end

/-! ### Energy -/

/-- What a read of ENERGY charges never lowers the counter (R380). -/
theorem chargeEnergy_raises {s : State} {id : Nat} {k : Kernel} (hk : kernel? s id = some k) :
    ∃ k', kernel? (chargeEnergy s id) id = some k' ∧ k.energy.toNat ≤ k'.energy.toNat := by
  have hid : k.id = id := by simpa using List.find?_some hk
  have hfind := find?_map_if (p := fun d : Kernel => d.id == id) (q := fun d => d.id == id)
    (g := fun k => { k with energy := BitVec.ofNat 64 (min (2 ^ 64 - 1) (k.energy.toNat + (Config.freeValue 64 s.freeCtr).toNat)) })
    (fun _ => rfl) s.kernels
  refine ⟨_, (hfind.trans (congrArg _ hk)).trans rfl, ?_⟩
  have hlt := k.energy.isLt
  simp only [hid, beq_self_eq_true, if_true, BitVec.toNat_ofNat]
  rw [Nat.mod_eq_of_lt (by omega)]
  omega

theorem chargeEnergy_go (s : State) (id : Nat) : LanesGo s (chargeEnergy s id) := by
  have hctr : LanesStay s { s with freeCtr := s.freeCtr + 1 } := .of_fibres rfl rfl rfl
  refine hctr.go.trans ?_
  exact setKernel_go (by intro; rfl) (by intro; rfl) _ id

/-! ### Issue -/

/-- The sticky bits lie in the high word of a pair (R227). -/
theorem high_sticky (lo hi : Word) : (pairOf lo hi).extractLsb' 32 5 = hi.extractLsb' 0 5 := by
  refine BitVec.eq_of_getLsbD_eq fun i hlt => ?_
  have happend : (pairOf lo hi).getLsbD (32 + i) = hi.getLsbD i := BitVec.getLsbD_append.trans (by simp)
  simp [happend, hlt]

section
variable {h : Head} {s : State} {c : Cur} {b : Block} {ls : List Fibre}

theorem exec_getsr (p : SrP) : exec (.getsr h p) s = execGetsr h p s := rfl
theorem exec_setsr (p : SrP) : exec (.setsr h p) s = execSetsr h p s := rfl
theorem exec_umov (p : UmovP) : exec (.umov h p) s = execUmov h p s := rfl

end

/-- Settles O13: the registers of a block part by the lemmas about `Part.putUni` and `Part.putCheck`, each instruction by what its issue does through
the lanes or the lowest one. -/
theorem specialAndUniform : Obligations.SpecialAndUniform := by
  refine ⟨fun s id k => chargeEnergy_raises, fun q now port n w v => ⟨Part.putUni_seenS_now w, Part.putCheck_seenCheck_now v,
    fun t => Part.putUni_seenS_later, fun t => Part.putCheck_seenCheck_later, fun port' w' hport => by rw [Part.putUni_under w w' hport]⟩, ?_⟩
  intro h s c b ls gs R H
  refine ⟨fun p hwf => ?_, fun p hwf hclear => ⟨fun hdir => ?_, fun hdir f fs hgs hcheck => ?_, fun hdir f fs hgs => ?_⟩,
      fun p hwf => ?_⟩
  · dsimp only
    have hlegal : (h.wf && (Instr.getsr h p).legal) = true := legal_of (Bool.and_elim_left hwf) hwf
    have hstay : ∀ n id, LanesGo s (if n = 0x0C then chargeEnergy s id else s) := fun n id => by
      split
      · exact chargeEnergy_go s id
      · exact (LanesStay.refl s).go
    refine ⟨fun hus hclear => ?_, fun hus f fs hgs => ?_⟩
    · rw [Completes, exec_getsr, execGetsr]
      refine issue_go R (Use.Plain.passes ⟨rfl, rfl, rfl, rfl, rfl, rfl⟩ hlegal (clear_of_subset hclear ?_) (fun _ => H)) rfl ?_
        ((hstay p.sr.toNat b.kernel).trans (wrote_lat_stay ..).go)
      · simp [hus, useOf]
      · simp only [beq_iff_eq, hus, Bool.false_eq_true, if_false]
        exact regAct_passing fun _ _ => rfl
    · rw [Completes, exec_getsr, execGetsr]
      refine issue_go R (Use.Plain.passes ⟨rfl, rfl, rfl, rfl, rfl, rfl⟩ hlegal ?_ (fun _ => H)) hgs ?_
        ((hstay p.sr.toNat b.kernel).trans (setUnis_stay ..).go)
      · simp only [hus, if_true]
        exact clear_nil
      · simp only [beq_iff_eq, hus, if_true]
        rfl
  · rw [Writes, exec_umov, execUmov, hdir]
    exact issue_writes R (Use.Plain.passes ⟨rfl, rfl, rfl, rfl, rfl, rfl⟩ (legal_of (Bool.and_elim_left hwf) hwf) (hclear (by simp [hdir]))
      (fun _ => H)) rfl rfl fun _ _ => rfl
  · rw [Completes, exec_umov, execUmov, hdir]
    refine issue_go R (Use.Plain.passes ⟨rfl, rfl, rfl, rfl, rfl, rfl⟩ (legal_of (Bool.and_elim_left hwf) hwf) (hclear (by simp [hdir]))
      (fun _ => H)) hgs ?_ (setUni_stay ..).go
    rw [hgs] at hcheck
    simp only [List.head?_cons, trapsOf_passing hcheck, hcheck f List.mem_cons_self, Option.isNone_none, if_true]
  · rw [Completes, exec_umov, execUmov, hdir]
    exact issue_go R (Use.Plain.passes ⟨rfl, rfl, rfl, rfl, rfl, rfl⟩ (legal_of (Bool.and_elim_left hwf) hwf) clear_nil (fun _ => H)) hgs rfl
      (setUni_stay ..).go
  · dsimp only
    intro hclear hcheck f fs hgs
    have hpass : Use.Passes { useOf h (Instr.setsr h p).legal with
        vr := if p.us then [] else if srWide p.sr.toNat then [p.v.toNat, p.v.toNat + 1] else [p.v.toNat], home := true } s b ls :=
      Use.Plain.passes ⟨rfl, rfl, rfl, rfl, rfl, rfl⟩ (legal_of (Bool.and_elim_left (Bool.and_elim_left hwf)) hwf)
        (clear_of_subset hclear (by simp [useOf])) (fun _ => H)
    rw [hgs] at hcheck
    have hf := hcheck f List.mem_cons_self
    refine ⟨fun hsr => ?_, fun hsr => ?_, fun hsr => ?_⟩
    · rw [Completes, exec_setsr, execSetsr, hgs]
      refine issue_go R hpass hgs ?_ (LanesStay.go ?_)
      · simp only [trapsOf_passing hcheck, filter_passing hcheck, List.head?_cons, hf]
        simp only [hsr]
        cases p.us <;> simp only [uniPair, high_sticky, Bool.false_eq_true, if_false, if_true] <;> rfl
      · refine mapFibres_stay (fun g => ?_) (fun g => ?_) s <;> split <;> rfl
    · rw [Completes, exec_setsr, execSetsr]
      refine issue_go R hpass hgs ?_ (setPart_stay ..).go
      simp only [trapsOf_passing hcheck, filter_passing hcheck, List.head?_cons, hf]
      simp only [hsr]
      rfl
    · rw [Completes, exec_setsr, execSetsr]
      refine issue_go R hpass hgs ?_ (setBlock_go (by intro; rfl) (by intro; rfl) s b.id)
      simp only [trapsOf_passing hcheck, filter_passing hcheck, List.head?_cons, hf]
      simp only [hsr]
      cases p.us <;> rfl

end Sys2Proof.Machine
end

section
/-!
LAWS. Control transfers of a batch whose lanes all go to one program counter (R216, R217): `issue_transfers`.
-/
namespace Sys2Proof.Machine

section
variable {s e : State} {c : Cur} {b : Block} {ls : List Fibre}

theorem fateOf_go {f : Fibre} {q : BitVec 44} {pc : Fibre → BitVec 44} (hf : (ls.map (·.key)).contains f.key = true) (hpc : ∀ g ∈ ls, pc g = q) :
    fateOf (ls.map fun g => (g.key, Fate.go (pc g))) f = some (.go q) := by
  have hmap : (ls.map fun g => (g.key, Fate.go (pc g))) = ls.map fun g => (g.key, Fate.go q) :=
    List.map_congr_left fun g hg => by rw [hpc g hg]
  obtain ⟨g, hg, hkey⟩ : ∃ g ∈ ls, g.key = f.key := by simpa using hf
  rw [hmap]
  exact fateOf_map ls (fun _ => .go q) f ⟨g, hg, hkey⟩ fun _ _ _ => rfl

/-- A transfer that takes every lane of the batch to one program counter splits nothing (R30, R31, R217). -/
theorem issue_transfers {use : Use} {act : State → Block → List Fibre → Acted} {pc : Fibre → BitVec 44} {q : BitVec 44} {back : Bool}
    (R : Ready s c b ls) (P : use.Passes s b ls) (hgs : ls.filter use.guard = ls)
    (hact : act s b ls = transfer e (ls.map fun f => (f.key, .go (pc f))) back) (hpc : ∀ f ∈ ls, pc f = q) (hgo : MayGo e b ls) :
    issue use act s = .next (goTo e c ls (fun _ => q) (1 + use.stall) (back || use.y)) := by
  obtain ⟨f0, hf0⟩ := List.exists_mem_of_ne_nil ls R.some
  have hstops : ∀ x ∈ ls.map fun f => (f.key, Fate.go (pc f)), ∀ c i d m, x.2 ≠ .trap c i d m := by
    intro x hx
    obtain ⟨f, -, rfl⟩ := List.mem_map.mp hx
    exact fun _ _ _ _ => nofun
  have hfate : ∀ f : Fibre, (ls.map (·.key)).contains f.key = true → fateOf (ls.map fun g => (g.key, Fate.go (pc g))) f = some (.go q) :=
    fun f hf => fateOf_go hf hpc
  rw [issue_ready R P _ (by rw [hgs, hact]) rfl rfl hstops]
  refine congrArg _ (finish_goTo c b ls use.len (1 + use.stall) _ (fun _ => q) q f0.inHandler R.some
    (fun p => by simp [trialDelay, transfer, acted, hgo.trial]) ?_
    (fun f hf => .inr (hfate f hf)) fun f hf => ?_)
  · intro f hf
    obtain ⟨g, hg, hin, hpre⟩ := hgo.lanes f hf
    exact ⟨g, hg, hin.trans (R.same f hf f0 hf0).2, hpre⟩
  · have hkey : (ls.map (·.key)).contains f.key = true := by simpa using ⟨f, hf, rfl⟩
    simp only [nextPc, transfer, acted, hfate f hkey]

end

end Sys2Proof.Machine
end

section
/-!
PROOFS. O14: BRA, CALL, RET and JMP of a batch whose lanes go together (R216, R217).
-/
namespace Sys2Proof.Machine

section
variable {h : Head} {s : State} {c : Cur} {b : Block} {ls : List Fibre} {pc q : BitVec 44}

theorem exec_bra (p : BraP) : exec (.bra h p) s = execBra h p s := rfl
theorem exec_call (p : CallP) : exec (.call h p) s = execCall h p s := rfl

/-- A BRA that every lane takes (R217); a backward one renews the age (R35). -/
theorem bra_goes (R : Ready s c b ls) (hall : guardTrue h.g h.gn ls = ls) (hpc : ∀ f ∈ ls, f.pc = pc) {p : BraP}
    (hwf : (Instr.bra h p).wellFormed = true) :
    exec (.bra h p) s = .next (goTo s c ls (fun _ => jumpBy pc p.disp) (1 + h.stall.toNat)
      (decide ((jumpBy pc p.disp).toNat < pc.toNat) || h.y)) := by
  have hback : (ls.any fun f => decide ((jumpBy f.pc p.disp).toNat < f.pc.toNat)) = decide ((jumpBy pc p.disp).toNat < pc.toNat) := by
    obtain ⟨f, fs, rfl⟩ := List.exists_cons_of_ne_nil R.some
    rw [Bool.eq_iff_iff]
    simp only [List.any_eq_true]
    exact ⟨fun ⟨g, hg, hlt⟩ => hpc g hg ▸ hlt, fun hlt => ⟨f, List.mem_cons_self, by rw [hpc f List.mem_cons_self]; exact hlt⟩⟩
  rw [exec_bra, execBra, ← hback]
  exact issue_transfers R (Use.Plain.passes ⟨rfl, rfl, rfl, rfl, rfl, rfl⟩ (legal_of hwf hwf) clear_nil nofun) hall rfl
    (fun f hf => by rw [hpc f hf]) R.mayGo

/-- RET and JMP of lanes whose pairs name one place (R217). -/
theorem pairJump_goes {use : Use} {a : Nat} (R : Ready s c b ls) (P : Use.Passes { use with vr := [a, a + 1] } s b ls)
    (hall : ls.filter use.guard = ls) (hcheck : ∀ f ∈ ls, checkRegs f [a, a + 1] = none) (hq : ∀ f ∈ ls, pairTarget f a = q) :
    pairJump use a s = .next (goTo s c ls (fun _ => q) (1 + use.stall) use.y) := by
  rw [pairJump]
  refine issue_transfers (pc := fun f => pairTarget f a) (back := false) R P hall ?_ hq R.mayGo
  refine congrArg (transfer s · false) (List.map_congr_left fun f hf => ?_)
  rw [hcheck f hf]

/-- The target of a pair is its bits 43 to 1, doubled (R217). -/
theorem pairTarget_eq (f : Fibre) (a : Nat) : pairTarget f a = (f.val (a + 1) ++ f.val a).extractLsb' 1 43 ++ 0#1 := by
  refine BitVec.eq_of_getLsbD_eq fun i hi => ?_
  cases i with
  | zero =>
    have htop : ((f.val (a + 1) ++ f.val a).extractLsb' 1 43 ++ 0#1).getLsbD 0 = false := BitVec.getLsbD_append.trans (by simp)
    rw [htop, pairTarget, BitVec.getLsbD_and]
    exact Bool.and_false _
  | succ i =>
    have hlow : (~~~1#44).getLsbD (i + 1) = true := by
      rw [BitVec.getLsbD_not, BitVec.getLsbD_one]
      simp [hi]
    have htop : ((f.val (a + 1) ++ f.val a).extractLsb' 1 43 ++ 0#1).getLsbD (i + 1) = (f.val (a + 1) ++ f.val a).getLsbD (1 + i) := by
      refine BitVec.getLsbD_append.trans ?_
      simp [show i < 43 by omega]
    rw [pairTarget, BitVec.getLsbD_and, hlow, htop, Bool.and_true, BitVec.getLsbD_extractLsb', Nat.zero_add, Nat.add_comm]
    simp [pairOf, show 1 + i < 44 by omega]

/-- The state after every lane of a CALL has its return address in a pair (R217). -/
def linked (s : State) (ls : List Fibre) (d : Nat) (ret : Fibre → DWord) : State :=
  wrote s ls none fun f => [.reg d { val := loWord (ret f), tag := tRaw }, .reg (d + 1) { val := hiWord (ret f), tag := tRaw }]

/-- CALL leaves in each lane's pair the address past the lane's own program counter (R217). -/
theorem call_goes (R : Ready s c b ls) (hall : guardTrue h.g h.gn ls = ls) (hpc : ∀ f ∈ ls, f.pc = pc) {p : CallP}
    (hwf : (Instr.call h p).wellFormed = true) (hclear : Clear ls [p.d.toNat, p.d.toNat + 1]) :
    exec (.call h p) s = .next (goTo (linked s ls p.d.toNat fun f => (f.pc + 8).setWidth 64) c ls (fun _ => jumpBy pc p.disp)
      (1 + h.stall.toNat) h.y) := by
  rw [exec_call, execCall]
  exact issue_transfers (pc := fun f => jumpBy f.pc p.disp) (back := false) R
    (Use.Plain.passes ⟨rfl, rfl, rfl, rfl, rfl, rfl⟩ (legal_of (Bool.and_elim_left hwf) hwf) hclear nofun) hall rfl
    (fun f hf => by rw [hpc f hf]) (R.mayGo.go (wrote_lat_stay ..).go)

end

/-! ### A key that is listed twice -/

/-- Lane 0 of port 0 of core 0 at address 0x100. -/
def callLane : Fibre := { newFibre placeBlock { core := 0, port := 0, ctx := 0 } 0 0 0x100 (zeroRegs 8) 0 with slot := some 0 }

/-- A second record of the same key, in no batch, at address 0x200. -/
def callTwin : Fibre := { callLane with slot := none, pc := 0x200 }

def twinFibres : State :=
  { State.reset with cur := some { core := 0, port := 0, slot := 0 }, fibres := [callLane, callTwin], blocks := [placeBlock] }

def callHead : Head := { gn := false, g := 0, y := false, stall := 0 }

def callFields : CallP := { d := 2, disp := 4 }

theorem twinFibres_ready : Ready twinFibres { core := 0, port := 0, slot := 0 } placeBlock [callLane] where
  cur := rfl
  lanes := by decide
  some := by decide
  own := by decide
  blk := by decide
  can := by decide
  same := by decide
  cmp := by decide
  short := by decide
  trial := by decide

/-- The return address words of each record. -/
def linkWords (s : State) : List Word := s.fibres.map fun f => f.val 2

/-- Refutes O14: CALL leaves in every record of a lane's key the address past that record's own program counter (`call_goes`), and the clause asks for
the address past the batch's. They are one where a key is listed once, which no hypothesis says: `twinFibres` lists a key twice, at two addresses. The
clauses about BRA, RET and JMP hold (`bra_goes`, `pairJump_goes`, `pairTarget_eq`). -/
theorem not_transfersTogether : ¬ Obligations.TransfersTogether := by
  intro hall
  obtain ⟨-, hcall, -⟩ := hall callHead twinFibres _ _ _ 0x100 twinFibres_ready (by decide) (by decide)
  have hclaim := hcall callFields (by decide) (by decide)
  have hmodel := call_goes (h := callHead) twinFibres_ready (by decide) (pc := 0x100) (by decide) (p := callFields) (by decide) (by decide)
  have hstates := Host.Outcome.next.inj (hmodel.symm.trans hclaim)
  exact absurd (congrArg linkWords hstates) (by decide)

end Sys2Proof.Machine
end

section
/-!
PROOFS. O15: BRX by its jump table (R218).
-/
namespace Sys2Proof.Machine

section
variable {h : Head} {s : State} {c : Cur} {b : Block} {ls : List Fibre} {pc q : BitVec 44} {p : BrxP} {t : Nat}

theorem exec_brx : exec (.brx h p) s = execBrx h p s := rfl

/-- The batch that issues is at the program counter of its lanes. -/
theorem curPc_eq (R : Ready s c b ls) (hpc : ∀ f ∈ ls, f.pc = pc) : curPc s = pc := by
  obtain ⟨f, fs, hcons⟩ := List.exists_cons_of_ne_nil R.some
  simp [curPc, R.cur, R.lanes, hcons, hpc f (hcons ▸ List.mem_cons_self)]

/-- Whether a target lies behind the lanes of a batch is one answer for all of them. -/
theorem anyBack (R : Ready s c b ls) (hpc : ∀ f ∈ ls, f.pc = pc) :
    (ls.any fun f => decide (q.toNat < f.pc.toNat)) = decide (q.toNat < pc.toNat) := by
  obtain ⟨f, hf⟩ := List.exists_mem_of_ne_nil ls R.some
  rw [Bool.eq_iff_iff]
  simp only [List.any_eq_true]
  exact ⟨fun ⟨g, hg, hlt⟩ => hpc g hg ▸ hlt, fun hlt => ⟨f, hf, by rw [hpc f hf]; exact hlt⟩⟩

/-- One lane of BRX whose index lies in the table, and whose entry is read, goes by the entry (R218). -/
theorem brxLane_goes {f : Fibre} {v : Nat} (htag : checkTag none (f.reg p.a.toNat) = none) (hindex : (f.val p.a.toNat).toNat ≤ p.nm1.toNat)
    (hcode : inCode (codeCap s b f) (t + 4 * (f.val p.a.toNat).toNat) 4 = true)
    (hread : codeRead s b.part (capObj (codeCap s b f)) (t + 4 * (f.val p.a.toNat).toNat) 4 f.xl = .bytes v) :
    brxLane s b p t f = .fate (.go (jumpBy f.pc (BitVec.ofNat 32 v))) := by
  have hoff : ((t : Int) + 4 * ((f.val p.a.toNat).toNat : Int)).toNat = t + 4 * (f.val p.a.toNat).toNat := by omega
  have hnonneg : ¬ (t : Int) + 4 * ((f.val p.a.toNat).toNat : Int) < 0 := by omega
  simp only [brxLane, htag, hoff, hcode, hread, Nat.not_lt.mpr hindex, hnonneg, decide_false, Bool.not_true, Bool.or_false, Bool.false_eq_true,
    if_false]

end

/-- Settles O15: every lane reads its entry (`brxLane_goes`), so nothing waits, faults or splits. -/
theorem jumpTables : Obligations.JumpTables := by
  intro h p s c b ls pc q t R hall hpc hwf hclear ht halign hlanes
  have htable : ∀ f ∈ ls, brxLane s b p (brxTable p f.pc) f = .fate (.go q) := by
    intro f hf
    obtain ⟨htag, hindex, hcode, v, hread, hq⟩ := hlanes f hf
    rw [brxTable, hpc f hf, ← ht, brxLane_goes htag hindex hcode hread, hpc f hf, hq]
    rfl
  rw [exec_brx, execBrx]
  have hlegal : (h.wf && ((Instr.brx h p).legal && brxTable p (curPc s) % 4 == 0)) = true := by
    rw [curPc_eq R hpc, brxTable, ← ht]
    have hmod : ((t : Int) % 4 == 0) = true := by simpa using by omega
    exact legal_of hwf (Bool.and_eq_true_iff.mpr ⟨hwf, hmod⟩)
  refine issue_transfers (pc := fun _ => q) (q := q) (back := decide (q.toNat < pc.toNat)) R
    (Use.Plain.passes ⟨rfl, rfl, rfl, rfl, rfl, rfl⟩ hlegal hclear nofun) hall ?_ (fun _ _ => rfl) R.mayGo
  have hres : (ls.map fun f => (f, brxLane s b p (brxTable p f.pc) f)) = ls.map fun f => (f, .fate (.go q)) :=
    List.map_congr_left fun f hf => by rw [htable f hf]
  have hnone : ∀ {β : Type}, ls.filterMap (fun _ => (none : Option β)) = [] := fun {β} =>
    List.filterMap_eq_nil_iff.mpr fun _ _ => rfl
  dsimp only
  rw [hres]
  simp only [List.filterMap_map, List.any_map, Function.comp_def, hnone, anyBack R hpc]
  simp [dedup, holdPages, List.filterMap_eq_map']

end Sys2Proof.Machine
end

section
/-!
LAWS. The end of an issue in which no lane stops: what it leaves of each lane (`finish_lane`), and of the rest (`finish_rest`).
-/
namespace Sys2Proof.Machine

section
variable {s t : State} {ls : List Fibre} {a : Acted}

theorem mem_setIns_self (x : Nat) (l : List Nat) : x ∈ setIns x l := by
  induction l with
  | nil => simp [setIns]
  | cons y ys ih =>
    simp only [setIns]
    split_ifs with _ heq
    · exact List.mem_cons_self
    · rw [beq_iff_eq.mp heq]; exact List.mem_cons_self
    · exact List.mem_cons_of_mem _ ih

theorem mem_setIns_of_mem {x : Nat} (a : Nat) {l : List Nat} (h : x ∈ l) : x ∈ setIns a l := by
  induction l with
  | nil => cases h
  | cons y ys ih =>
    simp only [setIns]
    split_ifs
    · exact List.mem_cons_of_mem _ h
    · exact h
    · obtain rfl | h := List.mem_cons.mp h
      · exact List.mem_cons_self
      · exact List.mem_cons_of_mem _ (ih h)

theorem mem_distinct_of_mem {x : Nat} {l : List Nat} (h : x ∈ l) : x ∈ distinct l := by
  induction l with
  | nil => cases h
  | cons y ys ih =>
    obtain rfl | h := List.mem_cons.mp h
    · exact mem_setIns_self ..
    · exact mem_setIns_of_mem y (ih h)

theorem two_le_distinct {x y : Nat} {l : List Nat} (hx : x ∈ l) (hy : y ∈ l) (hne : x ≠ y) : 2 ≤ (distinct l).length := by
  have hx := mem_distinct_of_mem hx
  have hy := mem_distinct_of_mem hy
  match distinct l, hx, hy with
  | [z], hx, hy => exact absurd ((List.mem_singleton.mp hx).trans (List.mem_singleton.mp hy).symm) hne
  | _ :: _ :: _, _, _ => simp

/-- A fibre but for its place: its slot, its age stamp and its batch's number. -/
def Fibre.unplaced (f : Fibre) : Fibre := { f with slot := none, age := 0, bat := 0 }

/-- Every fibre of `t` is as in `s` but for its place. -/
structure SamePlaced (s t : State) : Prop where
  fibre : ∀ k, (fibre? t k).map Fibre.unplaced = (fibre? s k).map Fibre.unplaced

theorem SamePlaced.refl (s : State) : SamePlaced s s := ⟨fun _ => rfl⟩

theorem SamePlaced.trans {u : State} (h : SamePlaced s t) (h' : SamePlaced t u) : SamePlaced s u := ⟨fun k => (h'.fibre k).trans (h.fibre k)⟩

theorem SamePlaced.of_fibres (h : t.fibres = s.fibres) : SamePlaced s t := ⟨fun k => by simp only [fibre?, h]⟩

theorem setFibres_placed {g : Fibre → Fibre} (hkey : ∀ f, (g f).key = f.key) (hg : ∀ f, (g f).unplaced = f.unplaced) (s : State) (ks : List FKey) :
    SamePlaced s (setFibres s ks g) := by
  refine ⟨fun k => ?_⟩
  rw [fibre?_setFibres s ks g k hkey, Option.map_map]
  congr 1
  funext f
  simp only [Function.comp]
  split
  · exact hg f
  · rfl

theorem takeSlot_placed (s : State) (c : Cur) (ks : List FKey) (age next bid : Nat) : SamePlaced s (takeSlot s c ks age next bid) :=
  (setFibres_placed (by intro; rfl) (by intro; rfl) s ks).trans (.of_fibres rfl)

theorem placeBatch_placed (s : State) (core port : Nat) (ks : List FKey) (age next : Nat) : SamePlaced s (placeBatch s core port ks age next) := by
  unfold placeBatch
  split
  · exact setFibres_placed (by intro; rfl) (by intro; rfl) s ks
  · exact (SamePlaced.of_fibres rfl : SamePlaced s s.fresh).trans (takeSlot_placed ..)

theorem placeGroups_placed (c : Cur) (ls : List Fibre) (a : Acted) (len age next bid : Nat) (s : State) (ws : List Nat) :
    SamePlaced s (placeGroups c ls a len age next bid s ws) := by
  induction ws generalizing s with
  | nil => exact .refl s
  | cons w ws ih =>
    refine SamePlaced.trans ?_ (ih _)
    split
    · exact takeSlot_placed ..
    · exact placeBatch_placed ..

/-- The state an issue's end starts from: a split has pushed its entry (R31). -/
def splitState (a : Acted) (ls : List Fibre) (len : Nat) : State := if splitsBatch a ls len then pushAll a.s ls else a.s

/-- Where no lane stops, the end of an issue leaves each lane settled, and places it (R30). -/
theorem finish_lane (c : Cur) (b : Block) (len dist : Nat) (hstop : ∀ f ∈ ls, stopsFate (fateOf a.fates f) = false) :
    ∃ next age, ∀ k ∈ ls.map (·.key), (fibre? (finish c b ls len dist a) k).map Fibre.unplaced =
      (fibre? (splitState a ls len) k).map fun f => (f.settle a len dist next age).unplaced := by
  have hstops : (ls.map (fateOf a.fates)).filter stopsFate = [] := by
    rw [List.filter_eq_nil_iff]
    rintro x hx
    obtain ⟨f, hf, rfl⟩ := List.mem_map.mp hx
    simp [hstop f hf]
  unfold finish
  extract_lets s1 age d s2 next s3 s4 s5
  refine ⟨next, age, fun k hk => ?_⟩
  have h1 : s1 = splitState a ls len := rfl
  have h2 : s2.fibres = s1.fibres := by
    simp only [s2]
    split <;> rfl
  have h5 : SamePlaced s3 s5 := (SamePlaced.of_fibres rfl : SamePlaced s3 s4).trans (placeGroups_placed ..)
  have hdone : stopGroups b.part ls a.fates s5 (distinct (((ls.map (fateOf a.fates)).filter stopsFate).map fragOf)) = s5 := by
    rw [hstops]; rfl
  rw [hdone, h5.fibre k, ← h1]
  simp only [s3]
  rw [fibre?_setFibres _ _ _ _ (by simp), Option.map_map]
  have h3 : fibre? s2 k = fibre? s1 k := by simp only [fibre?, h2]
  rw [h3]
  cases hf : fibre? s1 k with
  | none => rfl
  | some f =>
    have hkey : (ls.map (·.key)).contains f.key = true := by rw [fibre?_key hf]; simpa using hk
    simp only [Option.map_some, Function.comp, hkey, if_true]

/-- The end of an issue leaves memory, block parts, blocks and kernels as its effect left them. -/
theorem finish_rest (c : Cur) (b : Block) (ls : List Fibre) (len dist : Nat) (a : Acted) :
    (finish c b ls len dist a).mem = a.s.mem ∧ (finish c b ls len dist a).parts = a.s.parts ∧ (finish c b ls len dist a).blocks = a.s.blocks := by
  have hrest := (finish_kept (home := True) (List.Subset.refl (ls.map (·.key))) c b len dist a).rest
  have field : ∀ {α : Type} (r : State → α), r (finish c b ls len dist a).beyondLanes = r a.s.beyondLanes := fun r => congrArg r hrest
  exact ⟨field State.mem, field State.parts, field State.blocks⟩

/-- An issue that passes every check and stops no lane settles each of its lanes. -/
theorem issue_settles {u : Use} {act : State → Block → List Fibre → Acted} {c : Cur} {b : Block} (R : Ready s c b ls) (P : u.Passes s b ls)
    (hact : act s b (ls.filter u.guard) = a) (hwait : a.wait = false) (hhole : a.hole = none) (hstop : ∀ x ∈ a.fates, stopsFate (some x.2) = false) :
    ∃ t next age, issue u act s = .next t ∧ t.mem = a.s.mem ∧ t.parts = a.s.parts ∧ t.blocks = a.s.blocks
      ∧ ∀ f ∈ ls, (fibre? t f.key).map Fibre.unplaced =
        (fibre? (splitState a ls u.len) f.key).map fun g => (g.settle a u.len (1 + u.stall) next age).unplaced := by
  have hfates : ∀ f : Fibre, stopsFate (fateOf a.fates f) = false := by
    intro f
    cases hx : fateOf a.fates f with
    | none => rfl
    | some x =>
      obtain ⟨y, hy, rfl⟩ := Option.map_eq_some_iff.mp hx
      exact hstop y (List.mem_of_find?_eq_some hy)
  have htraps : ∀ x ∈ a.fates, ∀ c i d m, x.2 ≠ .trap c i d m := by
    intro x hx c i d m htrap
    have hgo := hstop x hx
    rw [htrap] at hgo
    cases hgo
  obtain ⟨next, age, hlane⟩ := finish_lane (a := { a with renew := a.renew || u.y }) c b u.len (1 + u.stall) fun f _ => hfates f
  obtain ⟨hmem, hparts, hblocks⟩ := finish_rest c b ls u.len (1 + u.stall) { a with renew := a.renew || u.y }
  exact ⟨_, next, age, issue_ready R P a hact hwait hhole htraps, hmem, hparts, hblocks, fun f hf => hlane f.key (List.mem_map_of_mem hf)⟩

/-- A lane that can issue is ready once it no longer waits before issue (R21). -/
theorem Fibre.unwait_of_canIssue {f : Fibre} (h : f.canIssue s = true) : f.run.unwait = .ready := by
  simp only [Fibre.canIssue, Bool.and_eq_true, Bool.or_eq_true, beq_iff_eq] at h
  obtain ⟨⟨hrun | hrun, -⟩, -⟩ := h <;> rw [hrun] <;> rfl

/-- A lane that goes on is settled by its advance (R200). -/
theorem Fibre.settle_goes {f : Fibre} {pc : BitVec 44} {len : Nat} (hfate : fateOf a.fates f = none ∧ pc = f.pc + BitVec.ofNat 44 len ∨
    fateOf a.fates f = some (.go pc)) (dist next age : Nat) : (f.settle a len dist next age).unplaced = (f.advance pc dist next).unplaced := by
  obtain ⟨hfate, rfl⟩ | hfate := hfate <;> simp only [settle, hfate, advance_place] <;> rfl

@[simp] theorem Fibre.advance_joins (f : Fibre) (pc : BitVec 44) (n next : Nat) : (f.advance pc n next).joins = f.joins := by
  obtain ⟨r, p, q, o, h⟩ := f.advance_only pc n next; rw [h]

@[simp] theorem Fibre.advance_waitPc (f : Fibre) (pc : BitVec 44) (n next : Nat) : (f.advance pc n next).waitPc = f.pc := by
  obtain ⟨r, p, q, o, h⟩ := f.advance_only pc n next; rw [h]

/-- What an advance fixes of a fibre, wherever it is placed. -/
theorem Fibre.eq_of_unplaced_advance {f g : Fibre} {pc : BitVec 44} {n next : Nat} (h : g.unplaced = (f.advance pc n next).unplaced) :
    g.pc = pc ∧ g.run = f.run.unwait ∧ g.joins = f.joins ∧ g.waitPc = f.pc :=
  ⟨(congrArg Fibre.pc h).trans (f.advance_pc pc n next), (congrArg Fibre.run h).trans (f.advance_run pc n next),
    (congrArg Fibre.joins h).trans (f.advance_joins pc n next), (congrArg Fibre.waitPc h).trans (f.advance_waitPc pc n next)⟩

/-- A lane of a list of fates, one for each lane of a list: lanes of one key have one record. -/
theorem fateOf_lanes {gs : List Fibre} {x : Fibre → Fate} {f : Fibre} (hkeys : ∀ g ∈ gs, g.key = f.key → g = f) :
    fateOf (gs.map fun g => (g.key, x g)) f = if f ∈ gs then some (x f) else none := by
  split
  · rename_i hf
    exact fateOf_map gs x f ⟨f, hf, rfl⟩ fun g hg hkey => by rw [hkeys g hg hkey]
  · rename_i hf
    have hnone : (gs.map fun g => (g.key, x g)).find? (fun p => p.1 == f.key) = none := by
      rw [List.find?_eq_none]
      rintro y hy
      obtain ⟨g, hg, rfl⟩ := List.mem_map.mp hy
      exact fun hkey => hf (hkeys g hg (beq_iff_eq.mp hkey) ▸ hg)
    simp [fateOf, hnone]

/-- Lanes of a batch with one key are one fibre. -/
theorem Ready.key_eq {c : Cur} {b : Block} (R : Ready s c b ls) {f g : Fibre} (hf : f ∈ ls) (hg : g ∈ ls) (hkey : g.key = f.key) : g = f :=
  Option.some.inj ((R.own g hg).symm.trans (hkey ▸ R.own f hf))

end

end Sys2Proof.Machine
end

section
/-!
PROOFS. O16: a BRA whose lanes disagree (R30, R31, R217).
-/
namespace Sys2Proof.Machine

section
variable {h : Head} {s : State} {c : Cur} {b : Block} {ls : List Fibre} {pc q : BitVec 44}

/-- A branch with lanes that go to two places splits its batch (R30). -/
theorem splitsBatch_branch {a : Acted} {len : Nat} {f g : Fibre} {x y : BitVec 44} (hbranch : a.branch = true) (hf : f ∈ ls) (hg : g ∈ ls)
    (hx : nextPc a.fates len f = some x) (hy : nextPc a.fates len g = some y) (hne : x ≠ y) : splitsBatch a ls len = true := by
  have mem : ∀ {f x}, f ∈ ls → nextPc a.fates len f = some x → x.toNat ∈ (ls.filterMap (nextPc a.fates len)).map BitVec.toNat :=
    fun hf hx => List.mem_map_of_mem (List.mem_filterMap.mpr ⟨_, hf, hx⟩)
  have htwo := two_le_distinct (mem hf hx) (mem hg hy) fun e => hne (BitVec.eq_of_toNat_eq e)
  simp [splitsBatch, hbranch, htwo]

theorem fibre?_pushAll {f : Fibre} (hf : fibre? s f.key = some f) (hmem : f ∈ ls) :
    fibre? (pushAll s ls) f.key = some { f with
      joins := ((freeJoin (usedJoins s) (usedJoins s).length s.nextJoin, (laneMask ls).toNat) :: f.joins).take 16 } := by
  rw [show fibre? (pushAll s ls) f.key = fibre? (setFibres s (ls.map (·.key)) fun f =>
      { f with joins := pushJoin (freeJoin (usedJoins s) (usedJoins s).length s.nextJoin, (laneMask ls).toNat) f.joins }) f.key from rfl,
    fibre?_setFibres s (ls.map (·.key)) _ f.key (by intro; rfl), hf, Option.map_some, if_pos (by simpa using ⟨f, hmem, rfl⟩)]
  rfl

end

/-- Settles O16: the lanes have two targets, so that the batch splits (`splitsBatch_branch`) and each lane is settled with the entry on its stack. -/
theorem branchSplits : Obligations.BranchSplits := by
  intro h p s c b ls pc q gs R hwf hpc hsome hnot hne
  have hmem : ∀ f ∈ ls, f ∈ gs ↔ (f.pred h.g.toNat != h.gn) = true := fun f hf => by simp [gs, guardTrue, hf]
  obtain ⟨a, ha, hsplit, hfates⟩ : ∃ a : Acted, transfer s (gs.map fun f => (f.key, .go (jumpBy f.pc p.disp)))
      (gs.any fun f => decide ((jumpBy f.pc p.disp).toNat < f.pc.toNat)) = a ∧ splitState a ls 8 = pushAll s ls
      ∧ ∀ f ∈ ls, fateOf a.fates f = if (f.pred h.g.toNat != h.gn) = true then some (.go q) else none := by
    have hfates : ∀ f ∈ ls, fateOf (gs.map fun f => (f.key, Fate.go (jumpBy f.pc p.disp))) f =
        if (f.pred h.g.toNat != h.gn) = true then some (.go q) else none := by
      intro f hf
      rw [fateOf_lanes (gs := gs) (x := fun f => .go (jumpBy f.pc p.disp)) fun g hg hkey => R.key_eq hf (List.mem_filter.mp hg).1 hkey]
      simp only [hmem f hf, jumpBy, hpc f hf, q]
    refine ⟨_, rfl, ?_, hfates⟩
    obtain ⟨f, hf⟩ := List.exists_mem_of_ne_nil gs hsome
    have hfl := (List.mem_filter.mp hf).1
    obtain ⟨g, hg, hout⟩ : ∃ g ∈ ls, g ∉ gs := by
      by_contra hall
      exact hnot (List.filter_eq_self.mpr fun g hg => (hmem g hg).mp (not_not.mp fun hout => hall ⟨g, hg, hout⟩))
    refine if_pos (splitsBatch_branch (x := q) (y := pc + 8) rfl hfl hg ?_ ?_ hne)
    · simp only [nextPc, transfer, acted, hfates f hfl, if_pos ((hmem f hfl).mp hf)]
    · simp only [nextPc, transfer, acted, hfates g hg, if_neg (mt (hmem g hg).mpr hout), hpc g hg]
      rfl
  have hstop : ∀ x ∈ a.fates, stopsFate (some x.2) = false := by
    subst ha
    intro x hx
    obtain ⟨f, -, rfl⟩ := List.mem_map.mp hx
    rfl
  rw [exec_bra, execBra]
  obtain ⟨t, next, age, ht, htmem, hparts, hblocks, hlane⟩ := issue_settles (u := useOf h (Instr.bra h p).legal)
    (act := fun s _ ls => transfer s (ls.map fun f => (f.key, .go (jumpBy f.pc p.disp))) (ls.any fun f => decide ((jumpBy f.pc p.disp).toNat < f.pc.toNat))) R
    (Use.Plain.passes ⟨rfl, rfl, rfl, rfl, rfl, rfl⟩ (legal_of hwf hwf) clear_nil nofun) ha (by subst ha; rfl) (by subst ha; rfl) hstop
  refine ⟨t, ht, by rw [htmem, ← ha]; rfl, by rw [hparts, ← ha]; rfl, by rw [hblocks, ← ha]; rfl, fun f hf => ?_⟩
  have hfin := hlane f hf
  rw [show (useOf h (Instr.bra h p).legal).len = 8 from rfl, hsplit, fibre?_pushAll (R.own f hf) hf, Option.map_some, Option.map_eq_some_iff] at hfin
  obtain ⟨g, hg, hplaced⟩ := hfin
  set e := (freeJoin (usedJoins s) (usedJoins s).length s.nextJoin, (laneMask ls).toNat)
  have hgoes : g.unplaced = (Fibre.advance { f with joins := (e :: f.joins).take 16 } (if (f.pred h.g.toNat != h.gn) = true then q else pc + 8)
      (1 + h.stall.toNat) next).unplaced := by
    refine hplaced.trans (Fibre.settle_goes ?_ _ next age)
    have hfate := hfates f hf
    rw [show fateOf a.fates { f with joins := (e :: f.joins).take 16 } = fateOf a.fates f from rfl, hfate]
    split_ifs
    · exact .inr rfl
    · exact .inl ⟨rfl, by rw [hpc f hf]; rfl⟩
  obtain ⟨hgpc, hrun, hjoins, -⟩ := Fibre.eq_of_unplaced_advance hgoes
  exact ⟨g, hg, hgpc, hrun.trans (Fibre.unwait_of_canIssue (R.can f hf)), hjoins⟩

end Sys2Proof.Machine
end

section
/-!
LAWS. What an issue answers whose checks pass, by the effect of its instruction: the end of the issue (`issue_concludes`), a wait before issue
(`issue_waits`), a trap of the whole batch (`issue_traps_all`).
-/
namespace Sys2Proof.Machine

section
variable {s : State} {c : Cur} {b : Block} {ls : List Fibre} {use : Use} {act : State → Block → List Fibre → Acted} {code : Nat}

/-- An issue whose checks all pass comes to its end with the instruction's effect on the guard-true lanes (R197, R199). -/
theorem issue_concludes (R : Ready s c b ls) (P : use.Passes s b ls) : issue use act s = conclude s c b ls use (act s b (ls.filter use.guard)) := by
  have hhead : ls.head?.bind (fun f => block? s f.blk) = some b := by
    obtain ⟨f, fs, hcons⟩ := List.exists_cons_of_ne_nil R.some
    rw [hcons, List.head?_cons, Option.bind_some]
    exact R.blk f (hcons ▸ List.mem_cons_self)
  have hcan : ls.all (Fibre.canIssue s) = true := List.all_eq_true.mpr R.can
  have hneeds : ls.any (needsHome use) = false := List.any_eq_false.mpr fun f hf => by simp [P.here f hf]
  have hrest : ls.filter (fun f => (fateOf ([] : List (FKey × Fate)) f).isNone) = ls := by simp
  have hlost : (use.mx && ls.any (·.lost)) = false := by
    cases hmx : use.mx with
    | false => rfl
    | true => exact List.any_eq_false.mpr fun f hf => by simp [P.lost hmx f hf]
  have hinter : ls.any (interlocked use) = false := by
    refine List.any_eq_false.mpr fun f hf => ?_
    simp only [interlocked, Bool.not_eq_true, List.any_eq_false, Bool.or_eq_true, not_or]
    intro o ho v hv
    have hnot := (P.clear f hf).2.1 o ho v hv
    simpa using hnot
  have hspad : spadHeld use ls = false := by
    cases hany : ls.any Fibre.spadLoads with
    | false => simp [spadHeld, hany]
    | true =>
      obtain ⟨f, hf, hload⟩ := List.any_eq_true.mp hany
      simp only [spadHeld, hany, Bool.true_and, List.any_eq_false, Bool.not_eq_true, Bool.or_eq_false_iff]
      intro g hg v hv
      have hnot := (P.clear f hf).2.2 hload g hg v hv
      simpa using hnot
  have hempty : ls.isEmpty = false := by simp [R.some]
  simp only [issue, R.cur, R.lanes, hhead, hcan, hneeds, R.cmp, hrest, preissue_none R P, hlost, hinter, hspad, hempty, List.nil_append,
    Bool.not_true, Bool.or_false, Bool.false_eq_true, if_false]

/-- An instruction that waits before issue: its lanes wait in the state that its effect gives (R21). -/
theorem issue_waits {e : State} {gs : List Fibre} (R : Ready s c b ls) (P : use.Passes s b ls) (hgs : ls.filter use.guard = gs)
    (hact : act s b gs = actWait e) :
    issue use act s = .next (waitBatch e ls use.mx) := by
  have hnone : ls.any (trapWaits []) = false := List.any_eq_false.mpr fun f _ => by simp [trapWaits, trapFated]
  rw [issue_concludes R P, hgs, hact, conclude]
  simp only [actWait, acted, hnone, Bool.false_eq_true, if_false, if_true]

/-- A trap of all lanes of a batch, with CODE as DETAIL: it is taken, and the age is renewed where the instruction says so (R8, R35, R353). -/
theorem conclude_traps (hls : ls ≠ []) (H : AtHome ls) (T : CanTrap s b ls code) (detail : Nat) (cmp : Bool) :
    conclude s c b ls use (acted s (trapAll ls code detail cmp)) = .next (trapOf s c b ls code 0 detail cmp use.y) := by
  obtain ⟨houts, hcell⟩ := T
  have hvs : ∀ x ∈ vectorCells s b ls (trapAll ls code detail cmp), mapped x = true ∧ rowWaits s x = false := by
    intro x hx
    rw [vectorCells_trapAll] at hx
    cases hv : vectorCell s b.part code ls with
    | none => simp [hv] at hx
    | some y => rw [hv] at hx; exact List.eq_of_mem_replicate hx ▸ hcell y hv
  have hwaits : ls.any (trapWaits (trapAll ls code detail cmp)) = false :=
    List.any_eq_false.mpr fun f hf => by simp [trapWaits, houts f hf]
  have hgoers : trapGoers (trapAll ls code detail cmp) ls = [] :=
    List.filter_eq_nil_iff.mpr fun f hf => by simp [Fibre.away, H f hf]
  have hrows : (vectorCells s b ls (trapAll ls code detail cmp)).find? (rowWaits s) = none :=
    List.find?_eq_none.mpr fun x hx => by simp [(hvs x hx).2]
  have hmapped : (vectorCells s b ls (trapAll ls code detail cmp)).find? (fun x => !mapped x) = none :=
    List.find?_eq_none.mpr fun x hx => by simp [(hvs x hx).1]
  have hfin := finish_trapped (c := c) (a := { acted (readVector s b code ls) (trapAll ls code detail cmp) with renew := use.y }) hls rfl
    (fun f hf => fateOf_trapAll hf detail cmp) rfl rfl use.len (1 + use.stall)
  simp only [conclude, acted, hwaits, hgoers, hrows, hmapped, foldl_touch_vectorCells hls, released, List.foldl_nil, Bool.not_true,
    Bool.false_eq_true, if_false, Bool.false_or]
  exact congrArg _ hfin

/-- An instruction whose effect is a trap of every lane takes it. -/
theorem issue_traps_all {detail : Nat} {cmp : Bool} (R : Ready s c b ls) (P : use.Passes s b ls) (H : AtHome ls) (T : CanTrap s b ls code)
    (hall : ls.filter use.guard = ls) (hact : act s b ls = acted s (trapAll ls code detail cmp)) :
    issue use act s = .next (trapOf s c b ls code 0 detail cmp use.y) := by
  rw [issue_concludes R P, hall, hact]
  exact conclude_traps R.some H T detail cmp

end

end Sys2Proof.Machine
end

section
/-!
PROOFS. O19: YIELD, WAITC and MARK (R221, R222, R224).
-/
namespace Sys2Proof.Machine

section
variable {h : Head} {s : State} {c : Cur} {b : Block} {ls : List Fibre}

/-- A change that leaves every fibre alone leaves it standing. -/
theorem LaneKept.stay {home : Prop} {t : State} (hkept : LaneKept home [] s t) : LanesStay s t :=
  ⟨(congrArg State.blocks hkept.rest :), (congrArg State.kernels hkept.rest :), fun k => by rw [hkept.fibres k nofun]⟩

theorem noteWait_stay (s : State) (a : Nat) : LanesStay s (noteWait s a) := (noteWait_kept (home := True) s a).stay

theorem write_stay (s : State) (a n v : Nat) : LanesStay s (s.write a n v) := .of_fibres rfl rfl rfl

theorem devWrite_stay (s : State) (a n v : Nat) : LanesStay s (devWrite s a n v) := by
  unfold devWrite
  split
  · exact (noteWait_stay s a).trans (.of_fibres rfl rfl rfl)
  · exact (touch_stay s a).trans (write_stay ..)

theorem traceWrite_stay (s : State) (b : Block) (f : Fibre) (kind code data : Nat) : LanesStay s (traceWrite s b f kind code data) := by
  unfold traceWrite
  extract_lets ctl logn p head phase r t
  refine .ite (.refl s) (.ite (setPartn_stay ..) ?_)
  exact (devWrite_stay ..).trans (setPartn_stay ..)

theorem countMark_stay (s : State) (b : Block) (code : Nat) : LanesStay s (countMark s b code) := .ite (setPartn_stay ..) (.refl s)

theorem exec_waitc (p : WaitcP) : exec (.waitc h p) s = execWaitc h p s := rfl
theorem exec_mark (p : CodeP) : exec (.mark h p) s = execMark h p s := rfl

/-- YIELD with some guard-true lane renews the age of the batch (R35, R221). -/
theorem yieldOp_renews (R : Ready s c b ls) (hwf : (Instr.yieldOp h).wellFormed = true) (hsome : guardTrue h.g h.gn ls ≠ []) :
    exec (.yieldOp h) s = .next (goOn s c ls 8 (1 + h.stall.toNat) true) := by
  have hgo := issue_goOn (u := useOf h (Instr.yieldOp h).legal) (act := fun s _ ls => { acted s [] with renew := !ls.isEmpty }) R
    (Use.Plain.passes ⟨rfl, rfl, rfl, rfl, rfl, rfl⟩ (legal_of hwf hwf) clear_nil nofun) s true
    (by rw [show ls.filter (useOf h (Instr.yieldOp h).legal).guard = guardTrue h.g h.gn ls from rfl]; simp [hsome])
    (fun p => by simp [trialDelay, R.trial]) R.mayGo.lanes
  exact hgo

/-- The count that WAITC compares: its class's counter, and for rows the once cuts to come (R222). -/
def waitCount (p : WaitcP) (f : Fibre) : Nat := if p.cls == 2 then f.rowCount else f.counter p.cls.toNat

theorem waitCount_eq (p : WaitcP) (f : Fibre) : waitCount p f =
    (f.ops.filter fun o => o.cls == p.cls.toNat).length + (if p.cls = 2 then (f.outs.filter Out.once).length else 0) := by
  simp only [waitCount, beq_iff_eq]
  split
  · rename_i hrow
    simp [Fibre.rowCount, Fibre.counter, hrow]
  · rfl

/-- No check before issue stops a WAITC of lanes that have not lost the engine it waits for (R222, R300). -/
theorem waitc_passes {p : WaitcP} (hwf : (Instr.waitc h p).wellFormed = true) (hlost : p.cls = 1 → ∀ f ∈ ls, f.lost = false) :
    Use.Passes { useOf h (Instr.waitc h p).legal with mx := p.cls == 1 } s b ls where
  early := rfl
  legal := legal_of (Bool.and_elim_left hwf) hwf
  feat := nofun
  priv _ _ := Nat.zero_le _
  clear := clear_nil
  here f _ := by cases hg : f.guest <;> simp [needsHome, hg, useOf]
  tiles := nofun
  lost hmx := hlost (beq_iff_eq.mp hmx)

end

/-- Settles O19: YIELD issues with a renewal, WAITC issues or waits by its counts (`waitCount_eq`), MARK issues with its record. -/
theorem yieldWaitMark : Obligations.YieldWaitMark := by
  intro h s c b ls gs R
  refine ⟨yieldOp_renews R, fun p hwf hlost => ?_, fun p hwf f fs hgs => ?_⟩
  · simp only [← waitCount_eq]
    refine ⟨fun hle => ?_, fun ⟨f, hf, hlt⟩ => ?_⟩
    · rw [Completes, exec_waitc, execWaitc]
      refine issue_stay R (waitc_passes hwf hlost) (if_pos ?_) (.refl s)
      exact List.all_eq_true.mpr fun f hf => decide_eq_true (hle f hf)
    · rw [exec_waitc, execWaitc]
      refine issue_waits R (waitc_passes hwf hlost) rfl (if_neg ?_)
      exact fun hall => absurd (of_decide_eq_true (List.all_eq_true.mp hall f hf)) (Nat.not_le.mpr hlt)
  · rw [Completes, exec_mark, execMark]
    exact issue_go R (Use.Plain.passes ⟨rfl, rfl, rfl, rfl, rfl, rfl⟩ (legal_of hwf hwf) clear_nil nofun) hgs rfl
      ((traceWrite_stay ..).trans (countMark_stay ..)).go

end Sys2Proof.Machine
end

section
/-!
PROOFS. O21: UTRAP, BKPT and form A operations that fail their tag check (R86, R224, R353).
-/
namespace Sys2Proof.Machine

section
variable {h : Head} {s : State}

theorem exec_utrap (p : CodeP) : exec (.utrap h p) s = execUtrap h p s := rfl
theorem exec_bkpt (p : CodeP) : exec (.bkpt h p) s = execBkpt h p s := rfl

/-- A lane operation all of whose lanes fail one check traps in each of them and writes nothing. -/
theorem regAct_failing {lat : Option Nat} {check : Fibre → Option Nat} {out : Fibre → List PendDest} {ls : List Fibre} {code : Nat}
    (hcheck : ∀ f ∈ ls, check f = some code) : regAct lat check out s ls = acted s (trapAll ls code 0 false) := by
  have hok : ls.filter (fun f => (check f).isNone) = [] := List.filter_eq_nil_iff.mpr fun f hf => by simp [hcheck f hf]
  have htraps : trapsOf check ls = trapAll ls code 0 false := by
    rw [trapsOf, trapAll, ← List.filterMap_eq_map]
    exact List.filterMap_congr fun f hf => by rw [hcheck f hf]; rfl
  simp only [regAct, hok, htraps, onLanes, List.map_nil, setFibres_nil]

end

/-- Settles O21: each of them issues with a trap of every lane as its effect (`issue_traps_all`). -/
theorem lanesTrap : Obligations.LanesTrap := by
  refine ⟨fun h p s c b ls R hall H => ⟨fun hwf T => ?_, fun hwf T => ?_⟩, fun o x s c b ls code hwf R H hall hclear hcheck T => ?_⟩
  · rw [exec_utrap, execUtrap]
    exact issue_traps_all R (Use.Plain.passes ⟨rfl, rfl, rfl, rfl, rfl, rfl⟩ (legal_of hwf hwf) clear_nil nofun) H T hall rfl
  · rw [exec_bkpt, execBkpt]
    exact issue_traps_all R (Use.Plain.passes ⟨rfl, rfl, rfl, rfl, rfl, rfl⟩ (legal_of hwf hwf) clear_nil nofun) H T hall rfl
  · rw [exec_instrA, op6A]
    refine issue_traps_all R (Use.Plain.passes ⟨rfl, rfl, rfl, rfl, rfl, rfl⟩ ((legal_instrA o x).symm.trans hwf) hclear nofun) H T
      ((List.filter_congr fun f _ => Bool.bne_false _).trans hall) (regAct_failing fun f hf => ?_)
    exact congrArg (fun x => minCodes [none, x]) (hcheck f hf)

end Sys2Proof.Machine
end

section
/-!
PROOFS. O18: EXIT and JOIN (R28, R32, R221).
-/
namespace Sys2Proof.Machine

/-- An atomic of one word on memory, outstanding. -/
def pendingAtom : Out :=
  { id := 0, kind := .atom, spad := false, addr := 0, w := 4, d := 2, tags := [tRaw], fe := 0, atBank := false, scope := 0, acq := false, aop := 2, b := 5
    e := 0, obj := 0, off := 0, hash := 0, pc := 0x100 }

/-- A second record of the lane's key, in no batch, with an atomic outstanding. -/
def atomTwin : Fibre := { callLane with slot := none, outs := [pendingAtom] }

def atomFibres : State := { twinFibres with fibres := [callLane, atomTwin] }

theorem atomFibres_ready : Ready atomFibres { core := 0, port := 0, slot := 0 } placeBlock [callLane] where
  cur := rfl
  lanes := by decide
  some := by decide
  own := by decide
  blk := by decide
  can := by decide
  same := by decide
  cmp := by decide
  short := by decide
  trial := by decide

/-- The outcome is a state in which the key has a fibre. -/
def lists (k : FKey) : Result → Bool
  | .next t => (fibre? t k).isSome
  | _ => false

/-- Refutes O18: EXIT ends every record of a lane's key, and one with an atomic outstanding keeps the context (R28, R237), while the statement asks for a
free context where the lane's own record has none. They are one where a key is listed once, which no hypothesis says: `atomFibres` lists a key twice, once
with an atomic outstanding. -/
theorem not_exitAndJoin : ¬ Obligations.ExitAndJoin := by
  intro hall
  obtain ⟨hexit, -⟩ := hall callHead atomFibres _ _ _ atomFibres_ready
  obtain ⟨t, hexec, -, -, hlanes⟩ := hexit (by decide)
  have hfree := hlanes callLane List.mem_cons_self
  rw [if_pos (by decide), if_pos (by decide)] at hfree
  have hkept : lists callLane.key (exec (.exit callHead) atomFibres) = true := by decide
  rw [hexec, lists, hfree] at hkept
  exact absurd hkept Bool.false_ne_true

end Sys2Proof.Machine
end

section
/-!
LAWS. Spawn bins and SPAWN (R26, R27, R29): what a launch changes (`launchBin_places`), and that SPAWN adds one fibre (`spawnOne_makes`).
-/
namespace Sys2Proof.Machine

/-- In `t` blocks and kernels are as in `s`, and every fibre but for its place. -/
structure PlacesOnly (s t : State) : Prop where
  blocks : t.blocks = s.blocks
  kernels : t.kernels = s.kernels
  placed : SamePlaced s t

section
variable {s t u : State} {b : Block} {f : Fibre} {entry : BitVec 44} {arg : VReg} {timer : Nat}

theorem PlacesOnly.refl (s : State) : PlacesOnly s s := ⟨rfl, rfl, .refl s⟩

theorem PlacesOnly.trans (h : PlacesOnly s t) (h' : PlacesOnly t u) : PlacesOnly s u :=
  ⟨h'.blocks.trans h.blocks, h'.kernels.trans h.kernels, h.placed.trans h'.placed⟩

theorem PlacesOnly.foldl {α : Type} {g : State → α → State} (hg : ∀ s x, PlacesOnly s (g s x)) (l : List α) (s : State) :
    PlacesOnly s (l.foldl g s) := by
  induction l generalizing s with
  | nil => exact .refl s
  | cons x xs ih => exact (hg s x).trans (ih _)

theorem setPort_places (s : State) (core port : Nat) (g : Port → Port) : PlacesOnly s (setPort s core port g) := ⟨rfl, rfl, .of_fibres rfl⟩

theorem placeBatch_places (s : State) (core port : Nat) (ks : List FKey) (age next : Nat) : PlacesOnly s (placeBatch s core port ks age next) := by
  refine ⟨?_, ?_, placeBatch_placed ..⟩ <;> unfold placeBatch <;> split <;> rfl

theorem launchBin_places (s : State) (core port idx : Nat) : PlacesOnly s (launchBin s core port idx) := by
  unfold launchBin
  split
  · exact .refl s
  · exact (setPort_places ..).trans (placeBatch_places ..)

theorem binFor_places (s : State) (core port bp : Nat) (entry : BitVec 44) (timer : Nat) : PlacesOnly s (binFor s core port bp entry timer).1 := by
  unfold binFor
  extract_lets p t used i
  split
  · exact .refl s
  · refine PlacesOnly.trans ?_ (setPort_places ..)
    simp only [t]
    split
    · exact .refl s
    · split
      · exact launchBin_places ..
      · exact .refl s

theorem launchZero_places (s : State) (core port : Nat) : PlacesOnly s (launchZero s core port) :=
  PlacesOnly.foldl (g := fun t (x : Bin) => launchBin t core port x.idx) (fun t x => launchBin_places t core port x.idx) _ s

/-- A fibre that is listed stays listed, and stands as it stood. -/
theorem PlacesOnly.standing (h : PlacesOnly s t) (k : FKey) : (fibre? t k).map Fibre.standing = (fibre? s k).map Fibre.standing := by
  have hplaced := congrArg (Option.map Fibre.standing) (h.placed.fibre k)
  rwa [Option.map_map, Option.map_map] at hplaced

theorem PlacesOnly.stay (h : PlacesOnly s t) : LanesStay s t := ⟨h.blocks, h.kernels, h.standing⟩

/-- A state with one more fibre at the end of the list. -/
def addFibre (s : State) (f : Fibre) : State := { s with fibres := s.fibres ++ [f] }

theorem fibre?_addFibre_old {k : FKey} {g : Fibre} (h : fibre? s k = some g) (f : Fibre) : fibre? (addFibre s f) k = some g := by
  rw [fibre?, addFibre, List.find?_append, ← fibre?, h]; rfl

theorem fibre?_addFibre_new (h : fibre? s f.key = none) : fibre? (addFibre s f) f.key = some f := by
  rw [fibre?, addFibre, List.find?_append, ← fibre?, h]; simp

/-- The window of a child: the argument in v0, the parent's fibre id in v1, 0 elsewhere, tagged RAW (R27). -/
def childRegs (f : Fibre) (arg : VReg) : List VReg := ((zeroRegs f.regs.length).set 0 arg).set 1 { val := BitVec.ofNat 32 f.fid, tag := tI32 }

/-- SPAWN made the child of a key in a state: it is added to the fibres, and bins and slots alone change besides. -/
structure Spawned (s : State) (b : Block) (f : Fibre) (entry : BitVec 44) (arg : VReg) (t : State) (k : FKey) (fid : Nat) : Prop where
  fresh : ∀ g ∈ s.fibres, g.key ≠ k
  core : k.core = f.key.core
  port : k.port = f.key.port
  least : fid = (lowestFree ((aliveOf s b.id).map (·.fid)) Config.maxFibres).getD 0
  child : ∃ u now, PlacesOnly s u ∧ PlacesOnly (addFibre u (newFibre b k f.bp fid entry (childRegs f arg) now)) t

/-- The contexts of a fibre's port that no fibre has. -/
def freeCtxs (s : State) (f : Fibre) : List Nat :=
  (List.range Config.ctxPerPort).filter fun c =>
    !((s.fibres.filter (fun g => g.key.core == f.key.core && g.key.port == f.key.port)).map (·.key.ctx)).contains c

theorem fresh_of_mem_freeCtxs {x : Nat} (hx : x ∈ freeCtxs s f) : ∀ g ∈ s.fibres, g.key ≠ { f.key with ctx := x } := by
  intro g hg hkey
  have hused := (List.mem_filter.mp hx).2
  simp only [Bool.not_eq_true', List.contains_eq_mem, decide_eq_false_iff_not, List.mem_map, List.mem_filter, not_exists, not_and] at hused
  exact hused g ⟨hg, by simp [hkey]⟩ (by rw [hkey])

/-- Whether SPAWN finds no context, or the block is full, it answers false and changes nothing; else it makes a child (R26, R29). -/
theorem spawnOne_makes (s : State) (b : Block) (timer : Nat) (f : Fibre) (entry : BitVec 44) (arg : VReg) :
    (spawnOne s b timer f entry arg = (s, false) ∧ (freeCtxs s f = [] ∨ Config.maxFibres ≤ (aliveOf s b.id).length))
    ∨ ∃ t k fid, spawnOne s b timer f entry arg = (t, true) ∧ Spawned s b f entry arg t k fid := by
  unfold spawnOne
  extract_lets core port alive used held free
  split
  · rename_i hnone
    refine .inl ⟨rfl, .inl ?_⟩
    have hhead : free.head? = none := (Option.or_eq_none_iff.mp (Option.orElse_eq_or.symm.trans hnone)).2
    exact List.head?_eq_none_iff.mp hhead
  · rename_i ctx hctx
    have hmem : ctx ∈ freeCtxs s f := by
      obtain hfind | ⟨-, hhead⟩ := Option.or_eq_some_iff.mp (Option.orElse_eq_or.symm.trans hctx)
      · exact List.mem_of_find?_eq_some hfind
      · exact List.mem_of_head? hhead
    split
    · exact .inl ⟨rfl, .inr ‹_›⟩
    · extract_lets s1 q key src s2 s3 full
      refine .inr ⟨_, key, _, rfl, fresh_of_mem_freeCtxs hmem, rfl, rfl, rfl, q.1, s1.now, ?_, ?_⟩
      · have h1 : PlacesOnly s s1 := by
          simp only [s1]
          split
          · split
            · exact launchBin_places ..
            · exact .refl s
          · exact .refl s
        exact h1.trans (binFor_places ..)
      · have h3 : PlacesOnly s2 s3 := setPort_places ..
        refine h3.trans ?_
        split
        · exact launchBin_places ..
        · exact .refl s3

theorem exists_not_mem_range {used : List Nat} {n : Nat} (h : used.length < n) : ∃ i ∈ List.range n, i ∉ used := by
  by_contra hall
  have hsub : List.range n ⊆ used := fun i hi => not_not.mp fun hout => hall ⟨i, hi, hout⟩
  have hlen := (List.subperm_of_subset List.nodup_range hsub).length_le
  rw [List.length_range] at hlen
  omega

/-- With fewer numbers used than there are, one is free, and the least free one is in use nowhere. -/
theorem lowestFree_free {used : List Nat} {n : Nat} (h : used.length < n) : (lowestFree used n).getD 0 ∉ used := by
  obtain ⟨i, hi, hout⟩ := exists_not_mem_range h
  cases hfree : lowestFree used n with
  | none => exact absurd (List.find?_eq_none.mp hfree i hi) (by simp [hout])
  | some j => simpa using List.find?_some hfree

theorem fibre?_eq_none {k : FKey} (h : ∀ g ∈ s.fibres, g.key ≠ k) : fibre? s k = none :=
  List.find?_eq_none.mpr fun g hg => by simpa using h g hg

/-- The child that SPAWN made, wherever its bin has placed it. -/
theorem Spawned.child_eq {k : FKey} {fid : Nat} (h : Spawned s b f entry arg t k fid) :
    ∃ now child, fibre? t k = some child ∧ child.unplaced = (newFibre b k f.bp fid entry (childRegs f arg) now).unplaced := by
  obtain ⟨u, now, hu, ht⟩ := h.child
  have hnone : fibre? u k = none := by
    have hplaced := hu.placed.fibre k
    rw [fibre?_eq_none h.fresh, Option.map_none, Option.map_eq_none_iff] at hplaced
    exact hplaced
  have hplaced := ht.placed.fibre k
  have hadded : fibre? (addFibre u (newFibre b k f.bp fid entry (childRegs f arg) now)) k = _ := fibre?_addFibre_new hnone
  rw [hadded, Option.map_some, Option.map_eq_some_iff] at hplaced
  obtain ⟨child, hchild, heq⟩ := hplaced
  exact ⟨now, child, hchild, heq⟩

/-- A batch that may go on may go on where SPAWN has made a child. -/
theorem Spawned.mayGo {ls : List Fibre} {k : FKey} {fid : Nat} {d : Block} (h : Spawned s d f entry arg t k fid) (hgo : MayGo s b ls) : MayGo t b ls := by
  obtain ⟨u, now, hu, ht⟩ := h.child
  have hadd : MayGo (addFibre u (newFibre d k f.bp fid entry (childRegs f arg) now)) b ls := by
    have hug := hgo.go hu.stay.go
    refine ⟨fun x hx => ?_, hug.trial⟩
    obtain ⟨g, hg, hin, hpre⟩ := hug.lanes x hx
    exact ⟨g, fibre?_addFibre_old hg _, hin, hpre⟩
  exact hadd.go ht.stay.go

end

end Sys2Proof.Machine
end

section
/-!
PROOFS. O17: SPAWN of one lane (R26, R27, R29, R220).
-/
namespace Sys2Proof.Machine

section
variable {s : State} {b : Block} {f : Fibre} {entry : BitVec 44} {arg : VReg} {ls : List Fibre}

theorem exec_spawn (h : Head) (p : SpawnP) : exec (.spawn h p) s = execSpawn h p s := rfl

theorem spawnOne_mayGo (timer : Nat) (hgo : MayGo s b ls) (d : Block) : MayGo (spawnOne s d timer f entry arg).1 b ls := by
  obtain ⟨heq, -⟩ | ⟨t, k, fid, heq, hmade⟩ := spawnOne_makes s d timer f entry arg
  · rw [heq]; exact hgo
  · rw [heq]; exact hmade.mayGo hgo

/-- What SPAWN of one lane leaves: its child, PD, and launches of bins whose timer value is 0. -/
def spawnDone (s : State) (b : Block) (p : SpawnP) (f : Fibre) : State :=
  let q := spawnOne s b (((kernel? s b.kernel).map (·.binTimer)).getD 256) f (f.pc + (p.disp.signExtend 44 <<< 1)) (f.reg p.a.toNat)
  launchZero (setFibre q.1 f.key fun g => g.writeNow (.pred p.pd.toNat q.2)) f.key.core f.key.port

theorem spawnDone_mayGo {p : SpawnP} (hgo : MayGo s b ls) : MayGo (spawnDone s b p f) b ls :=
  ((spawnOne_mayGo _ hgo b).go (setFibre_writeNow_stay ..).go).go (launchZero_places ..).stay.go

theorem spawn_completes {h : Head} {p : SpawnP} {c : Cur} (R : Ready s c b ls) (hgs : guardTrue h.g h.gn ls = [f]) (H : AtHome ls)
    (hwf : (Instr.spawn h p).wellFormed = true) (hclear : Clear ls [p.a.toNat]) (htag : checkTag none (f.reg p.a.toNat) = none)
    (hdrained : drained s f = true) : Completes (.spawn h p) s c ls h (spawnDone s b p f) := by
  rw [Completes, exec_spawn, execSpawn]
  refine issue_mayGo R (Use.Plain.passes ⟨rfl, rfl, rfl, rfl, rfl, rfl⟩ (legal_of (Bool.and_elim_left hwf) hwf) hclear fun _ => H) hgs ?_
    (spawnDone_mayGo R.mayGo)
  simp only [laneAct, eachLane, hdrained, htag, List.all_cons, List.all_nil, Bool.and_true, Bool.not_true, Bool.false_eq_true, if_false,
    List.foldl_cons, List.foldl_nil, jumpBy]
  rfl

end

/-- Settles O17: SPAWN's effect on its one lane is `spawnOne`, which with room makes a child (`spawnOne_makes`, `Spawned.child_eq`). -/
theorem spawning : Obligations.Spawning := by
  refine ⟨?_, fun s b timer f entry arg hctx halive => ?_⟩
  · intro h p s c b ls f R hgs H hwf hclear htag q
    refine ⟨fun hdrained => ?_, fun hnot => ?_⟩
    · have hdone := spawn_completes R hgs H hwf hclear htag hdrained
      rw [spawnDone] at hdone
      exact hdone
    · rw [exec_spawn, execSpawn]
      refine issue_waits R (Use.Plain.passes ⟨rfl, rfl, rfl, rfl, rfl, rfl⟩ (legal_of (Bool.and_elim_left hwf) hwf) hclear fun _ => H) hgs ?_
      simp [hnot]
  · obtain ⟨x, hx, hfree⟩ := hctx
    obtain ⟨-, hroom⟩ | ⟨t, k, fid, heq, hmade⟩ := spawnOne_makes s b timer f entry arg
    · have hmem : x ∈ freeCtxs s f := by
        refine List.mem_filter.mpr ⟨List.mem_range.mpr hx, ?_⟩
        simp only [Bool.not_eq_true', List.contains_eq_mem, decide_eq_false_iff_not, List.mem_map, List.mem_filter, not_exists, not_and, Bool.and_eq_true,
          beq_iff_eq]
        rintro g ⟨hg, hcore, hport⟩ hctx
        exact hfree g hg (by cases hk : g.key; simp_all)
      obtain hnone | hfull := hroom
      · exact absurd hmem (hnone ▸ List.not_mem_nil)
      · exact absurd halive (Nat.not_lt.mpr hfull)
    · obtain ⟨now, child, hchild, hnew⟩ := hmade.child_eq
      have fields : ∀ {α : Type} (r : Fibre → α), (∀ g : Fibre, r g.unplaced = r g) →
          r child = r (newFibre b k f.bp fid entry (childRegs f arg) now) :=
        fun r hr => by rw [← hr child, hnew, hr]
      refine ⟨k, child, hmade.fresh, hmade.core, hmade.port, by rw [heq], by rw [heq]; exact hchild, fields Fibre.pc fun _ => rfl,
        fields Fibre.regs fun _ => rfl, fields Fibre.blk fun _ => rfl, fields Fibre.bp fun _ => rfl, fields Fibre.level fun _ => rfl,
        fields Fibre.preds fun _ => rfl, fields Fibre.joins fun _ => rfl, fields Fibre.run fun _ => rfl, fun g hg hsame => ?_⟩
      have hfid : child.fid = fid := fields Fibre.fid fun _ => rfl
      have hnot := lowestFree_free (used := (aliveOf s b.id).map (·.fid)) (n := Config.maxFibres) (by simpa using halive)
      rw [← hmade.least, ← hfid, ← hsame] at hnot
      exact hnot (List.mem_map_of_mem hg)

end Sys2Proof.Machine
end

section
/-!
LAWS. Requests of a batch all of whose lanes reach memory (R52, R58, R341), and the checks of memory operands that none of them fails.
-/
namespace Sys2Proof.Machine

section
variable {s : State} {b : Block} {gs : List Fibre} {w : Nat} {obj off cell : Fibre → Nat}

/-- Lanes with a place and no damaged byte there all reach it, and the port's state is as it was. -/
theorem reach_clean {write ue : Bool} (hgs : ∀ g ∈ gs, translate s b.part (obj g) (off g) g.xl = .place (cell g))
    (hue : ∀ g ∈ gs, (ue && s.ue (cell g) w) = false) :
    reach s b write ue w obj off gs = { s := s, miss := false, good := gs.map fun g => (g, cell g), fates := [] } := by
  have hask := ask_placed (s := s) (part := b.part) (w := write) (reqs := gs.map fun g => { f := g, obj := obj g, off := off g })
    (place := fun r => cell r.f) (by simpa using hgs)
  have hplaced : (gs.zip (gs.map fun g => some (cell g))).filterMap (fun x => x.2.map fun a => (x.1, a)) = gs.map fun g => (g, cell g) := by
    rw [← List.map_prod_left_eq_zip, List.filterMap_map]
    exact List.filterMap_eq_map (f := fun g => (g, cell g)) ▸ rfl
  have hheld : (ue && (gs.map fun g => (g, cell g)).any fun x => hurtHeld s x.1 false (obj x.1) (off x.1) x.2 w) = false := by
    cases ue with
    | false => rfl
    | true =>
      simp only [Bool.true_and, List.any_map, List.any_eq_false, Function.comp_apply, hurtHeld]
      exact fun g hg => by simp [show s.ue (cell g) w = false from hue g hg]
  have hgood : (gs.map fun g => (g, cell g)).filter (fun x => !(ue && s.ue x.2 w)) = gs.map fun g => (g, cell g) :=
    List.filter_eq_self.mpr fun x hx => by
      obtain ⟨g, hg, rfl⟩ := List.mem_map.mp hx
      simp [hue g hg]
  have hbad : (gs.map fun g => (g, cell g)).filter (fun x => ue && s.ue x.2 w) = [] :=
    List.filter_eq_nil_iff.mpr fun x hx => by
      obtain ⟨g, hg, rfl⟩ := List.mem_map.mp hx
      simp [hue g hg]
  simp only [reach, hask, List.map_map, Function.comp_def, hplaced, hheld, hgood, hbad, List.map_nil, List.append_nil, Bool.or_false, Bool.false_eq_true,
    if_false]

/-- The outstanding load of a lane at a cell (R230). -/
def memOut (s : State) (p : MemP) (f : Fibre) (cell : Nat) : Out :=
  { loadOut f .load false cell (memW p) p.d.toNat p.t 0 p.sc.toNat (capObj (capReg s f p.c.toNat)) (capOff (capReg s f p.c.toNat) (memOff p f)) with
    acq := p.qc == 6 }

theorem loadLanes_placed {p : MemP} {traps : List (FKey × Fate)} (hfit : lanesFit s gs = true)
    (hgs : ∀ g ∈ gs, translate s b.part (capObj (capReg s g p.c.toNat)) (capOff (capReg s g p.c.toNat) (memOff p g)) g.xl = .place (cell g))
    (hue : ∀ g ∈ gs, s.ue (cell g) (memW p) = false) :
    loadLanes s b p gs traps = acted (gs.foldl (fun t f => pushOut t f (memOut s p f (cell f))) s) traps := by
  have hreach := reach_clean (b := b) (write := false) (ue := true) hgs hue
  simp only [loadLanes, hreach, hfit, Bool.not_true, Bool.false_eq_true, if_false, List.foldl_map, List.append_nil]
  rfl

theorem pushOuts_stay (gs : List Fibre) (o : Fibre → Out) (s : State) : LanesStay s (gs.foldl (fun t f => pushOut t f (o f)) s) :=
  LanesStay.foldl (g := fun t f => pushOut t f (o f)) (fun t f => pushOut_stay t f (o f)) gs s

/-- The use of an instruction that looks at registers and capabilities alone, by lanes at home. -/
structure Use.Basic (u : Use) : Prop where
  early : u.early = none
  feat : u.feat = none
  priv : u.priv = 0
  tiles : u.tiles = []
  mx : u.mx = false

theorem Use.Basic.passes {u : Use} {ls : List Fibre} (hu : u.Basic) (hlegal : u.legal = true) (hclear : Clear ls (u.vr ++ u.vw)) (H : AtHome ls) :
    u.Passes s b ls where
  early := hu.early
  legal := hlegal
  feat k hk := by rw [hu.feat] at hk; cases hk
  priv f _ := by rw [hu.priv]; exact Nat.zero_le _
  clear := hclear
  here := needsHome_home H
  tiles t ht := by rw [hu.tiles] at ht; cases ht
  lost h := by rw [hu.mx] at h; cases h

/-- The weight store that a lane's LDW reads, where its check passes (R66, R234). -/
theorem weight_placed {f : Fibre} {c : CapWord} {x : Int} (hchk : weightChk s b f c x w = none) :
    translate s b.part (capObj c) (capOff c x) f.xl = .place (Config.weightBase + f.loc / 192 * 2 ^ 32 + capOff c x) := by
  have hname : objName s b.part (capObj c) = .weight (f.loc / 192) := by
    unfold weightChk at hchk
    split at hchk
    · split at hchk <;> cases hchk
    · split at hchk
      · rename_i hweight
        exact beq_iff_eq.mp hweight
      · cases hchk
  simp only [translate, hname]

end

end Sys2Proof.Machine
end

section
/-!
PROOFS. O24: LD, LDW and the query form of RED (R228, R230, R234, R241).
-/
namespace Sys2Proof.Machine

section
variable {h : Head} {s : State}

theorem exec_ld (p : MemP) : exec (.ld h p) s = execLd h p s := rfl
theorem exec_ldw (p : MemP) : exec (.ldw h p) s = execLdw h p s := rfl
theorem exec_red (p : RedP) : exec (.red h p) s = execRed h p s := rfl

end

/-- Settles O24: no lane fails a check, so that every one of them reaches its cell (`loadLanes_placed`, `reach_clean`) and notes a request. -/
theorem loadsIssue : Obligations.LoadsIssue := by
  intro h s c b ls cell gs R H hfit
  refine ⟨?_, ?_, ?_⟩
  · intro p hwf hmig hfb k hclear hlanes
    have hchk : ∀ f ∈ gs, firstTrap [(checkRegs f (offRegs p.a.toNat p.o64), 0), globalChk s b f p.c.toNat (memOff p f) (memW p) rRD] = none := by
      intro f hf
      obtain ⟨hregs, ⟨haccess, -⟩, -⟩ := hlanes f hf
      exact firstTrap_none (by simpa [globalChk] using ⟨hregs, haccess⟩)
    have hmode : (p.qc == 4 || p.qc == 5) = false :=
      Bool.or_eq_false_iff.mpr ⟨beq_eq_false_iff_ne.mpr hmig, beq_eq_false_iff_ne.mpr hfb⟩
    rw [Completes, exec_ld, execLd]
    simp only [hmode, Bool.false_eq_true, if_false]
    refine issue_stay R (Use.Basic.passes ⟨rfl, rfl, rfl, rfl, rfl⟩ (legal_of (Bool.and_elim_left hwf) hwf) (by simpa [memUse] using hclear) H) ?_
      (pushOuts_stay gs (fun f => memOut s p f (cell f)) s)
    refine Eq.trans ?_ (loadLanes_placed hfit (fun f hf => (hlanes f hf).2.1.2) fun f hf => (hlanes f hf).2.2)
    exact congrArg₂ (loadLanes s b p) (passed_all hchk) (trapped_none hchk)
  · intro p hwf k at' hclear hlanes
    have hchk : ∀ f ∈ gs, firstTrap
        [(checkRegs f (offRegs p.a.toNat p.o64), 0),
         (weightChk s b f (capReg s f p.c.toNat) (memOff p f) (memW p), infoOf ((capBase (capReg s f p.c.toNat) : Int) + memOff p f))] = none := by
      intro f hf
      obtain ⟨hregs, hweight, -⟩ := hlanes f hf
      exact firstTrap_none (by simpa using ⟨hregs, hweight⟩)
    rw [Completes, exec_ldw, execLdw]
    refine issue_stay R (Use.Basic.passes ⟨rfl, rfl, rfl, rfl, rfl⟩ (legal_of (Bool.and_elim_left hwf) hwf) (by simpa [memUse] using hclear) H) ?_
      (pushOuts_stay gs (fun f => memOut s p f (at' f)) s)
    refine Eq.trans ?_ (loadLanes_placed hfit (fun f hf => weight_placed (hlanes f hf).2.1) fun f hf => (hlanes f hf).2.2)
    exact congrArg₂ (loadLanes s b p) (passed_all hchk) (trapped_none hchk)
  · intro p hwf hq k x hclear hlanes
    have hchk : ∀ f ∈ gs, firstTrap
        [(checkRegs f (offRegs p.a.toNat p.o64), 0), globalChk s b f p.c.toNat (x f) 4 rRD,
         (if farWindow s b.part (capObj (k f)) then some cCapRights else none, infoOf ((capBase (k f) : Int) + x f))] = none := by
      intro f hf
      obtain ⟨hregs, ⟨haccess, -⟩, hfar, -⟩ := hlanes f hf
      exact firstTrap_none (by simpa [globalChk, hfar] using ⟨hregs, haccess⟩)
    rw [Completes, exec_red, execRed]
    simp only [hq, if_true]
    have hreach := reach_clean (b := b) (write := false) (ue := true) (w := 4) (obj := fun f => capObj (k f)) (off := fun f => capOff (k f) (x f))
      (fun f hf => (hlanes f hf).2.1.2) (fun f hf => (hlanes f hf).2.2.2)
    refine issue_go (gs := gs) R (Use.Basic.passes ⟨rfl, rfl, rfl, rfl, rfl⟩ (legal_of (Bool.and_elim_left hwf) hwf) (by simpa using hclear) H) rfl ?_
      (pushOuts_stay gs (fun f => loadOut f .query false (cell f) 4 p.d.toNat tI32 0 p.sc.toNat (capObj (k f)) (capOff (k f) (x f))) s).go
    simp only [k, x] at hchk hreach
    simp only [passed_all hchk, trapped_none hchk, hreach, hfit, Bool.not_true, Bool.false_eq_true, if_false, List.foldl_map, List.append_nil]
    rfl

end Sys2Proof.Machine
end

section
/-!
PROOFS. O25: ST, CAPST and RED (R231, R240, R243).
-/
namespace Sys2Proof.Machine

/-- Two folds over one list agree where their steps do in every state that the first passes through. -/
theorem foldl_congr_along {α β : Type} {P : β → Prop} {g g' : β → α → β} {l : List α} {s : β} (hs : P s)
    (hkeep : ∀ t, P t → ∀ x ∈ l, P (g t x))
    (hstep : ∀ t, P t → ∀ x ∈ l, g t x = g' t x) : l.foldl g s = l.foldl g' s := by
  induction l generalizing s with
  | nil => rfl
  | cons x xs ih =>
    rw [List.foldl_cons, List.foldl_cons, ← hstep s hs x List.mem_cons_self]
    exact ih (hkeep s hs x List.mem_cons_self) (fun t ht y hy => hkeep t ht y (List.mem_cons_of_mem x hy))
      fun t ht y hy => hstep t ht y (List.mem_cons_of_mem x hy)

section
variable {h : Head} {s t : State} {b : Block} {gs : List Fibre}

theorem exec_st (p : MemP) : exec (.st h p) s = execSt h p s := rfl
theorem exec_capst (p : MemP) : exec (.capst h p) s = execCapst h p s := rfl

/-- No lane's store waits for room or for an atomic's feed (R58, R395). -/
theorem stores_fit (hhash : hashWaits s b gs = false) (hroom : ∀ f ∈ gs, fifoRoom s f.loc f.key.port gs.length = true) :
    (hashWaits s b gs || gs.any fun f => !fifoRoom s f.loc f.key.port gs.length) = false := by
  rw [hhash, Bool.false_or, List.any_eq_false]
  exact fun f hf => by simp [hroom f hf]

theorem capReg_congr (hparts : t.parts = s.parts) (hnow : t.now = s.now) (f : Fibre) (n : Nat) : capReg t f n = capReg s f n := by
  simp only [capReg, partOf, part?, hparts, hnow]

theorem gated_congr (hsys : t.sys = s.sys) (obj : Nat) : gated t b obj = gated s b obj := by
  simp only [gated, rrMode, sysGet_congr hsys]

/-- One lane's RED enters its FIFO, with its capability as the batch's state gives it (R240). -/
def redPush (p : RedP) (s : State) (b : Block) (t : State) (f : Fibre) : State :=
  let k := capReg s f p.c.toNat
  let off := capOff k (offVal f p.a.toNat p.o64)
  let v := pairVal f p.b.toNat (p.rfmt == 4)
  feedLane (pushStore t f b (.red p.rop.toNat p.rfmt.toNat) false (capObj k) off (if p.rfmt == 4 then 8 else 4) v p.sc.toNat p.rel f.fhash none)
    b f (capObj k) off (if p.rfmt == 4 then 3 else 2) v

theorem redPush_stay (p : RedP) (s : State) (b : Block) (t : State) (f : Fibre) : LanesStay t (redPush p s b t f) :=
  (pushStore_stay ..).trans (feedLane_stay ..)

/-- Where no lane names a nominated object, none of them waits at a gate (R394, R398). -/
theorem redPush_ungated {p : RedP} (hgate : ∀ f ∈ gs, gated s b (capObj (capReg s f p.c.toNat)) = false) :
    gs.foldl (fun t f => if gated (redPush p s b t f) b (capObj (capReg s f p.c.toNat)) then
        setFibre (redPush p s b t f) f.key fun g => { g with run := .waiting .gate } else redPush p s b t f) s =
      gs.foldl (redPush p s b) s := by
  have hkeep : ∀ t f, (redPush p s b t f).sys = t.sys := fun _ _ => rfl
  refine Eq.symm (foldl_congr_along (P := fun t => t.sys = s.sys) rfl (fun t ht f _ => (hkeep t f).trans ht) fun t ht f hf => ?_)
  rw [if_neg]
  rw [gated_congr (s := s) (t := redPush p s b t f) ((hkeep t f).trans ht), hgate f hf]
  exact Bool.false_ne_true

end

/-- Settles O25: no lane fails a check or waits for room, so that each of them pushes its store, and feeds its hash (`feedLane`). -/
theorem storesIssue : Obligations.StoresIssue := by
  intro h s c b ls gs R H hhash hroom
  have hfit := stores_fit hhash hroom
  have hstay : ∀ (x : State → Fibre → State), (∀ t f, LanesStay t (x t f)) → LanesStay s (gs.foldl x s) := fun x hx => .foldl hx gs s
  refine ⟨?_, ?_, ?_⟩
  · intro p hwf k hclear hlanes
    have hchk : ∀ f ∈ gs, firstTrap [(checkRegs f (offRegs p.a.toNat p.o64 ++ memRegs p), 0), globalChk s b f p.c.toNat (memOff p f) (memW p) rWR] = none :=
      fun f hf => firstTrap_none (by simpa [globalChk] using hlanes f hf)
    rw [Completes, exec_st, execSt]
    refine issue_go (gs := gs) R (Use.Basic.passes ⟨rfl, rfl, rfl, rfl, rfl⟩ (legal_of (Bool.and_elim_left hwf) hwf) (by simpa [memUse] using hclear) H)
      rfl ?_ (hstay _ fun t f => (pushStore_stay ..).trans (feedLane_stay ..)).go
    simp only [passed_all hchk, trapped_none hchk, hfit, Bool.false_eq_true, if_false]
    rfl
  · intro p hwf k hclear hlanes
    have hchk : ∀ f ∈ gs, firstTrap [(checkRegs f (offRegs p.a.toNat p.o64), 0), globalChk s b f p.c.toNat (memOff p f) 16 (rWR + rCST)] = none :=
      fun f hf => firstTrap_none (by simpa [globalChk] using hlanes f hf)
    rw [Completes, exec_capst, execCapst]
    refine issue_go (gs := gs) R (Use.Basic.passes ⟨rfl, rfl, rfl, rfl, rfl⟩ (legal_of (Bool.and_elim_left hwf) hwf) (by simpa [useOf] using hclear) H)
      rfl ?_ (hstay _ fun t f => (pushStore_stay ..).trans (feedLane_stay ..)).go
    simp only [passed_all hchk, trapped_none hchk, hfit, Bool.false_eq_true, if_false]
    refine congrArg (acted · []) (foldl_congr_along (P := fun t => t.parts = s.parts ∧ t.now = s.now) ⟨rfl, rfl⟩
      (fun t ht f _ => by exact ht) fun t ht f _ => ?_)
    simp only [capReg_congr (s := s) ht.1 ht.2, k]
  · intro p hwf hq k wide w off hclear hgate hlanes
    have hchk : ∀ f ∈ gs, firstTrap [(minCode (checkRegs f (offRegs p.a.toNat p.o64)) (pairCheck f p.b.toNat wide (redTagsOf p)), 0),
        globalChk s b f p.c.toNat (offVal f p.a.toNat p.o64) w (rWR + rAT)] = none := by
      intro f hf
      obtain ⟨hregs, hpair, haccess⟩ := hlanes f hf
      exact firstTrap_none (by simpa [globalChk, hregs, hpair, minCode] using haccess)
    simp only [wide] at hclear
    rw [Completes, exec_red, execRed]
    simp only [hq, Bool.false_eq_true, if_false]
    refine issue_go (gs := gs) (e := gs.foldl (redPush p s b) s) R
      (Use.Basic.passes ⟨rfl, rfl, rfl, rfl, rfl⟩ (legal_of (Bool.and_elim_left hwf) hwf) (by simpa using hclear) H) rfl ?_
      (hstay _ (redPush_stay p s b)).go
    simp only [w, wide] at hchk
    simp only [passed_all hchk, trapped_none hchk, hfit, Bool.false_eq_true, if_false]
    exact congrArg (acted · []) (redPush_ungated hgate)

end Sys2Proof.Machine
end

section
/-!
PROOFS. O26: LDL, STL, FESET, FECLR and ATOM (R62, R230 to R233, R238, R247).
-/
namespace Sys2Proof.Machine

section
variable {h : Head} {s t : State} {b : Block} {gs : List Fibre}

theorem exec_ldl (p : MemP) : exec (.ldl h p) s = execLdl h p s := rfl
theorem exec_stl (p : MemP) : exec (.stl h p) s = execStl h p s := rfl
theorem exec_atom (p : AtomP) : exec (.atom h p) s = execAtom h p s := rfl

theorem firstTrap_pair {x y : Option Nat × Nat} (hx : x.1 = none) (hy : y.1 = none) : firstTrap [x, y] = none :=
  firstTrap_none (by simpa using ⟨hx, hy⟩)

theorem setFibres_stay {g : Fibre → Fibre} (hkey : ∀ f, (g f).key = f.key) (hg : ∀ f, (g f).standing = f.standing) (s : State) (ks : List FKey) :
    LanesStay s (setFibres s ks g) := by
  refine mapFibres_stay (g := fun f => if ks.contains f.key then g f else f) (fun f => ?_) (fun f => ?_) s <;> split
  · exact hkey f
  · rfl
  · exact hg f
  · rfl

theorem noteLdl_stay (s : State) (ls : List Fibre) (regs : List Nat) : LanesStay s (noteLdl s ls regs) := by
  unfold noteLdl
  extract_lets all t
  have ht : LanesStay s t := .ite (.refl s) (setFibres_stay (by intro; rfl) (by intro; rfl) s _)
  exact ht.trans (setFibres_stay (by intro; rfl) (by intro; rfl) t _)

/-- A lane that waits for its own access stands as it stood. -/
theorem setRun_stay (s : State) (k : FKey) (r : Run) : LanesStay s (setFibre s k fun g => { g with run := r }) :=
  setFibre_stay (by intro; rfl) (by intro; rfl) s k

theorem setFibre_ite_sys {p : Prop} [Decidable p] {k : FKey} {g : Fibre → Fibre} {m : List (Nat × Nat)} (hsys : t.sys = m) :
    (if p then setFibre t k g else t).sys = m := by
  split <;> exact hsys

/-- No lane's load waits for the lane's own stores where no byte is damaged (R17, R160). -/
theorem spadLoads_fit {cell off : Fibre → Nat} {w : Nat} (hfit : lanesFit s gs = true) (hue : ∀ f ∈ gs, s.ue (cell f) w = false) :
    (!lanesFit s gs || gs.any fun f => hurtHeld s f true 0 (off f) (cell f) w) = false := by
  rw [hfit, Bool.not_true, Bool.false_or, List.any_eq_false]
  exact fun f hf => by simp [hurtHeld, hue f hf]

end

/-- Settles O26: no lane fails a check or waits for room, so that each of them enters its request. -/
theorem scratchpadAndAtomics : Obligations.ScratchpadAndAtomics := by
  intro h s c b ls gs room R H
  have hstay : ∀ (x : State → Fibre → State) (s : State), (∀ t f, LanesStay t (x t f)) → LanesStay s (gs.foldl x s) := fun x s hx => .foldl hx gs s
  refine ⟨?_, ?_, ?_, ?_⟩
  · intro p hwf o cell fe hclear hfit hlanes
    have hfirst : ∀ f ∈ gs, firstTrap [(checkRegs f [p.a.toNat], 0), spadChk b (spadOff p f) (memW p)] = none := fun f hf =>
      firstTrap_none (by simpa [spadChk] using ⟨(hlanes f hf).1, (hlanes f hf).2.1⟩)
    have hue : ∀ f ∈ gs, s.ue (spadCell b (spadOff p f).toNat) (memW p) = false := fun f hf => (hlanes f hf).2.2.1
    have hchk : ∀ f ∈ gs, (firstTrap [(checkRegs f [p.a.toNat], 0), spadChk b (spadOff p f) (memW p)] <|> firstTrap
        [(if fe != 0 then (liveChk s b (spadOff p f) cBarrierClobber).1 else none, infoOf (spadOff p f)),
         (if s.ue (spadCell b (spadOff p f).toNat) (memW p) then some cDataUe else none, infoOf (spadOff p f))]) = none := by
      intro f hf
      have hlive : fe ≠ 0 → s.isLive (granOf (spadCell b (spadOff p f).toNat)) = false := (hlanes f hf).2.2.2
      rw [hfirst f hf, firstTrap_none]
      · rfl
      · by_cases hfe : fe = 0 <;> simp_all [liveChk]
    have hroom := spadLoads_fit (off := fun f => (spadOff p f).toNat) hfit hue
    simp only [fe] at hchk
    rw [Completes, exec_ldl, execLdl]
    refine issue_go (gs := gs) R (Use.Basic.passes ⟨rfl, rfl, rfl, rfl, rfl⟩ (legal_of (Bool.and_elim_left hwf) hwf) (by simpa [memUse] using hclear) H)
      rfl ?_ ((noteLdl_stay s gs (memRegs p)).trans (hstay _ _ fun t f => (pushOut_stay ..).ite ((pushOut_stay ..).trans (setRun_stay ..)))).go
    simp only [beq_iff_eq]
    simp only [passed_all hchk, passed_all hfirst, trapped_none hchk, hroom, Bool.false_eq_true, if_false]
    rfl
  · intro p hwf o cell hclear hhash hroom hlanes
    have hchk : ∀ f ∈ gs, (firstTrap [(checkRegs f (p.a.toNat :: memRegs p), 0), spadChk b (spadOff p f) (memW p)]
        <|> firstTrap [liveChk s b (spadOff p f) cBarrierClobber]) = none := by
      intro f hf
      obtain ⟨hregs, hspad, hlive⟩ := hlanes f hf
      have hlive : s.isLive (granOf (spadCell b (spadOff p f).toNat)) = false := hlive
      rw [firstTrap_none (by simpa [spadChk] using ⟨hregs, hspad⟩), firstTrap_none (by simp [liveChk, hlive])]
      rfl
    have hfit := stores_fit hhash hroom
    rw [Completes, exec_stl, execStl]
    refine issue_go (gs := gs) R (Use.Basic.passes ⟨rfl, rfl, rfl, rfl, rfl⟩ (legal_of (Bool.and_elim_left hwf) hwf) (by simpa [memUse] using hclear) H)
      rfl ?_ (hstay _ s fun t f => ((pushStore_stay ..).trans (feedLane_stay ..)).trans (.ite (setRun_stay ..) (.refl _))).go
    simp only [passed_all hchk, trapped_none hchk, hfit, Bool.false_eq_true, if_false, beq_iff_eq]
    rfl
  · intro p set i hwf hclear hroom hlanes
    have hchk : ∀ f ∈ gs, (granChk b p [] f <|> firstTrap [liveChk s b (granOff p f) cBarrierClobber]) = none := by
      intro f hf
      obtain ⟨htag, hspad, hlive⟩ := hlanes f hf
      have hlive : s.isLive (granOf (spadCell b (granOff p f).toNat)) = false := hlive
      have hregs : checkRegs f [p.a.toNat] = none := minCodes_none _ (by simpa using htag)
      rw [granChk, firstTrap_none (by simpa [spadChk] using ⟨hregs, hspad⟩), firstTrap_none (by simp [liveChk, hlive])]
      rfl
    have hfit : (gs.any fun f => !fifoRoom s f.loc f.key.port gs.length) = false := List.any_eq_false.mpr fun f hf => by simp [hroom f hf]
    have hstore : ∀ (kind : StKind) (legal : Bool), (h.wf && legal) = true → granStore kind h p legal s = .next (past (gs.foldl (fun t f =>
        pushStore t f b kind true (granCell b p f) (granOff p f).toNat 16 0 1 (kind == .feset) f.fhash none) s) c ls h) := by
      intro kind legal hlegal
      rw [granStore]
      refine issue_go (gs := gs) R (Use.Basic.passes ⟨rfl, rfl, rfl, rfl, rfl⟩ hlegal (by simpa [granUse] using hclear) H)
        rfl ?_ (hstay _ s fun t f => pushStore_stay ..).go
      simp only [passed_all hchk, trapped_none hchk, hfit, Bool.false_eq_true, if_false]
    cases set with
    | true => exact hstore .feset _ (legal_of (Bool.and_elim_left hwf) hwf)
    | false => exact hstore .feclr _ (legal_of (Bool.and_elim_left hwf) hwf)
  · intro p cell hwf w off obj hclear hfit hlanes
    have htags : ∀ f ∈ gs, minCodes [checkRegs f (offRegs p.a.toNat p.o64), pairCheck f p.b.toNat p.w64 (atomTags p),
        if p.aop == 1 then pairCheck f p.e.toNat p.w64 (atomTags p) else none] = none := by
      intro f hf
      obtain ⟨hregs, hpair, hcas, -⟩ := hlanes f hf
      refine minCodes_none _ ?_
      by_cases haop : p.aop = 1 <;> simp_all
    have hclear : Clear ls (offRegs p.a.toNat p.o64 ++ pairRegs p.b.toNat p.w64 ++ (if p.aop == 1 then pairRegs p.e.toNat p.w64 else [])
        ++ pairRegs p.d.toNat p.w64) := by simpa only [beq_iff_eq] using hclear
    have P : ∀ use : Use, use.Basic → use.legal = (h.wf && (Instr.atom h p).legal) → use.vr = _ → use.vw = _ → use.Passes s b ls :=
      fun use hbasic hlegal hvr hvw => hbasic.passes (hlegal.trans (legal_of (Bool.and_elim_left hwf) hwf)) (by rw [hvr, hvw]; exact hclear) H
    rw [Completes, exec_atom, execAtom]
    cases hsp : p.sp with
    | true =>
      have hlane : ∀ f ∈ gs, cell f = spadCell b (f.val p.a.toNat).toNat ∧ spadCheck b (f.val p.a.toNat).toNat w = none
          ∧ s.isLive (granOf (cell f)) = false ∧ s.ue (cell f) w = false := by
        intro f hf
        obtain ⟨-, -, -, hue, hspad⟩ := hlanes f hf
        simp only [hsp, if_true, off] at hspad
        exact ⟨hspad.1, hspad.2.1, hspad.2.2, hue⟩
      have hue : ∀ f ∈ gs, s.ue (spadCell b (f.val p.a.toNat).toNat) w = false := fun f hf => (hlane f hf).1 ▸ (hlane f hf).2.2.2
      have hfirst : ∀ f ∈ gs, firstTrap [(minCodes [checkRegs f (offRegs p.a.toNat p.o64), pairCheck f p.b.toNat p.w64 (atomTags p),
          if p.aop == 1 then pairCheck f p.e.toNat p.w64 (atomTags p) else none], 0), spadChk b ((f.val p.a.toNat).toNat : Int) w] = none :=
        fun f hf => firstTrap_pair (htags f hf) (hlane f hf).2.1
      have hchk : ∀ f ∈ gs, (firstTrap [(minCodes [checkRegs f (offRegs p.a.toNat p.o64), pairCheck f p.b.toNat p.w64 (atomTags p),
          if p.aop == 1 then pairCheck f p.e.toNat p.w64 (atomTags p) else none], 0), spadChk b ((f.val p.a.toNat).toNat : Int) w] <|> firstTrap
          [liveChk s b ((f.val p.a.toNat).toNat : Int) cBarrierClobber,
           (if s.ue (spadCell b ((f.val p.a.toNat).toNat : Int).toNat) w then some cDataUe else none, infoOf ((f.val p.a.toNat).toNat : Int))]) = none := by
        intro f hf
        obtain ⟨hcell, -, hlive, -⟩ := hlane f hf
        rw [hcell] at hlive
        rw [hfirst f hf, firstTrap_none (by simp [liveChk, hlive, hue f hf])]
        rfl
      have hroom := spadLoads_fit (off := fun f => ((f.val p.a.toNat).toNat : Int).toNat)
        (cell := fun f => spadCell b ((f.val p.a.toNat).toNat : Int).toNat) hfit hue
      refine issue_go (gs := gs) R (P _ ⟨rfl, rfl, rfl, rfl, rfl⟩ rfl rfl rfl) rfl ?_
        (hstay _ s fun t f => (pushOut_stay ..).trans (setRun_stay ..)).go
      simp only [w] at hchk hfirst hroom
      simp only [if_true, passed_all hchk, passed_all hfirst, trapped_none hchk, hroom, Bool.false_eq_true, if_false]
      refine congrArg (acted · []) (foldl_congr_along (P := fun _ => True) trivial (fun _ _ _ _ => trivial) fun t _ f hf => ?_)
      simp only [(hlane f hf).1, obj, off, hsp, if_true, Int.toNat_natCast]
      rfl
    | false =>
      have hlane : ∀ f ∈ gs, gated s b (obj f) = false
          ∧ Reaches s b f (capReg s f p.c.toNat) (offVal f p.a.toNat p.o64) w (rRD + rWR + rAT) (cell f) := by
        intro f hf
        obtain ⟨-, -, -, -, hmem⟩ := hlanes f hf
        simpa only [hsp, Bool.false_eq_true, if_false] using hmem
      have hchk : ∀ f ∈ gs, firstTrap [(minCodes [checkRegs f (offRegs p.a.toNat p.o64), pairCheck f p.b.toNat p.w64 (atomTags p),
          if p.aop == 1 then pairCheck f p.e.toNat p.w64 (atomTags p) else none], 0),
          globalChk s b f p.c.toNat (offVal f p.a.toNat p.o64) w (rRD + rWR + rAT)] = none :=
        fun f hf => firstTrap_pair (htags f hf) (hlane f hf).2.1
      have hreach := reach_clean (b := b) (write := true) (ue := true) (w := w) (obj := fun f => capObj (capReg s f p.c.toNat))
        (off := fun f => capOff (capReg s f p.c.toNat) (offVal f p.a.toNat p.o64)) (fun f hf => (hlane f hf).2.2) (fun f hf => (hlanes f hf).2.2.2.1)
      refine issue_go (gs := gs) R (P _ ⟨rfl, rfl, rfl, rfl, rfl⟩ rfl rfl rfl) rfl ?_
        (hstay _ s fun t f => pushOut_stay ..).go
      simp only [w] at hchk hreach
      simp only [passed_all hchk, trapped_none hchk, hreach, hfit, Bool.not_true, Bool.false_eq_true, if_false, List.foldl_map, List.append_nil]
      refine congrArg (acted · []) (foldl_congr_along (P := fun t => t.sys = s.sys) rfl (fun t ht f hf => ?_) fun t ht f hf => ?_)
      · exact setFibre_ite_sys ht
      · have hgate : gated s b (capObj (capReg s f p.c.toNat)) = false := by simpa only [obj, hsp, Bool.false_eq_true, if_false] using (hlane f hf).1
        rw [if_neg]
        · simp only [obj, off, hsp, Bool.false_eq_true, if_false]
          rfl
        · rw [gated_congr (s := s) (t := pushOut t f _) ht, hgate]
          exact Bool.false_ne_true

end Sys2Proof.Machine
end

section
/-!
PROOFS. O27 and O28: LDA of one lane (R64, R235) and FENCE (R167, R242).
-/
namespace Sys2Proof.Machine

section
variable {h : Head} {s : State} {c : Cur} {b : Block} {ls : List Fibre} {f : Fibre} {fs : List Fibre}

theorem exec_lda (p : LdaP) : exec (.lda h p) s = execLda h p s := rfl
theorem exec_fence (p : FenceP) : exec (.fence h p) s = execFence h p s := rfl

/-- A guard-true lane is a lane of the batch. -/
theorem mem_of_guardTrue {g : BitVec 7} {gn : Bool} (hgs : guardTrue g gn ls = f :: fs) : f ∈ ls :=
  (List.mem_filter.mp (show f ∈ ls.filter _ from hgs ▸ List.mem_cons_self)).1

/-- One lane's transaction is counted on its barrier object and on its counter, and sent (R64, R235). -/
def ldaSent (s : State) (b : Block) (f : Fibre) (src w dst bar : Nat) : State :=
  (setFibre (pendingUp { s with ldas := s.ldas ++ [{ id := s.seq, fib := f.key, opId := s.seq, blk := b.id, src := src, w := w, dst := dst, bar := bar }] }
    bar 1) f.key fun g => { (g.addOp s.seq 4) with sent := 1 }).fresh

theorem ldaSent_stay (s : State) (b : Block) (f : Fibre) (src w dst bar : Nat) : LanesStay s (ldaSent s b f src w dst bar) := by
  unfold ldaSent
  refine LanesStay.trans ?_ (fresh_stay _)
  refine LanesStay.trans ?_ (setFibre_stay (by intro; rfl) (by intro; rfl) _ _)
  refine LanesStay.trans ?_ (pendingUp_stay _ bar 1)
  exact .of_fibres rfl rfl rfl

theorem ldaSent_sent (hf : fibre? s f.key = some f) (src w dst bar : Nat) :
    ((fibre? (ldaSent s b f src w dst bar) f.key).map (·.sent)).getD 0 = 1 := by
  have hsame : fibre? (ldaSent s b f src w dst bar) f.key = some { (f.addOp s.seq 4) with sent := 1 } :=
    fibre?_setFibre_same (s := pendingUp _ bar 1) (by intro; rfl) hf
  rw [hsame]; rfl

/-! ### Releases -/

theorem drained_iff : drained s f = true ↔ f.outs = [] ∧ storesOf s f.key = [] := by
  simp [drained]

/-- A release some lane of which has an access that has not performed (R164). -/
theorem released_busy {scope : Nat} (hbusy : ∃ g ∈ f :: fs, drained s g = false) : released s (f :: fs) scope = (s, false) := by
  have hall : (f :: fs).all (drained s) = false := by
    obtain ⟨g, hg, hnot⟩ := hbusy
    exact List.all_eq_false.mpr ⟨g, hg, by simp [hnot]⟩
  simp only [released, hall, Bool.not_false, if_true]

/-- A release whose accesses have performed and which has no marker to send has performed (R167). -/
theorem released_clear {scope : Nat} (hidle : ∀ g ∈ f :: fs, drained s g = true) (hsent : f.sentTo = [])
    (hdests : markerDests (portOf s f.loc f.key.port) scope = []) : released s (f :: fs) scope = (clearMask s f.loc f.key.port scope, true) := by
  have hall : (f :: fs).all (drained s) = true := List.all_eq_true.mpr hidle
  have hnew : (f :: fs).any (fun g => g.sentTo.all fun x => x.2 != 0) = true := List.any_eq_true.mpr ⟨f, List.mem_cons_self, by simp [hsent]⟩
  have hnone : (sendMarkers s f.loc f.key.port scope).2 = [] := by simp [sendMarkers, hdests]
  by_cases hscope : scope < 4
  · simp only [released, hall, hscope, Bool.not_true, Bool.false_eq_true, if_false, if_true, clearMask]
  · simp only [released, hall, hscope, hnew, hnone, List.isEmpty_nil, Bool.not_true, Bool.false_eq_true, if_false, if_true]

/-- One that has markers to send sends them, and its lanes note the gatherings (R167). -/
theorem released_sends {scope : Nat} (hidle : ∀ g ∈ f :: fs, drained s g = true) (hsent : f.sentTo = [])
    (hdests : markerDests (portOf s f.loc f.key.port) scope ≠ []) : released s (f :: fs) scope =
      (setFibres (sendMarkers s f.loc f.key.port scope).1 ((f :: fs).map (·.key)) fun g =>
        { g with sentTo := g.sentTo.filter (fun x => x.2 != 0) ++ (sendMarkers s f.loc f.key.port scope).2.map fun i => (i, 0) }, false) := by
  have hall : (f :: fs).all (drained s) = true := List.all_eq_true.mpr hidle
  have hnew : (f :: fs).any (fun g => g.sentTo.all fun x => x.2 != 0) = true := List.any_eq_true.mpr ⟨f, List.mem_cons_self, by simp [hsent]⟩
  have hscope : ¬ scope < 4 := fun hlow => hdests (if_pos hlow)
  have hsome : (sendMarkers s f.loc f.key.port scope).2.isEmpty = false := by simp [sendMarkers, hdests]
  simp only [released, hall, hscope, hnew, hsome, Bool.not_true, Bool.false_eq_true, if_false, if_true]

theorem clearMask_stay (s : State) (core port scope : Nat) : LanesStay s (clearMask s core port scope) := .ite (.refl s) (.of_fibres rfl rfl rfl)

end

/-- Settles O27: the one lane passes every check and has room, so that its transaction is sent (`ldaSent`). -/
theorem transactionsIssue : Obligations.TransactionsIssue := by
  intro h p s c b ls f cell w dst bar R H hgs hwf hclear hregs hreaches hdst hbar hlive hcount hpending hroom hsent
  have hfirst : firstTrap [(checkRegs f (offRegs p.a.toNat p.o64 ++ [p.b.toNat, p.d.toNat]), 0), globalChk s b f p.c.toNat (offVal f p.a.toNat p.o64) w rRD,
      spadChk b ((f.val p.d.toNat).toNat : Int) w, spadChk b ((f.val p.b.toNat).toNat : Int) 16] = none :=
    firstTrap_none (by simpa [globalChk, spadChk] using ⟨hregs, hreaches.1, hdst, hbar⟩)
  have hsecond : firstTrap [(if s.isLive (granOf bar) then (none : Option Nat) else some cIllegalOp, 0)] = none := firstTrap_none (by simp [hlive])
  have hreach := reach_clean (b := b) (write := false) (ue := false) (w := w) (gs := [f]) (obj := fun f => capObj (capReg s f p.c.toNat))
    (off := fun f => capOff (capReg s f p.c.toNat) (offVal f p.a.toNat p.o64)) (cell := fun _ => cell) (by simpa using hreaches.2) (fun _ _ => rfl)
  rw [Completes, exec_lda, execLda]
  refine issue_go (e := ldaSent s b f cell w dst bar) R
    (Use.Basic.passes ⟨rfl, rfl, rfl, rfl, rfl⟩ (legal_of (Bool.and_elim_left hwf) hwf) (by simpa [useOf] using hclear) H) hgs ?_ (ldaSent_stay ..).go
  have hown := R.own f (mem_of_guardTrue hgs)
  simp only [w] at hfirst hreach
  have hleft : [f].filter (fun g => g.sent == 0) = [f] := by simp [hsent]
  have hsentNow : (((fibre? (ldaSent s b f cell w dst bar) f.key).map (·.sent)).getD 0 == 0) = false := by rw [ldaSent_sent hown]; rfl
  have hboth : (firstTrap [(checkRegs f (offRegs p.a.toNat p.o64 ++ [p.b.toNat, p.d.toNat]), 0),
      globalChk s b f p.c.toNat (offVal f p.a.toNat p.o64) (2 ^ p.w.toNat) rRD, spadChk b ((f.val p.d.toNat).toNat : Int) (2 ^ p.w.toNat),
      spadChk b ((f.val p.b.toNat).toNat : Int) 16] <|> firstTrap [(if s.isLive (granOf bar) then none else some cIllegalOp, 0)]) = none := by
    rw [hfirst, hsecond]; rfl
  have hspace : (decide (f.counter 4 < 63) && decide ((barObj s bar).pending < 2 ^ 24 - 1) && reqRoom s f.loc 1) = true := by
    simp only [hcount, hpending, hroom, decide_true, Bool.and_true]
  simp only [bar] at hboth hspace
  simp only [hleft, passed, trapped, List.filter_cons, List.filterMap_cons, List.filter_nil, List.filterMap_nil, hboth, Option.isNone_none, if_true,
    Option.map_none, hreach, List.map_cons, List.map_nil, List.foldl_cons, List.foldl_nil, List.any_cons, List.any_nil, hspace, Bool.not_true,
    Bool.false_eq_true, if_false, Bool.or_false]
  exact if_neg fun hzero => absurd (hsentNow.symm.trans hzero) Bool.false_ne_true

/-- Settles O28: FENCE issues or waits by what its release answers (`released_clear`, `released_busy`, `released_sends`). -/
theorem fences : Obligations.Fences := by
  intro h p s c b ls f fs R hgs hwf
  have P : ∀ use : Use, use = useOf h (Instr.fence h p).legal → use.Passes s b ls := by
    rintro _ rfl
    exact Use.Plain.passes ⟨rfl, rfl, rfl, rfl, rfl, rfl⟩ (legal_of (Bool.and_elim_left hwf) hwf) clear_nil nofun
  refine ⟨?_, ?_, ?_⟩
  · intro hidle hsent hdests
    rw [Completes, exec_fence, execFence]
    refine issue_go R (P _ rfl) hgs ?_ (clearMask_stay ..).go
    rw [released_clear (fun g hg => drained_iff.mpr (hidle g hg)) hsent hdests]
    rfl
  · intro hbusy
    rw [exec_fence, execFence]
    refine issue_waits R (P _ rfl) hgs ?_
    rw [released_busy]
    · rfl
    · obtain ⟨g, hg, hbusy⟩ := hbusy
      exact ⟨g, hg, Bool.eq_false_iff.mpr fun hidle => by simp_all [drained_iff]⟩
  · intro hidle hsent hdests q
    rw [exec_fence, execFence]
    refine issue_waits R (P _ rfl) hgs ?_
    rw [released_sends (fun g hg => drained_iff.mpr (hidle g hg)) hsent hdests]
    rfl

end Sys2Proof.Machine
end

section
/-!
PROOFS. O29: CAPLD, CNARROW, CRIGHTS and CINFO (R48, R243, R245).
-/
namespace Sys2Proof.Machine

section
variable {h : Head} {s : State}

theorem exec_capld (p : MemP) : exec (.capld h p) s = execCapld h p s := rfl
theorem exec_cnarrow (p : CnarrowP) : exec (.cnarrow h p) s = execCnarrow h p s := rfl
theorem exec_crights (p : CrightsP) : exec (.crights h p) s = execCrights h p s := rfl
theorem exec_cinfo (p : CinfoP) : exec (.cinfo h p) s = execCinfo h p s := rfl

theorem putCap_stay (s : State) (part : Nat) (f : Fibre) (n : Nat) (c : CapWord) : LanesStay s (putCap s part f n c) := by
  unfold putCap
  split
  · exact setFibre_stay (by intro; rfl) (by intro; rfl) s _
  · exact setCap_stay ..

end

/-- Settles O29: each of them acts through its lowest guard-true lane, whose checks pass; CNARROW with a range outside its source's traps (R245). -/
theorem capabilityInstructions : Obligations.CapabilityInstructions := by
  intro h s c b ls f fs R H hgs
  refine ⟨?_, ?_, ?_, ?_, ?_⟩
  · intro p cell hwf k hclear hregs hreaches hue hreading hown hrow htag t
    have hchk : firstTrap [(checkRegs f (offRegs p.a.toNat p.o64), 0), globalChk s b f p.c.toNat (memOff p f) 16 (rRD + rCLD)] = none :=
      firstTrap_pair hregs hreaches.1
    have hreach := reach_clean (b := b) (write := false) (ue := false) (w := 16) (gs := [f]) (obj := fun _ => capObj k)
      (off := fun _ => capOff k (memOff p f)) (cell := fun _ => cell) (by simpa using hreaches.2) (fun _ _ => rfl)
    rw [Completes, exec_capld, execCapld]
    refine issue_go R (Use.Basic.passes ⟨rfl, rfl, rfl, rfl, rfl⟩ (legal_of (Bool.and_elim_left hwf) hwf) (by simpa [useOf] using hclear) H) hgs ?_
      ((touch_stay s cell).trans (putCap_stay ..)).go
    simp only [k] at hreach hown
    have htagt : t.capTags.contains cell = true := by obtain ⟨r, ht⟩ := touch_only s cell; simp only [t, ht]; exact htag
    have huet : t.ue cell 16 = false := (touch_ue s cell cell 16).trans hue
    simp only [t] at htagt huet
    simp only [firstLane, passed, List.filter_cons, List.filter_nil, hchk, Option.isNone_none, if_true, hreach, List.map_cons, List.map_nil, hreading, hown,
      hrow, Bool.or_false, Bool.false_eq_true, if_false, htagt, huet, Bool.not_true]
    rfl
  · intro p hwf k off lim hlow hhigh hopen
    rw [Completes, exec_cnarrow, execCnarrow]
    refine issue_go R
      (Use.Plain.passes ⟨rfl, rfl, rfl, rfl, rfl, rfl⟩ (legal_of (Bool.and_elim_left (Bool.and_elim_left hwf)) hwf) clear_nil fun _ => H) hgs ?_
      (setCap_stay s b.part f p.cd.toNat (mkCap (capObj k) (capRights k) lim (capBase k + off.toNat))).go
    have hin : (decide (off < 0) || decide ((capLimit k : Int) < off + lim)) = false := by simpa using ⟨hlow, hhigh⟩
    simp only [off, lim, k] at hin
    simp only [firstLane, hin, hopen, Bool.false_eq_true, if_false]
    rfl
  · intro p hwf T hall hout
    rw [exec_cnarrow, execCnarrow]
    refine issue_traps_all R
      (Use.Plain.passes ⟨rfl, rfl, rfl, rfl, rfl, rfl⟩ (legal_of (Bool.and_elim_left (Bool.and_elim_left hwf)) hwf) clear_nil fun _ => H) H T
      (hgs.trans hall) ?_
    have hbad : (decide ((uniPair s f p.sb.toNat).toInt < 0)
        || decide ((capLimit (capReg s f p.cs.toNat) : Int) < (uniPair s f p.sb.toNat).toInt + (uniPair s f p.sl.toNat).toNat)) = true := by
      simpa using hout
    subst hall
    simp only [firstLane, hbad, if_true]
    rfl
  · intro p hwf k hopen
    rw [Completes, exec_crights, execCrights]
    refine issue_go R (Use.Basic.passes ⟨rfl, rfl, rfl, rfl, rfl⟩ (legal_of hwf hwf) clear_nil H) hgs ?_ (putCap_stay ..).go
    simp only [firstLane, hopen, Bool.false_eq_true, if_false]
    rfl
  · intro p hwf k
    rw [Completes, exec_cinfo, execCinfo]
    exact issue_go R (Use.Plain.passes ⟨rfl, rfl, rfl, rfl, rfl, rfl⟩ (legal_of (Bool.and_elim_left hwf) hwf) clear_nil fun _ => H) hgs rfl
      (setUnis_stay ..).go

end Sys2Proof.Machine
end

section
/-!
PROOFS. O30: granules and barrier objects (R246 to R251).
-/
namespace Sys2Proof.Machine

/-- A block with 4 KiB of the scratchpad. -/
def granBlock : Block := { placeBlock with spadSize := 4096 }

/-- A second record of the lane's key, in no batch, whose v1 names the second granule. -/
def granTwin : Fibre := { callLane with slot := none, regs := (zeroRegs 8).set 1 { val := 16, tag := tRaw } }

/-- The second granule is full, and the first is not. -/
def granFibres : State :=
  { twinFibres with fibres := [callLane, granTwin], blocks := [granBlock], fullBits := [spadCell granBlock 16] }

theorem granFibres_ready : Ready granFibres { core := 0, port := 0, slot := 0 } granBlock [callLane] where
  cur := rfl
  lanes := by decide
  some := by decide
  own := by decide
  blk := by decide
  can := by decide
  same := by decide
  cmp := by decide
  short := by decide
  trial := by decide

/-- FETEST of the granule that v1 names, into p1. -/
def granFields : GranP := { pd := 1, off := 0, v := 0, a := 1 }

/-- The writes under way of each record. -/
def pendDests : Result → List (List PendDest)
  | .next t => t.fibres.map fun f => f.pend.map (·.dest)
  | _ => []

/-- Refutes O30: FETEST writes to each record of a lane's key the bit of the granule that the record's own register names, and the clause asks for the
bit of the lane's granule in all of them. They are one where a key is listed once, which no hypothesis says: `granFibres` lists a key twice, and its two
records name an empty and a full granule. -/
theorem not_barrierObjects : ¬ Obligations.BarrierObjects := by
  intro hall
  obtain ⟨hfetest, -⟩ := hall callHead granFields granFibres _ _ _ callLane granFibres_ready (by decide) (by decide) (by decide) (by decide) (by decide)
    (by decide) (by decide)
  have hclaim := congrArg pendDests (hfetest (by decide))
  exact absurd hclaim (by decide)

end Sys2Proof.Machine
end

section
/-!
PROOFS. O31: messages (R252 to R256).
-/
namespace Sys2Proof.Machine

/-- A message of the lane through the egress is under way to the queue of its own block part. -/
def egressMsg : Msg := { id := 0, src := callLane.key, blk := 0, opId := 0, kind := .send placeBlock.id 0 { words := [], header := 0 } }

def egressFibres : State := { twinFibres with fibres := [callLane], parts := [placePart], msgs := [egressMsg] }

/-- One word of v1 to the sender's own queue. -/
def sendFields : SendP := { mask := 8, nw := 0, a := 1, s := 0 }

/-- Refutes O31: a message to the lane's own queue is not taken while an earlier one of the lane, sent through the egress, is on its way to that queue
(R256, `egressAhead`), and the clause about it does not suppose that there is none: in `egressFibres` there is one. -/
theorem not_messages : ¬ Obligations.Messages := by
  rintro ⟨-, hsend, -⟩
  obtain ⟨t, htaken, -⟩ := hsend sendFields egressFibres placeBlock callLane placePart rfl (by decide) (by decide) (by decide) (by decide)
  have hnot : (accept egressFibres placeBlock sendFields callLane 3).isSome = false := by decide
  rw [htaken] at hnot
  exact absurd hnot.symm Bool.false_ne_true

end Sys2Proof.Machine
end

section
/-!
PROOFS. The head of a store FIFO performs (R231, R173, R55, R63, R65, R233, R247).
-/
namespace Sys2Proof.Machine

variable {s : State} {core port a : Nat} {x : Store}

/-! ### What noting a cell and a destination leave as it is -/

theorem exec_storePerform : exec (.storePerform core port) s = execStorePerform core port s := rfl

@[simp] theorem touch_isLive (s : State) (a g : Nat) : (touch s a).isLive g = s.isLive g := by
  obtain ⟨r, h⟩ := touch_only s a
  rw [h]; rfl

@[simp] theorem touch_isFull (s : State) (a g : Nat) : (touch s a).isFull g = s.isFull g := by
  obtain ⟨r, h⟩ := touch_only s a
  rw [h]; rfl

@[simp] theorem touch_redTags (s : State) (a : Nat) : (touch s a).redTags = s.redTags := by
  obtain ⟨r, h⟩ := touch_only s a
  rw [h]

@[simp] theorem noteDest_redTags (s : State) (core port : Nat) (x : Store) (a : Nat) : (noteDest s core port x a).redTags = s.redTags := by
  unfold noteDest
  split
  · unfold clearMask
    split <;> rfl
  · split <;> rfl

/-- A store that damages no granule in part may be made (R351). -/
theorem partialUe_off {w : Nat} (h : s.ue a w = false ∨ 16 ≤ w) : partialUe s a w = false := by
  rcases h with h | h
  · simp [partialUe, h]
  · simp [partialUe, Nat.not_lt.mpr h]

/-! ### Stores to memory -/

section
variable (hport : port ≠ 4) (hhead : (portOf s core port).fifo.head? = some x) (hturn : turnOf s core port x = .go a)
include hport hhead hturn

/-- A plain store performs at its cell (R231). -/
theorem storePerform_st (hkind : x.kind = .st) (hue : s.ue a x.w = false ∨ 16 ≤ x.w) :
    exec (.storePerform core port) s = .next (deliver (reap (noteDest
      (healGran ((popStore (touch s a) core port x.id).write a x.w x.data) a x.w) core port x a))) := by
  have hwhole : partialUe (touch s a) a x.w = false := partialUe_off (by simpa using hue)
  simp only [exec_storePerform, execStorePerform, beq_iff_eq, hport, hhead, hkind, hturn, hwhole, Bool.false_eq_true, if_false]

/-- A store of a capability performs at its granule (R231, R243). -/
theorem storePerform_capst (hkind : x.kind = .capst) :
    exec (.storePerform core port) s = .next (deliver (reap (noteDest
      (healGran ((popStore (touch s a) core port x.id).writeCap a (BitVec.ofNat 128 x.data)) a 16) core port x a))) := by
  simp only [exec_storePerform, execStorePerform, beq_iff_eq, hport, hhead, hkind, hturn, if_false]

/-- A store to the scratchpad performs at its granule (R231, R233). -/
theorem storePerform_spad (hkind : (∃ qc, x.kind = .stl qc) ∨ x.kind = .feset ∨ x.kind = .feclr) :
    exec (.storePerform core port) s = .next (deliver (performSpad (touch s a) core port x)) := by
  rcases hkind with ⟨qc, hkind⟩ | hkind | hkind <;>
    simp only [exec_storePerform, execStorePerform, beq_iff_eq, hport, hhead, hkind, hturn, if_false]

/-- With record and replay off a RED has no order gate: it is applied, or rejected (R173, R240, R394). -/
theorem storePerform_red {rop rfmt : Nat} (hkind : x.kind = .red rop rfmt) (hmode : rrMode s x.part = 0) (hue : s.ue a x.w = false) :
    exec (.storePerform core port) s = .next (deliver
      (let r := redApply (noteDest (popStore (touch s a) core port x.id) core port x a) a x.w rop rfmt x.data
       reap (if r.2 then openGate r.1 x.fib else setFibre (openGate r.1 x.fib) x.fib fun f =>
        if f.blk == x.blk && f.fid == x.fid && f.redrej != 0xFFFFFFFF then { f with redrej := f.redrej + 1 } else f))) := by
  have hindex : rrIndex (touch s a) x.part x.obj = none := rrIndex_off ((rrMode_touch ..).trans hmode) x.obj
  have hheld : ∀ coord fid, gateHeld (touch s a) x.part x.obj coord fid = none := fun _ _ => by simp only [gateHeld, hindex, Option.bind_none]
  have hgate : ∀ coord fid, gateOf (touch s a) x.part x.obj coord fid x.hash = .pass := fun _ _ => by simp only [gateOf, hindex]
  have hgrant : ∀ coord fid, takeGrant (touch s a) x.part x.obj coord fid x.hash = touch s a := fun _ _ => by simp only [takeGrant, hindex]
  simp only [exec_storePerform, execStorePerform, beq_iff_eq, hport, hhead, hkind, hturn, hheld, performRed, hgate, hgrant, touch_ue, hue,
    Bool.false_eq_true, if_false]

end

/-! ### Stores to the scratchpad -/

/-- A store on a live barrier granule is discarded (R65, R247). -/
theorem performSpad_live (hlive : s.isLive (granOf x.obj) = true) : performSpad s core port x = loseStore s core port x := by
  simp only [performSpad, hlive, if_true]

section
variable (hlive : s.isLive (granOf x.obj) = false)
include hlive

theorem performSpad_feset (hkind : x.kind = .feset) :
    performSpad s core port x = reap (fillGran (popStore s core port x.id) (granOf x.obj) true) := by
  simp only [performSpad, hlive, hkind, Bool.false_eq_true, if_false]

theorem performSpad_feclr (hkind : x.kind = .feclr) :
    performSpad s core port x = reap (fillGran (popStore s core port x.id) (granOf x.obj) false) := by
  simp only [performSpad, hlive, hkind, Bool.false_eq_true, if_false]

variable (hue : s.ue x.obj x.w = false ∨ 16 ≤ x.w)
include hue

/-- An STL that waits for no bit writes its bytes, and with `.fill` fills its granule (R233). -/
theorem performSpad_stl {qc : Nat} (hkind : x.kind = .stl qc) (hqc : qc ≠ 1) :
    performSpad s core port x =
      reap (if qc = 3 then fillGran (healGran (spadWrite (popStore s core port x.id) x.obj x.w x.data) x.obj x.w) (granOf x.obj) true
        else healGran (spadWrite (popStore s core port x.id) x.obj x.w x.data) x.obj x.w) := by
  simp only [performSpad, hlive, hkind, partialUe_off hue, beq_iff_eq, hqc, Bool.false_eq_true, if_false]
  split <;> rfl

/-- An STL.fe to a full granule waits there (R63, R233). -/
theorem performSpad_fe_full (hkind : x.kind = .stl 1) (hfull : s.isFull (granOf x.obj) = true) :
    performSpad s core port x =
      { (popStore s core port x.id).fresh with
        feStores := (popStore s core port x.id).feStores ++ [{ x with id := (popStore s core port x.id).seq }] } := by
  simp [performSpad, hlive, hkind, partialUe_off hue, hfull]

/-- An STL.fe to an empty granule writes it, fills it and lets its lane go on (R63, R233). -/
theorem performSpad_fe_empty (hkind : x.kind = .stl 1) (hfull : s.isFull (granOf x.obj) = false) :
    performSpad s core port x = reap (fillGran
      (freeFe (healGran (spadWrite (popStore s core port x.id) x.obj x.w x.data) x.obj x.w) x.fib) (granOf x.obj) true) := by
  simp [performSpad, hlive, hkind, partialUe_off hue, hfull]

end

/-! ### REDs -/

/-- Every word of a RED is free or marked by the same operation (R173). -/
theorem redTags_all_iff {tags : List (Nat × Nat)} {ws : List Nat} {t : Nat} :
    (ws.all fun y => match tags.find? (·.1 == y) with | some z => z.2 == t | none => true) = true
      ↔ ∀ y ∈ ws, ∀ z, tags.find? (fun q => q.1 == y) = some z → z.2 = t := by
  refine List.all_eq_true.trans (forall₂_congr fun y _ => ?_)
  cases tags.find? fun q => q.1 == y <;> simp

/-- A RED on words that no other operation has marked is applied (R173, R240). -/
theorem redApply_own {w rop rfmt v : Nat}
    (h : ∀ y ∈ wordsOf a w, ∀ z, s.redTags.find? (fun q => q.1 == y) = some z → z.2 = rop * 8 + rfmt) :
    redApply s a w rop rfmt v =
      ({ s with
          mem := writeMem s.mem a (redNew rop rfmt (s.read a w) v) w
          capTags := s.capTags.filter (fun g => !(gransOf a w).contains g)
          redTags := (wordsOf a w).foldl (fun l y => mapPut y (rop * 8 + rfmt) l) s.redTags }, true) :=
  if_pos (redTags_all_iff.mpr h)

/-- A RED that meets another operation's mark is rejected on all its words (R173, R174). -/
theorem redApply_other {w rop rfmt v : Nat}
    (h : ¬ ∀ y ∈ wordsOf a w, ∀ z, s.redTags.find? (fun q => q.1 == y) = some z → z.2 = rop * 8 + rfmt) :
    redApply s a w rop rfmt v = ({ s with redFlags := (wordsOf a w).foldl (fun l y => setIns y l) s.redFlags }, false) :=
  if_neg fun hall => h (redTags_all_iff.mp hall)

/-! ### The device's own writes -/

/-- The first write that nothing holds back is made (R99, R391). -/
theorem storePerform_devWrite {w : Nat × Nat × Nat} {r : List (Nat × Nat × Nat)} (hdue : s.devWrites = w :: r) (hfree : rowWaits s w.1 = false) :
    exec (.storePerform core 4) s = .next ((touch { s with devWrites := r } w.1).write w.1 w.2.1 w.2.2) := by
  simp [exec_storePerform, execStorePerform, devWriteDue, hdue, hfree]

/-- Settles O34: each kind of store has its lemma above. -/
theorem storesPerform : Obligations.StoresPerform := by
  unfold Obligations.StoresPerform
  refine ⟨?_, fun s core w r => storePerform_devWrite⟩
  intro s core port x a u t done hport hhead hturn
  have hspad {e : State} (hkind : (∃ qc, x.kind = .stl qc) ∨ x.kind = .feset ∨ x.kind = .feclr) (h : performSpad u core port x = e) : done e :=
    (storePerform_spad hport hhead hturn hkind).trans (by rw [h])
  have hliveT (g : Nat) : u.isLive g = s.isLive g := touch_isLive s a g
  have hueT (c n : Nat) : u.ue c n = s.ue c n := touch_ue s a c n
  refine ⟨storePerform_st hport hhead hturn, storePerform_capst hport hhead hturn, ?_, ?_, ?_, ?_, ?_, ?_⟩
  · intro qc hkind hlive hue hqc
    exact hspad (.inl ⟨qc, hkind⟩) (performSpad_stl ((hliveT _).trans hlive) ((hueT x.obj x.w).symm ▸ hue) hkind hqc)
  · intro hkind hlive hue
    refine ⟨fun hfull => hspad (.inl ⟨1, hkind⟩) ?_, fun hfull => hspad (.inl ⟨1, hkind⟩) ?_⟩
    · exact performSpad_fe_full ((hliveT _).trans hlive) ((hueT x.obj x.w).symm ▸ hue) hkind ((touch_isFull s a _).trans hfull)
    · exact performSpad_fe_empty ((hliveT _).trans hlive) ((hueT x.obj x.w).symm ▸ hue) hkind ((touch_isFull s a _).trans hfull)
  · intro qc hkind hlive
    exact hspad (.inl ⟨qc, hkind⟩) (performSpad_live ((hliveT _).trans hlive))
  · intro hkind hlive
    exact hspad (.inr (.inl hkind)) (performSpad_feset ((hliveT _).trans hlive) hkind)
  · intro hkind hlive
    exact hspad (.inr (.inr hkind)) (performSpad_feclr ((hliveT _).trans hlive) hkind)
  · intro rop rfmt hkind hmode hue own v
    have htags : v.redTags = s.redTags := (noteDest_redTags ..).trans (touch_redTags s a)
    have hred := storePerform_red hport hhead hturn hkind hmode hue
    refine ⟨fun hown => hred.trans ?_, fun hother => hred.trans ?_⟩
    · have happly : redApply v a x.w rop rfmt x.data = _ := redApply_own (by rw [htags]; exact hown)
      simp only [v, t, u] at happly ⊢
      rw [happly]
      rfl
    · have happly : redApply v a x.w rop rfmt x.data = _ := redApply_other (by rw [htags]; exact hother)
      simp only [v, t, u] at happly ⊢
      rw [happly]
      rfl

end Sys2Proof.Machine
end

section
/-!
PROOFS. O35: what a plain store that performs leaves as it was (R231, R4, R55).
-/
namespace Sys2Proof.Machine

/-- A fibre of core 0 away on core 4, which is to trap DATA_UE. -/
def trapGuest : Fibre :=
  { newFibre placeBlock { core := 0, port := 1, ctx := 0 } 0 0 0x100 (zeroRegs 8) 0 with
    run := .waiting (.trapping 0x0D 0)
    guest := some { core := 4, hops := 0, live := 0, mask := 0, caps := [], homeRegs := zeroRegs 8 } }

/-- A store of one word to the weight memory of die 0. -/
def plainStore : Store :=
  { id := 0, fib := { core := 0, port := 0, ctx := 0 }, blk := 0, fid := 1, pc := 0x200, kind := .st, spad := false, obj := 0x7FFFFFF8, off := 0, w := 4
    data := 7, scope := 0, rel := false, opId := none, hash := 0, entry := none, lost := false, gone := false, xl := none, waits := [], marked := false
    part := 0 }

/-- The store at the head of a FIFO, and core 4's cluster to be fenced when its guest has left. -/
def fenceState : State :=
  { State.reset with
    fibres := [trapGuest], blocks := [placeBlock], ports := [{ Port.empty 0 0 with fifo := [plainStore] }], fencePend := [1] }

/-- Refutes O35: the traps that waited for the store are delivered with it, and where the last guest leaves a core with its trap, its cluster, which
was to be fenced, is fenced (R385), and a system register tells it. The statement asks for the system registers as they were; `fenceState` has such a
guest. -/
theorem not_storeFrame : ¬ Obligations.StoreFrame := by
  intro hall
  obtain ⟨t, ht, hsys⟩ : ∃ t, exec (.storePerform 0 0) fenceState = .next t ∧ t.sys ≠ fenceState.sys := ⟨_, rfl, by decide⟩
  obtain ⟨-, -, -, -, -, -, -, h⟩ := hall fenceState t 0 0 plainStore Config.weightBase (by decide) (by decide) rfl rfl (by decide) (by decide) ht
  exact hsys h
end Sys2Proof.Machine
end

section
/-!
LAWS. The registers of an outstanding result (R199, R202).
-/
namespace Sys2Proof.Machine

/-- With no write pending, an interlocked write of a register is the write (R202). -/
theorem Fibre.writeNow_reg {f : Fibre} (h : f.pend = []) (n : Nat) (r : VReg) : f.writeNow (.reg n r) = f.setReg n r := by
  simp [Fibre.writeNow, Fibre.apply, Fibre.setReg, h]

/-- Words of a value written from register `d` on, each with its tag. -/
def putWords (d v : Nat) (l : List VReg) (tags : List (BitVec 4 × Nat)) : List VReg :=
  tags.foldl (fun l x => l.set (d + x.2) { val := BitVec.ofNat 32 (v / 2 ^ (32 * x.2)), tag := x.1 }) l

/-- With no write pending, a result writes its words and is no longer outstanding (R199). -/
theorem Fibre.finishOut_eq {f : Fibre} (h : f.pend = []) (o : Out) (v : Nat) :
    f.finishOut o v = { f with regs := putWords o.d v f.regs o.tags.zipIdx, outs := f.outs.filter (fun y => y.id != o.id) } := by
  have hfold (tags : List (BitVec 4 × Nat)) (f : Fibre) (h : f.pend = []) :
      tags.foldl (fun g x => g.writeNow (.reg (o.d + x.2) { val := BitVec.ofNat 32 (v / 2 ^ (32 * x.2)), tag := x.1 })) f
        = { f with regs := putWords o.d v f.regs tags } := by
    induction tags generalizing f with
    | nil => rfl
    | cons x xs ih =>
      rw [List.foldl_cons, Fibre.writeNow_reg h]
      exact ih (f.setReg _ _) h
  rw [Fibre.finishOut, hfold _ f h]

/-- A register of the words holds its word, and another one what it held. -/
theorem putWords_getD {d v : Nat} (z : VReg) (tags : List (BitVec 4)) (i : Nat) (l : List VReg) (hfits : d + i + tags.length ≤ l.length) (n : Nat) :
    (putWords d v l (tags.zipIdx i)).getD (d + n) z =
      if i ≤ n ∧ n < i + tags.length then { val := BitVec.ofNat 32 (v / 2 ^ (32 * n)), tag := tags.getD (n - i) tRaw } else l.getD (d + n) z := by
  induction tags generalizing i l with
  | nil => simp [putWords]
  | cons t ts ih =>
    rw [List.zipIdx_cons, putWords, List.foldl_cons, ← putWords, ih _ _ (by simpa [Nat.add_assoc, Nat.add_comm] using hfits)]
    simp only [List.length_cons] at hfits ⊢
    by_cases hlow : n = i
    · subst hlow
      rw [if_neg (by omega), if_pos (by omega)]
      simp [List.getD, show d + n < l.length by omega]
    · by_cases hin : i + 1 ≤ n ∧ n < i + 1 + ts.length
      · rw [if_pos hin, if_pos (by omega), show n - i = n - (i + 1) + 1 by omega, List.getD_cons_succ]
      · rw [if_neg hin, if_neg (by omega)]
        simp [List.getD, List.getElem?_set_ne (show d + i ≠ d + n by omega)]

theorem putWords_below {d v n : Nat} (z : VReg) (tags : List (BitVec 4 × Nat)) (l : List VReg) (h : n < d) :
    (putWords d v l tags).getD n z = l.getD n z := by
  induction tags generalizing l with
  | nil => rfl
  | cons x xs ih =>
    rw [putWords, List.foldl_cons, ← putWords, ih]
    simp [List.getD, List.getElem?_set_ne (show d + x.2 ≠ n by omega)]

section
variable {f : Fibre} {o : Out} (h : f.pend = []) (v : Nat)
include h

/-- The registers of a result receive its words (R199, R230). -/
theorem Fibre.finishOut_reg {k : Nat} (hfits : o.d + o.tags.length ≤ f.regs.length) (hk : k < o.tags.length) :
    (f.finishOut o v).reg (o.d + k) = { val := BitVec.ofNat 32 (v / 2 ^ (32 * k)), tag := o.tags.getD k tRaw } := by
  rw [Fibre.finishOut_eq h, Fibre.reg, putWords_getD _ _ _ _ hfits, if_pos ⟨Nat.zero_le k, by omega⟩, Nat.sub_zero]

/-- The other registers are as they were. -/
theorem Fibre.finishOut_reg_ne {n : Nat} (hfits : o.d + o.tags.length ≤ f.regs.length) (hn : n < o.d ∨ o.d + o.tags.length ≤ n) :
    (f.finishOut o v).reg n = f.reg n := by
  rw [Fibre.finishOut_eq h]
  rcases hn with hn | hn
  · exact putWords_below _ _ _ hn
  · obtain ⟨m, rfl⟩ := Nat.exists_eq_add_of_le (show o.d ≤ n by omega)
    exact (putWords_getD _ _ _ _ hfits _).trans (if_neg (by omega))

theorem Fibre.mem_finishOut_outs {y : Out} : y ∈ (f.finishOut o v).outs ↔ y ∈ f.outs ∧ y.id ≠ o.id := by
  simp [Fibre.finishOut_eq h]

end

end Sys2Proof.Machine
end

section
/-!
PROOFS. O36: outstanding loads return (R230, R241, R160, R62, R233, R17).
-/
namespace Sys2Proof.Machine

variable {s : State} {core port ctx op : Nat} {f : Fibre} {o : Out}

theorem exec_loadComplete : exec (.loadComplete core port ctx) s = execLoadComplete core port ctx s := rfl
theorem exec_ldlLaneComplete : exec (.ldlLaneComplete core port ctx op) s = execLdlLaneComplete core port ctx op s := rfl

section
variable (hf : fibre? s (keyOf core port ctx) = some f) (ho : f.nextOut = some o)
include hf ho

section
variable (hctx : ctx < Config.ctxPerPort) (hspad : o.spad = false) (hkind : o.kind = .load ∨ o.kind = .query) (hstores : storesHold s f o = false)
  (hweight : weightWaits s o = false) (hrow : rowWaits s o.addr = false)
include hctx hspad hkind hstores hweight hrow

/-- A load from memory that nothing holds and that meets no damage returns the bytes its lane sees (R160, R230, R241). -/
theorem loadComplete_returns (hwhole : loadHurt s f o = false) :
    exec (.loadComplete core port ctx) s = .next (deliver (setFibre (touch s o.addr) f.key fun g => g.finishOut o
      (if o.kind = .query then queryWord (touch s o.addr) o.addr else readOwn (touch s o.addr) f.key o.id false o.obj o.off o.addr o.w))) := by
  have hatom : (o.kind == .atom) = false := by rcases hkind with h | h <;> rw [h] <;> rfl
  simp only [exec_loadComplete, execLoadComplete, Nat.not_le.mpr hctx, hf, ho, hspad, hatom, hstores, hweight, hrow, hwhole, Bool.or_self,
    Bool.false_eq_true, if_false, beq_iff_eq]

/-- One that meets damage traps DATA_UE in its lane (R17). -/
theorem loadComplete_traps (hhurt : loadHurt s f o = true) (htrap : f.takesTrap = true) :
    exec (.loadComplete core port ctx) s = .next (deliver (trapOut (touch s o.addr) f.key o cDataUe)) := by
  have hatom : (o.kind == .atom) = false := by rcases hkind with h | h <;> rw [h] <;> rfl
  simp only [exec_loadComplete, execLoadComplete, Nat.not_le.mpr hctx, hf, ho, hspad, hatom, hstores, hweight, hrow, hhurt, htrap, Bool.or_self,
    Bool.false_eq_true, if_false, if_true]

end

section
variable (hid : o.id = op) (hspad : o.spad = true) (hkind : o.kind = .load) (hbank : o.atBank = false)
include hid hspad hkind hbank

/-- A load from the scratchpad returns the bytes its lane sees (R62, R230). -/
theorem ldlLaneComplete_returns (hfe : o.fe = 0) (hstores : storesHold s f o = false) (hwhole : loadHurt s f o = false) :
    exec (.ldlLaneComplete core port ctx op) s = .next (deliver (setFibre s f.key fun g => g.finishOut o
      (readOwn s f.key o.id true o.obj o.off o.addr o.w))) := by
  simp [exec_ldlLaneComplete, execLdlLaneComplete, hf, ho, hid, hspad, hkind, hbank, hfe, hstores, hwhole]

/-- A load that waits for a full granule reaches its bank, which serves its waiters (R63, R233). -/
theorem ldlLaneComplete_arrives (hfe : o.fe ≠ 0) (hown : ownStores s f.key o.id true o.obj (granOf o.off) 16 = [])
    (hclear : o.fe = 2 → ∀ x ∈ storesOf s f.key, o.id ≤ x.id) (hlive : s.isLive (granOf o.addr) = false) :
    let t := setFibre s.fresh f.key fun g =>
      { g with waitSeq := s.seq, outs := g.outs.map fun y => if y.id == op then { y with atBank := true } else y }
    exec (.ldlLaneComplete core port ctx op) s = .next (deliver (serveGran (serveFuel t) t (granOf o.addr))) := by
  have hbefore : (o.fe == 2 && (storesOf s f.key).any fun x => decide (x.id < o.id)) = false := by
    by_cases h : o.fe = 2
    · simpa [h] using hclear h
    · simp [h]
  have hwaits : (o.fe == 0) = false := beq_eq_false_iff_ne.mpr hfe
  have hload : (o.kind != .load) = false := by rw [hkind]; rfl
  subst hid
  simp only [exec_ldlLaneComplete, execLdlLaneComplete, hf, ho, hspad, hload, hbank, hwaits, hown, hbefore, hlive, bne_self_eq_false, Bool.not_true,
    List.isEmpty_nil, Bool.or_self, Bool.false_eq_true, if_false]

end

end

/-- Settles O36: each event has its lemma above, and a result writes its registers alone. -/
theorem loadsPerform : Obligations.LoadsPerform := by
  refine ⟨?_, ?_, ?_⟩
  · intro s core port ctx f o hctx hf ho hspad hkind hstores hweight hrow
    exact ⟨loadComplete_returns hf ho hctx hspad hkind hstores hweight hrow, loadComplete_traps hf ho hctx hspad hkind hstores hweight hrow⟩
  · intro s core port ctx op f o hf ho hid hspad hkind hbank
    exact ⟨ldlLaneComplete_returns hf ho hid hspad hkind hbank, ldlLaneComplete_arrives hf ho hid hspad hkind hbank⟩
  · intro f o v hpend hfits
    refine ⟨fun y => Fibre.mem_finishOut_outs hpend v, ?_, ?_, ?_, fun k hk => Fibre.finishOut_reg hpend v hfits hk,
      fun n hn => Fibre.finishOut_reg_ne hpend v hfits hn⟩ <;> rw [Fibre.finishOut_eq hpend]

end Sys2Proof.Machine
end

section
/-!
LAWS. What delivery of traps and the end of contexts leave as it is (R28, R353).
-/
namespace Sys2Proof.Machine

/-- With no lane that traps there is nothing to deliver. -/
theorem deliver_none {s : State} (h : ∀ f ∈ s.fibres, f.trapping = false) : deliver s = s := by
  have hnone : s.fibres.filter Fibre.trapping = [] := List.filter_eq_nil_iff.mpr fun f hf => by simp [h f hf]
  rw [deliver, hnone, fireTraps]

/-- A change of one lane's records that makes none of them trap. -/
theorem setFibre_none_trapping {s : State} {k : FKey} {g : Fibre → Fibre} (hs : ∀ f ∈ s.fibres, f.trapping = false)
    (hg : ∀ f, f.trapping = false → (g f).trapping = false) : ∀ f ∈ (setFibre s k g).fibres, f.trapping = false := by
  intro f hf
  obtain ⟨f₀, hf₀, rfl⟩ := List.mem_map.mp hf
  split
  · exact hg f₀ (hs f₀ hf₀)
  · exact hs f₀ hf₀

/-- The first record of a list that a filter keeps. -/
theorem find?_filter_of_keeps {α : Type} {p q : α → Bool} {l : List α} {x : α} (hx : l.find? q = some x) (hp : p x = true) :
    (l.filter p).find? q = some x := by
  obtain ⟨hq, as, bs, rfl, has⟩ := List.find?_eq_some_iff_append.mp hx
  refine List.find?_eq_some_iff_append.mpr ⟨hq, as.filter p, bs.filter p, by simp [hp], fun a ha => has a (List.mem_filter.mp ha).1⟩

/-- A lane that has not exited keeps its context (R28). -/
theorem fibre?_reap {s : State} {k : FKey} {f : Fibre} (hf : fibre? s k = some f) (hrun : f.run ≠ .exited) : fibre? (reap s) k = some f :=
  find?_filter_of_keeps hf (by simp [hrun])

/-! ### Interlocked writes and released waits -/

/-- An interlocked write changes registers, predicates and the list of pending writes alone (R202). -/
theorem Fibre.writeNow_only (f : Fibre) (d : PendDest) : ∃ r p q, f.writeNow d = { f with regs := r, preds := p, pend := q } := by
  have hfold (l : List Pend) (g : Fibre) :
      ∃ r p, l.foldl (fun g e => if !e.landed && sameDest e.dest d then g.apply e.dest else g) g = { g with regs := r, preds := p } := by
    induction l generalizing g with
    | nil => exact ⟨g.regs, g.preds, rfl⟩
    | cons e es ih =>
      rw [List.foldl_cons]
      split
      · obtain ⟨r, p, h⟩ := g.apply_only e.dest
        obtain ⟨r', p', h'⟩ := ih (g.apply e.dest)
        exact ⟨r', p', by rw [h', h]⟩
      · exact ih g
  obtain ⟨r, p, h⟩ := hfold f.pend f
  obtain ⟨r', p', h'⟩ := (f.pend.foldl (fun g e => if !e.landed && sameDest e.dest d then g.apply e.dest else g) f).apply_only d
  exact ⟨r', p', _, by rw [Fibre.writeNow, h', h]⟩

/-- A result that is written changes registers, predicates, pending writes and the outstanding requests alone (R199). -/
theorem Fibre.finishOut_only (f : Fibre) (o : Out) (v : Nat) :
    ∃ r p q, f.finishOut o v = { f with regs := r, preds := p, pend := q, outs := f.outs.filter (fun y => y.id != o.id) } := by
  have hfold (l : List (BitVec 4 × Nat)) (g : Fibre) : ∃ r p q,
      l.foldl (fun g x => g.writeNow (.reg (o.d + x.2) { val := BitVec.ofNat 32 (v / 2 ^ (32 * x.2)), tag := x.1 })) g
        = { g with regs := r, preds := p, pend := q } := by
    induction l generalizing g with
    | nil => exact ⟨g.regs, g.preds, g.pend, rfl⟩
    | cons x xs ih =>
      obtain ⟨r, p, q, h⟩ := g.writeNow_only (.reg (o.d + x.2) { val := BitVec.ofNat 32 (v / 2 ^ (32 * x.2)), tag := x.1 })
      obtain ⟨r', p', q', h'⟩ := ih (g.writeNow (.reg (o.d + x.2) { val := BitVec.ofNat 32 (v / 2 ^ (32 * x.2)), tag := x.1 }))
      exact ⟨r', p', q', by rw [List.foldl_cons, h', h]⟩
  obtain ⟨r, p, q, h⟩ := hfold o.tags.zipIdx f
  exact ⟨r, p, q, by rw [Fibre.finishOut, h]⟩

theorem Fibre.finishOut_run (f : Fibre) (o : Out) (v : Nat) : (f.finishOut o v).run = f.run := by
  obtain ⟨r, p, q, h⟩ := f.finishOut_only o v
  rw [h]

theorem Fibre.finishOut_key (f : Fibre) (o : Out) (v : Nat) : (f.finishOut o v).key = f.key := by
  obtain ⟨r, p, q, h⟩ := f.finishOut_only o v
  rw [h]

theorem Fibre.release_key (f : Fibre) : f.release.key = f.key := by
  obtain ⟨r, p, q, h⟩ := f.tick_only f.owe
  rw [Fibre.release, h]

/-- With no write pending, the end of a wait makes a lane ready and changes no more. -/
theorem Fibre.release_eq {f : Fibre} (h : f.pend = []) : f.release = { f with owe := 0, run := .ready } := by
  simp [Fibre.release, Fibre.tick, landDue, h]

end Sys2Proof.Machine
end

section
/-!
PROOFS. O37: atomics perform (R237, R238, R162, R167).
-/
namespace Sys2Proof.Machine

variable {s : State} {core port ctx op part : Nat} {f : Fibre} {o : Out} {b : Block}

theorem exec_atomRmwPerform : exec (.atomRmwPerform core port ctx op) s = execAtomRmwPerform core port ctx op s := rfl

theorem rrMode_clearMask (s : State) (core port scope part : Nat) : rrMode (clearMask s core port scope) part = rrMode s part := by
  unfold clearMask
  split <;> rfl

/-! ### When an atomic performs -/

section
variable (hf : fibre? s (keyOf core port ctx) = some f) (ho : f.nextOut = some o) (hid : o.id = op) (hkind : o.kind = .atom)
  (hb : block? s f.blk = some b) (hwaits : atomWaits s f o = false) (hue : s.ue o.addr o.w = false)
include hf ho hid hkind hb hwaits hue

/-- An atomic on the scratchpad performs at its bank (R238). -/
theorem atomRmwPerform_spad (hspad : o.spad = true) (hlive : s.isLive (granOf o.addr) = false) :
    exec (.atomRmwPerform core port ctx op) s = .next (atomDo s b.part f o) := by
  subst hid
  simp only [exec_atomRmwPerform, execAtomRmwPerform, hf, ho, hb, hkind, hwaits, hue, hspad, hlive, bne_self_eq_false, Bool.or_self, Bool.false_eq_true,
    if_false, if_true]

section
variable (hspad : o.spad = false) (hrow : rowWaits s o.addr = false)
include hspad hrow

/-- One on memory of a releasing order first sends its markers (R162, R167). -/
theorem atomRmwPerform_sends (hrel : 2 ≤ o.fe) (hnew : f.sentTo.filter (fun x => x.2 == o.id) = [])
    (hdests : markerDests (portOf s f.loc port) o.scope ≠ []) :
    exec (.atomRmwPerform core port ctx op) s = .next (setFibre (sendMarkers s f.loc port o.scope).1 f.key fun g =>
      { g with sentTo := g.sentTo ++ (sendMarkers s f.loc port o.scope).2.map fun i => (i, o.id) }) := by
  subst hid
  simp only [exec_atomRmwPerform, execAtomRmwPerform, hf, ho, hb, hkind, hwaits, hue, hspad, hrow, hrel, hnew, bne_self_eq_false, Bool.or_self,
    Bool.false_eq_true, if_false, if_true, decide_true, List.isEmpty_nil, List.isEmpty_eq_false_iff.mpr hdests, Bool.not_false, Bool.and_self]

/-- One on memory performs at its word once no marker is to be sent or gathered, with no order gate where record and replay are off (R167, R238, R394). -/
theorem atomRmwPerform_memory (hmode : rrMode s b.part = 0)
    (hsent : (decide (2 ≤ o.fe) && (f.sentTo.filter fun x => x.2 == o.id).isEmpty && !(markerDests (portOf s f.loc port) o.scope).isEmpty) = false)
    (hgathered : gathering s f.loc port ((f.sentTo.filter fun x => x.2 == o.id).map (·.1)) = false) :
    exec (.atomRmwPerform core port ctx op) s
      = .next (atomDo (touch (if 2 ≤ o.fe then clearMask s f.loc port o.scope else s) o.addr) b.part f o) := by
  have hmode' : rrMode (touch (if 2 ≤ o.fe then clearMask s f.loc port o.scope else s) o.addr) b.part = 0 := by
    rw [rrMode_touch]
    split
    · rw [rrMode_clearMask, hmode]
    · exact hmode
  have hindex := rrIndex_off hmode' o.obj
  subst hid
  simp only [exec_atomRmwPerform, execAtomRmwPerform, hf, ho, hb, hkind, hwaits, hue, hspad, hrow, hsent, hgathered, gateHeld, gateOf, takeGrant, hindex,
    Option.bind_none, bne_self_eq_false, Bool.or_self, Bool.false_eq_true, if_false]

end

end

/-! ### What it does -/

/-- The new value that an atomic writes (R237). -/
def atomValue (s : State) (o : Out) : Nat := atomNew o.aop (8 * o.w) (s.read o.addr o.w) o.b o.e

/-- Its write (R237, R238). -/
def atomStore (s : State) (o : Out) : State := if o.spad then spadWrite s o.addr o.w (atomValue s o) else s.write o.addr o.w (atomValue s o)

/-- Its lane with the old value, the store hash fed and its markers spent (R167, R237, R395). -/
def atomLane (s : State) (part : Nat) (o : Out) (g : Fibre) : Fibre :=
  { (g.finishOut o (s.read o.addr o.w)) with
    fhash := feed (atomStore s o) part g.fhash (if o.spad then 0 else o.obj) o.off (if o.w == 8 then 3 else 2) (atomValue s o)
    sentTo := g.sentTo.filter (fun x => x.2 != o.id) }

theorem atomDo_eq : atomDo s part f o = reap (deliver (openGate (setFibre (atomStore s o) f.key (atomLane s part o)) f.key)) := rfl

@[simp] theorem atomStore_mem : (atomStore s o).mem = writeMem s.mem o.addr (atomValue s o) o.w := by
  unfold atomStore
  split <;> rfl

@[simp] theorem atomStore_fibres : (atomStore s o).fibres = s.fibres := by
  unfold atomStore
  split <;> rfl

theorem atomLane_run (g : Fibre) : (atomLane s part o g).run = g.run := g.finishOut_run o _

/-- The wait at the order gate of a lane ends (R394). -/
def Fibre.passGate (f : Fibre) : Fibre := if f.run == .waiting .gate then f.release else f


/-- Where no lane is to trap, there is no trap to deliver with an atomic. -/
theorem atomDo_quiet (htraps : ∀ x ∈ s.fibres, x.trapping = false) :
    atomDo s part f o = reap (openGate (setFibre (atomStore s o) f.key (atomLane s part o)) f.key) := by
  rw [atomDo_eq, deliver_none]
  refine setFibre_none_trapping (setFibre_none_trapping (by simpa using htraps) fun g hg => ?_) fun g hg => ?_
  · rw [Fibre.trapping, atomLane_run]
    exact hg
  · split
    · rfl
    · exact hg

/-- The memory after an atomic holds its new value. -/
theorem atomDo_mem (htraps : ∀ x ∈ s.fibres, x.trapping = false) :
    (atomDo s part f o).mem = writeMem s.mem o.addr (atomValue s o) o.w := by
  rw [atomDo_quiet htraps]
  exact atomStore_mem

theorem Fibre.passGate_key (f : Fibre) : f.passGate.key = f.key := by
  unfold Fibre.passGate
  split
  · exact f.release_key
  · rfl

/-- Of a lane with no write pending, the end of a wait at the order gate changes neither registers nor requests. -/
theorem Fibre.passGate_only {f : Fibre} (h : f.pend = []) : f.passGate.regs = f.regs ∧ f.passGate.outs = f.outs := by
  unfold Fibre.passGate
  split
  · rw [Fibre.release_eq h]
    exact ⟨rfl, rfl⟩
  · exact ⟨rfl, rfl⟩

/-- A lane that waits at the order gate, or not, has not exited with the end of that wait. -/
theorem Fibre.passGate_alive {f : Fibre} (h : f.run ≠ .exited) : f.passGate.run ≠ .exited := by
  unfold Fibre.passGate
  split
  · exact nofun
  · exact h

/-- The lane after an atomic. -/
theorem fibre?_atomDo (htraps : ∀ x ∈ s.fibres, x.trapping = false) (hf : fibre? s f.key = some f) (hrun : f.run ≠ .exited) :
    fibre? (atomDo s part f o) f.key = some (atomLane s part o f).passGate := by
  have hkey (g : Fibre) : (atomLane s part o g).key = g.key := g.finishOut_key o _
  have hlane : fibre? (setFibre (atomStore s o) f.key (atomLane s part o)) f.key = some (atomLane s part o f) :=
    fibre?_setFibre_same hkey (by rw [fibre?, atomStore_fibres]; exact hf)
  rw [atomDo_quiet htraps]
  exact fibre?_reap (fibre?_setFibre_same (fun g => g.passGate_key) hlane) (Fibre.passGate_alive (by rwa [atomLane_run]))

/-- The old value is in the lane's registers and the atomic is no longer outstanding (R237). -/
theorem atomLane_result (hpend : f.pend = []) (hfits : o.d + o.tags.length ≤ f.regs.length) :
    (∀ y, y ∈ (atomLane s part o f).passGate.outs ↔ y ∈ f.outs ∧ y.id ≠ o.id)
      ∧ ∀ k, k < o.tags.length → (atomLane s part o f).passGate.reg (o.d + k)
        = { val := BitVec.ofNat 32 (s.read o.addr o.w / 2 ^ (32 * k)), tag := o.tags.getD k tRaw } := by
  have hpend' : (atomLane s part o f).pend = [] := by
    simp only [atomLane, Fibre.finishOut_eq hpend]
    exact hpend
  obtain ⟨hregs, houts⟩ := Fibre.passGate_only hpend'
  refine ⟨fun y => ?_, fun k hk => ?_⟩
  · rw [houts]
    exact Fibre.mem_finishOut_outs hpend _
  · rw [Fibre.reg, hregs]
    exact Fibre.finishOut_reg hpend _ hfits hk

/-! ### Its new value -/

/-- The smaller or larger of two unsigned values (R237). -/
theorem pickInt_unsigned (w a b : Nat) : pickInt w false false a b = min a b ∧ pickInt w false true a b = max a b := by
  simp only [pickInt, Bool.false_eq_true, if_false, if_true, Nat.cast_lt]
  constructor <;> split <;> omega

/-- The smaller or larger of two signed values (R237). -/
theorem pickInt_signed (w a b : Nat) :
    (BitVec.ofNat w (pickInt w true false a b)).toInt = min (BitVec.ofNat w a).toInt (BitVec.ofNat w b).toInt
      ∧ (BitVec.ofNat w (pickInt w true true a b)).toInt = max (BitVec.ofNat w a).toInt (BitVec.ofNat w b).toInt := by
  simp only [pickInt, Bool.false_eq_true, if_false, if_true]
  constructor <;> split <;> omega

/-- Settles O37: when an atomic performs, what it leaves, and its new value, each by its lemma above. -/
theorem atomicsPerform : Obligations.AtomicsPerform := by
  refine ⟨?_, ?_, ?_⟩
  · intro s core port ctx op f o b hf ho hid hkind hb hwaits hue
    refine ⟨atomRmwPerform_spad hf ho hid hkind hb hwaits hue, ?_, ?_⟩
    · intro hspad hrow hfe hsent hmode
      have hperform := atomRmwPerform_memory hf ho hid hkind hb hwaits hue hspad hrow hmode
        (by rw [decide_eq_false (by omega), Bool.false_and, Bool.false_and]) (by rw [hsent]; exact List.any_eq_false.mpr fun _ _ => by simp)
      rwa [if_neg (by omega)] at hperform
    · intro hspad hrow hfe mine
      refine ⟨atomRmwPerform_sends hf ho hid hkind hb hwaits hue hspad hrow hfe, fun hdests hgathered hmode => ?_⟩
      have hperform := atomRmwPerform_memory hf ho hid hkind hb hwaits hue hspad hrow hmode (by
        rcases hdests with h | h
        · rw [List.isEmpty_eq_false_iff.mpr h, Bool.and_false, Bool.false_and]
        · rw [h, List.isEmpty_nil, Bool.not_true, Bool.and_false]) hgathered
      rwa [if_pos hfe] at hperform
  · intro s part f o hinv htraps t old
    have hmem : t.mem = _ := atomDo_mem htraps
    refine ⟨?_, fun i hi => ?_, fun hf hpend hrun hfits => ⟨_, fibre?_atomDo htraps hf hrun, atomLane_result hpend hfits⟩⟩
    · rw [State.read, hmem]
      exact readMem_writeMem hinv ..
    · rw [hmem]
      exact memGet_writeMem_out hinv _ _ _ _ hi
  · intro w old v e
    refine ⟨rfl, by simp [atomNew], rfl, rfl, rfl, rfl, rfl, fun _ _ => ⟨(pickInt_unsigned ..).1, (pickInt_unsigned ..).2, (pickInt_signed ..).1,
      (pickInt_signed ..).2⟩⟩

end Sys2Proof.Machine
end

section
/-!
PROOFS. O38: transactions, gatherings, walks and held fault entries end (R235, R167, R341, R343, R344).
-/
namespace Sys2Proof.Machine

variable {s : State} {core port ctx op : Nat}

theorem exec_ldaTransaction : exec (.ldaTransaction core port ctx op) s = execLdaTransaction core port ctx op s := rfl
theorem exec_flushMarkerGather : exec (.flushMarkerGather core port op) s = execFlushMarkerGather core port op s := rfl
theorem exec_tableWalkComplete (walk : Nat) : exec (.tableWalkComplete walk) s = execTableWalkComplete walk s := rfl
theorem exec_faultEntryPost (held : Nat) : exec (.faultEntryPost held) s = execFaultEntryPost held s := rfl

/-- A transaction whose lane has no earlier access pending writes its granule, fills it and counts down (R235). -/
theorem ldaTransaction_writes {x : LdaTx} (hx : s.ldas.find? (fun y => y.id == op && y.fib == keyOf core port ctx) = some x)
    (hreading : ∀ f, fibre? s x.fib = some f → f.reading = false) (hstores : storesOf s x.fib = []) (hrow : rowWaits s x.src = false)
    (hlive : s.isLive (granOf x.dst) = false) (hue : s.ue x.src x.w = false) :
    let t := touch { s with ldas := s.ldas.filter (fun y => y.id != op) } x.src
    exec (.ldaTransaction core port ctx op) s = .next (deliver (completeOp
      (pendingDown (fillGran (healGran (spadWrite t x.dst x.w (t.read x.src x.w)) x.dst x.w) (granOf x.dst) true) (granOf x.bar)) x.fib x.opId 4
        false)) := by
  have hfree : ((fibre? s x.fib).map fun f => f.blk == x.blk && f.outs.any fun o => o.kind != .cut && decide (o.id < op)).getD false = false := by
    cases hf : fibre? s x.fib with
    | none => rfl
    | some f =>
      have hnone := List.any_eq_false.mp (hreading f hf)
      simp only [Option.map_some, Option.getD_some, Bool.and_eq_false_iff, List.any_eq_false]
      exact .inr fun o ho => by simp [hnone o ho]
  simp only [exec_ldaTransaction, execLdaTransaction, hx, hfree, hstores, hrow, hlive, hue, List.any_nil, Bool.or_self, Bool.false_eq_true, if_false]

/-- Cells that a walk reads are noted, and no more (R377). -/
theorem touches_only (s : State) (l : List Nat) : ∃ r, l.foldl touch s = { s with reqAt := r } := by
  induction l generalizing s with
  | nil => exact ⟨s.reqAt, rfl⟩
  | cons a l ih =>
    obtain ⟨r, h⟩ := touch_only s a
    obtain ⟨r', h'⟩ := ih (touch s a)
    exact ⟨r', by rw [List.foldl_cons, h', h]⟩

theorem findExt_reqAt (s : State) (r : List (Nat × Nat)) (off n p : Nat) : findExt { s with reqAt := r } off n p = findExt s off n p := by
  induction n generalizing p with
  | zero => rfl
  | succ n ih =>
    simp only [findExt, ih]
    rfl

theorem extentOf_reqAt (s : State) (r : List (Nat × Nat)) (part id off : Nat) : extentOf { s with reqAt := r } part id off = extentOf s part id off := by
  simp only [extentOf, findExt_reqAt]
  rfl

theorem walkTables_touches (s : State) (l : List Nat) (part id page : Nat) : walkTables (l.foldl touch s) part id page = walkTables s part id page := by
  obtain ⟨r, h⟩ := touches_only s l
  rw [h]
  simp only [walkTables, extentOf_reqAt]
  rfl

/-- The translation with which a walk answers (R341). -/
def walkAnswer (w : Walk) : WalkRes → Option Xlate
  | .nowhere _ => none
  | .bad k => some { obj := w.obj, page := w.page, place := none, cause := k, rx := false, top := 0 }
  | .ok p e rx => some { obj := w.obj, page := w.page, place := some p, cause := 0, rx := rx, top := e.ostart + 4096 * e.npages }

/-- A TLB entry of a page at the port that owns it, which names no place. -/
def pageTlb (s : State) (part id page cur : Nat) : Tlb :=
  { mport := ownerPort s part id page cur, part := part, range := false, obj := id, lo := page, hi := page + 4096, place := 0, cause := none
    rx := false, top := 0 }

/-- A page that resolves is kept, or its extent where that is not paged (R341). -/
theorem walkTlb_ok {part id page cur place : Nat} {e : Ext} {rx : Bool} (h : walkTables s part id page = .ok place e rx) :
    walkTlb s part id page cur = some (
      if e.paged then { pageTlb s part id page cur with place := place, rx := rx, top := e.ostart + 4096 * e.npages }
      else { pageTlb s part id page cur with
        range := true, lo := e.ostart, hi := e.ostart + 4096 * e.npages, place := place - (page - e.ostart), rx := rx
        top := e.ostart + 4096 * e.npages }) := by
  simp only [walkTlb, h]
  rfl

/-- Of one that does not, it is kept that it is absent or being moved (R343). -/
theorem walkTlb_bad {part id page cur k : Nat} (h : walkTables s part id page = .bad k) :
    walkTlb s part id page cur = if k = 2 ∨ k = 3 then some { pageTlb s part id page cur with cause := some k } else none := by
  simp only [walkTlb, h, Bool.or_eq_true, beq_iff_eq]
  rfl

section
variable {walk id : Nat} {w : Walk} (hw : s.walks.find? (fun y => y.id == walk) = some w) (hname : objName s w.part w.obj = .local id)
  (hserved : walkServed s w = true) (hfree : walkWaits s w.part id w.page = none)
include hw hname hserved hfree

/-- A walk that its port serves ends: what it finds is kept at the port and answers its waiters (R341, R342). -/
theorem tableWalkComplete_ends {x : Xlate}
    (hx : walkAnswer w (walkTables s w.part id w.page) = some x) :
    let u := (walkCells s w.part id w.page).foldl touch s
    let u' := { u with walks := u.walks.filter (fun y => y.id != walk) }
    exec (.tableWalkComplete walk) s
      = .next (w.waiters.foldl (fun v y => answer v w.part x y) ((walkTlb u w.part id w.page w.mport).elim u' (putTlb u'))) := by
  simp only [exec_tableWalkComplete, execTableWalkComplete, hw, hname, hserved, hfree, walkTables_touches, Bool.not_true, Bool.false_eq_true, if_false]
  cases htab : walkTables s w.part id w.page with
  | nowhere a =>
    rw [htab] at hx
    exact absurd hx nofun
  | bad k =>
    rw [htab] at hx
    rw [← Option.some.inj hx]
  | ok p e rx =>
    rw [htab] at hx
    rw [← Option.some.inj hx]

end

/-- A held entry is posted with a free identifier, where the queue has room (R344). -/
theorem faultEntryPost_posts {held i : Nat} {p : Partn} {e : FaultEntry}
    (hp : s.partns.find? (fun q => q.faults.any (fun y => y.eid == held && !y.posted)) = some p)
    (he : p.faults.find? (fun y => y.eid == held) = some e) (hfree : lowestFree ((p.faults.filter (·.posted)).map (·.ident)) 4096 = some i)
    (hroom : (p.faults.filter (fun y => y.posted && !y.popped)).length < 4096) :
    exec (.faultEntryPost held) s = .next (setPartn s p.part fun q =>
      { q with faults := q.faults.filter (fun y => y.eid != held) ++ [{ e with posted := true, ident := i }] }) := by
  simp only [exec_faultEntryPost, execFaultEntryPost, hp, he, hfree, Nat.not_le.mpr hroom, if_false]

/-- Settles O38: each event has its lemma above. -/
theorem portsAndTransactions : Obligations.PortsAndTransactions := by
  refine ⟨fun s core port ctx op x => ldaTransaction_writes, fun s core port op hany => by rw [exec_flushMarkerGather, execFlushMarkerGather, if_pos hany],
    ?_, fun s held i p e => faultEntryPost_posts⟩
  intro s walk id place w e rx hw hname hserved hfree u u' page
  constructor
  · intro htab top t
    refine (tableWalkComplete_ends hw hname hserved hfree (congrArg (walkAnswer w) htab)).trans ?_
    rw [walkTlb_ok ((walkTables_touches ..).trans htab)]
    rfl
  · intro k htab
    refine (tableWalkComplete_ends hw hname hserved hfree (congrArg (walkAnswer w) htab)).trans ?_
    rw [walkTlb_bad ((walkTables_touches ..).trans htab)]
    split <;> rfl

end Sys2Proof.Machine
end

section
/-!
PROOFS. O22: a fibre takes a trap (R353, R354).
-/
namespace Sys2Proof.Machine

/-- A landing point changes registers and predicates, and leaves no write pending (R202). -/
theorem Fibre.landAll_only (f : Fibre) : ∃ r p, f.landAll = { f with regs := r, preds := p, pend := [] } := by
  have hfold (l : List Pend) (g : Fibre) :
      ∃ r p, l.foldl (fun g e => if e.landed then g else g.apply e.dest) g = { g with regs := r, preds := p } := by
    induction l generalizing g with
    | nil => exact ⟨g.regs, g.preds, rfl⟩
    | cons e es ih =>
      rw [List.foldl_cons]
      split
      · exact ih g
      · obtain ⟨r, p, h⟩ := g.apply_only e.dest
        obtain ⟨r', p', h'⟩ := ih (g.apply e.dest)
        exact ⟨r', p', by rw [h', h]⟩
  obtain ⟨r, p, h⟩ := hfold f.pend f
  exact ⟨r, p, by rw [Fibre.landAll, h]⟩

/-- What a fibre is as it takes a trap: landed, at home, with the engine-lost mark ENGINE_LOST clears and no exemption from the comparators
(R300, R353, R390). -/
def Fibre.atTrap (code : Nat) (f : Fibre) : Fibre := { f.landAll.comeHome with lost := f.lost && code != cEngineLost, cmpPass := false }

theorem Fibre.atTrap_key (code : Nat) (f : Fibre) : (f.atTrap code).key = f.key := f.landAll.comeHome_key.trans f.landAll_key

/-- At home it has only to land. -/
theorem Fibre.atTrap_home {f : Fibre} (h : f.guest = none) (code : Nat) :
    f.atTrap code = { f.landAll with lost := f.lost && code != cEngineLost, cmpPass := false } := by
  obtain ⟨r, p, hland⟩ := f.landAll_only
  rw [Fibre.atTrap, hland, Fibre.comeHome]
  simp only [h]

/-- A record has its place in a trap log that is not full (R365). -/
theorem logTrap_tlog {s : State} {p : Nat} (r : TrapRec) (hroom : (partnOf s p).tlog.length < 256) :
    (partnOf (logTrap s p r) p).tlog = (partnOf s p).tlog ++ [r] := by
  rw [logTrap, partnOf_setPartn _ _ (fun x => by split <;> rfl), if_pos hroom]

/-- The lanes `fs` of a fragment, landed in `s`, that have a handler and are not masked enter it, and the others stay parked (R353). -/
def divideTrap (s : State) (fs : List Fibre) (p code : Nat) (info : BitVec 64) (detail : Nat) (cmp : Bool) : State :=
  let v := vectorOf s p code
  let stops := fs.filter (fun f => f.tm || v.2 == 0)
  let goes := fs.filter (fun f => !(f.tm || v.2 == 0))
  let rec' := fun (f : Fibre) => trapRecord f fs code info detail cmp
  let s := setFibres s (goes.map (·.key)) fun f => f.enter (rec' f) v.1 v.2
  match stops with
  | [] => s
  | f :: _ =>
    let s := logTrap s p (rec' f)
    let s := setFibres s (stops.map (·.key)) fun g => g.park (rec' g) s.seq
    s.fresh

theorem takeTrap_eq (s : State) (p : Nat) (ks : List FKey) (code : Nat) (info : BitVec 64) (detail : Nat) (cmp : Bool) :
    takeTrap s p ks code info detail cmp = divideTrap (setFibres s ks (Fibre.atTrap code))
      (sortBy Fibre.lane ((setFibres s ks (Fibre.atTrap code)).fibres.filter fun f => ks.contains f.key)) p code info detail cmp := rfl

section
variable (s : State) (l : Fibre) (p code : Nat) (info : BitVec 64) (detail : Nat) (cmp : Bool)

/-- A lane alone enters its handler (R353, step 4). -/
theorem divideTrap_enters (hgo : (l.tm || (vectorOf s p code).2 == 0) = false) :
    divideTrap s [l] p code info detail cmp = setFibre s l.key fun g =>
      g.enter (trapRecord g [l] code info detail cmp) (vectorOf s p code).1 (vectorOf s p code).2 := by
  simp only [divideTrap, List.filter_cons, hgo, Bool.not_false, Bool.false_eq_true, if_true, if_false, List.filter_nil, List.map_cons, List.map_nil,
    setFibres_one]

/-- Or stays parked, with its record in the trap log (R353, step 3). -/
theorem divideTrap_parks (hstop : (l.tm || (vectorOf s p code).2 == 0) = true) :
    divideTrap s [l] p code info detail cmp = (setFibre (logTrap s p (trapRecord l [l] code info detail cmp)) l.key fun g =>
      g.park (trapRecord g [l] code info detail cmp) s.seq).fresh := by
  have hnone (s : State) (g : Fibre → Fibre) : setFibres s [] g = s := by simp [setFibres]
  simp only [divideTrap, List.filter_cons, hstop, Bool.not_true, Bool.false_eq_true, if_true, if_false, List.filter_nil, List.map_cons, List.map_nil,
    setFibres_one, hnone]
  rfl

end

section
variable {s : State} {f : Fibre} (hone : s.fibres.filter (fun g => g.key == f.key) = [f])
include hone

/-- A key with one record has it after a change too. -/
theorem filter_setFibre_one {g : Fibre → Fibre} (hg : ∀ x, (g x).key = x.key) :
    (setFibre s f.key g).fibres.filter (fun x => [f.key].contains x.key) = [g f] := by
  have hkey (x : Fibre) : (if x.key == f.key then g x else x).key = x.key := by split <;> simp [hg]
  rw [setFibre, List.filter_map]
  have hfilter : s.fibres.filter ((fun x => [f.key].contains x.key) ∘ fun x => if x.key == f.key then g x else x) = [f] := by
    rw [← hone]
    refine List.filter_congr fun x _ => ?_
    rw [Function.comp, hkey, Bool.eq_iff_iff]
    simp
  rw [hfilter]
  simp

/-- A fragment of one fibre. -/
theorem takeTrap_one (p code : Nat) (info : BitVec 64) (detail : Nat) (cmp : Bool) :
    takeTrap s p [f.key] code info detail cmp
      = divideTrap (setFibre s f.key (Fibre.atTrap code)) [f.atTrap code] p code info detail cmp := by
  rw [takeTrap_eq, setFibres_one, filter_setFibre_one hone (Fibre.atTrap_key code)]
  rfl

end

theorem fibre?_setFibre_ne {s : State} {k n : FKey} {g : Fibre → Fibre} (hg : ∀ x, (g x).key = x.key) (h : n ≠ k) :
    fibre? (setFibre s k g) n = fibre? s n := by
  rw [fibre?_setFibre hg]
  cases hf : fibre? s n with
  | none => rfl
  | some f => rw [Option.map_some, if_neg (by simpa [fibre?_key hf] using h)]

/-- Settles O22: a fragment of one fibre is divided in two ways (`divideTrap_enters`, `divideTrap_parks`). -/
theorem trapEntry : Obligations.TrapEntry := by
  intro s p f code info detail cmp hf hone hhome l r t v
  obtain ⟨regs, preds, hland⟩ := f.landAll_only
  have hl : f.atTrap code = l := Fibre.atTrap_home hhome code
  have ht : t = divideTrap (setFibre s f.key (Fibre.atTrap code)) [l] p code info detail cmp := hl ▸ takeTrap_one hone p code info detail cmp
  have hlkey : l.key = f.key := f.landAll_key
  have hltm : l.tm = f.tm := by
    show f.landAll.tm = f.tm
    rw [hland]
  have hrecord : r.pc = f.pc ∧ r.nest = f.tm ∧ r.fid = BitVec.ofNat 13 f.fid ∧ r.blk = BitVec.ofNat 17 f.blk
      ∧ r.port = BitVec.ofNat 2 f.key.port ∧ r.lanes = 1#32 <<< (f.key.ctx % 32) := by
    simp [r, l, hland, trapRecord, laneMask, Fibre.lane]
  obtain ⟨hpc, hnest, hfid, hblk, hport, hlanes⟩ := hrecord
  have hlane : fibre? (setFibre s f.key (Fibre.atTrap code)) f.key = some l := hl ▸ fibre?_setFibre_same (Fibre.atTrap_key code) hf
  have hothers (k : FKey) (hk : k ≠ f.key) : fibre? (setFibre s f.key (Fibre.atTrap code)) k = fibre? s k :=
    fibre?_setFibre_ne (Fibre.atTrap_key code) hk
  cases hstop : (l.tm || v.2 == 0) with
  | false =>
    have hend := ht.trans (divideTrap_enters _ l p code info detail cmp hstop)
    rw [hlkey] at hend
    rw [hend]
    refine ⟨rfl, rfl, rfl, rfl, fun k hk => (fibre?_setFibre_ne (by intro; rfl) hk).trans (hothers k hk), rfl, hpc, hnest, rfl, rfl, rfl, hfid, hblk, hport,
      hlanes, fun _ _ => ⟨fibre?_setFibre_same (by intro; rfl) hlane, rfl⟩, fun hor => ?_⟩
    simp [hltm] at hstop
    rcases hor with h | h
    · simp [h] at hstop
    · exact absurd h hstop.2
  | true =>
    have hend := ht.trans (divideTrap_parks _ l p code info detail cmp hstop)
    rw [hlkey] at hend
    rw [hend]
    refine ⟨rfl, rfl, rfl, rfl, fun k hk => (fibre?_setFibre_ne (by intro; rfl) hk).trans (hothers k hk), rfl, hpc, hnest, rfl, rfl, rfl, hfid, hblk, hport,
      hlanes, fun hclear hv => ?_, fun _ => ⟨fibre?_setFibre_same (by intro; rfl) hlane, fun hroom => ?_⟩⟩
    · simp [hltm, hclear] at hstop
      exact absurd hstop hv
    · exact logTrap_tlog r hroom

end Sys2Proof.Machine
end

section
/-!
PROOFS. O48: TRET and TMASK (R353, R366).
-/
namespace Sys2Proof.Machine

/-! ### Privileged instructions -/

/-- A use that names no feature, no tile and no engine, and whose fetch traps nothing; its level is its own (R196, R362). -/
structure Use.Levelled (u : Use) : Prop where
  early : u.early = none
  feat : u.feat = none
  tiles : u.tiles = []
  mx : u.mx = false

/-- A privileged instruction of lanes at home at its level passes its checks (R196, R197). -/
theorem Use.Levelled.passes {u : Use} {s : State} {b : Block} {ls : List Fibre} (hu : u.Levelled) (hlegal : u.legal = true)
    (hclear : Clear ls (u.vr ++ u.vw)) (H : AtHome ls) (hlevel : ∀ g ∈ ls, u.priv ≤ g.lvl) : u.Passes s b ls where
  early := hu.early
  legal := hlegal
  feat k hk := by rw [hu.feat] at hk; cases hk
  priv := hlevel
  clear := hclear
  here := needsHome_home H
  tiles t ht := by rw [hu.tiles] at ht; cases ht
  lost h := by rw [hu.mx] at h; cases h

/-! ### One lane returns from its handler -/

/-- A fibre exempt from the comparators, or not (R390). -/
def Fibre.withPass (f : Fibre) (x : Bool) : Fibre := { f with cmpPass := x }

theorem Fibre.apply_withPass (f : Fibre) (x : Bool) (d : PendDest) : (f.withPass x).apply d = (f.apply d).withPass x := by
  cases d with
  | reg v r => rfl
  | tag v t => rfl
  | pred p b =>
    simp only [Fibre.apply, Fibre.setPred]
    split <;> rfl

theorem landDue_withPass (l : List Pend) (f : Fibre) (x : Bool) : landDue l (f.withPass x) = ((landDue l f).1.withPass x, (landDue l f).2) := by
  induction l generalizing f with
  | nil => rfl
  | cons e r ih =>
    simp only [landDue, Fibre.apply_withPass]
    split <;> rw [ih]

/-- An issue ends the exemption, so that it does not count before. -/
theorem Fibre.advance_withPass (f : Fibre) (x : Bool) (pc : BitVec 44) (n next : Nat) :
    (f.withPass x).advance pc n next = f.advance pc n next := by
  have htick (n : Nat) : (f.withPass x).tick n = (f.tick n).withPass x := by
    have hpend : (f.withPass x).pend = f.pend := rfl
    rw [Fibre.tick, Fibre.tick, hpend, landDue_withPass]
    rfl
  have howes : (f.withPass x).run.owes = f.run.owes := rfl
  rw [Fibre.advance, Fibre.advance, htick, howes]
  cases f.run.owes <;> rfl

/-- The batch of one lane that has left its handler goes on, and the lane keeps its exemption from the comparators (R366, R390). -/
theorem finish_back {a : Acted} {b : Block} {f g : Fibre} (c : Cur) {q : BitVec 44} (len dist : Nat) (hfates : a.fates = [(f.key, .back q)])
    (hg : fibre? a.s f.key = some g) (hpre : preStopped a.s g = false) (htrial : ∀ p, trialDelay a.s b p = 0) (hmig : a.migrate = false) :
    finish c b [f] len dist a =
      { goTo a.s c [f] (fun _ => q) dist a.renew with
        fibres := a.s.fibres.map fun x =>
          if [f.key].contains x.key then
            { x.advance q dist (a.s.now + dist) with
              slot := some c.slot, age := if a.renew then a.s.now else ((slot? a.s c).map (·.age)).getD a.s.now
              bat := ((slot? a.s c).map (·.bid)).getD 0, cmpPass := x.cmpPass }
          else x } := by
  have hfate (x : Fibre) (hx : x.key = f.key) : fateOf a.fates x = some (.back q) := by simp [fateOf, hfates, hx]
  have hnext : nextPc a.fates len f = some q := by simp only [nextPc, hfate f rfl]
  have hkey : goKey a len f = some (q.toNat * 2 + g.inHandler.toNat) := by simp [goKey, hnext, hg, hpre]
  have hsplit : splitsBatch a [f] len = false := by
    have htargets : distinct (([f].filterMap (nextPc a.fates len)).map BitVec.toNat) = [q.toNat] := by
      rw [List.filterMap_cons, hnext, List.filterMap_nil]
      rfl
    simp [splitsBatch, htargets, hfate f rfl, stopsFate, hmig]
  have hnostop : ([f].map (fateOf a.fates)).filter stopsFate = [] := by simp [hfate f rfl, stopsFate]
  have hsettle (next age : Nat) (x : Fibre) (hx : x.key = f.key) :
      Fibre.settle a len dist next age x = { x.advance q dist next with slot := none, age := age, cmpPass := x.cmpPass } := by
    simp only [Fibre.settle, hfate x hx, Fibre.advance_place]
  have hone : distinct [q.toNat * 2 + g.inHandler.toNat] = [q.toNat * 2 + g.inHandler.toNat] := rfl
  simp only [finish, hsplit, htrial, hnostop, ite_self, Bool.false_eq_true, if_false, beq_self_eq_true, if_true, Nat.add_zero, List.filterMap_cons, hkey,
    List.filterMap_nil, hone]
  rw [placeGroups_one _ _ _ _ _ _ _ _ _ (by simp [slot?, List.find?_eq_none])]
  simp only [distinct, stopGroups, takeSlot, setFibres, goTo, List.map_map, List.filter_cons, hkey, beq_self_eq_true, if_true, List.filter_nil,
    List.map_nil, List.foldr_nil]
  congr 1
  refine List.map_congr_left fun x _ => ?_
  simp only [Function.comp]
  by_cases hx : x.key = f.key
  · have hc : [f.key].contains x.key = true := by simp [hx]
    simp only [hc, if_true, List.map_cons, List.map_nil, hsettle _ _ x hx, Fibre.advance_key]
  · simp [hx]

/-- What TRET gives back to a lane that returns to `back` (R353). -/
def Fibre.restored (back : BitVec 44) (f : Fibre) : Fibre :=
  { f with
    regs := f.savedRegs ++ f.regs.drop f.savedRegs.length, preds := restorePreds f.preds f.savedPreds, tm := false, trec := none, savedRegs := []
    dbcause := false, pc := back }

theorem Fibre.restored_key (back : BitVec 44) (f : Fibre) : (f.restored back).key = f.key := rfl

theorem Fibre.leave_eq {f : Fibre} {r : TrapRec} (h : f.trec = some r) : f.leave = (f.restored r.resume).withPass r.cmp := by
  simp only [Fibre.leave, h]
  rfl

theorem Fibre.leave_key (f : Fibre) : f.leave.key = f.key := by
  unfold Fibre.leave
  split <;> rfl

/-- A record resumes past its instruction for USER_TRAP and BKPT's BREAKPOINT, and at it otherwise (R353). -/
theorem TrapRec.resume_eq (r : TrapRec) : r.resume = if r.cause = 0x11 ∨ (r.cause = 0x12 ∧ r.cmp = false) then r.pc + 8 else r.pc := by
  have huser : (r.cause.toNat == cUserTrap) = decide (r.cause = 0x11) := by
    rw [Bool.eq_iff_iff]
    simp [← BitVec.toNat_inj, cUserTrap]
  have hbreak : (r.cause.toNat == cBreakpoint) = decide (r.cause = 0x12) := by
    rw [Bool.eq_iff_iff]
    simp [← BitVec.toNat_inj, cBreakpoint]
  rw [TrapRec.resume, huser, hbreak]
  simp

/-- Of a key with one record, a change of its records is a change of that one. -/
theorem eq_of_filter_one {s : State} {f x : Fibre} (hone : s.fibres.filter (fun g => g.key == f.key) = [f]) (hx : x ∈ s.fibres) (hkey : x.key = f.key) :
    x = f := by
  have hmem : x ∈ s.fibres.filter fun g => g.key == f.key := List.mem_filter.mpr ⟨hx, by simp [hkey]⟩
  rwa [hone, List.mem_singleton] at hmem

section
variable {h : Head} {s : State} {c : Cur} {b : Block} {ls : List Fibre} {f : Fibre} {p : FrP}

theorem exec_tret : exec (.tret h p) s = execTret h p s := rfl
theorem exec_tmask {p : TmaskP} : exec (.tmask h p) s = execTmask h p s := rfl

/-- In a block that is not being pre-empted no fibre stops (R356). -/
theorem stopNow_off (hpre : b.pre = false) (s : State) (ks : List FKey) : stopNow s b ks = s := by simp [stopNow, hpre]

/-- A lane alone in its handler returns from it (R353, R366). -/
theorem tret_returns {r : TrapRec} (R : Ready s c b [f]) (H : AtHome [f]) (hall : guardTrue h.g h.gn [f] = [f]) (hlevel : ∀ g ∈ [f], 1 ≤ g.lvl)
    (hpre : b.pre = false) (hwf : (Instr.tret h p).wellFormed = true) (hfr : p.fr = false) (hrec : f.trec = some r)
    (hone : s.fibres.filter (fun g => g.key == f.key) = [f]) :
    exec (.tret h p) s = .next (setFibre (goTo (setFibre s f.key (Fibre.restored r.resume)) c [f] (fun _ => r.resume) (1 + h.stall.toNat) h.y)
      f.key fun g => { g with cmpPass := r.cmp }) := by
  have hin : f.inHandler = true := by simp [Fibre.inHandler, hrec]
  have hlane : fibre? (setFibre s f.key Fibre.leave) f.key = some f.leave :=
    fibre?_setFibre_same Fibre.leave_key (R.own f List.mem_cons_self)
  have hgo : preStopped (setFibre s f.key Fibre.leave) f.leave = false := by
    have hblk : block? (setFibre s f.key Fibre.leave) f.leave.blk = some b := by
      rw [Fibre.leave_eq hrec]
      exact R.blk f List.mem_cons_self
    simp [preStopped, hblk, hpre]
  rw [exec_tret, execTret]
  refine (issue_ready R
    (Use.Levelled.passes ⟨rfl, rfl, rfl, rfl⟩ (legal_of (Bool.and_elim_left (Bool.and_elim_left hwf)) hwf) clear_nil H hlevel)
    (acted (setFibre s f.key Fibre.leave) [(f.key, .back r.resume)]) ?_ rfl rfl ?_).trans (congrArg _ ?_)
  · simp only [show [f].filter (supUse h (Instr.tret h p).legal).guard = [f] from hall, hfr, stopNow_off hpre, List.filter_cons, List.filter_nil, hin,
      Bool.false_eq_true, if_false, if_true, onLanes, List.map_cons, List.map_nil, setFibres_one, hrec]
  · intro x hx
    rw [List.mem_singleton.mp hx]
    exact fun _ _ _ _ => nofun
  rw [finish_back c _ _ rfl hlane hgo (fun q => by
    have htrial : (kernel? (setFibre s f.key Fibre.leave) b.kernel).bind (·.trial) = none := R.trial
    simp only [trialDelay, acted, htrial]) rfl]
  simp only [goTo, setFibre, List.map_map, acted]
  congr 1
  refine List.map_congr_left fun x hx => ?_
  simp only [Function.comp]
  by_cases hkey : x.key = f.key
  · obtain rfl := eq_of_filter_one hone hx hkey
    have hc : [x.key].contains x.key = true := by simp
    simp only [beq_self_eq_true, if_true, Fibre.leave_key, hc, List.map_cons, List.map_nil]
    rw [Fibre.leave_eq hrec, Fibre.advance_withPass]
    simp only [Fibre.restored_key, Fibre.advance_key, beq_self_eq_true, if_true, hc]
    rfl
  · simp [hkey]

/-! ### A named fragment resumes -/

theorem Fibre.resumeLogged_key (f : Fibre) : f.resumeLogged.key = f.key := by
  unfold Fibre.resumeLogged
  split <;> rfl

/-- A logged fragment of a block that is not being pre-empted resumes (R366). -/
theorem resumeFragment_logged {part blk fid : Nat} {g : Fibre} (hg : namedFibre s part blk fid = some g) (hlogged : g.logged = true)
    (hpre : ∀ x, block? s g.blk = some x → x.pre = false) :
    resumeFragment s part blk fid = setFibres (dropLog s (fragment s g)) ((fragment s g).map (·.key)) Fibre.resumeLogged := by
  simp only [resumeFragment, hg, hlogged, Bool.not_true, Bool.false_eq_true, if_false]
  have hblk : block? (setFibres (dropLog s (fragment s g)) ((fragment s g).map (·.key)) Fibre.resumeLogged) g.blk = block? s g.blk := rfl
  cases hb : block? s g.blk with
  | none => simp only [hblk, hb]
  | some x => simp only [hblk, hb, stopNow_off (hpre x hb)]

/-- Lanes that are not changed with others go on. -/
theorem MayGo.setFibres {ks : List FKey} {g : Fibre → Fibre} (h : MayGo s b ls) (hkey : ∀ f, (g f).key = f.key) (hks : ∀ l ∈ ls, l.key ∉ ks) :
    MayGo (setFibres s ks g) b ls := by
  refine ⟨fun l hl => ?_, h.trial⟩
  obtain ⟨x, hx, hin, hpre⟩ := h.lanes l hl
  refine ⟨x, ?_, hin, hpre⟩
  rw [fibre?_setFibres s ks g l.key hkey, hx, Option.map_some, if_neg (by simpa [fibre?_key hx] using hks l hl)]

section
variable (R : Ready s c b ls) (H : AtHome ls) (hall : guardTrue h.g h.gn ls = ls) (hlevel : ∀ g ∈ ls, 1 ≤ g.lvl) (hpre : b.pre = false)
include R H hall hlevel

/-- TRET of a named fragment makes its fibres ready, and the batch goes on (R366). -/
theorem tret_resumes {g : Fibre} (hhead : ls.head? = some f) (hwf : (Instr.tret h p).wellFormed = true) (hfr : p.fr = true)
    (hg : namedFibre s b.part (groupWord s f p.s 0 % 2 ^ 17) (groupWord s f p.s 1 % 2 ^ 13) = some g) (hlogged : g.logged = true)
    (hblk : ∀ x, block? s g.blk = some x → x.pre = false) (hothers : ∀ y ∈ fragment s g, ∀ l ∈ ls, y.key ≠ l.key) :
    Completes (.tret h p) s c ls h (setFibres (dropLog s (fragment s g)) ((fragment s g).map (·.key)) Fibre.resumeLogged) := by
  obtain ⟨fs, rfl⟩ : ∃ fs, ls = f :: fs := by
    obtain ⟨k, ks, rfl⟩ := List.exists_cons_of_ne_nil R.some
    exact ⟨ks, by rw [Option.some.inj hhead]⟩
  have hgo : MayGo (dropLog s (fragment s g)) b (f :: fs) := ⟨R.mayGo.lanes, R.mayGo.trial⟩
  rw [Completes, exec_tret, execTret]
  refine issue_mayGo R (Use.Levelled.passes ⟨rfl, rfl, rfl, rfl⟩ (legal_of (Bool.and_elim_left (Bool.and_elim_left hwf)) hwf) clear_nil H hlevel) hall ?_
    (hgo.setFibres Fibre.resumeLogged_key ?_)
  · simp only [hfr, if_true, firstLane, resumeFragment_logged hg hlogged hblk]
  · intro l hl hmem
    obtain ⟨y, hy, hkey⟩ := List.mem_map.mp hmem
    exact hothers y hy l hl hkey

include hpre

/-- TMASK sets TM of its lanes (R366). -/
theorem tmask_sets {p : TmaskP} (hwf : (Instr.tmask h p).wellFormed = true) :
    Completes (.tmask h p) s c ls h (onLanes s ls fun g => { g with tm := p.m }) := by
  rw [Completes, exec_tmask, execTmask]
  refine issue_mayGo R (Use.Levelled.passes ⟨rfl, rfl, rfl, rfl⟩ (legal_of hwf hwf) clear_nil H hlevel) hall ?_ ⟨fun l hl => ?_, R.trial⟩
  · simp only [stopNow_off hpre, ite_self]
  · have hl' : (ls.map (·.key)).contains l.key = true := by simpa using ⟨l, hl, rfl⟩
    have hblk : block? (onLanes s ls fun g => { g with tm := p.m }) l.blk = some b := R.blk l hl
    refine ⟨{ l with tm := p.m }, ?_, rfl, by simp [preStopped, hblk, hpre]⟩
    rw [onLanes, fibre?_setFibres _ _ _ _ (by intro; rfl), R.own l hl, Option.map_some, if_pos hl']

end

end

/-- Settles O48: TRET of a lane and of a fragment, and TMASK, by their lemmas above. -/
theorem handlerReturn : Obligations.HandlerReturn := by
  intro h s c b ls f R H hall hlevel hpre hhead
  refine ⟨?_, fun p g hwf hfr hg hlogged hblk hothers => tret_resumes R H hall hlevel hhead hwf hfr hg hlogged hblk hothers,
    fun p => tmask_sets R H hall hlevel hpre⟩
  intro p r hwf hfr hls hrec hone back
  subst hls
  have hback : back = r.resume := r.resume_eq.symm
  rw [hback]
  exact tret_returns R H hall hlevel hpre hwf hfr hrec hone

end Sys2Proof.Machine
end

section
/-!
PROOFS. O47: SYSRD and SYSWR (R322, R323, R362 to R365).
-/
namespace Sys2Proof.Machine

theorem latchLog_stay (s : State) (part : Nat) : LanesStay s (latchLog s part) := .of_fibres rfl rfl rfl

section
variable {h : Head} {p : SysregP} {s : State} {c : Cur} {b : Block} {ls fs : List Fibre} {f : Fibre}

theorem exec_sysrd : exec (.sysrd h p) s = execSysrd h p s := rfl
theorem exec_syswr : exec (.syswr h p) s = execSyswr h p s := rfl

/-- The state that SYSRD reads: a read of TLOG0 first moves the oldest log record into the latch (R365). -/
def readState (s : State) (part n : Nat) : State := if n = 0x030C then latchLog s part else s

theorem readState_stay (s : State) (part n : Nat) : LanesStay s (readState s part n) := .ite (latchLog_stay ..) (.refl s)

variable (R : Ready s c b ls) (H : AtHome ls) (hgs : guardTrue h.g h.gn ls = f :: fs) (hassigned : sysAssigned p.srn.toNat = true)
  (hlevel : ∀ g ∈ ls, sysLevel p.srn.toNat ≤ g.lvl) (hclear : Clear ls (sysRegs p))
include R H hgs hassigned hlevel hclear

section
variable (hwf : (Instr.sysrd h p).wellFormed = true)
include hwf

/-- SYSRD gives each guard-true lane the register's 64 bits (R322, R364). -/
theorem sysrd_lanes (hus : p.us = false) :
    let x := fun g => BitVec.ofNat 64 (sysRead (readState s b.part p.srn.toNat) b.part g p.srn.toNat)
    Completes (.sysrd h p) s c ls h (wrote (readState s b.part p.srn.toNat) (f :: fs) none fun g =>
      [.reg p.v.toNat { val := loWord (x g), tag := tI64lo }, .reg (p.v.toNat + 1) { val := hiWord (x g), tag := tI64hi }]) := by
  rw [Completes, exec_sysrd, execSysrd]
  refine issue_go R (Use.Levelled.passes ⟨rfl, rfl, rfl, rfl⟩ (legal_of (Bool.and_elim_left hwf) (Bool.and_eq_true_iff.mpr ⟨hwf, hassigned⟩)) hclear H
    hlevel) hgs ?_
    ((readState_stay ..).trans (wrote_stay ..)).go
  simp only [hus, Bool.false_eq_true, if_false, List.isEmpty_cons, Bool.not_false, Bool.and_true, beq_iff_eq]
  exact regAct_passing fun _ _ => rfl

/-- Or the uniform pair of the lowest one. -/
theorem sysrd_uniform (hus : p.us = true) :
    let x := BitVec.ofNat 64 (sysRead (readState s b.part p.srn.toNat) b.part f p.srn.toNat)
    Completes (.sysrd h p) s c ls h (setUnis (readState s b.part p.srn.toNat) f p.s.toNat [loWord x, hiWord x]) := by
  rw [Completes, exec_sysrd, execSysrd]
  refine issue_go R (Use.Levelled.passes ⟨rfl, rfl, rfl, rfl⟩ (legal_of (Bool.and_elim_left hwf) (Bool.and_eq_true_iff.mpr ⟨hwf, hassigned⟩)) hclear H
    hlevel) hgs ?_
    ((readState_stay ..).trans (setUnis_stay ..)).go
  simp only [hus, if_true, List.isEmpty_cons, Bool.not_false, Bool.and_true, beq_iff_eq, firstLane]
  rfl

end

/-- The value that SYSWR writes: that of the lowest guard-true lane (R362). -/
def writtenValue (p : SysregP) (s : State) (f : Fibre) : Nat :=
  (if p.us then uniPair s f p.s.toNat else pairOf (f.val p.v.toNat) (f.val (p.v.toNat + 1))).toNat

/-- SYSWR writes once its release has performed, where nothing that the write reads is held back (R362, R364). -/
theorem syswr_writes {t : State} (hwf : (Instr.syswr h p).wellFormed = true) (hwritable : sysReadOnly p.srn.toNat = false)
    (hregs : checkRegs f (sysRegs p) = none) (hreleased : released s [f] 4 = (t, true))
    (hhole : writeHole t p.srn.toNat (writtenValue p s f) = none) (hheld : writeHeld t b.part p.srn.toNat (writtenValue p s f) = none)
    (hstays : Stays { (sysWrite t b.part p.srn.toNat (writtenValue p s f)) with sysAt := s.now + 1 } b ls) :
    Completes (.syswr h p) s c ls h { (sysWrite t b.part p.srn.toNat (writtenValue p s f)) with sysAt := s.now + 1 } := by
  have hclear' : Clear ls (sysRegs p ++ []) := by rwa [List.append_nil]
  rw [Completes, exec_syswr, execSyswr]
  refine issue_mayGo R (Use.Levelled.passes ⟨rfl, rfl, rfl, rfl⟩
    (legal_of (Bool.and_elim_left hwf) (Bool.and_eq_true_iff.mpr ⟨Bool.and_eq_true_iff.mpr ⟨hwf, by rw [hwritable]; rfl⟩, hassigned⟩)) hclear' H
    hlevel) hgs ?_ (.of_stays hstays)
  simp only [writtenValue] at hhole hheld
  simp only [firstLane, hregs, hreleased, hhole, hheld, Bool.not_true, Bool.false_eq_true, if_false]
  rfl

end

/-! ### Single registers -/

section
variable (s : State) {part : Nat}

/-- A TAGE of 0 is ignored (R323). -/
theorem sysWrite_tage (v : Nat) :
    sysGet (sysWrite s part 0x0000 v) part 0x0000 = if v % 2 ^ 16 = 0 then sysGet s part 0x0000 else v % 2 ^ 16 := by
  have hwrite : sysWrite s part 0x0000 v = writeTage s part v := rfl
  rw [hwrite, writeTage]
  simp only [beq_iff_eq]
  split
  · rfl
  · exact sysGet_sysPut_same ..

theorem sysWrite_starve (v : Nat) : sysWrite s part 0x0003 v = sysPut s part 0x0003 (v % 2 ^ 16) := rfl

/-- A T_pf outside its range is ignored (R323). -/
theorem sysWrite_tpf (v : Nat) :
    sysGet (sysWrite s part 0x0004 v) part 0x0004
      = if 250 ≤ v % 2 ^ 15 ∧ v % 2 ^ 15 ≤ 32000 then v % 2 ^ 15 else sysGet s part 0x0004 := by
  have hwrite : sysWrite s part 0x0004 v
      = if decide (250 ≤ v % 2 ^ 15) && decide (v % 2 ^ 15 ≤ 32000) then sysPut s part 0x0004 (v % 2 ^ 15) else s := rfl
  rw [hwrite]
  simp only [Bool.and_eq_true, decide_eq_true_eq]
  split
  · exact sysGet_sysPut_same ..
  · rfl

/-- The registers of another partition are as they were. -/
theorem sysGet_sysPut_part {q n m v : Nat} (hpart : part < 16) (hq : q < 16) (hne : q ≠ part) : sysGet (sysPut s part n v) q m = sysGet s q m := by
  rw [sysGet_sysPut, if_neg (by omega)]

end

/-- Settles O47: SYSRD, SYSWR and what three registers keep of a write, by their lemmas above. -/
theorem systemRegisters : Obligations.SystemRegisters := by
  refine ⟨?_, fun s part v hpart => ⟨sysWrite_tage s v, ?_, sysWrite_tpf s v, fun q hne hq n hn => ?_⟩⟩
  · intro h p s c b ls f fs n R H hgs hassigned hlevel hclear
    exact ⟨fun hwf => ⟨sysrd_lanes R H hgs hassigned hlevel hclear hwf, sysrd_uniform R H hgs hassigned hlevel hclear hwf⟩,
      fun hwf hwritable hregs t hreleased => syswr_writes R H hgs hassigned hlevel hclear hwf hwritable hregs hreleased⟩
  · rw [sysWrite_starve, sysGet_sysPut_same]
  · rw [sysWrite_starve]
    exact sysGet_sysPut_part s (by omega) (by omega) hne

end Sys2Proof.Machine
end

section
/-!
PROOFS. O49: the instructions of the device runtime (R344, R346, R348 to R350, R367 to R373).
-/
namespace Sys2Proof.Machine

/-! ### What their parts leave as it is -/

theorem putPred_stay (s : State) (f : Fibre) (pd : Nat) (v : Bool) : LanesStay s (putPred s f pd v) := setFibre_writeNow_stay ..

theorem objsetTouch_stay (s : State) (part op frame mem id : Nat) (e : Ext) (pte page : Nat) :
    LanesStay s (objsetTouch s part op frame mem id e pte page) := .foldl touch_stay ..

theorem movePage_stay (s : State) (a b : Nat) : LanesStay s (movePage s a b) := by
  unfold movePage
  generalize hw : s.write b 4096 0 = w
  exact (hw ▸ write_stay s b 4096 0).trans (.of_fibres rfl rfl rfl)

theorem objsetOn_stay (s : State) (part op frame mem d : Nat) (e : Ext) (pte : Nat) : LanesStay s (objsetOn s part op frame mem d e pte).1 := by
  unfold objsetOn
  dsimp only
  split
  · exact .refl s
  split
  · exact .refl s
  split
  · exact .refl s
  split
  · split
    · split
      · exact .refl s
      · exact movePage_stay ..
    · exact .refl s
  · split
    · exact .refl s
    · exact .of_fibres rfl rfl rfl
  · split
    · exact .refl s
    · exact .of_fibres rfl rfl rfl

/-- The switch of TRIAL is the top bit of its word (R373). -/
theorem groupWord_top (s : State) (f : Fibre) (base : BitVec 8) (i : Nat) :
    (groupWord s f base i).testBit 31 = (BitVec.ofNat 32 (groupWord s f base i)).msb := by
  rw [groupWord, BitVec.ofNat_toNat, BitVec.setWidth_eq, BitVec.testBit_toNat, BitVec.msb_eq_getLsbD_last]

/-- A kernel has no trial where another's is set, nor where its own ends (R373). -/
theorem setKernel_trial {s : State} {n m : Nat} (v : Option (Nat × Nat × Nat)) (hnone : (kernel? s n).bind (·.trial) = none) (h : m ≠ n ∨ v = none) :
    (kernel? (setKernel s m fun k => { k with trial := v }) n).bind (·.trial) = none := by
  have hfind := find?_map_if (p := fun k : Kernel => k.id == m) (q := fun k => k.id == n) (g := fun k => { k with trial := v }) (fun _ => rfl) s.kernels
  rw [kernel?, setKernel, hfind]
  cases hk : s.kernels.find? (fun k => k.id == n) with
  | none => rfl
  | some k =>
    have htrial : k.trial = none := by simpa [kernel?, hk] using hnone
    have hid : k.id = n := by simpa using List.find?_some hk
    simp only [Option.map_some, Option.bind_some]
    split
    next hm =>
      rcases h with h | h
      · exact absurd ((beq_iff_eq.mp hm).symm.trans hid) h
      · exact h
    next => exact htrial

section
variable {h : Head} {s t : State} {c : Cur} {b : Block} {ls fs : List Fibre} {f : Fibre}

theorem exec_fqpop {p : PopP} : exec (.fqpop h p) s = execFqpop h p s := rfl
theorem exec_prack {p : PopP} : exec (.prack h p) s = execPrack h p s := rfl
theorem exec_fqres {p : FqresP} : exec (.fqres h p) s = execFqres h p s := rfl
theorem exec_tlbinv {p : TlbinvP} : exec (.tlbinv h p) s = execTlbinv h p s := rfl
theorem exec_objset {p : ObjsetP} : exec (.objset h p) s = execObjset h p s := rfl
theorem exec_haltb {p : FrP} : exec (.haltb h p) s = execHaltb h p s := rfl
theorem exec_trial {p : TrialP} : exec (.trial h p) s = execTrial h p s := rfl

/-- An instruction of the device runtime that names no vector register, of lanes at home at level 1, passes its checks (R196, R362). -/
theorem Use.Passes.supervisor {u : Use} (H : AtHome ls) (hlevel : ∀ g ∈ ls, 1 ≤ g.lvl) (hu : u.Levelled) (hpriv : u.priv = 1)
    (hregs : u.vr ++ u.vw = []) (hlegal : u.legal = true) : u.Passes s b ls :=
  hu.passes hlegal (by rw [hregs]; exact clear_nil) H (by rw [hpriv]; exact hlevel)

/-- A kill that leaves the lanes of the issuing batch in place completes (R372). -/
theorem issue_kills (R : Ready s c b ls) {act : State → Block → List Fibre → Acted} {e : State} {use : Use} (P : use.Passes s b ls)
    (hguard : ls.filter use.guard = f :: fs)
    (hact : act s b (f :: fs) = acted e ((curLanes s).filterMap fun (g : Fibre) =>
      if (fibre? e g.key).all (fun (x : Fibre) => x.run == .exited) then some (g.key, Fate.gone) else none))
    (hstays : Stays e b ls) : issue use act s = .next (goOn e c ls use.len (1 + use.stall) use.y) := by
  have hlanes : curLanes s = ls := by rw [curLanes, R.cur]; exact R.lanes
  have hnone : ((curLanes s).filterMap fun (g : Fibre) =>
      if (fibre? e g.key).all (fun (x : Fibre) => x.run == .exited) then some (g.key, Fate.gone) else none) = [] := by
    refine List.filterMap_eq_nil_iff.mpr fun g hg => ?_
    obtain ⟨x, hx, hrun, -⟩ := hstays.lanes g (hlanes ▸ hg)
    exact if_neg (by simp [hx, hrun])
  exact issue_mayGo R P hguard (hact.trans (by rw [hnone])) (.of_stays hstays)

variable (R : Ready s c b ls) (H : AtHome ls) (hgs : guardTrue h.g h.gn ls = f :: fs) (hlevel : ∀ g ∈ ls, 1 ≤ g.lvl)
include R H hgs hlevel

/-! ### Fault and reclamation queues -/

section
variable {p : PopP}

theorem fqpop_empty (hwf : (Instr.fqpop h p).wellFormed = true) (hnone : (partnOf s b.part).faults.find? (fun e => e.posted && !e.popped) = none) :
    Completes (.fqpop h p) s c ls h (putPred s f p.pd.toNat false) := by
  rw [Completes, exec_fqpop, execFqpop]
  refine issue_go R (.supervisor H hlevel ⟨rfl, rfl, rfl, rfl⟩ rfl rfl (legal_of (Bool.and_elim_left (Bool.and_elim_left hwf)) hwf)) hgs ?_
    (putPred_stay ..).go
  simp only [firstLane, hnone]

/-- FQPOP takes the oldest posted entry (R344, R367). -/
theorem fqpop_takes {e : FaultEntry} (hwf : (Instr.fqpop h p).wellFormed = true)
    (he : (partnOf s b.part).faults.find? (fun e => e.posted && !e.popped) = some e) :
    Completes (.fqpop h p) s c ls h (putPred (setUnis
      (setPartn s b.part fun q => { q with faults := q.faults.map fun x => if x.eid == e.eid then { x with popped := true } else x })
      f p.s.toNat (wordsN e.bits.toNat 8)) f p.pd.toNat true) := by
  rw [Completes, exec_fqpop, execFqpop]
  refine issue_go R (.supervisor H hlevel ⟨rfl, rfl, rfl, rfl⟩ rfl rfl (legal_of (Bool.and_elim_left (Bool.and_elim_left hwf)) hwf)) hgs ?_
    (((setPartn_stay ..).trans (setUnis_stay ..)).trans (putPred_stay ..)).go
  simp only [firstLane, he]

theorem prack_empty (hwf : (Instr.prack h p).wellFormed = true) (hnone : (partnOf s b.part).reclaims = []) :
    Completes (.prack h p) s c ls h (putPred s f p.pd.toNat false) := by
  rw [Completes, exec_prack, execPrack]
  refine issue_go R (.supervisor H hlevel ⟨rfl, rfl, rfl, rfl⟩ rfl rfl (legal_of (Bool.and_elim_left (Bool.and_elim_left hwf)) hwf)) hgs ?_
    (putPred_stay ..).go
  simp only [firstLane, hnone]

/-- PRACK takes the oldest reclamation record, and deferred reclamations are judged again (R132, R348, R367). -/
theorem prack_takes {r : BitVec 128} {rs : List (BitVec 128)} (hwf : (Instr.prack h p).wellFormed = true) (hr : (partnOf s b.part).reclaims = r :: rs)
    (hstays : Stays (nextDeferred (setPartn s b.part fun q => { q with reclaims := rs }) b.part) b ls) :
    Completes (.prack h p) s c ls h (putPred (setUnis (nextDeferred (setPartn s b.part fun q => { q with reclaims := rs }) b.part)
      f p.s.toNat (wordsN r.toNat 4)) f p.pd.toNat true) := by
  rw [Completes, exec_prack, execPrack]
  refine issue_mayGo R (.supervisor H hlevel ⟨rfl, rfl, rfl, rfl⟩ rfl rfl (legal_of (Bool.and_elim_left (Bool.and_elim_left hwf)) hwf)) hgs ?_
    ((MayGo.of_stays hstays).go ((setUnis_stay ..).trans (putPred_stay ..)).go)
  simp only [firstLane, hr]

end

section
variable {p : FqresP} (hwf : (Instr.fqres h p).wellFormed = true) (hreleased : released s [f] 4 = (t, true))
include hwf hreleased

theorem fqres_unknown
    (hnone : (partnOf t b.part).faults.find? (fun e => e.posted && e.ident == groupWord t f p.s 0 % 2 ^ 12) = none) :
    Completes (.fqres h p) s c ls h (putPred t f p.pd.toNat false) := by
  rw [Completes, exec_fqres, execFqres]
  refine issue_go R (.supervisor H hlevel ⟨rfl, rfl, rfl, rfl⟩ rfl rfl (legal_of (Bool.and_elim_left hwf) hwf)) hgs ?_
    ((released_stay hreleased).trans (putPred_stay ..)).go
  simp only [firstLane, hreleased, hnone, Bool.not_true, Bool.false_eq_true, if_false]

/-- The state after an entry has left its queue and what waited for it is resolved, or has failed (R346). -/
def endEntry (t : State) (part : Nat) (bad : Bool) (e : FaultEntry) : State :=
  let t := setPartn t part fun q => { q with faults := q.faults.filter (fun x => x.eid != e.eid) }
  if bad then failEntry t e else resolveEntry t part e

/-- FQRES ends an entry, its release performed (R346, R368). -/
theorem fqres_ends {e : FaultEntry}
    (he : (partnOf t b.part).faults.find? (fun e => e.posted && e.ident == groupWord t f p.s 0 % 2 ^ 12) = some e)
    (hstays : Stays (endEntry t b.part p.bad e) b ls) : Completes (.fqres h p) s c ls h (putPred (endEntry t b.part p.bad e) f p.pd.toNat true) := by
  rw [Completes, exec_fqres, execFqres]
  refine issue_mayGo R (.supervisor H hlevel ⟨rfl, rfl, rfl, rfl⟩ rfl rfl (legal_of (Bool.and_elim_left hwf) hwf)) hgs ?_
    ((MayGo.of_stays hstays).go (putPred_stay ..).go)
  simp only [firstLane, hreleased, he, Bool.not_true, Bool.false_eq_true, if_false]
  rfl

end

/-! ### Translation caches and pages -/

/-- The state after a TLBINV whose walks have ended (R105, R132, R369). -/
def invalidated (t : State) (part mode obj : Nat) (page : Nat) : State :=
  deliver (freeInvalid (freshIds { t with tlbs := t.tlbs.filter fun x => !(x.part == part && tlbMatch mode obj page x) } part mode obj) part mode obj)

/-- TLBINV removes what it matches once its release has performed and the walks before it have ended (R343, R369). -/
theorem tlbinv_removes {p : TlbinvP} (hwf : (Instr.tlbinv h p).wellFormed = true) (hreleased : released s [f] 4 = (t, true))
    (hwalks : ∀ x ∈ t.walks, x.part = b.part → f.mark.getD t.seq ≤ x.id)
    (hfree : descHeld t b.part (tlbObjs t b.part p.mode.toNat (canonObj (groupWord t f p.s 0))) = none) :
    let obj := canonObj (groupWord t f p.s 0)
    let u := touchDescs t b.part (tlbObjs t b.part p.mode.toNat obj)
    Stays (invalidated u b.part p.mode.toNat obj (groupWord u f p.s 1)) b ls →
    Completes (.tlbinv h p) s c ls h (invalidated u b.part p.mode.toNat obj (groupWord u f p.s 1)) := by
  intro obj u hstays
  have hended : (t.walks.any fun w => w.part == b.part && decide (w.id < f.mark.getD t.seq)) = false := by
    refine List.any_eq_false.mpr fun x hx => ?_
    simp only [Bool.and_eq_true, beq_iff_eq, decide_eq_true_eq, not_and, not_lt]
    exact hwalks x hx
  rw [Completes, exec_tlbinv, execTlbinv]
  refine issue_mayGo R (.supervisor H hlevel ⟨rfl, rfl, rfl, rfl⟩ rfl rfl
    (legal_of (Bool.and_elim_left (Bool.and_elim_left (Bool.and_elim_left hwf))) hwf)) hgs ?_ (.of_stays hstays)
  simp only [firstLane, hreleased, hended, hfree, Bool.not_true, Bool.false_eq_true, if_false]
  rfl

/-- OBJSET acts on a page that nothing holds back, and gives its status (R349, R350, R370). -/
theorem objset_acts {p : ObjsetP} {id d pte : Nat} {e : Ext} (hwf : (Instr.objset h p).wellFormed = true) :
    let w := groupWord s f p.s
    pageHeld s b.part (w 0) (w 1) = none → pageOf s b.part (w 0) (w 1) = .page id d e pte → moveWaits s b.part p.op.toNat id e pte (w 1) = false →
    objsetHeld s b.part p.op.toNat (w 2) (w 3) e pte = none →
    let r := objsetOn (objsetTouch s b.part p.op.toNat (w 2) (w 3) id e pte (w 1)) b.part p.op.toNat (w 2) (w 3) d e pte
    Completes (.objset h p) s c ls h (setUni r.1 f p.st.toNat (BitVec.ofNat 32 r.2)) := by
  intro w hfree hpage hmove hheld r
  rw [Completes, exec_objset, execObjset]
  refine issue_go R (.supervisor H hlevel ⟨rfl, rfl, rfl, rfl⟩ rfl rfl (legal_of (Bool.and_elim_left (Bool.and_elim_left hwf)) hwf)) hgs ?_
    (((objsetTouch_stay ..).trans (objsetOn_stay ..)).trans (setUni_stay ..)).go
  simp only [w] at hfree hpage hmove hheld
  simp only [firstLane, hfree, hpage, hmove, hheld, Bool.false_eq_true, if_false]
  rfl

/-! ### Kills -/

section
variable {p : FrP} (hwf : (Instr.haltb h p).wellFormed = true)
include hwf

theorem haltb_block {x : Block} (hfr : p.fr = false) (hx : ownBlock s b.part (groupWord s f p.s 0 % 2 ^ 17) = some x)
    (hstays : Stays ((gangOf s x).foldl killBlock s) b ls) : Completes (.haltb h p) s c ls h ((gangOf s x).foldl killBlock s) := by
  rw [Completes, exec_haltb, execHaltb]
  refine issue_kills R (.supervisor H hlevel ⟨rfl, rfl, rfl, rfl⟩ rfl rfl (legal_of (Bool.and_elim_left hwf) hwf)) hgs ?_ hstays
  simp only [hfr, hx, Bool.false_eq_true, if_false]

theorem haltb_fragment {g : Fibre} (hfr : p.fr = true)
    (hg : namedFibre s b.part (groupWord s f p.s 0 % 2 ^ 17) (groupWord s f p.s 1 % 2 ^ 13) = some g)
    (hstays : Stays (deliver (killFibres s (fragment s g))) b ls) : Completes (.haltb h p) s c ls h (deliver (killFibres s (fragment s g))) := by
  rw [Completes, exec_haltb, execHaltb]
  refine issue_kills R (.supervisor H hlevel ⟨rfl, rfl, rfl, rfl⟩ rfl rfl (legal_of (Bool.and_elim_left hwf) hwf)) hgs ?_ hstays
  simp only [hfr, hg, if_true]

end

/-! ### Trials -/

section
variable {p : TrialP} {x : Block} (hwf : (Instr.trial h p).wellFormed = true) (hx : ownBlock s b.part (groupWord s f p.s 0 % 2 ^ 17) = some x)
include hwf hx

/-- TRIAL ends the trial of a kernel (R373). -/
theorem trial_ends (hoff : (BitVec.ofNat 32 (groupWord s f p.s 3)).msb = false) :
    Completes (.trial h p) s c ls h (setUni (setKernel s x.kernel fun k => { k with trial := none }) f p.st.toNat 0) := by
  have hgo : MayGo (setKernel s x.kernel fun k => { k with trial := none }) b ls := ⟨R.mayGo.lanes, setKernel_trial none R.trial (.inr rfl)⟩
  rw [Completes, exec_trial, execTrial]
  refine issue_mayGo R (.supervisor H hlevel ⟨rfl, rfl, rfl, rfl⟩ rfl rfl (legal_of (Bool.and_elim_left hwf) hwf)) hgs ?_
    (hgo.go (setUni_stay ..).go)
  simp only [firstLane, hx, groupWord_top, hoff, Bool.not_false, if_true]
  rfl

/-- The state with a trial of a kernel set (R373). -/
def trialSet (s : State) (x : Block) (trial : Nat × Nat × Nat) : State :=
  setPartn (setKernel s x.kernel fun k => { k with trial := some trial }) x.part fun q => { q with pcount := 0, dcount := 0 }

/-- TRIAL sets the trial of another kernel that has none (R373). -/
theorem trial_sets (hon : (BitVec.ofNat 32 (groupWord s f p.s 3)).msb = true) (hlt : groupWord s f p.s 1 < groupWord s f p.s 2)
    (hlo : groupWord s f p.s 1 % 2 = 0) (hhi : groupWord s f p.s 2 % 2 = 0) (hnone : (kernel? s x.kernel).bind (·.trial) = none)
    (hne : x.kernel ≠ b.kernel) :
    Completes (.trial h p) s c ls h
      (setUni (trialSet s x (groupWord s f p.s 1, groupWord s f p.s 2, groupWord s f p.s 3 % 2 ^ 16)) f p.st.toNat 0) := by
  have hgo : MayGo (trialSet s x (groupWord s f p.s 1, groupWord s f p.s 2, groupWord s f p.s 3 % 2 ^ 16)) b ls :=
    ⟨R.mayGo.lanes, setKernel_trial _ R.trial (.inl hne)⟩
  rw [Completes, exec_trial, execTrial]
  refine issue_mayGo R (.supervisor H hlevel ⟨rfl, rfl, rfl, rfl⟩ rfl rfl (legal_of (Bool.and_elim_left hwf) hwf)) hgs ?_
    (hgo.go (setUni_stay ..).go)
  simp only [firstLane, hx, groupWord_top, hon, hlo, hhi, hnone, Nat.not_le.mpr hlt, Bool.not_true, decide_false, bne_self_eq_false, Bool.or_self,
    Option.isSome_none, Bool.false_eq_true, if_false]
  rfl

end

end

/-- Settles O49: each instruction has its lemmas above. -/
theorem supervisorInstructions : Obligations.SupervisorInstructions := by
  intro h s t c b ls f fs R H hgs hlevel w flag
  refine ⟨fun p hwf => ⟨fqpop_empty R H hgs hlevel hwf, fun e => fqpop_takes R H hgs hlevel hwf⟩,
    fun p hwf => ⟨prack_empty R H hgs hlevel hwf, fun r rs hr => prack_takes R H hgs hlevel hwf hr⟩,
    fun p hwf hreleased => ⟨fqres_unknown R H hgs hlevel hwf hreleased, fun e he => fqres_ends R H hgs hlevel hwf hreleased he⟩,
    fun p hwf hreleased hwalks => tlbinv_removes R H hgs hlevel hwf hreleased hwalks,
    fun p id d e pte hwf => objset_acts R H hgs hlevel hwf,
    fun p hwf => ⟨fun x => haltb_block R H hgs hlevel hwf, fun g => haltb_fragment R H hgs hlevel hwf⟩,
    fun p x hwf hx => ⟨trial_ends R H hgs hlevel hwf hx, trial_sets R H hgs hlevel hwf hx⟩⟩

end Sys2Proof.Machine
end

section
/-!
PROOFS. O50: saving and restoring blocks (R357, R358, R360, R371).
-/
namespace Sys2Proof.Machine

section
variable {h : Head} {p : CtxP} {s u : State} {c : Cur} {b y : Block} {ls fs : List Fibre} {f : Fibre} {need off : Nat} {cap : CapWord} {i : Image}
  {cs : List CapWord}

theorem exec_ctxsv : exec (.ctxsv h p) s = execCtxsv h p s := rfl
theorem exec_lsqsave : exec (.lsqsave h p) s = execLsqsave h p s := rfl
theorem exec_ctxrs : exec (.ctxrs h p) s = execCtxrs h p s := rfl
theorem exec_lsqrst : exec (.lsqrst h p) s = execLsqrst h p s := rfl

/-! ### An image is written -/

/-- One that fits is written where nothing holds its cells back, and its body is kept (R371). -/
theorem saveImage_writes {l : List Nat} {done : State → State} (hfits : 32 + 16 * i.caps.length ≤ rangeLeft cap off) (hsettled : settled s f = true)
    (hopen : openImage s b true f (capObj cap) off (32 + 16 * i.caps.length) = .places l)
    (hrows : ∀ a ∈ imageGrans l off (32 + 16 * i.caps.length), rowWaits s a = false) :
    let u := writeImage ((imageGrans l off (32 + 16 * i.caps.length)).foldl touch s) l off i
    saveImage s b f p cap off i none done = acted (putCode (done { u.fresh with images := u.images ++ [i] }) f p.st 0) [] := by
  have hrows' : (imageGrans l off (32 + 16 * i.caps.length)).any (rowWaits s) = false := List.any_eq_false.mpr fun a ha => by simp [hrows a ha]
  simp only [saveImage, Nat.not_lt.mpr hfits, hsettled, hopen, hrows', Option.toList_none, List.nil_append, Bool.not_true, Bool.false_eq_true, if_false]

/-- It waits for the lane's earlier accesses (R160, R231). -/
theorem saveImage_waits {held : Option Nat} {done : State → State} (hfits : 32 + 16 * i.caps.length ≤ rangeLeft cap off)
    (hbusy : settled s f = false) : saveImage s b f p cap off i held done = actWait s := by
  simp only [saveImage, Nat.not_lt.mpr hfits, hbusy, Bool.not_false, if_false, if_true]

/-! ### An image is read -/

/-- Reading waits for the lane's earlier loads and atomics (R160, R163). -/
theorem loadImage_waits {stores : Bool} (hfits : 32 ≤ rangeLeft cap off) (hreading : ∃ o ∈ f.outs, o.kind ≠ .cut) :
    loadImage s b f cap off stores = .wait s := by
  have hbusy : f.reading = true := by simpa [Fibre.reading] using hreading
  simp only [loadImage, Nat.not_lt.mpr hfits, hbusy, Bool.true_or, if_false, if_true]

/-- A change that notes cells alone. -/
def NotesCells (s u : State) : Prop := ∃ r, u = { s with reqAt := r }

theorem NotesCells.trans {s t u : State} (h : NotesCells s t) (h' : NotesCells t u) : NotesCells s u := by
  obtain ⟨r, rfl⟩ := h
  obtain ⟨r', rfl⟩ := h'
  exact ⟨r', rfl⟩

theorem granTrouble_ne_image {cells : List Nat} : granTrouble s f off cells ≠ some (.image u i cs) := by
  unfold granTrouble
  split
  · exact nofun
  · cases List.find? (fun x => s.ue x.1 16) cells.zipIdx <;> exact nofun

/-- An image that is read is read without a change but to the cycles noted of its stacks (R371, R377). -/
theorem loadRest_notes {j : Image} (h : loadRest s b f cap off j = .image u i cs) : NotesCells s u := by
  unfold loadRest at h
  dsimp only at h
  split at h
  · exact absurd h nofun
  · split at h
    · exact absurd h nofun
    · exact absurd h nofun
    · rename_i l _
      cases htrouble : granTrouble s f off (imageGrans l off (32 + 16 * j.caps.length)) with
      | some x =>
        rw [htrouble, Option.getD_some] at h
        exact absurd (htrouble.trans (congrArg some h)) granTrouble_ne_image
      | none =>
        rw [htrouble, Option.getD_none] at h
        split at h
        · exact absurd h nofun
        · split at h
          · obtain ⟨rfl, -, -⟩ := Loaded.image.inj h
            exact NotesCells.trans (touches_only s _) (touches_only _ _)
          · exact absurd h nofun

theorem loadImage_notes {stores : Bool} (h : loadImage s b f cap off stores = .image u i cs) : NotesCells s u := by
  unfold loadImage at h
  dsimp only at h
  split at h
  · exact absurd h nofun
  split at h
  · exact absurd h nofun
  split at h
  · exact absurd h nofun
  · exact absurd h nofun
  · rename_i l _
    cases htrouble : granTrouble s f off (imageGrans l off 32) with
    | some x =>
      rw [htrouble, Option.getD_some] at h
      exact absurd (htrouble.trans (congrArg some h)) granTrouble_ne_image
    | none =>
      rw [htrouble, Option.getD_none] at h
      split at h
      · exact absurd h nofun
      · split at h
        · exact absurd h nofun
        · exact NotesCells.trans (touches_only s _) (loadRest_notes h)

/-- Uniform registers are read alike after it. -/
theorem groupWord_notes (h : NotesCells s u) (base : BitVec 8) (n : Nat) : groupWord u f base n = groupWord s f base n := by
  obtain ⟨r, rfl⟩ := h
  rfl

/-! ### The four instructions -/

variable (R : Ready s c b ls) (H : AtHome ls) (hgs : guardTrue h.g h.gn ls = f :: fs) (hlevel : ∀ g ∈ ls, 1 ≤ g.lvl)
  (hchk : accessCheck s b.part (capReg s f p.c.toNat) (uniPair s f (p.s.toNat + 2)).toInt 16 need = none)
include R H hgs hlevel hchk

/-- One whose capability passes its check acts with it, and the batch goes on (R371). -/
theorem ctxUse_acts {legal : Bool} {act : State → Block → Fibre → CapWord → Nat → Acted} {e : State} (hlegal : (h.wf && legal) = true)
    (hact : act s b f (capReg s f p.c.toNat) (capOff (capReg s f p.c.toNat) (uniPair s f (p.s.toNat + 2)).toInt)
      = acted (putCode e f p.st 0) []) (hgo : MayGo e b ls) :
    ctxUse h p legal need act s = .next (past (setUni e f p.st.toNat 0) c ls h) := by
  rw [ctxUse]
  refine issue_mayGo R (.supervisor H hlevel ⟨rfl, rfl, rfl, rfl⟩ rfl rfl hlegal) hgs ?_ (hgo.go (setUni_stay ..).go)
  simp only [firstLane, globalChk, hchk]
  exact hact

/-- The state after an image of the block has been written. -/
def imageSaved (s : State) (l : List Nat) (off : Nat) (i : Image) : State :=
  let u := writeImage ((imageGrans l off (32 + 16 * i.caps.length)).foldl touch s) l off i
  { u.fresh with images := u.images ++ [i] }

section
variable {l : List Nat} (hneed : need = (rWR ||| rCST)) (hy : ctxBlock s b f p = some y) (hstopped : blockStopped s y = true)
include hneed hy hstopped

/-- CTXSV writes a stopped block's image and frees what the block held (R360, R371). -/
theorem ctxsv_saves (hwf : (Instr.ctxsv h p).wellFormed = true) (hlsq : y.lsq = true) (hstores : blockStores s y.id = [])
    (hclose : closeHeld s y.part [y.id] = none) :
    let off := capOff (capReg s f p.c.toNat) (uniPair s f (p.s.toNat + 2)).toInt
    let i := imageOf s y s.seq
    32 + 16 * i.caps.length ≤ rangeLeft (capReg s f p.c.toNat) off → settled s f = true →
    openImage s b true f (capObj (capReg s f p.c.toNat)) off (32 + 16 * i.caps.length) = .places l →
    (∀ a ∈ imageGrans l off (32 + 16 * i.caps.length), rowWaits s a = false) → Stays (freeSaved (imageSaved s l off i) y s.seq) b ls →
    Completes (.ctxsv h p) s c ls h (setUni (freeSaved (imageSaved s l off i) y s.seq) f p.st.toNat 0) := by
  intro off i hfits hsettled hopen hrows hstays
  subst hneed
  rw [Completes, exec_ctxsv, execCtxsv]
  refine ctxUse_acts R H hgs hlevel hchk (legal_of (Bool.and_elim_left hwf) hwf) ?_ (.of_stays hstays)
  simp only [hy, hstopped, hlsq, hstores, hclose, List.isEmpty_nil, Bool.not_true, Bool.or_self, Bool.false_eq_true, if_false]
  exact saveImage_writes hfits hsettled hopen hrows

/-- LSQSAVE saves a stopped block's stores, which leave their FIFOs (R358, R371). -/
theorem lsqsave_saves (hwf : (Instr.lsqsave h p).wellFormed = true) :
    let off := capOff (capReg s f p.c.toNat) (uniPair s f (p.s.toNat + 2)).toInt
    let i := { Image.bare s.seq y true with stores := fifosOf s y.id }
    let t := setBlock (takeStores (imageSaved s l off i) y.id) y.id fun d => { d with lsq := true }
    32 + 16 * i.caps.length ≤ rangeLeft (capReg s f p.c.toNat) off → settled s f = true →
    openImage s b true f (capObj (capReg s f p.c.toNat)) off (32 + 16 * i.caps.length) = .places l →
    (∀ a ∈ imageGrans l off (32 + 16 * i.caps.length), rowWaits s a = false) → Stays t b ls →
    Completes (.lsqsave h p) s c ls h (setUni t f p.st.toNat 0) := by
  intro off i t hfits hsettled hopen hrows hstays
  subst hneed
  rw [Completes, exec_lsqsave, execLsqsave]
  refine ctxUse_acts R H hgs hlevel hchk (legal_of (Bool.and_elim_left hwf) hwf) ?_ (.of_stays hstays)
  simp only [hy, hstopped, Bool.not_true, Bool.false_eq_true, if_false]
  exact saveImage_writes (done := fun t => setBlock (takeStores t y.id) y.id fun d => { d with lsq := true }) hfits hsettled hopen hrows

end

section
variable (hneed : need = (rRD ||| rCLD))
include hneed

/-- CTXRS admits a saved block anew (R330, R360, R371). -/
theorem ctxrs_restores {x : Home} (hwf : (Instr.ctxrs h p).wellFormed = true) (hzero : groupWord s f p.s 1 = 0)
    (hload : loadImage s b f (capReg s f p.c.toNat) (capOff (capReg s f p.c.toNat) (uniPair s f (p.s.toNat + 2)).toInt) false = .image u i cs)
    (hid : i.block.id = groupWord s f p.s 0 % 2 ^ 17) (hhome : homeOf u i = some x) (hstays : Stays (restoreBlock u (i.withCaps cs) x) b ls) :
    Completes (.ctxrs h p) s c ls h
      (setUni (setUni (restoreBlock u (i.withCaps cs) x) f p.s.toNat (BitVec.ofNat 32 x.place.id)) f p.st.toNat 0) := by
  subst hneed
  have hname : i.block.id = groupWord u f p.s 0 % 2 ^ 17 := by rw [groupWord_notes (loadImage_notes hload), hid]
  rw [Completes, exec_ctxrs, execCtxrs]
  refine ctxUse_acts R H hgs hlevel hchk (legal_of (Bool.and_elim_left hwf) hwf) ?_ ((MayGo.of_stays hstays).go (setUni_stay ..).go)
  simp only [hzero, onImage, hload, hname, hhome, bne_self_eq_false, Bool.false_eq_true, if_false]

/-- LSQRST returns a block's stores to their FIFOs and lets it issue (R356, R358, R371). -/
theorem lsqrst_returns (hwf : (Instr.lsqrst h p).wellFormed = true) (hy : ctxBlock s b f p = some y) (hstopped : blockStopped s y = true)
    (hload : loadImage s b f (capReg s f p.c.toNat) (capOff (capReg s f p.c.toNat) (uniPair s f (p.s.toNat + 2)).toInt) true = .image u i cs)
    (hroom : fifosRoom u y (capData i.stores cs) = true) :
    let t := letIssue ((capData i.stores cs).foldl (fun t z =>
      setPort t (4 * y.cluster + z.1) z.2.1 fun q => { q with fifo := q.fifo ++ [movedStore u y z.1 z.2.1 z.2.2] }) u) y
    Stays t b ls → Completes (.lsqrst h p) s c ls h (setUni t f p.st.toNat 0) := by
  intro t hstays
  subst hneed
  rw [Completes, exec_lsqrst, execLsqrst]
  refine ctxUse_acts R H hgs hlevel hchk (legal_of (Bool.and_elim_left hwf) hwf) ?_ (.of_stays hstays)
  simp only [hy, hstopped, onImage, hload, hroom, Bool.not_true, Bool.false_eq_true, if_false]
  rfl

end

end

/-- Settles O50: each instruction has its lemma above. -/
theorem savedBlocks : Obligations.SavedBlocks := by
  intro h p s c b ls f fs need cap x off ok R H hgs hlevel hchk
  refine ⟨?_, ?_, ?_, ?_, fun stores => loadImage_waits, fun i held done => saveImage_waits⟩
  · intro y l hwf hneed hy hstopped hlsq hstores i len hfits hsettled hclose
    exact ctxsv_saves R H hgs hlevel hchk hneed hy hstopped hwf hlsq hstores hclose hfits hsettled
  · intro y l hwf hneed hy hstopped
    exact lsqsave_saves R H hgs hlevel hchk hneed hy hstopped hwf
  · intro u i cs y hwf hneed hzero hload hid hhome
    exact ctxrs_restores R H hgs hlevel hchk hneed hwf hzero hload hid hhome
  · intro u i cs y hwf hneed hy hstopped hload hroom
    exact lsqrst_returns R H hgs hlevel hchk hneed hwf hy hstopped hload hroom

end Sys2Proof.Machine
end
